-- ==== Sys2Proof/Word.lean ====
section
/-!
DEFINITION. The word types of the VG-7 and the plain data that events carry as operands
(R4, R43, R86, R346, R360, R361, R372).
-/
namespace Sys2Proof

/-- One byte of memory (R4: memory is little-endian). -/
abbrev Byte := BitVec 8
/-- A 32-bit lane register or instruction word (R43, R86). -/
abbrev W32 := BitVec 32
/-- A 64-bit scalar, mask, special register or generic address (R86, R158). -/
abbrev W64 := BitVec 64
/-- A set of lanes of one gang, bit L for lane L (R8, R141). -/
abbrev Lanes := BitVec 64

/-- Where one byte of memory lies once translated (R157, R163, R334): physical memory (HBM5 or the
capacity tier), a common-memory offset, or an offset in the scratch of a team (named by the model's team number). -/
inductive Place where
  | phys (a : Nat)
  | common (o : Nat)
  | scratch (team : Nat) (o : Nat)
  deriving DecidableEq, Repr

/-- Where an uncorrectable error lies (R357): a byte of memory, a vector register of a lane, a scalar or a mask of a gang, a line of a CU's view
cache or instruction cache, a team macro, a graph, a cluster's mirror of a slot, or the deque of a CU. -/
inductive ErrorLoc where
  | mem (p : Place)
  | register (gang : Nat) (lane : Nat) (n : Nat)
  | scalar (gang : Nat) (n : Nat)
  | mask (gang : Nat) (n : Nat)
  | line (cu : Nat) (line : Nat)
  | code (cu : Nat) (line : Nat)
  | teamMacro (team : Nat) (n : Nat)
  | graph (handle : W64)
  | mirror (cluster : Nat) (off : Nat)
  | deque (cu : Nat)
  deriving DecidableEq, Repr

/-- A debug watch (R361): an address space, a range of virtual addresses and a set of access kinds. -/
structure Watch where
  asid  : BitVec 8
  start : W64
  stop  : W64
  load  : Bool
  store : Bool
  rmw   : Bool
  deriving DecidableEq, Repr

/-- What a debugger reads or writes in a halted gang (R360). -/
inductive DebugReg where
  | vector (lane : Nat) (code : Nat)
  | scalar (n : Nat)
  | mask (n : Nat)
  | flag (n : Nat)
  | special (n : Nat) (lane : Nat)
  | layout (n : Nat)
  | slot (n : Nat)
  | pc (lane : Nat)
  /-- A cursor register (R86), and a carousel of the gang's team (R214). -/
  | cursor (lane : Nat) (n : Nat)
  | carousel (n : Nat)
  deriving DecidableEq, Repr

/-- A code segment as its container states it (R372): where it lies, the stated measurement (SHA-384) and the
signature (ECDSA P-384). -/
structure Segment where
  job         : BitVec 16
  asid        : BitVec 8
  va          : W64
  len         : Nat
  measurement : BitVec 384
  signature   : BitVec 768
  deriving DecidableEq, Repr

/-- What UET finally failed to deliver (R365): a packet of a fabric copy (a gang and its operation) or of a
Svaphor command (its connection). -/
inductive Undelivered where
  | copy (g : Nat) (o : Nat)
  | command (conn : Nat)
  deriving DecidableEq, Repr

end Sys2Proof
end

