-- ==== Sys2Proof/Config.lean ====
section
/-!
DEFINITION. What the spec leaves open, as constants without a body: nothing in Lean can evaluate one, so a theorem
holds whatever their values are. Each is a FREE VALUE of the assumption log.
-/
namespace Sys2Proof

/-- Which of the enabled actions the next step takes, at each value of the model's own tick (log 4). -/
opaque Config.choice : Nat → Nat

/-- How many cycles a die's counter moves on between two observations of it (R22, R342; log 6). -/
opaque Config.cycles : Nat → Nat

/-- How many of the cycles above were stretched, and how many cycles a word stalled (R22, R342; log 6). -/
opaque Config.idle : Nat → Nat

/-- Whether a gang has been ready without issuing for 1,024 cycles (R293; log 7): a function of the tick and the gang. -/
opaque Config.starved : Nat → Nat → Bool

/-- Whether a CU keeps a translation that a walk has completed (R338; log 26): a function of the model's serial number and the address. -/
opaque Config.keeps : Nat → Nat → Bool

/-- What a word reads from a clause temporary of another lane whose clause has ended (R132; log 23): a function of the gang, of how many clauses it has
issued, and of the lane and the register. -/
opaque Config.deadTemp : Nat → Nat → Nat → W32

/-- The ADDR by which an ERROR record names a location that is no byte of memory (R357; log 53). -/
opaque Config.errorAddr : ErrorLoc → W64

/-- Which of the two f32 neighbours a faithful result takes (R117; log 8): a function of the sub-code of fun and of the
operand, true for the upper one. -/
opaque Config.faithfulUp : Nat → W32 → Bool

/-- The pattern that hides the value of a graph handle, which software must treat as opaque (R252; log 9). -/
opaque Config.handleMask : W64
/-- The pattern that hides the id the Puppeteer gives a launch (R289, R299; log 9). -/
opaque Config.launchMask : W32
/-- The pattern that hides the TAG of a request (R350; log 9). -/
opaque Config.tagMask : W32

/-- Bytes whose content the device chooses (a save area, R351; log 11): a function of the tick and the address. -/
opaque Config.areaByte : Nat → Nat → Byte

/-- The version that a re-fire of a slot whose granule has been revoked carries (R289, R303, R314; log 38): a function of the model's serial number. -/
opaque Config.goneVersion : Nat → W32

/-- What telemetry reads for power and temperature (R373; log 12): a function of the tick, the die and the item. -/
opaque Config.sensor : Nat → Nat → Nat → Nat

/-- Which HBM stack holds a physical line: the spread over the stacks changes timing only (R334, R355; log 16). -/
opaque Config.stackOf : Nat → Nat

end Sys2Proof
end

