-- ==== Sys2Proof/Machine/State.lean ====
section
/-!
DEFINITION. The state of the module, as plain data: everything the spec gives the machine, and beside it the model's own
numbers (log 4, log 5). `State.reset` is the module right after reset.
-/
namespace Sys2Proof.Machine

/-- Values of width `w` by number: keys strictly rise and no entry is 0, so a missing entry reads 0. -/
abbrev Cells (w : Nat) := List (Nat × BitVec w)

/-! ## Threads -/

/-- Where a thread stands inside a clause body: the clause's set slots and the words left, the next one included (R126). -/
structure BodyAt where
  slotA : BitVec 4
  slotB : BitVec 4
  left  : Nat
  deriving DecidableEq, Repr

/-- The five operations that exchange values between lanes once a membership mask has gathered (R152-R155). -/
inductive MemberKind where
  | shfl (b a d : Nat)
  | shflk (down : Bool) (k a d : Nat)
  | shflx (index : Bool) (c a d : Nat)
  | xred (x a d : Nat)
  | vote (x a d : Nat)
  deriving DecidableEq, Repr

/-- What a blocked thread waits for (R128, R142, R152, R198, R228). -/
inductive Hold where
  | wait (m : Nat)
  | member (p : Nat) (k : MemberKind)
  | bar (b : Nat)
  | take (c : Nat) (n : Nat) (dst : Nat)
  deriving DecidableEq, Repr

/-- The state of a thread (R137). A ready thread is in flight when the gang's flight holds its lane, and waits on flags when
the header it stands at does. -/
inductive Status where
  /-- At a word its sub-group may issue. -/
  | ready
  /-- At a holding instruction whose condition does not hold. -/
  | blocked (h : Hold)
  /-- At a word that trapped in other lanes; `grp` names the gang's withheld group (R149). -/
  | withheld (grp : Nat)
  /-- Trapped with no handler that can start (R348). -/
  | held
  | exited
  deriving DecidableEq, Repr

/-- What moves the RANK of a cursor (R272). -/
inductive CursorStep where
  | next
  | seek (r : Nat)
  deriving DecidableEq, Repr

/-- An open cursor register (R271): its pin, and the steps that RANK has taken from 0, which a copen not yet performed leaves to be clamped when DEG
is known (R272). -/
structure Cursor where
  pin   : Nat
  steps : List CursorStep
  deriving DecidableEq, Repr

/-- The record of the latest trap delivered to a lane (R347, R133, R59, R149). -/
structure Delivery where
  cause      : BitVec 8
  pc         : W64
  mask       : Lanes
  addr       : W64
  /-- Where `tret:at=re` returns to. -/
  rePc       : W64
  reAt       : Option BodyAt
  /-- The PC of the transfer that led to the header position it was delivered at (R58). -/
  via        : W64 := 0
  /-- Where `tret:at=next` returns to. -/
  nextPc     : W64
  nextAt     : Option BodyAt
  /-- k0-k7 at the trap (keys 120-127), and the clause they belong to. -/
  temps      : Cells 32
  clause     : Nat
  /-- No tret has used the record yet. -/
  unreturned : Bool
  /-- The withheld group that waits for this lane, if any. -/
  grp        : Option Nat
  deriving DecidableEq, Repr

/-- One thread of a gang (R136). `pc` and `place` are where it stands while it is not in flight. -/
structure Thread where
  pc       : W64 := 0
  place    : Option BodyAt := none
  status   : Status := .ready
  /-- v0-v119 at keys 0-119, k0-k7 at keys 120-127 (R86). -/
  vregs    : Cells 32 := []
  /-- c0-c7: the open ones (R271). -/
  cursors  : List (Nat × Cursor) := []
  delivery : Option Delivery := none
  /-- The waiting count of its sub-group (R138, R139). -/
  waited   : Nat := 0
  /-- Set by yield, until the gang's next issue decision (R151). -/
  yielded  : Bool := false
  /-- The PC of the transfer that led to this header position, for sr.taddr of CLAUSE_FORM; 0 where no transfer led here (R58). -/
  via      : W64 := 0
  /-- It stands at the first header of a handler that has not issued yet (R348). -/
  entering : Bool := false
  /-- The clause whose temporaries k0-k7 hold; 0 once its body has ended (R132). -/
  clause   : Nat := 0
  /-- Faults of failed copies to deliver at the next header positions: cause, PC of the copy, address (R222). -/
  copyFaults : List (BitVec 8 × W64 × W64) := []
  /-- Vector registers of the lane that hold an uncorrectable error (R357). -/
  bad      : List Nat := []
  deriving DecidableEq, Repr

/-! ## Outstanding operations -/

/-- A lane register result that has not landed yet (R131). -/
structure Landing where
  lane : Nat
  reg  : Nat
  val  : W32
  deriving DecidableEq, Repr

/-- A scalar register result that has not landed yet (R131). -/
structure ScalarLanding where
  reg : Nat
  val : W64
  deriving DecidableEq, Repr

/-- A lane register that an operation reads after issue; `none` until it has been read (R131). -/
structure Port where
  reg : Nat
  val : Option W32
  deriving DecidableEq, Repr

/-- One lane's access of a memory operation (R169, R204). -/
structure Access where
  lane  : Nat
  place : Place
  /-- The address as the instruction formed it (R169). -/
  addr  : W64
  size  : Nat
  data  : List Port
  dst   : List Nat
  done  : Bool := false
  deriving DecidableEq, Repr

/-- What a memory operation does at each of its places (R170, R192, R203, R209, R298). -/
inductive MemKind where
  | load (w : Nat)
  | store
  | ldAcq (scope : Nat)
  | stRel (scope : Nat)
  | atom (x : Nat)
  | red (x : Nat)
  | rwl (x : Nat)
  | jcadd
  deriving DecidableEq, Repr

/-- The sub-operations of gph (R266). -/
inductive GraphKind where
  | gadde | grme | gsetw
  | gdeg (inList : Bool) | gld (inList : Bool) | gfind (inList : Bool)
  | gvld | gvst
  | copen (inList : Bool)
  | cnext | cseek | cclose | crank
  deriving DecidableEq, Repr

/-- One lane of a graph operation, with the source registers it read at issue (R266). -/
structure GraphLane where
  lane  : Nat
  a     : W32
  b     : W32
  d     : W32
  d2    : W32
  /-- The pin of the lane's cursor, and its rank steps as they stood before this issue (R272). -/
  pin   : Nat
  steps : List CursorStep
  done  : Bool := false
  deriving DecidableEq, Repr

/-- The forms of gsys that are tracked (R274). -/
inductive GsysKind where
  | gnew (vn : Nat) (pool : Nat)
  | gfree (h : W64)
  | gstat (h : W64) (item : W64)
  deriving DecidableEq, Repr

/-- How far a copy has come (R221, R227). -/
inductive CopyStage where
  /-- In the engine's queue. -/
  | queued
  /-- Started; its check pass waits for the runtime under a TAG, or for a page in transit. -/
  | checking (tag : Option W32)
  /-- The check pass is over: elements move. -/
  | moving
  /-- The last byte has landed, or the copy has failed. -/
  | landed
  deriving DecidableEq, Repr

/-- The remote side of an fcopy (R231): its flow, its direction, and the bytes that have come back. -/
structure Remote where
  flow   : W64
  /-- fcopy.from reads the remote side. -/
  inward : Bool
  /-- The bytes that an fcopy.from brought. -/
  bytes  : Option (List Byte) := none
  deriving DecidableEq, Repr

/-- A byte that a copy is still to write: the unit it comes from, its address, and which of its bits take which values (R188). -/
structure CopyByte where
  unit : Nat
  addr : W64
  mask : Byte
  val  : Byte
  deriving DecidableEq, Repr

/-- A copy or fcopy in the engine, with what it captured at issue (R219, R225, R227, R231). -/
structure Copy where
  src    : BitVec 256
  dst    : BitVec 256
  xf     : Nat
  /-- The carousel it fills, or none, and the slot it took. -/
  car    : Option Nat
  carSlot : Option Nat := none
  /-- The follow-on's slot number and captured command slot. -/
  follow : Option (Nat × BitVec 256)
  cvsub  : W32
  lvt0   : W64
  lvt1   : W64
  remote : Option Remote
  /-- The batch number that sealed it. -/
  batch  : Option (BitVec 16) := none
  stage  : CopyStage := .queued
  /-- 64 KiB pages to physical bases, as the check pass translated them. -/
  pages  : List (Nat × Nat) := []
  /-- The SB headers of the source, by block, as the check pass read them (R82). -/
  heads  : List Nat := []
  /-- Units already moved, and the elements of blocks to quantise that have been read: bit 32 marks presence. -/
  moved  : Cells 1 := []
  codes  : Cells 33 := []
  /-- Bytes that moved units gave and that are still to be written. -/
  out    : List CopyByte := []
  /-- Numbers the copies in the order in which engines started them (R369). -/
  start  : Nat := 0
  flags  : BitVec 8 := 0
  /-- Cause and address of a failure (R222), its own or its follow-on's (R225). -/
  fail   : Option (BitVec 8 × W64) := none
  /-- The operation number of the follow-on command, once the engine has issued it. -/
  followOp : Option Nat := none
  deriving DecidableEq, Repr

/-- The matrix commands (R236). -/
inductive MatrixKind where
  | mloadb | mmul | scacc | mrel (mask : BitVec 8)
  deriving DecidableEq, Repr

/-- A matrix command, with what it captured at issue (R234-R243). -/
structure Matrix where
  kind  : MatrixKind
  slot  : BitVec 256
  /-- The layout record of an mloadb. -/
  layout : BitVec 256
  lvt0  : W64
  lvt1  : W64
  /-- The SB headers of an mloadb, by block, as its check read them (R238). -/
  heads : List Nat := []
  /-- Elements of A or B already read, by index: bit 16 marks presence, the rest is the code. -/
  reads : Cells 17 := []
  /-- Output elements already written, by index. -/
  parts : Cells 1 := []
  flags : BitVec 8 := 0
  deriving DecidableEq, Repr

/-- An embag, with what it captured at issue (R328-R332). -/
structure Embag where
  desc  : BitVec 256
  list  : Nat
  out   : Nat
  nb    : Nat
  mode  : Nat
  /-- OFF[0..NB], as read before issue ended. -/
  offs  : List Nat
  /-- Indices and weights that the buffers have read, by position; bit 32 marks presence (R332). -/
  idx   : Cells 33 := []
  wts   : Cells 33 := []
  /-- Outputs that are under way, by b·D + c: the next position and the accumulator. -/
  runs  : List (Nat × Nat × W32) := []
  /-- Words already written: output (b, c) by b·D + c, then the statuses. -/
  parts : Cells 1 := []
  /-- The flags of each bag, until its status is written. -/
  bagFlags : List (Nat × BitVec 8) := []
  flags : BitVec 8 := 0
  /-- The bag and the TAG of a page fault it waits for, and the bags the runtime refused. -/
  waiting : Option (Nat × W32) := none
  refused : List Nat := []
  deriving DecidableEq, Repr

/-- The forms of ref (R306), each with the slot's common offset `off` and what it captured. -/
inductive RefKind where
  | rpub (keyed : Bool) (scope : Nat) (tile : Nat) (regA : Nat)
  | rread (scope : Nat) (tile : Nat) (regA : Nat)
  | rver (regD : Nat)
  | rsub (cancel : Bool) (rec : BitVec 256) (regA : Nat)
  | runsub (id : W64)
  | rstop
  | rinit (key : Nat) (size : Nat)
  deriving DecidableEq, Repr

/-- What an outstanding operation is (R129, R130). -/
inductive OpBody where
  | mem (k : MemKind) (accs : List Access)
  | graph (k : GraphKind) (handle : W64) (dst : Nat) (lanes : List GraphLane)
  | gsys (k : GsysKind) (dst : Nat)
  | copy (c : Copy)
  | matrix (m : Matrix)
  | embag (e : Embag)
  | ref (k : RefKind) (off : Nat)
  | spawn (recs : List (BitVec 256))
  | launch (packet : BitVec 512) (queue : Nat) (dst : Nat) (queued : Bool)
  | cwait (dst : Nat) (batches : List (BitVec 16)) (lanes : Lanes)
  /-- `met`: a test has found the counter at 0 (R301). -/
  | lvwait (off : Nat) (met : Bool)
  /-- `met`: a test has found the slot settled (R316). -/
  | rsettle (off : Nat) (met : Bool)
  | halt
  | tlbinv (inv : Nat) (va : W64) (asid : BitVec 8)
  deriving DecidableEq, Repr

/-- An operation that a gang has issued and that has not completed (R129). `id` rises in issue order over the module. -/
structure Op where
  id     : Nat
  /-- The completion flag it counts on; none when it is untracked (R130). -/
  flag   : Option Nat
  pc     : W64
  /-- The clause that issued it (R132): that of its lowest lane, and of the lanes that were in another one. -/
  clause : Nat
  strays : List (Nat × Nat) := []
  land   : List Landing := []
  sland  : List ScalarLanding := []
  /-- The lanes and registers in which results of it have landed while it is outstanding, and whether a scalar result has. -/
  landed : List (Nat × Nat) := []
  slanded : Bool := false
  /-- The operations of the gang whose results may have supplied this one, so that it is performed only after they have completed (R183). -/
  after  : List Nat := []
  body   : OpBody
  deriving DecidableEq, Repr

/-! ## Gangs -/

/-- The kinds of access of a walk (R337). -/
inductive Kind where
  | fetch | read | write
  deriving DecidableEq, Repr

/-- Why a body word stalls in place (R127). -/
inductive Stall where
  | flagFull (f : Nat)
  | copyQueue
  | matrixQueue
  | embagQueue
  | queueFull (q : Nat)
  | spillFull
  | sealed16
  /-- An earlier ld.acq or rread of the gang has not completed (R179). -/
  | acquire
  /-- A fence, a cfree or a barrier arrival waits for the gang's earlier accesses (R179, R199, R229). -/
  | earlier
  | earlierLoads
  /-- An mloadb reads its headers only after the gang's earlier matrix commands have written their destinations (R234). -/
  | matrixTurn
  /-- A gfree waits for an outstanding gfree of the same handle (R276). -/
  | freeing (h : W64)
  /-- A release waits until the CU's dirty lines can be written back (R179, R355, R357). -/
  | flush
  /-- A scratch or table read waits for the CU's earlier accesses to the place (R148, R172, R217, R238). -/
  | overlap (p : Place) (n : Nat)
  | fcopies
  /-- A ref word waits for the gang's earlier ones on the slot at a common offset (R307, R317). -/
  | slot (off : Nat)
  /-- A publish waits until the slot's home can answer whether a version is left for it (R307, R309). -/
  | version (off : Nat)
  /-- A page in transit (R185). -/
  | transit (va : W64)
  /-- A walk that meets a page-table entry it cannot read now (R355, R357). -/
  | walk (va : W64) (k : Kind)
  /-- A register with an uncorrectable error: only a rollback or a kill ends it (R357). -/
  | error
  /-- A cancel waits for the loads that may have supplied it (R183). -/
  | supply
  /-- The undo log is full (R358); the runtime was told under the TAG. -/
  | logFull (tag : W32)
  /-- A graph reservation cannot be met (R265); the runtime was told under the TAG. -/
  | capacity (tag : W32)
  deriving DecidableEq, Repr

/-- What a completed copy reports to its batch: its operation, its status word, and its fault as cause, PC and address
(R222, R224). -/
structure CopyReport where
  op     : Nat
  status : W64
  fault  : Option (BitVec 8 × W64 × W64)
  deriving DecidableEq, Repr

/-- A debug halt (R360): asked for, in force, or in force after one word more (R156). -/
inductive Halt where
  | no | asked | halted | stepping
  deriving DecidableEq, Repr

/-- Lanes withheld at a word until every lane of `waiting` has returned or exited (R149). -/
structure Withheld where
  id      : Nat
  lanes   : Lanes
  waiting : Lanes
  deriving DecidableEq, Repr

/-- The sub-group that is issuing a clause: its lanes and its next word (R126). -/
structure Flight where
  lanes : Lanes
  pc    : W64
  place : Option BodyAt
  deriving DecidableEq, Repr

/-- What a re-fire names (R314): the slot by its common offset and its own number, which no later slot at that offset has, and the subscription. -/
structure Refire where
  off  : Nat
  slot : Nat
  sub  : Nat
  deriving DecidableEq, Repr

/-- The record a task gang packed into one lane (R289, R290): the launch it is counted on, or the slot and chain of a re-fire. -/
structure Packed where
  refire : Option Refire
  /-- The chain counter's common offset, for a re-fire. -/
  chainCtr : Nat
  deriving DecidableEq, Repr

structure Gang where
  id       : Nat
  team     : Nat
  index    : BitVec 4 := 0
  /-- 16, 32 or 64 threads (R136). -/
  width    : Nat := 16
  /-- The vector register count V (R87). -/
  vcount   : Nat := 8
  /-- The quadrants it covers, bit q (R88), and its gang slot (R344). -/
  quads    : BitVec 4 := 0
  gslot    : Nat := 0
  threads  : List Thread := []
  flight   : Option Flight := none
  /-- s1-s63; s0 is hard-wired to 0 (R90). -/
  sregs    : Cells 64 := []
  /-- m0-m11 (R141). -/
  masks    : Cells 64 := []
  prio     : BitVec 5 := 0
  fmode    : BitVec 3 := 0
  fstat    : BitVec 8 := 0
  cvsub    : W32 := 0
  lvt0     : W64 := 0
  lvt1     : W64 := 0
  gcur     : W64 := 0
  tvec     : BitVec 56 := 0
  dbsel    : BitVec 7 := 0
  /-- ly0-ly7 and mc0-mc3 (R215, R235). -/
  layouts  : Cells 256 := []
  slots    : Cells 256 := []
  ops      : List Op := []
  /-- Barrier targets t_g (R196). -/
  targets  : Cells 16 := []
  /-- The last sealed batch number, whether any was sealed, and the batches that no completed cwait has covered, oldest first, each with
  what its completed copies have reported (R223, R224). -/
  sealedNo   : BitVec 16 := 0
  sealedAny  : Bool := false
  batches  : List (BitVec 16 × List CopyReport) := []
  /-- Reports of completed copies that no seal has closed yet. -/
  loose    : List CopyReport := []
  withheld : List Withheld := []
  /-- Gang counters of rdperf 0-3 (R342). -/
  issues   : W64 := 0
  words    : W64 := 0
  laneOps  : W64 := 0
  stalls   : W64 := 0
  stall    : Option Stall := none
  /-- The TAG of the request that suspends the gang (R350). -/
  suspended : Option W32 := none
  halt     : Halt := .no
  /-- Re-issue the word once with the watches ignored (R361). -/
  pastWatch : Bool := false
  /-- Stopped by a cancel at its next clause boundaries (R295), or killed (R356). -/
  cancelled : Bool := false
  killed   : Bool := false
  saving   : Bool := false
  /-- A fault in system mode was reported; the gang waits for the restart (R348). -/
  crashed  : Bool := false
  /-- When it last issued, for R293, in the model's own order. -/
  lastIssue : Nat := 0
  /-- The records a task gang packed (R284, R314). -/
  packed   : List Packed := []
  /-- Read-only special registers that a debugger has written, by index, sr.lane of lane L by 64 + L, each with the value it shows (R360). -/
  shown    : List (Nat × W64) := []
  /-- Scalars and masks that hold an uncorrectable error (R357). -/
  badScalars : List Nat := []
  badMasks : List Nat := []
  deriving DecidableEq, Repr

/-! ## Teams -/

/-- A barrier (R196), with whether the round in progress holds a remote arrival, the round numbers whose latest round held one (R200), and those of them whose
values no wait has acquired at clus scope since (R184). -/
structure Barrier where
  exp : BitVec 16 := 0
  arr : BitVec 16 := 0
  rnd : BitVec 16 := 0
  remote  : Bool := false
  remotes : List (BitVec 16) := []
  owed    : List (BitVec 16) := []
  deriving DecidableEq, Repr

/-- A configured carousel (R226, R227). `landed` marks slots that landed and are not counted yet. -/
structure Carousel where
  nslot  : Nat
  sz     : Nat
  base   : Nat
  head   : Nat := 0
  tail   : Nat := 0
  filled : Nat := 0
  free   : Nat
  landed : Cells 1 := []
  deriving DecidableEq, Repr

/-- A macro's load record and content (R233, R238): q values by 128·n + k and, by 4·n + group, the group exponent and the
poisoned mark. -/
structure Macro where
  held   : Bool := true
  loaded : Bool := false
  bfmt   : BitVec 4 := 0
  arr    : BitVec 1 := 0
  k      : Nat := 0
  n      : Nat := 0
  pos    : Nat := 0
  q      : List (Nat × Int) := []
  exps   : List (Nat × Int) := []
  poison : Cells 1 := []
  /-- An mrel has returned it to the CU's pool (R243). -/
  returned : Bool := false
  /-- It holds an uncorrectable error (R357). -/
  bad    : Bool := false
  deriving DecidableEq, Repr

/-- A launch as a gang, a record or a subscription remembers it: its id, its address space and its packet (R281, R313). -/
structure Origin where
  id     : W32 := 0
  asid   : BitVec 8 := 0
  packet : BitVec 512 := 0
  deriving DecidableEq, Repr

/-- A resident team, or the team of one gang of a task gang (R281, R318). -/
structure Team where
  id        : Nat
  origin    : Origin
  cu        : Nat
  /-- sr.team (R92). -/
  index     : Nat := 0
  isTask    : Bool := false
  /-- sr.chain: the packet's, or the records' for a task gang (R289). -/
  chain     : BitVec 12 := 0
  /-- The cluster group (the model's number), its size and this team's rank (R161). -/
  group     : Option Nat := none
  groupSize : Nat := 0
  rank      : Nat := 0
  scratchZ  : Nat := 0
  scratch   : List Host.Cell := []
  barCount  : Nat := 0
  barriers  : List (Nat × Barrier) := []
  carCount  : Nat := 0
  carousels : List (Nat × Carousel) := []
  asked     : Nat := 0
  macros    : List (Nat × Macro) := []
  /-- Embedding table descriptors (R323). -/
  descs     : Cells 256 := []
  deriving DecidableEq, Repr

/-! ## CUs and dies -/

/-- A line of a view cache: the physical line number, its 64 bytes (byte j at [8j+7:8j]) and which of them are dirty (R177). -/
structure Line where
  line  : Nat
  data  : BitVec 512
  dirty : BitVec 64
  /-- It holds an uncorrectable error (R357). -/
  bad   : Bool := false
  deriving DecidableEq, Repr

/-- A kept translation (R338). -/
structure Kept where
  asid  : BitVec 8
  kind  : Kind
  va    : Nat
  size  : Nat
  frame : Nat
  transit : Bool
  deriving DecidableEq, Repr

/-- A continuation record on a deque, with its launch; a re-fire names its subscription (R290, R314). -/
structure Record where
  words  : BitVec 256
  origin : Origin
  refire : Option Refire := none
  /-- Spilled to HBM (R291). -/
  spilled : Bool := false
  deriving DecidableEq, Repr

/-- A compute unit. Its deque lists each level from bottom to top (R291). -/
structure Cu where
  lines    : List Line := []
  /-- The instruction cache: 64-byte lines by physical line number (R13, R45, R343). -/
  icode    : List (Nat × BitVec 512) := []
  /-- Lines of the instruction cache that hold an uncorrectable error, and whether the deque holds one (R357). -/
  badCode  : List Nat := []
  badDeque : Bool := false
  kept     : List Kept := []
  deque    : List (Nat × List Record) := []
  /-- The granted spill region: its virtual address, how many records it holds, and whether its pages are absent (R291, R350). -/
  spillBase : W64 := 0
  spillMax : Nat := 0
  spillAbsent : Bool := false
  conflicts : W32 := 0
  misses   : W64 := 0
  walks    : W64 := 0
  /-- The graph view generation (R260). -/
  view     : Nat := 0
  deriving DecidableEq, Repr

/-- An event-ring record (R344): ADDR, HANDLE, TAG, CAUSE, KIND. -/
structure EventRecord where
  addr   : W64
  handle : W64
  tag    : W32
  cause  : BitVec 8
  kind   : BitVec 8
  deriving DecidableEq, Repr

structure Die where
  /-- The cycle counter (R342) and the stretched cycles (rdperf 6). -/
  cycles    : W64 := 0
  stretched : W64 := 0
  /-- Stretching for a sag or for the cap (R22, R374). -/
  stretching : Bool := false
  pdead     : W32 := 0
  /-- sr.evring, and whether a wsr has given the die a ring since its reset (R344). -/
  evring    : BitVec 13 := 0
  hasRing   : Bool := false
  evtail    : W64 := 0
  evhead    : W64 := 0
  /-- Records that wait for room (R344). -/
  pending   : List EventRecord := []
  watches   : List (Nat × Watch) := []
  cap       : Nat := 440
  softErrors : Cells 64 := []
  dropped   : W64 := 0
  deriving DecidableEq, Repr

/-! ## Graphs, slots, scheduler, recovery -/

/-- What a mutation records (R259). -/
inductive Intent where
  | put (u v : Nat) (w : W32)
  | remove (u v : Nat)
  | set (u v : Nat) (w : W32)
  deriving DecidableEq, Repr

/-- Edges by u·2^32 + v; bit 32 marks presence, the rest is the weight (R255). -/
abbrev Edges := Cells 33

/-- A committed intent, with whether its version records in the out-list and in the in-list are still held (R263, R264). -/
structure Version where
  intent : Intent
  out    : Bool := true
  inn    : Bool := true
  deriving DecidableEq, Repr

structure Commit where
  gen     : Nat
  cu      : Nat
  intents : List Version
  deriving DecidableEq, Repr

/-- A graph (R252, R253, R258): its edges before `history`, the commits since, and the tentative mutations with their CU. -/
structure Graph where
  handle  : W64
  asid    : BitVec 8
  pool    : Nat
  vn      : Nat
  base    : Edges := []
  history : List Commit := []
  tentative : List (Nat × Intent) := []
  props   : Cells 64 := []
  live    : Bool := true
  /-- It holds an uncorrectable error (R357). -/
  bad     : Bool := false
  deriving DecidableEq, Repr

/-- A graph pool as the runtime grants it (R251): totals of vertex records, edge slots and version records. -/
structure Pool where
  asid  : BitVec 8
  num   : Nat
  verts : Nat
  slots : Nat
  vers  : Nat
  deriving DecidableEq, Repr

/-- The list version a cursor pins (R271): its list is known once the copen is performed, in a CU at view generation `gen`. -/
structure Pin where
  id     : Nat
  handle : W64
  inList : Bool
  vertex : Nat
  gen    : Nat := 0
  list   : Option (List (W32 × W32)) := none
  deriving DecidableEq, Repr

structure GraphStore where
  pools  : List Pool := []
  graphs : List Graph := []
  pins   : List Pin := []
  /-- The latest committed module-wide generation (R258). -/
  gen    : Nat := 0
  deriving DecidableEq, Repr

/-- A subscription (R313-R315). -/
structure Sub where
  id      : Nat
  cancel  : Bool
  words   : BitVec 256
  origin  : Origin
  home    : Nat
  base    : W32
  pending : Bool := false
  deriving DecidableEq, Repr

/-- A live slot's number and its subscriptions; its header and tile are bytes of common memory (R303, R304). -/
structure Slot where
  off  : Nat
  id   : Nat := 0
  subs : List Sub := []
  deriving DecidableEq, Repr

/-- A mirror entry of a cluster (R312). -/
structure Mirror where
  cluster : Nat
  off     : Nat
  version : W64
  tile    : BitVec 512
  valid   : Bool
  /-- It holds an uncorrectable error (R357). -/
  bad     : Bool := false
  deriving DecidableEq, Repr

/-- A reduction that has left its CU (R205, R206): the (CU, gang, operation) triples it stands for, and its operands, one pair for each lane of
its issue that names the place. -/
structure Red where
  id      : Nat
  sources : List (Nat × Nat × Nat)
  place   : Place
  x       : Nat
  ds      : List (W32 × W32)
  deriving DecidableEq, Repr

/-- The kinds of a granted common granule (R164). -/
inductive GrantKind where
  | data | counter | slot
  deriving DecidableEq, Repr

structure Grant where
  asid    : BitVec 8
  granule : Nat
  kind    : GrantKind
  deriving DecidableEq, Repr

/-- Who enqueued a packet: a host command with its TAG, or the launch operation of a gang (R299, R366). -/
inductive Submitter where
  | host (conn : Nat) (tag : W64)
  | gang (g : Nat) (o : Nat) (parent : W32)
  deriving DecidableEq, Repr

structure Entry where
  packet : BitVec 512
  asid   : BitVec 8
  submitter : Submitter
  /-- The launch it became, once accepted. -/
  launch : Option W32 := none
  deriving DecidableEq, Repr

/-- A configured hardware queue (R286). -/
structure Queue where
  num       : Nat
  depth     : Nat
  hostOwned : Bool
  asid      : BitVec 8
  entries   : List Entry := []
  deriving DecidableEq, Repr

/-- An accepted launch that has not completed (R284). -/
structure Launch where
  origin  : Origin
  submitter : Submitter
  /-- The next team index to place (team launch), the next seed to push (task launch). -/
  nextTeam : Nat := 0
  nextSeed : Nat := 0
  /-- The TAG of the page fault a seed waits for. -/
  seedWait : Option W32 := none
  seedCause : BitVec 8 := 0
  cancelled : Bool := false
  deriving DecidableEq, Repr

/-- A saved unit: its teams and gangs as they were (R351), with the area that names it. -/
structure Saved where
  area  : W64
  teams : List Team
  gangs : List Gang
  deriving DecidableEq, Repr

/-- A save being made (R351, R353). -/
structure Saving where
  area  : W64
  die   : Nat
  teams : List Nat
  /-- The handle asked for. -/
  handle : W64
  /-- The deadline has passed and the OVERRUN record is written. -/
  overrun : Bool := false
  deriving DecidableEq, Repr

/-- A party that waits for a placement (R288). -/
inductive Waiter where
  | launch (id : W32)
  | restore (area : W64)
  deriving DecidableEq, Repr

/-- A completion record (R368). -/
structure Completion where
  job    : BitVec 16
  phase  : BitVec 12
  cause  : BitVec 8
  launch : W32
  tag    : W64
  status : BitVec 8
  deriving DecidableEq, Repr

/-- What the hardware keeps of the start of the phase (R358): counters and slots (bytes of common memory), live slots, mirrors,
graphs and deques; and the completion records that were held then (R368). -/
structure PhaseStart where
  common  : List Host.Cell := []
  slots   : List Slot := []
  mirrors : List Mirror := []
  graph   : GraphStore := {}
  deques  : List (Nat × List (Nat × List Record)) := []
  held    : List Completion := []
  deriving DecidableEq, Repr

/-- A phase in progress: its host-submitted packets in order of acceptance, those among them that never became launches, each with the queue that held it
(none where no queue took it); whether the host asked for its boundary, and whether the other modules
of the job are ready (R359, R370). -/
structure Phase where
  job    : BitVec 16
  phase  : BitVec 12
  asid   : BitVec 8
  start  : PhaseStart := {}
  packets : List (Option Nat × Entry) := []
  asked  : Bool := false
  peersReady : Bool := false
  deriving DecidableEq, Repr

/-- What a TAG names (R350). -/
inductive Pending where
  /-- A suspended word of a size, or the fetch of one: the gang and the faulting lanes. -/
  | word (g : Nat) (lanes : Lanes) (size : Option Nat)
  /-- A capacity or undo-log stall of a gang. -/
  | room (g : Nat) (addr : W64)
  /-- The check pass of a copy, at a page or at a full undo log. -/
  | copy (g : Nat) (o : Nat)
  | copyLog (g : Nat) (o : Nat)
  /-- A bag of an embag. -/
  | bag (g : Nat) (o : Nat) (b : Nat)
  /-- A push of a gang into a spill region that is not present. -/
  | spill (g : Nat)
  /-- The seed records of a launch. -/
  | seed (launch : W32)
  /-- A Svaphor command of a connection. -/
  | command (conn : Nat)
  /-- An engine write that found the undo log full. -/
  | engineLog
  deriving DecidableEq, Repr

structure TagReq where
  tag  : W32
  addr : W64
  what : Pending
  deriving DecidableEq, Repr

structure Flow where
  handle  : W64
  ordered : Bool
  /-- The job the flow belongs to, and the job's address space on this module. -/
  job     : BitVec 16
  asid    : BitVec 8
  deriving DecidableEq, Repr

/-- A record of the undo log: a line of global or common memory and its old bytes (R358). -/
structure Undo where
  common : Bool
  line   : Nat
  old    : BitVec 512
  deriving DecidableEq, Repr

/-- What an HBM stack is doing about a retrain (R355). -/
inductive Retrain where
  | idle
  | waiting (rate : Nat)
  | running (rate : Nat)
  deriving DecidableEq, Repr

/-- What the module sends out: to the host, over the fabric, or on the management port. -/
inductive Message where
  | status (conn : Nat) (st : Nat)
  | bytes (conn : Nat) (bs : List Byte)
  /-- The records as they are read, 32 bytes each. -/
  | completions (conn : Nat) (rs : List (BitVec 256))
  | fabricWrite (flow : W64) (g o : Nat) (asid : BitVec 8) (va : W64) (bs : List Byte)
  /-- A fabric write of one 4-bit element: the byte's address and which half of it. -/
  | fabricNibble (flow : W64) (g o : Nat) (asid : BitVec 8) (va : W64) (high : Bool) (v : Nat)
  | fabricRead (flow : W64) (g o : Nat) (asid : BitVec 8) (va : W64) (len : Nat)
  | fabricAck (flow : W64)
  | fabricData (flow : W64) (bs : List Byte)
  | fabricRefusal (flow : W64)
  | inspected (what : DebugReg) (v : BitVec 256)
  | notStepped
  | stopped (handle : W64) (idx : Nat)
  | systemFault (die : Nat) (cause : BitVec 8)
  | measured (bs : List Byte)
  | loadRefused (va : W64)
  | attestation (r : BitVec 384)
  | telemetry (die : Nat) (vs : List Nat)
  | retrainRefused (stack : Nat)
  deriving DecidableEq, Repr

/-- What comes from outside the module, or from a choice of the device runtime for which the spec gives no instruction (log 5). -/
inductive Input where
  | qput (conn : Nat) (q tag : W64) (packet : BitVec 512)
  | write (conn : Nat) (asid : BitVec 8) (va : W64) (bytes : List Byte)
  | read (conn : Nat) (asid : BitVec 8) (va : W64) (len : Nat)
  | cread (conn : Nat) (job : BitVec 16)
  | phase (conn : Nat) (job : BitVec 16) (p : BitVec 12)
  | fabricWrite (flow : W64) (asid : BitVec 8) (va : W64) (bytes : List Byte)
  | fabricRead (flow : W64) (asid : BitVec 8) (va : W64) (len : Nat)
  | fabricNibble (flow : W64) (asid : BitVec 8) (va : W64) (high : Bool) (v : Nat)
  | fcopyAck (g o : Nat)
  | fcopyData (g o : Nat) (bytes : List Byte)
  | fcopyRefused (g o : Nat)
  | undelivered (what : Undelivered)
  | packetDrop (die : Nat)
  | peersReady (job : BitVec 16) (p : BitVec 12)
  | debugHalt (h : W64) (idx : Nat)
  | debugStep (h : W64) (idx : Nat)
  | debugResume (h : W64) (idx : Nat) (past : Bool)
  | debugInspect (h : W64) (idx : Nat) (what : DebugReg)
  | debugWrite (h : W64) (idx : Nat) (what : DebugReg) (v : BitVec 256)
  | watch (die n : Nat) (w : Option Watch)
  | session (job : BitVec 16) (on : Bool)
  | measure (die : Nat) (asid : BitVec 8) (va : W64) (len : Nat)
  | markExecutable (die : Nat) (seg : Segment)
  | spdm (job : BitVec 16)
  | telemetry (die : Nat)
  | powerCap (die watts : Nat)
  | retrain (stack rate : Nat)
  | droop (die : Nat)
  | overCap (die : Nat)
  | softError (die arr : Nat)
  | hardError (die : Nat) (loc : ErrorLoc)
  | dieReset (die : Nat)
  | restartRuntime (die : Nat)
  | queueConfig (q : Queue)
  | grant (g : Grant)
  | revoke (asid : BitVec 8) (granule : Nat)
  | poolConfig (p : Pool)
  | revokePool (asid : BitVec 8) (num : Nat)
  | flowConfig (f : Flow)
  | spillConfig (cu : Nat) (base : W64) (records : Nat) (absent : Bool)
  /-- Boot places the device runtime's team on a CU of a die (R17). -/
  | runtime (cu : Nat) (packet : BitVec 512)
  /-- A new job of an id starts, and the public keys of a job are provisioned (R372). -/
  | jobStarts (job : BitVec 16)
  | provision (job : BitVec 16) (keys : List (BitVec 768))
  deriving DecidableEq, Repr

/-! ## The module -/

/-- The state of the module. -/
structure State where
  /-- The resident gangs and teams. -/
  gangs     : List Gang
  teams     : List Team
  /-- The gang whose word is being issued (the model's own). -/
  focus     : Option Nat
  /-- The CUs by number; a missing one is as after reset. -/
  cus       : List (Nat × Cu)
  dies      : List (Nat × Die)
  /-- HBM5 and the capacity tier, by physical address (R334). -/
  phys      : List Host.Cell
  /-- Common memory, by offset (R163). -/
  common    : List Host.Cell
  grants    : List Grant
  graph     : GraphStore
  slots     : List Slot
  mirrors   : List Mirror
  reds      : List Red
  queues    : List Queue
  launches  : List Launch
  /-- The queue last served at each priority (R287). -/
  served    : List (Nat × Nat)
  restores  : List W64
  savings   : List Saving
  saved     : List Saved
  reserved  : List (Waiter × Nat)
  phases    : List Phase
  requests  : List TagReq
  flows     : List Flow
  /-- Connections whose command waits: the connection, the TAG if a page fault, and whether it was refused. -/
  commands  : List (Nat × W32 × Bool)
  held      : List Completion
  released  : List Completion
  sessions  : List (BitVec 16)
  attest    : List (Nat × BitVec 384)
  /-- The provisioned public keys of the jobs, each with x in its upper half and y in its lower (R372). -/
  keys      : List (Nat × List (BitVec 768))
  hbmStacks : List (Nat × Retrain)
  poisoned  : List Place
  ptbase    : W64
  ulog      : W64
  undo      : List Undo
  outbox    : List Message
  inputs    : List Input
  /-- Numbers the model's own free choices (log 4). -/
  tick      : Nat
  /-- Numbers operations, gangs, teams, pins and withheld groups freshly; and launches, handles and TAGs. -/
  serial    : Nat
  named     : Nat
  deriving DecidableEq, Repr

/-- The machine's own stops. Both say that a step was asked of the machine that its state does not allow; `step` never asks for
one, so no run meets them. -/
inductive Fault where
  /-- A word was executed while no gang was issuing: raised by every word's meaning. Safe: the hardware has no such step. -/
  | noIssuer
  /-- An event was executed whose enabling condition does not hold: raised by the events' meanings. Safe: the hardware has no such step. -/
  | notEnabled
  deriving DecidableEq, Repr

/-- Refusals by name. -/
inductive Refusal where
  /-- An instruction that the model gives no meaning: raised by an arm of `exec`. Safe: nothing is claimed of it. -/
  | notModelled (mnemonic : String)
  deriving DecidableEq, Repr

/-- The module right after reset: no gang is resident, every queue is unconfigured, memory lists nothing (R88, R89, R164,
R251, R286, R340, R344; log 1, log 2). -/
def State.reset : State where
  gangs := []
  teams := []
  focus := none
  cus := []
  dies := []
  phys := []
  common := []
  grants := []
  graph := {}
  slots := []
  mirrors := []
  reds := []
  queues := []
  launches := []
  served := []
  restores := []
  savings := []
  saved := []
  reserved := []
  phases := []
  requests := []
  flows := []
  commands := []
  held := []
  released := []
  sessions := []
  attest := []
  keys := []
  hbmStacks := []
  poisoned := []
  ptbase := 0
  ulog := 0
  undo := []
  outbox := []
  inputs := []
  tick := 0
  serial := 1
  named := 1

end Sys2Proof.Machine
end

