-- ==== Sys2Proof/Machine/Cells.lean ====
section
/-!
DEFINITION. Numbered values in canonical form (`Cells`), tables by number, byte memory built on them, lane sets, and the bit-field
helpers that every other file uses (R4, R8, R43).
-/
namespace Sys2Proof.Machine

/-! ## Numbered values -/

/-- The value numbered `k`; a missing one reads 0. -/
def look {w : Nat} : Cells w → Nat → BitVec w
  | [], _ => 0
  | (j, v) :: r, k => if j = k then v else look r k

/-- Puts the value numbered `k` at its place among rising keys. -/
def ins {w : Nat} : Cells w → Nat → BitVec w → Cells w
  | [], k, v => [(k, v)]
  | (j, u) :: r, k, v => if k < j then (k, v) :: (j, u) :: r else if k = j then (k, v) :: r else (j, u) :: ins r k v

/-- Writes the value numbered `k`, keeping keys rising and storing no zero. -/
def put {w : Nat} (m : Cells w) (k : Nat) (v : BitVec w) : Cells w := if v = 0 then m.filter fun e => decide (e.1 ≠ k) else ins m k v

/-- Whether keys strictly rise from `lo` on and no value is 0. -/
def wfFrom {w : Nat} : Nat → Cells w → Bool
  | _, [] => true
  | lo, (j, v) :: r => decide (lo ≤ j) && decide (v ≠ 0) && wfFrom (j + 1) r

/-- The canonical form of numbered values. -/
def wfCells {w : Nat} (m : Cells w) : Bool := wfFrom 0 m

/-- The canonical form of a byte memory: addresses strictly rise and no entry equals what an unlisted address reads as. -/
def Memory.wf (m : List Host.Cell) : Bool := wfCells (w := 8) m

/-- The values numbered `lo` to `hi - 1`. -/
def between {w : Nat} (m : Cells w) (lo hi : Nat) : Cells w := m.filter fun e => decide (lo ≤ e.1) && decide (e.1 < hi)

/-- The values outside `lo` to `hi - 1`. -/
def outside {w : Nat} (m : Cells w) (lo hi : Nat) : Cells w := m.filter fun e => !(decide (lo ≤ e.1) && decide (e.1 < hi))

/-! ## Order -/

/-- Puts an element before the first whose key is not less. -/
def insertBy {α : Type} (key : α → Nat) (a : α) : List α → List α
  | [] => [a]
  | b :: r => if key a ≤ key b then a :: b :: r else b :: insertBy key a r

/-- A list in rising order of keys; elements of one key stay in their order. -/
def sortBy {α : Type} (key : α → Nat) (l : List α) : List α := l.foldr (insertBy key) []

/-! ## Tables by number -/

/-- The entry numbered `k` of a table, or `d`. -/
def entry {α : Type} (d : α) : List (Nat × α) → Nat → α
  | [], _ => d
  | (j, x) :: r, k => if j = k then x else entry d r k

/-- The entry numbered `k` of a table, if it is there. -/
def entry? {α : Type} : List (Nat × α) → Nat → Option α
  | [], _ => none
  | (j, x) :: r, k => if j = k then some x else entry? r k

/-- Writes the entry numbered `k` of a table, kept in rising order. -/
def setEntry {α : Type} : List (Nat × α) → Nat → α → List (Nat × α)
  | [], k, x => [(k, x)]
  | (j, y) :: r, k, x =>
    if k < j then (k, x) :: (j, y) :: r
    else if k = j then (k, x) :: r
    else (j, y) :: setEntry r k x

/-- Applies `f` to each element with its position, from position `n` on. -/
def mapFrom {α : Type} (f : Nat → α → α) : Nat → List α → List α
  | _, [] => []
  | n, x :: r => f n x :: mapFrom f (n + 1) r

/-- Iterates `f` `n` times. -/
def iterate {α : Type} (f : α → α) : Nat → α → α
  | 0, x => x
  | n + 1, x => iterate f n (f x)

/-- Iterates `f` while it answers, at most `n` times. -/
def exhaust {α : Type} (f : α → Option α) : Nat → α → α
  | 0, x => x
  | n + 1, x => match f x with
    | some y => exhaust f n y
    | none => x

/-! ## Byte memory -/

/-- The `n` bytes from address `a` on. -/
def bytesAt (m : List Host.Cell) (a : Nat) : Nat → List Byte
  | 0 => []
  | n + 1 => look m a :: bytesAt m (a + 1) n

/-- Stores bytes from address `a` on. -/
def storeBytes (m : List Host.Cell) (a : Nat) : List Byte → List Host.Cell
  | [] => m
  | b :: r => storeBytes (put m a b) (a + 1) r

/-- The little-endian value of a byte list (R4). -/
def leNat : List Byte → Nat
  | [] => 0
  | b :: r => b.toNat + 256 * leNat r

/-- The `n` little-endian bytes of a number (R4). -/
def leBytes : Nat → Nat → List Byte
  | 0, _ => []
  | n + 1, v => BitVec.ofNat 8 v :: leBytes n (v / 256)

/-- The `n`-byte little-endian number at an address. -/
def readNat (m : List Host.Cell) (a n : Nat) : Nat := leNat (bytesAt m a n)
/-- The 32-bit word at an address. -/
def read32 (m : List Host.Cell) (a : Nat) : W32 := BitVec.ofNat 32 (readNat m a 4)
/-- The 64-bit word at an address. -/
def read64 (m : List Host.Cell) (a : Nat) : W64 := BitVec.ofNat 64 (readNat m a 8)
/-- The 32-byte record at an address. -/
def read256 (m : List Host.Cell) (a : Nat) : BitVec 256 := BitVec.ofNat 256 (readNat m a 32)
/-- Stores a value of `8n` bits, little-endian. -/
def storeNat (m : List Host.Cell) (a n v : Nat) : List Host.Cell := storeBytes m a (leBytes n v)

/-! ## Bit fields -/

/-- Bits [hi:lo] of a value, as a number (R8). -/
def fld {w : Nat} (x : BitVec w) (hi lo : Nat) : Nat := (x.toNat / 2 ^ lo) % 2 ^ (hi + 1 - lo)

/-- A value with bits [hi:lo] replaced by `v`. -/
def setFld {w : Nat} (x : BitVec w) (hi lo v : Nat) : BitVec w :=
  BitVec.ofNat w (x.toNat - fld x hi lo * 2 ^ lo + v % 2 ^ (hi + 1 - lo) * 2 ^ lo)

/-- A number read as a signed value of `w` bits. -/
def signed (w : Nat) (n : Nat) : Int := if n % 2 ^ w < 2 ^ (w - 1) then ((n % 2 ^ w : Nat) : Int) else ((n % 2 ^ w : Nat) : Int) - (2 ^ w : Nat)

/-! ## Lane sets -/

/-- The lanes of a set, in ascending order. -/
def lanesOf (s : Lanes) : List Nat := (List.range 64).filter fun l => s.getLsbD l

/-- The set of one lane. -/
def lane (l : Nat) : Lanes := 1#64 <<< l

/-- The set of the lanes of a list. -/
def laneSet (ls : List Nat) : Lanes := ls.foldl (fun s l => s ||| lane l) 0

/-- The lanes of `s` for which `p` holds. -/
def lanesWhere (s : Lanes) (p : Nat → Bool) : Lanes := laneSet ((lanesOf s).filter p)

/-- How many lanes a set holds. -/
def laneCount (s : Lanes) : Nat := (lanesOf s).length

/-- The lowest lane of a set, or 64. -/
def lowestLane (s : Lanes) : Nat := (lanesOf s).headD 64

/-- The lanes below a gang's width (R141). -/
def widthMask (w : Nat) : Lanes := BitVec.ofNat 64 (2 ^ w - 1)

end Sys2Proof.Machine
end

