-- ==== Sys2Proof/Machine/Numbers.lean ====
section
/-!
DEFINITION. Number formats and the rounding helpers of the spec's chapter on numbers: formats and their codes (R62-R64), Round
and Overflow (R65-R67), Convert and Subst (R74), exact sums and products, DecodeSB (R79-R83) and QuantiseBlock (R84, R85).
Every value is computed exactly, as an integer times a power of two, and narrowed once.
-/
namespace Sys2Proof.Machine

/-! ## The sticky flags of sr.fstat, by bit (R70) -/

def INVALID   : BitVec 8 := 0x01
def DIVZERO   : BitVec 8 := 0x02
def OVERFLOW  : BitVec 8 := 0x04
def UNDERFLOW : BitVec 8 := 0x08
def INEXACT   : BitVec 8 := 0x10
def SUBST     : BitVec 8 := 0x20
def SATURATED : BitVec 8 := 0x40
def SELECTOR  : BitVec 8 := 0x80

/-! ## Formats -/

/-- The rounding modes (R65). -/
inductive Mode where
  | rne | rz | rdn | rup
  deriving DecidableEq, Repr

/-- The mode coded by two bits (R65). -/
def Mode.of (c : Nat) : Mode := match c % 4 with
  | 0 => .rne
  | 1 => .rz
  | 2 => .rdn
  | _ => .rup

/-- How a format spends its top codes: infinities and NaNs (f32, f16, bf16, e5m2), one NaN and no infinity (e4m3), or neither. -/
inductive Top where
  | ieee | oneNan | plain
  deriving DecidableEq, Repr

/-- A floating-point format (R62): exponent and mantissa widths, bias, and its top codes. -/
structure Fmt where
  ebits : Nat
  mbits : Nat
  bias  : Int
  top   : Top
  deriving DecidableEq, Repr

def f32  : Fmt := ⟨8, 23, 127, .ieee⟩
def f16  : Fmt := ⟨5, 10, 15, .ieee⟩
def bf16 : Fmt := ⟨8, 7, 127, .ieee⟩
def e5m2 : Fmt := ⟨5, 2, 15, .ieee⟩
def e4m3 : Fmt := ⟨4, 3, 7, .oneNan⟩
def e2m1 : Fmt := ⟨2, 1, 1, .plain⟩
def e3m4 : Fmt := ⟨3, 4, 3, .plain⟩

/-- The sign bit's weight in a code. -/
def Fmt.signBit (f : Fmt) : Nat := 2 ^ (f.ebits + f.mbits)
/-- The code of +infinity in a format with infinities: exponent all ones. -/
def Fmt.infMag (f : Fmt) : Nat := (2 ^ f.ebits - 1) * 2 ^ f.mbits
/-- The magnitude code of the largest finite value (R62). -/
def Fmt.maxMag (f : Fmt) : Nat := match f.top with
  | .ieee => f.infMag - 1
  | .oneNan => f.signBit - 2
  | .plain => f.signBit - 1
/-- The canonical NaN (R62, R63). -/
def Fmt.canonNan (f : Fmt) : Nat := match f.top with
  | .ieee => f.infMag + 2 ^ (f.mbits - 1)
  | _ => f.signBit - 1
/-- The exponent of the smallest normal value. -/
def Fmt.emin (f : Fmt) : Int := 1 - f.bias

/-- What a code stands for: a NaN, an infinity, or (−1)^neg · m · 2^e. -/
inductive Val where
  | nan (signalling : Bool)
  | inf (neg : Bool)
  | fin (neg : Bool) (m : Nat) (e : Int)
  deriving DecidableEq, Repr

/-- The value of a code (R62, R63). -/
def Fmt.val (f : Fmt) (c : Nat) : Val :=
  let neg := decide (f.signBit ≤ c % (2 * f.signBit))
  let mag := c % f.signBit
  let ex := mag / 2 ^ f.mbits
  let mn := mag % 2 ^ f.mbits
  let fin : Val :=
    if ex = 0 then .fin neg mn (f.emin - f.mbits) else .fin neg (mn + 2 ^ f.mbits) ((ex : Int) - f.bias - f.mbits)
  match f.top with
  | .ieee =>
    if mag < f.infMag then fin
    else if mag = f.infMag then .inf neg
    else .nan (decide (mn < 2 ^ (f.mbits - 1)))
  | .oneNan => if mag = f.signBit - 1 then .nan false else fin
  | .plain => fin

def Val.isNan : Val → Bool
  | .nan _ => true
  | _ => false
def Val.isSnan : Val → Bool
  | .nan s => s
  | _ => false
def Val.isInf : Val → Bool
  | .inf _ => true
  | _ => false
def Val.isZero : Val → Bool
  | .fin _ m _ => decide (m = 0)
  | _ => false
/-- The sign of a value that is no NaN. -/
def Val.neg : Val → Bool
  | .nan _ => false
  | .inf n => n
  | .fin n _ _ => n

/-- A code with its sign. -/
def Fmt.signed (f : Fmt) (neg : Bool) (mag : Nat) : Nat := if neg then f.signBit + mag else mag

/-- INVALID when any operand is a signalling NaN (R63). -/
def snanFlag (vs : List Val) : BitVec 8 := if vs.any Val.isSnan then INVALID else 0

/-! ## Round and Overflow -/

/-- floor(log2 (m · 2^e)) for m > 0. -/
def floorLog (m : Nat) (e : Int) : Int := (Nat.log2 m : Int) + e

/-- Whether `lo + rem/2^sh` rounds up to `lo + 1`, by the mode (R65). -/
def roundsUp (mode : Mode) (neg : Bool) (lo rem sh : Nat) : Bool :=
  match mode with
  | .rne => decide (2 ^ sh < 2 * rem) || (decide (2 * rem = 2 ^ sh) && decide (lo % 2 = 1))
  | .rz => false
  | .rdn => neg && decide (rem ≠ 0)
  | .rup => !neg && decide (rem ≠ 0)

/-- A magnitude m · 2^e on the grid of spacing 2^q: the multiple that the mode takes, and whether it differs from the value. -/
def roundMul (mode : Mode) (neg : Bool) (m : Nat) (e q : Int) : Nat × Bool :=
  if q ≤ e then (m * 2 ^ (e - q).toNat, false)
  else
    let sh := (q - e).toNat
    let lo := m / 2 ^ sh
    let rem := m % 2 ^ sh
    (if roundsUp mode neg lo rem sh then lo + 1 else lo, decide (rem ≠ 0))

/-- The magnitude code of Round(m · 2^e) before the test for overflow, and whether the result is inexact (R66). Codes rise with the
magnitude, so a code above `maxMag` means that the result passes the largest finite value. -/
def roundMag (f : Fmt) (mode : Mode) (neg : Bool) (m : Nat) (e : Int) : Nat × Bool :=
  if m = 0 then (0, false)
  else
    let ex := max (floorLog m e) f.emin
    let (n, inexact) := roundMul mode neg m e (ex - f.mbits)
    -- n = 2^M .. 2^(M+1) for a normal value, below 2^M for a subnormal one
    (((ex - f.emin).toNat) * 2 ^ f.mbits + n, inexact)

/-- Whether a magnitude lies below the smallest normal value (R66). -/
def tiny (f : Fmt) (m : Nat) (e : Int) : Bool := decide (m ≠ 0) && decide (floorLog m e < f.emin)

/-- The flags of a rounding that did not overflow (R66). -/
def roundFlags (inexact below : Bool) : BitVec 8 :=
  (if inexact then INEXACT else 0) ||| (if inexact && below then UNDERFLOW else 0)

/-- Whether Overflow gives an infinity, by mode and sign (R67). -/
def overflowsToInf (mode : Mode) (neg : Bool) : Bool :=
  match mode with
  | .rne => true
  | .rz => false
  | .rdn => neg
  | .rup => !neg

/-- Convert of a finite value into a float format with saturation (R74): it never overflows. -/
def roundSat (f : Fmt) (mode : Mode) (neg : Bool) (m : Nat) (e : Int) : Nat × BitVec 8 :=
  let big := match f.val f.maxMag with
    | .fin _ mm me => decide ((mm : Int) * 2 ^ (me - min me e).toNat < (m : Int) * 2 ^ (e - min me e).toNat)
    | _ => false
  if big then (f.signed neg f.maxMag, SATURATED ||| INEXACT)
  else
    let (c, ix) := roundMag f mode neg m e
    (f.signed neg c, roundFlags ix (tiny f m e))

/-- Subst(T, mode) for a float format (R74): SUB converted with saturation. SUB is finite (R73). -/
def substFloat (f : Fmt) (mode : Mode) (sub : W32) : Nat × BitVec 8 :=
  match f32.val sub.toNat with
  | .fin n m e => let (c, fl) := roundSat f mode n m e; (c, fl ||| SUBST)
  | _ => (0, SUBST)

/-- Round(x, F, mode) of an exact finite value, with Overflow (R66, R67); `sub` is sr.cvsub, used by formats without infinities. -/
def roundTo (f : Fmt) (mode : Mode) (sub : W32) (neg : Bool) (m : Nat) (e : Int) : Nat × BitVec 8 :=
  let (c, ix) := roundMag f mode neg m e
  if f.maxMag < c then
    if overflowsToInf mode neg then
      match f.top with
      | .ieee => (f.signed neg f.infMag, OVERFLOW ||| INEXACT)
      | _ => let (k, fl) := substFloat f mode sub; (k, fl ||| OVERFLOW ||| INEXACT)
    else (f.signed neg f.maxMag, OVERFLOW ||| INEXACT)
  else (f.signed neg c, roundFlags ix (tiny f m e))

/-- RoundF32 (R66). -/
def roundF32 (mode : Mode) (neg : Bool) (m : Nat) (e : Int) : W32 × BitVec 8 :=
  let (c, fl) := roundTo f32 mode 0 neg m e
  (BitVec.ofNat 32 c, fl)

/-! ## Exact sums -/

/-- A signed term (−1)^neg · m · 2^e. -/
abbrev Term := Bool × Nat × Int

/-- The exact sum of terms as an integer at the smallest exponent. -/
def sumInt (ts : List Term) : Int × Int :=
  let e0 := ts.foldl (fun a t => if t.2.1 = 0 then a else min a t.2.2) ((ts.headD (false, 0, 0)).2.2)
  (ts.foldl (fun a t => a + (if t.1 then -1 else 1) * ((t.2.1 : Int) * 2 ^ (t.2.2 - e0).toNat)) 0, e0)

/-- The sign of a dot product or a plain sum that is exactly zero (R64, R121; log 52): all terms zero of one sign keep it; otherwise −0 in RDN
and +0 elsewhere. -/
def zeroSumNeg (mode : Mode) (ts : List Term) : Bool :=
  if ts.all fun t => decide (t.2.1 = 0) then
    (ts.all fun t => t.1) || (decide (mode = .rdn) && ts.any fun t => t.1)
  else decide (mode = .rdn)

/-- The sign of an exact zero of R113: a product alone keeps its sign; a −0 product with a −0 addend gives −0 in fma; any other zero sum gives
+0, or −0 in RDN. -/
def fopZeroNeg (fma : Bool) (mode : Mode) (ts : List Term) : Bool :=
  match ts with
  | [t] => t.1
  | _ => (fma && ts.all fun t => t.1 && decide (t.2.1 = 0)) || decide (mode = .rdn)

/-- The exact sum of terms as sign, magnitude and exponent; `zn` gives the sign of a zero sum. -/
def exactSum (zn : List Term → Bool) (ts : List Term) : Term :=
  let (v, e) := sumInt ts
  if v = 0 then (zn ts, 0, e) else (decide (v < 0), v.natAbs, e)

/-- The product of two finite values (R113): the sign is the XOR of the signs. -/
def mulTerm (a b : Term) : Term := (xor a.1 b.1, a.2.1 * b.2.1, a.2.2 + b.2.2)

/-- The term of a finite value (0 otherwise). -/
def Val.term : Val → Term
  | .fin n m e => (n, m, e)
  | _ => (false, 0, 0)

/-- The sign of an infinite or finite value's product. -/
def prodNeg (a b : Val) : Bool := xor a.neg b.neg

/-- Whether a product is 0 · ±infinity of two values that are no NaNs (R113). -/
def badProduct (a b : Val) : Bool := (a.isZero && b.isInf) || (a.isInf && b.isZero)

/-- The sum of products and addends in one rounding, with the special values of R113 and R121: an invalid product is tested first, then
NaNs, then +infinity added to −infinity, then an infinite value, then the exact sum. `rnd` does the one rounding, and `zn` gives the
sign of an exact zero. -/
def fusedSum (nan : Nat) (inf : Bool → Nat) (rnd : Term → Nat × BitVec 8) (zn : List Term → Bool) (prods : List (Val × Val)) (adds : List Val) :
    Nat × BitVec 8 :=
  let all := (prods.map Prod.fst) ++ (prods.map Prod.snd) ++ adds
  let sn := snanFlag all
  if prods.any fun p => badProduct p.1 p.2 then (nan, sn ||| INVALID)
  else if all.any Val.isNan then (nan, sn)
  else
    let infs := ((prods.filter fun p => p.1.isInf || p.2.isInf).map fun p => prodNeg p.1 p.2) ++ ((adds.filter Val.isInf).map Val.neg)
    if infs.any id && infs.any not then (nan, INVALID)
    else match infs with
      | n :: _ => (inf n, 0)
      | [] => rnd (exactSum zn ((prods.map fun p => mulTerm p.1.term p.2.term) ++ adds.map Val.term))

/-- fusedSum into a format, by Round. -/
def fusedBy (zn : List Term → Bool) (f : Fmt) (mode : Mode) (prods : List (Val × Val)) (adds : List Val) : Nat × BitVec 8 :=
  fusedSum f.canonNan (fun n => f.signed n f.infMag) (fun t => roundTo f mode 0 t.1 t.2.1 t.2.2) zn prods adds

/-- A dot product or a plain sum in a format (R121, R154, R203, R240). -/
def fusedTo (f : Fmt) (mode : Mode) (prods : List (Val × Val)) (adds : List Val) : Nat × BitVec 8 := fusedBy (zeroSumNeg mode) f mode prods adds

/-- An arithmetic form of R113 in a format; `fma` says that it is fma. -/
def fopTo (fma : Bool) (f : Fmt) (mode : Mode) (prods : List (Val × Val)) (adds : List Val) : Nat × BitVec 8 :=
  fusedBy (fopZeroNeg fma mode) f mode prods adds

/-- Adds two f32 patterns in one rounding, subnormals kept (R154 AddF32, R203 AtomF, R240 Sum). -/
def addF32 (mode : Mode) (p q : W32) : W32 × BitVec 8 :=
  let (c, fl) := fusedTo f32 mode [] [f32.val p.toNat, f32.val q.toNat]
  (BitVec.ofNat 32 c, fl)

/-- a · b + c of f32 patterns in one rounding, subnormals kept. -/
def fmaF32 (mode : Mode) (a b c : W32) : W32 × BitVec 8 :=
  let (r, fl) := fusedTo f32 mode [(f32.val a.toNat, f32.val b.toNat)] [f32.val c.toNat]
  (BitVec.ofNat 32 r, fl)

/-- a · b of f32 patterns in one rounding, subnormals kept. -/
def mulF32 (mode : Mode) (a b : W32) : W32 × BitVec 8 :=
  let (r, fl) := fusedTo f32 mode [(f32.val a.toNat, f32.val b.toNat)] []
  (BitVec.ofNat 32 r, fl)

/-- The value with its sign changed. -/
def Val.negate : Val → Val
  | .nan s => .nan s
  | .inf n => .inf (!n)
  | .fin n m e => .fin (!n) m e

/-- a < b on values that are no NaNs; +0 and −0 are equal (R64, R115). -/
def Val.lt (a b : Val) : Bool :=
  match a, b with
  | .nan _, _ => false
  | _, .nan _ => false
  | .inf n, .inf k => n && !k
  | .inf n, .fin _ _ _ => n
  | .fin _ _ _, .inf k => !k
  | .fin n m e, .fin k p g =>
    let e0 := min e g
    let x : Int := (if n then -1 else 1) * ((m : Int) * 2 ^ (e - e0).toNat)
    let y : Int := (if k then -1 else 1) * ((p : Int) * 2 ^ (g - e0).toNat)
    decide (x < y)

/-- a = b on values that are no NaNs. -/
def Val.eq (a b : Val) : Bool := !a.isNan && !b.isNan && !(a.lt b) && !(b.lt a)

/-- min (or max) of two codes of a format (R114): one NaN gives the other operand, −0 counts as smaller than +0. -/
def minMax (f : Fmt) (isMax : Bool) (ca cb : Nat) (va vb : Val) : Nat × BitVec 8 :=
  let fl := snanFlag [va, vb]
  let smaller : Bool := va.lt vb || (va.isZero && vb.isZero && va.neg && !vb.neg)
  if va.isNan && vb.isNan then (f.canonNan, fl)
  else if va.isNan then (cb, fl)
  else if vb.isNan then (ca, fl)
  else if isMax then (if smaller then cb else ca, fl) else (if smaller || va.eq vb && !(va.isZero && vb.isZero && vb.neg) then ca else cb, fl)

/-- min or max of two f32 patterns (R114). -/
def minMaxF32 (isMax : Bool) (a b : W32) : W32 × BitVec 8 :=
  let (c, fl) := minMax f32 isMax a.toNat b.toNat (f32.val a.toNat) (f32.val b.toNat)
  (BitVec.ofNat 32 c, fl)

/-! ## Convert -/

/-- The element formats by code (R122, R215). -/
inductive Elem where
  | int (sgn : Bool) (w : Nat)
  | flt (f : Fmt)
  deriving DecidableEq, Repr

/-- Format codes 0-10 of cvt and 0-10, 13 of layout records (R122, R215). -/
def Elem.of (c : Nat) : Elem := match c with
  | 0 => .int true 32
  | 1 => .int false 32
  | 2 => .flt f32
  | 3 => .flt f16
  | 4 => .flt bf16
  | 5 => .flt e4m3
  | 6 => .flt e5m2
  | 7 => .int true 16
  | 8 => .int false 16
  | 9 => .int true 8
  | 10 => .int false 8
  | _ => .int true 4

/-- How many bits a code of the format has. -/
def Elem.width : Elem → Nat
  | .int _ w => w
  | .flt f => 1 + f.ebits + f.mbits

/-- The least and the greatest value of an integer format (R60). -/
def intMin (sgn : Bool) (w : Nat) : Int := if sgn then -(2 ^ (w - 1) : Nat) else 0
def intMax (sgn : Bool) (w : Nat) : Int := if sgn then ((2 ^ (w - 1) : Nat) : Int) - 1 else ((2 ^ w : Nat) : Int) - 1

/-- An integer as the code of an integer format of width `w` (modulo 2^w). -/
def intCode (w : Nat) (x : Int) : Nat := (x % ((2 ^ w : Nat) : Int)).toNat

/-- A finite value rounded to an integer by the mode, and whether it changed. -/
def roundInt (mode : Mode) (neg : Bool) (m : Nat) (e : Int) : Int × Bool :=
  let (n, ix) := roundMul mode neg m e 0
  (if neg then -(n : Int) else (n : Int), ix)

/-- A finite float value into an integer format (R74): it always clamps. -/
def floatToInt (mode : Mode) (sgn : Bool) (w : Nat) (neg : Bool) (m : Nat) (e : Int) : Nat × BitVec 8 :=
  -- beyond 2^200 the clamp decides whatever the exact value is
  let e' := min e 200
  let (r, ix) := roundInt mode neg m e'
  if r < intMin sgn w then (intCode w (intMin sgn w), SATURATED)
  else if intMax sgn w < r then (intCode w (intMax sgn w), SATURATED)
  else (intCode w r, if ix then INEXACT else 0)

/-- Subst(T, mode) of R74. -/
def subst (t : Elem) (mode : Mode) (sub : W32) : Nat × BitVec 8 :=
  match t with
  | .flt f => substFloat f mode sub
  | .int sgn w => match f32.val sub.toNat with
    | .fin n m e => let (c, fl) := floatToInt mode sgn w n m e; (c, fl ||| SUBST)
    | _ => (0, SUBST)

/-- Convert(x, S, T, mode, sat) of R74, on codes; `sub` is SUB of sr.cvsub. -/
def convert (sub : W32) (s t : Elem) (mode : Mode) (sat : Bool) (c : Nat) : Nat × BitVec 8 :=
  match s with
  | .int sgn w =>
    let x : Int := if sgn then signed w c else ((c % 2 ^ w : Nat) : Int)
    match t with
    | .int sg w' =>
      if sat && decide (x < intMin sg w') then (intCode w' (intMin sg w'), SATURATED)
      else if sat && decide (intMax sg w' < x) then (intCode w' (intMax sg w'), SATURATED)
      else (intCode w' x, 0)
    | .flt f =>
      if sat then roundSat f mode (decide (x < 0)) x.natAbs 0 else roundTo f mode sub (decide (x < 0)) x.natAbs 0
  | .flt g =>
    match g.val c with
    | .nan sn =>
      let fl : BitVec 8 := if sn then INVALID else 0
      match t with
      | .flt f => if f.top = .plain then (let (k, x) := subst t mode sub; (k, x ||| fl)) else (f.canonNan, fl)
      | .int _ _ => let (k, x) := subst t mode sub; (k, x ||| fl)
    | .inf n =>
      match t with
      | .flt f => if f.top = .ieee then (f.signed n f.infMag, 0) else subst t mode sub
      | .int _ _ => subst t mode sub
    | .fin n m e =>
      match t with
      | .flt f => if sat then roundSat f mode n m e else roundTo f mode sub n m e
      | .int sg w => floatToInt mode sg w n m e

/-! ## Selector blocks -/

/-- lvt[k] as a signed 8-bit level (R76). -/
def level (lvt0 lvt1 : W64) (k : Nat) : Int :=
  if k < 8 then signed 8 (fld lvt0 (8 * k + 7) (8 * k)) else signed 8 (fld lvt1 (8 * (k - 8) + 7) (8 * (k - 8)))

/-- A finite value scaled by 2^k, read as an integer. -/
def scaledInt (v : Val) (k : Int) : Int :=
  match v with
  | .fin n m e => let x : Int := (m : Int) * 2 ^ (e + k).toNat; if n then -x else x
  | _ => 0

/-- DecodeSB of R81: the integer D and the block exponent E of one element, or none for CORRUPT. -/
def decodeSB (sb8 : Bool) (lvt0 lvt1 : W64) (hdr : Nat) (code j : Nat) : Option (Int × Nat) :=
  let ex := hdr / 256 % 256
  let sel := hdr / 2 ^ (2 * (j % 4)) % 4
  if ex = 0 ∨ ex = 255 then none
  else if sb8 then
    match sel with
    | 0 => some (64 * signed 8 code, ex)
    | 1 => some (scaledInt (e3m4.val (code % 256)) 6, ex)
    | _ => none
  else
    match sel with
    | 0 => some (16 * signed 4 code, ex)
    | 1 => some (scaledInt (e2m1.val (code % 16)) 4, ex)
    | 2 => some (level lvt0 lvt1 (code % 16), ex)
    | _ => none

/-- Whether a block header is corrupt, whichever element of the block is read (R81, R82). -/
def corrupt (sb8 : Bool) (hdr : Nat) : Bool :=
  decide (hdr / 256 % 256 = 0) || decide (hdr / 256 % 256 = 255) ||
  (List.range 4).any fun j => decide ((if sb8 then 2 else 3) ≤ hdr / 4 ^ j % 4)

/-- D · 2^(E − g) as an f32, ±infinity with OVERFLOW and INEXACT beyond the largest finite value (R83). -/
def sbValue (sb8 : Bool) (d : Int) (ex : Nat) : W32 × BitVec 8 :=
  roundF32 .rne (decide (d < 0)) d.natAbs ((ex : Int) - (if sb8 then 133 else 131))

/-- A candidate's levels with their codes, in units of 2^(E−127), as integers on the grid 2^-6 (R85). -/
def sbLevels (sb8 : Bool) (lvt0 lvt1 : W64) (sel : Nat) : List (Int × Nat) :=
  if sb8 then
    if sel = 0 then (List.range 256).map fun c => (64 * signed 8 c, c)
    else ((List.range 256).filter fun c => decide (c ≠ 128)).map fun c => (scaledInt (e3m4.val c) 6, c)
  else
    if sel = 0 then (List.range 16).map fun c => (64 * signed 4 c, c)
    else if sel = 1 then ((List.range 16).filter fun c => decide (c ≠ 8)).map fun c => (scaledInt (e2m1.val c) 6, c)
    else (List.range 16).map fun c => (4 * level lvt0 lvt1 c, c)

/-- Whether level `a` is nearer to y = ym·2^ye than level `b`, by R85: distance, then magnitude, then the sign of y, then (for equal
values) the lower code. -/
def nearerLevel (ym ye : Int) (yneg : Bool) (a b : Int × Nat) : Bool :=
  -- on the grid 2^q with q at or below both exponents
  let q := min ye (-6)
  let y := ym * 2 ^ (ye - q).toNat
  let da := (y - a.1 * 2 ^ (-6 - q).toNat).natAbs
  let db := (y - b.1 * 2 ^ (-6 - q).toNat).natAbs
  if da ≠ db then decide (da < db)
  else if a.1.natAbs ≠ b.1.natAbs then decide (a.1.natAbs < b.1.natAbs)
  else if a.1 ≠ b.1 then (if yneg then decide (a.1 < b.1) else decide (b.1 < a.1))
  else decide (a.2 < b.2)

/-- Nearest(y, c) of R85; `yneg` says that y is below zero, so that ±0 counts as positive. -/
def nearestLevel (ym ye : Int) (yneg : Bool) (ls : List (Int × Nat)) : Int × Nat :=
  match ls with
  | [] => (0, 0)
  | l :: r => r.foldl (fun best x => if nearerLevel ym ye yneg x best then x else best) l

/-- The f32 pattern of a rounded term, and its value back as sign, magnitude, exponent. -/
def f32Term (t : Term) : Term := (f32.val ((roundF32 .rne t.1 t.2.1 t.2.2).1.toNat)).term

/-- One element's score step of QuantiseBlock: the running sum and the code chosen (R84). -/
def quantStep (ex : Nat) (ls : List (Int × Nat)) (s : W32) (x : Term) : W32 × Nat :=
  let y := f32Term (x.1, x.2.1, x.2.2 + 127 - ex)
  let ym : Int := if y.1 then -(y.2.1 : Int) else (y.2.1 : Int)
  let lc := nearestLevel ym y.2.2 (decide (ym < 0)) ls
  let d := f32Term (exactSum (zeroSumNeg .rne) [y, (decide (0 ≤ lc.1), lc.1.natAbs, -6)])
  let dd := f32Term (mulTerm d d)
  let sum := exactSum (zeroSumNeg .rne) [(f32.val s.toNat).term, dd]
  ((roundF32 .rne sum.1 sum.2.1 sum.2.2).1, lc.2)

/-- The score and the codes of one candidate on a sub-block (R84). -/
def quantScore (ex : Nat) (ls : List (Int × Nat)) (xs : List Term) : W32 × List Nat :=
  xs.foldl (fun acc x => let (s, c) := quantStep ex ls acc.1 x; (s, acc.2 ++ [c])) (0, [])

/-- The best candidate of a sub-block: its selector and its codes; a tie keeps the earlier one (R84). -/
def quantSub (sb8 : Bool) (lvt0 lvt1 : W64) (ex : Nat) (xs : List Term) : Nat × List Nat :=
  let cands := if sb8 then [0, 1] else [0, 1, 2]
  let scored := cands.map fun c => (c, quantScore ex (sbLevels sb8 lvt0 lvt1 c) xs)
  match scored with
  | [] => (0, [])
  | f :: r =>
    let best := r.foldl (fun b x => if (f32.val x.2.1.toNat).lt (f32.val b.2.1.toNat) then x else b) f
    (best.1, best.2.2)

/-- The smallest e with m · 2^k <= top · 2^e. -/
def leastExp (top m : Nat) (k : Int) : Int :=
  let e0 := floorLog m k - (Nat.log2 top : Int)
  -- top·2^e0 is at least half and at most twice the value
  let fits := fun (e : Int) => decide ((m : Int) * 2 ^ (k - min k e).toNat ≤ (top : Int) * 2 ^ (e - min k e).toNat)
  if fits (e0 - 1) then e0 - 1 else if fits e0 then e0 else e0 + 1

/-- Exponents above 127 leave an infinite score to the sum: a score that overflows reads as +infinity. -/
def clampExp (e : Int) : Nat := (max 1 (min 254 e)).toNat

/-- QuantiseBlock of 128 f32 patterns (R84): header, codes, flags. -/
def quantiseBlock (sb8 : Bool) (sub : W32) (lvt0 lvt1 : W64) (xs : List W32) : Nat × List Nat × BitVec 8 :=
  let bad := fun (x : W32) => match f32.val x.toNat with
    | .fin _ _ _ => false
    | _ => true
  let fl : BitVec 8 := if xs.any bad then SUBST else 0
  let ts : List Term := xs.map fun x => (f32.val (if bad x then sub else x).toNat).term
  let top := if sb8 then 31 else 6
  let big := ts.foldl (fun (m : Val) t => if m.lt (.fin false t.2.1 t.2.2) then .fin false t.2.1 t.2.2 else m) (.fin false 0 0)
  let e : Int := match big with
    | .fin _ 0 _ => 1
    | .fin _ m k => 127 + leastExp top m k
    | _ => 1
  let ex := clampExp e
  let fl2 : BitVec 8 := if 254 < e then SATURATED else 0
  let sub4 := (List.range 4).map fun j => quantSub sb8 lvt0 lvt1 ex ((ts.drop (32 * j)).take 32)
  let hdr := ex * 256 + (sub4.zip (List.range 4)).foldl (fun a p => a + p.1.1 * 4 ^ p.2) 0
  (hdr, (sub4.map Prod.snd).foldl (· ++ ·) [], fl ||| fl2)

end Sys2Proof.Machine
end

