-- ==== Sys2Proof/Machine/Operands.lean ====
section
/-!
DEFINITION. The register operands of a gang: threads, vector registers and clause temporaries, scalars, masks, set slots, and
the immediate forms (R86-R91, R141, R46, R50).
-/
namespace Sys2Proof.Machine

/-! ## Threads -/

/-- The lanes that exist in a gang (R136). -/
def Gang.lanes (g : Gang) : Lanes := widthMask g.width

/-- The thread of a lane; a lane that does not exist reads as an exited one (R136). -/
def Gang.thread (g : Gang) (l : Nat) : Thread := g.threads.getD l { status := .exited }

/-- Changes the threads of the lanes of `s`. -/
def Gang.mapLanes (g : Gang) (s : Lanes) (f : Nat → Thread → Thread) : Gang :=
  { g with threads := mapFrom (fun l t => if s.getLsbD l then f l t else t) 0 g.threads }

/-- The lanes of the gang for which `p` holds of the thread. -/
def Gang.lanesFor (g : Gang) (p : Thread → Bool) : Lanes := lanesWhere g.lanes fun l => p (g.thread l)

/-- The lanes that have not exited (R144 mlive). -/
def Gang.live (g : Gang) : Lanes := g.lanesFor fun t => decide (t.status ≠ .exited)

/-! ## Vector registers -/

/-- V[n][L] (R86): v0-v119 by code, k0-k7 by codes 120-127. -/
def Gang.vreg (g : Gang) (l n : Nat) : W32 := look (g.thread l).vregs n

/-- V[n][L] of any lane as a word of another lane reads it: k0-k7 end with the body they belong to, and give a free value then (R86, R132; log 23). -/
def Gang.peek (g : Gang) (l n : Nat) : W32 :=
  if 120 ≤ n ∧ (g.thread l).clause = 0 then Config.deadTemp g.id g.issues.toNat (128 * l + n) else g.vreg l n

/-- V[n] := v in one lane (R91); a register that is written anew has no error (R357). -/
def Thread.setReg (t : Thread) (n : Nat) (v : W32) : Thread := { t with vregs := put t.vregs n v, bad := t.bad.filter fun k => decide (k ≠ n) }

/-- V[n][L] := f L for each lane L of `s` (R91). -/
def Gang.setVreg (g : Gang) (s : Lanes) (n : Nat) (f : Nat → W32) : Gang := g.mapLanes s fun l t => t.setReg n (f l)

/-- Whether a vector register of a lane has no uncorrectable error (R357). -/
def Gang.sound (g : Gang) (l n : Nat) : Bool := !(g.thread l).bad.contains n

/-- The 64-bit value of the pair V[n], V[n+1] of a lane (R147, R175). -/
def Gang.vpair (g : Gang) (l n : Nat) : W64 := g.vreg l (n + 1) ++ g.vreg l n

/-- Writes a 64-bit value per lane into the pair n, n+1. -/
def Gang.setVpair (g : Gang) (s : Lanes) (n : Nat) (f : Nat → W64) : Gang :=
  (g.setVreg s n fun l => (f l).setWidth 32).setVreg s (n + 1) fun l => (f l).extractLsb' 32 32

/-! ## Scalars and masks -/

/-- Sc[n]: s0 reads 0 (R90). -/
def Gang.sreg (g : Gang) (n : Nat) : W64 := if n = 0 then 0 else look g.sregs n

/-- Sc[n] := v: a write to s0 is discarded (R90); a register that is written anew has no error (R357). -/
def Gang.setSreg (g : Gang) (n : Nat) (v : W64) : Gang :=
  if n = 0 then g else { g with sregs := put g.sregs n v, badScalars := g.badScalars.filter fun k => decide (k ≠ n) }

/-- The mask register mN (R141). -/
def Gang.mreg (g : Gang) (n : Nat) : Lanes := look g.masks n

/-- A whole write of a mask: bits at or above the width are discarded (R141); a mask that is written anew has no error (R357). -/
def Gang.setMask (g : Gang) (n : Nat) (v : Lanes) : Gang :=
  { g with masks := put g.masks n (v &&& g.lanes), badMasks := g.badMasks.filter fun k => decide (k ≠ n) }

/-- A lane write of a mask: only the bits of the lanes of `s` change (R141). -/
def Gang.setMaskLanes (g : Gang) (s : Lanes) (n : Nat) (v : Lanes) : Gang := g.setMask n ((g.mreg n &&& ~~~s) ||| (v &&& s))

/-! ## Immediates (R46, R105, R106) -/

/-- The second source of a 16-bit word: a register, or imm5 sign-extended (R47). -/
def Gang.shortSrc (g : Gang) (i : BitVec 1) (b : BitVec 5) (l : Nat) : W32 := if i = 1 then b.signExtend 32 else g.vreg l b.toNat

/-- The second source of a 16-bit shift or logic word: a register, or imm5 zero-extended (R47). -/
def Gang.shortSrcZ (g : Gang) (i : BitVec 1) (b : BitVec 5) (l : Nat) : W32 := if i = 1 then b.setWidth 32 else g.vreg l b.toNat

end Sys2Proof.Machine
end

