-- ==== Sys2Proof/Machine/Flags.lean ====
section
/-!
DEFINITION. The sticky flags of sr.fstat (R70, R71), the rounding mode of sr.fmode (R68), and the completion flags f0-f11 with the
operations they count (R129-R131).
-/
namespace Sys2Proof.Machine

/-! ## Sticky flags -/

/-- Merges flags into sr.fstat (R71): they stick. -/
def Gang.merge (g : Gang) (fl : BitVec 8) : Gang := { g with fstat := g.fstat ||| fl }

/-- RM of sr.fmode (R68). -/
def Gang.rm (g : Gang) : Mode := Mode.of (fld g.fmode 1 0)

/-- FTZ of sr.fmode (R68). -/
def Gang.ftz (g : Gang) : Bool := g.fmode.getLsbD 2

/-- Writes a result per lane and merges the flags of all of them (R71). -/
def Gang.setVregF (g : Gang) (s : Lanes) (n : Nat) (f : Nat → W32 × BitVec 8) : Gang :=
  (g.setVreg s n fun l => (f l).1).merge ((lanesOf s).foldl (fun a l => a ||| (f l).2) 0)

/-! ## Completion flags -/

/-- f[i]: how many outstanding operations count on flag `i` (R129). -/
def Gang.flag (g : Gang) (i : Nat) : Nat := (g.ops.filter fun o => decide (o.flag = some i)).length

/-- Whether every flag of a WAIT field is zero (R126). -/
def Gang.waitsDone (g : Gang) (w : Nat) : Bool := g.ops.all fun o => match o.flag with
  | some i => !(w.testBit i)
  | none => true

/-- The flag a slot code names: 15 names none (R130). -/
def slotFlag (c : BitVec 4) : Option Nat := if c = 15 then none else some c.toNat

/-- Whether an issue would take a flag from 63 to 64 (R129). -/
def Gang.flagFull (g : Gang) : Option Nat → Bool
  | some i => decide (63 ≤ g.flag i)
  | none => false

/-- The operation of the gang numbered `o`. -/
def Gang.op? (g : Gang) (o : Nat) : Option Op := g.ops.find? fun x => decide (x.id = o)

/-- Changes the operation numbered `o`. -/
def Gang.mapOp (g : Gang) (o : Nat) (f : Op → Op) : Gang := { g with ops := g.ops.map fun x => if x.id = o then f x else x }

/-- Removes the operation numbered `o`: its flag falls by one (R129). -/
def Gang.dropOp (g : Gang) (o : Nat) : Gang := { g with ops := g.ops.filter fun x => decide (x.id ≠ o) }

/-! ## Results that land (R131, R132) -/

/-- Lands a lane result of an operation of clause `c`: a clause temporary takes it only while its clause lasts, or in the trap copy of that clause
(R132, R133). -/
def Thread.land (c n : Nat) (v : W32) (t : Thread) : Thread :=
  if n < 120 then t.setReg n v
  else
    let t1 := if t.clause = c then t.setReg n v else t
    match t1.delivery with
    | some d =>
      if d.unreturned && decide (d.clause = c) then { t1 with delivery := some { d with temps := put d.temps n v } } else t1
    | none => t1

/-- The clause that issued an operation in lane `l` (R132). -/
def Op.clauseAt (o : Op) (l : Nat) : Nat := entry o.clause o.strays l

/-- Lands one pending lane result of an operation. -/
def Gang.landOne (g : Gang) (o : Op) (x : Landing) : Gang :=
  (g.mapLanes (lane x.lane) fun _ t => t.land (o.clauseAt x.lane) x.reg x.val).mapOp o.id fun p =>
    { p with land := p.land.erase x, landed := (x.lane, x.reg) :: p.landed }

/-- Whether a memory operation is still to read a register of a lane. -/
def Op.toRead (o : Op) (l r : Nat) : Bool :=
  match o.body with
  | .mem _ accs => accs.any fun a => decide (a.lane = l) && a.data.any fun p => decide (p.reg = r) && p.val.isNone
  | _ => false

/-- Whether a lane result of an operation may land. An earlier operation that is still to read the register and reads the new value is performed only after
this one has completed (R183), so that this one may then have nothing left that has to follow the earlier one (R172): its accesses have been performed
(log 31). -/
def Gang.mayLand (g : Gang) (o : Op) (x : Landing) : Bool :=
  (match o.body with
    | .mem _ accs => accs.all Access.done
    | _ => true) || g.ops.all fun p => decide (o.id ≤ p.id) || !p.toRead x.lane x.reg

/-- Lands one pending scalar result of an operation. -/
def Gang.landScalar (g : Gang) (o : Op) (x : ScalarLanding) : Gang :=
  (g.setSreg x.reg x.val).mapOp o.id fun p => { p with sland := p.sland.erase x, slanded := true }

/-- The source register `r` of a lane as an operation holds it from issue on: a clause temporary is read at issue (R132), any other
register later (R131). -/
def Gang.port (g : Gang) (l r : Nat) : Port := { reg := r, val := if r < 120 then none else some (g.vreg l r) }

end Sys2Proof.Machine
end

