-- ==== Sys2Proof/Machine/Exchange.lean ====
section
/-!
DEFINITION. What releases the blocked threads of a gang: mask waits and membership waits (R142, R143, R152), with the exchanges that a gathered
membership mask executes: shuffles, reductions, scans and votes (R153-R155).
-/
namespace Sys2Proof.Machine

/-! ## The exchanges -/

/-- V[A] of a source lane, 0 outside the gang (R132, R152, R153). -/
def Gang.source (g : Gang) (a : Nat) (l : Int) : W32 := if 0 ≤ l ∧ l < g.width then g.peek l.toNat a else 0

/-- Adds neighbours pairwise, one level of the fixed tree of sum.f32 (R154). -/
def sumLevel (rm : Mode) : List W32 → BitVec 8 → List W32 × BitVec 8
  | p :: q :: r, fl =>
    let (x, f) := addF32 rm p q
    let (xs, fl') := sumLevel rm r (fl ||| f)
    (x :: xs, fl')
  | xs, fl => (xs, fl)

/-- One step of the doubling scan with distance `d`: all adds are simultaneous (R154). -/
def scanLevel (rm : Mode) (d : Nat) (xs : List W32) (fl : BitVec 8) : List W32 × BitVec 8 :=
  let rs := (List.range xs.length).map fun l =>
    if l < d then (xs.getD l 0, (0 : BitVec 8)) else addF32 rm (xs.getD l 0) (xs.getD (l - d) 0)
  (rs.map Prod.fst, rs.foldl (fun a r => a ||| r.2) fl)

/-- The result of xred per lane, with its flags (R154): `m` holds the member lanes. -/
def Gang.xred (g : Gang) (x a : Nat) (m : Lanes) : List W32 × BitVec 8 :=
  let ms := lanesOf m
  let val := fun l => g.vreg l a
  let all := fun (r : W32) (fl : BitVec 8) => (List.replicate g.width r, fl)
  let padded := (List.range g.width).map fun l => if m.getLsbD l then val l else 0
  match x with
  | 0 => all (ms.foldl (fun s l => s + val l) 0) 0
  | 1 => all (ms.foldl (fun s l => if (val l).slt s then val l else s) 0x7FFFFFFF) 0
  | 2 => all (ms.foldl (fun s l => if s.slt (val l) then val l else s) 0x80000000) 0
  | 3 =>
    let (xs, fl) := (List.range 6).foldl (fun p _ => if p.1.length ≤ 1 then p else sumLevel g.rm p.1 p.2) (padded, 0)
    all (xs.headD 0) fl
  | 4 => match ms with
    | [] => all 0x7FC00000 0
    | l :: r => let (v, fl) := r.foldl (fun p k => let (v, f) := minMaxF32 false p.1 (val k); (v, p.2 ||| f)) (val l, 0)
                let (v', f') := if r.isEmpty then minMaxF32 false v v else (v, 0)
                all v' (fl ||| f')
  | 5 => match ms with
    | [] => all 0x7FC00000 0
    | l :: r => let (v, fl) := r.foldl (fun p k => let (v, f) := minMaxF32 true p.1 (val k); (v, p.2 ||| f)) (val l, 0)
                let (v', f') := if r.isEmpty then minMaxF32 true v v else (v, 0)
                all v' (fl ||| f')
  | 6 => ((List.range g.width).map fun l => (ms.filter fun k => decide (k ≤ l)).foldl (fun s k => s + val k) 0, 0)
  | _ => [1, 2, 4, 8, 16, 32].foldl (fun p d => if g.width ≤ d then p else scanLevel g.rm d p.1 p.2) (padded, 0)

/-- The lanes of `m` whose V[A] is not 0 (R155). -/
def Gang.voters (g : Gang) (a : Nat) (m : Lanes) : Lanes := lanesWhere m fun l => decide (g.vreg l a ≠ 0)

/-- The vector registers that an exchange reads, each with its lane. -/
def Gang.sources (g : Gang) (f p : Lanes) : MemberKind → List (Nat × Nat)
  | .shfl b a _ => (lanesOf f).map (fun l => (l, b)) ++ (lanesOf f).map fun l => ((g.vreg l b).toNat, a)
  | .shflk down k a _ => ((lanesOf f).filter fun l => down || decide (k ≤ l)).map fun l => (if down then l + k else l - k, a)
  | .shflx index c a _ => (lanesOf f).map fun l => (if index then c else l ^^^ c, a)
  | .xred _ a _ => (lanesOf (p &&& f)).map fun l => (l, a)
  | .vote _ a _ => (lanesOf (p &&& f)).map fun l => (l, a)

/-- Whether an exchange and its membership mask `n` read nothing that is in error: one that does stays where it is (R357). -/
def Gang.exchangeSound (g : Gang) (f : Lanes) (n : Nat) (k : MemberKind) : Bool :=
  !g.badMasks.contains n && (g.sources f (g.mreg n) k).all fun e => g.sound e.1 e.2

/-- Executes an exchange for the gathered lanes `f` with membership mask `p`: sources are read before destinations are written. -/
def Gang.exchange (g : Gang) (f p : Lanes) : MemberKind → Gang
  | .shfl b a d => g.setVreg f d fun l => g.source a ((g.vreg l b).toNat : Int)
  | .shflk down k a d => g.setVreg f d fun l => g.source a (if down then (l : Int) + k else (l : Int) - k)
  | .shflx index c a d => g.setVreg f d fun l => g.source a (if index then (c : Int) else ((l ^^^ c : Nat) : Int))
  | .xred x a d =>
    let (rs, fl) := g.xred x a (p &&& f)
    (g.setVreg (p &&& f) d fun l => rs.getD l 0).merge fl
  | .vote x a d =>
    let t := g.voters a (p &&& f)
    match x with
    | 0 => g.setSreg d (if t = 0 then 0 else 1)
    | 1 => g.setSreg d (if t = p &&& f then 1 else 0)
    | 2 => g.setSreg d t
    | _ => g.setMask d t

/-! ## Releases -/

/-- Lets the lanes of `s` go on to the header position after their holding word (R142, R152). -/
def Gang.release (g : Gang) (s : Lanes) : Gang :=
  g.mapLanes s fun _ t =>
    { t with pc := (t.pc + 4) &&& 0x00FFFFFFFFFFFFFF, place := none, status := .ready, waited := 0, yielded := false, via := 0, clause := 0 }

/-- Lanes blocked at a `wait` on mask `m`. -/
def Gang.waiting (g : Gang) (m : Nat) : Lanes := g.lanesFor fun t => decide (t.status = .blocked (.wait m))

/-- Whether mask `m` releases its waiters: each member is blocked at a `wait` on it or has exited; a thread that left is no member (R142). -/
def Gang.waitMet (g : Gang) (m : Nat) : Bool :=
  (lanesOf (g.mreg m)).all fun l => decide ((g.thread l).status = .blocked (.wait m)) || decide ((g.thread l).status = .exited)

/-- Releases the waiters of mask `m` if its condition holds and it has any; a mask in error releases none (R357). -/
def Gang.stepWait (g : Gang) (m : Nat) : Option Gang :=
  if g.waiting m ≠ 0 ∧ g.waitMet m ∧ !g.badMasks.contains m then some (g.release (g.waiting m)) else none

/-- The lanes blocked at the membership word at `pc`. -/
def Gang.gathered (g : Gang) (pc : W64) (p : Nat) (k : MemberKind) : Lanes :=
  g.lanesFor fun t => decide (t.status = .blocked (.member p k)) && decide (t.pc = pc)

/-- Executes the membership word at which lane `l` is blocked, once every member has gathered (R152). -/
def Gang.stepMember (g : Gang) (l : Nat) : Option Gang :=
  match (g.thread l).status with
  | .blocked (.member p k) =>
    let f := g.gathered (g.thread l).pc p k
    if g.mreg p &&& ~~~f = 0 ∧ g.exchangeSound f p k then some ((g.exchange f (g.mreg p) k).release f) else none
  | _ => none

/-- Releases withheld lanes whose trapping lanes have all returned or exited (R149). -/
def Gang.stepWithheld (g : Gang) : Option Gang :=
  match g.withheld.find? fun w => decide (w.waiting = 0) with
  | some w => some { (g.mapLanes w.lanes fun _ t => if t.status = .withheld w.id then { t with status := .ready, waited := 0 } else t) with
      withheld := g.withheld.filter fun x => decide (x.id ≠ w.id) }
  | none => none

/-- One release of the gang, if a condition holds. Where one exit or mask write meets several at once, withheld lanes go first, then the mask waits by
mask number, then the exchanges by their lowest blocked lane (log 54). An exchange is an issue, so that it executes between clauses only: none falls between
two words of another sub-group's clause (R90, R126; log 54). -/
def Gang.settleOne (g : Gang) : Option Gang :=
  (g.stepWithheld).or (((List.range 12).findSome? g.stepWait).or (if g.flight.isNone then (List.range g.width).findSome? g.stepMember else none))

/-- Whether a thread is blocked at a mask wait or a membership word. -/
def Thread.gathers (t : Thread) : Bool := match t.status with
  | .blocked (.wait _) => true
  | .blocked (.member _ _) => true
  | _ => false

/-- Every release that the state of the gang allows, at the end of an issue, a trap return or an exit (R142, R149, R152). -/
def Gang.settle (g : Gang) : Gang :=
  if g.withheld ≠ [] ∨ g.threads.any Thread.gathers = true then exhaust Gang.settleOne 128 g else g

/-- The lanes of `s` exit: their mask bits fall (R143), and withheld groups no longer wait for them (R149). -/
def Gang.exitLanes (g : Gang) (s : Lanes) : Gang :=
  { (g.mapLanes s fun _ t => { t with status := .exited, cursors := [], clause := 0, delivery := t.delivery.map fun d => { d with unreturned := false } }) with
    masks := (List.range 12).foldl (fun ms m => put ms m (look ms m &&& ~~~s)) g.masks
    withheld := g.withheld.map fun w => { w with waiting := w.waiting &&& ~~~s, lanes := w.lanes &&& ~~~s } }

end Sys2Proof.Machine
end

