-- ==== Sys2Proof/Syntax.lean ====
section
/-!
DEFINITION. The instructions and events of the VG-7: one constructor per row of the opcode table. An encoded word
carries its fields as the table names them, from the most significant bit down; an event carries the parties it
concerns: a gang g and an operation o of it (both named by the model's own numbers), a die, a CU, and so on.
-/
namespace Sys2Proof

/-- An instruction word (R43-R56) or a step of an engine, of the scheduler or of the outside world. -/
inductive Instr where
  /-- A ready sub-group starts a clause at a header: it clears k0-k7, latches the slot flags and issues the N body words (R126). -/
  | clauseHeader (b : BitVec 4) (a : BitVec 4) (w : BitVec 12) (n : BitVec 5)
  /-- A body word stalled in place for a full flag, a full queue, a translation flip or room proceeds when the condition clears (R127). -/
  | stalledWordResume (g : Nat)
  /-- 16-bit move of a register or imm5 into vD (R47). -/
  | movShort (i : BitVec 1) (b : BitVec 5) (d : BitVec 5)
  /-- 16-bit add.i32 with vD as first source (R47). -/
  | addI32Short (i : BitVec 1) (b : BitVec 5) (d : BitVec 5)
  /-- 16-bit sub.i32 with vD as first source (R47). -/
  | subI32Short (i : BitVec 1) (b : BitVec 5) (d : BitVec 5)
  /-- 16-bit mul.i32, low 32 bits (R47). -/
  | mulI32Short (i : BitVec 1) (b : BitVec 5) (d : BitVec 5)
  /-- 16-bit bitwise and (R47). -/
  | andShort (i : BitVec 1) (b : BitVec 5) (d : BitVec 5)
  /-- 16-bit bitwise or (R47). -/
  | orShort (i : BitVec 1) (b : BitVec 5) (d : BitVec 5)
  /-- 16-bit bitwise xor (R47). -/
  | xorShort (i : BitVec 1) (b : BitVec 5) (d : BitVec 5)
  /-- 16-bit shift left by b AND 31 (R47). -/
  | shlShort (i : BitVec 1) (b : BitVec 5) (d : BitVec 5)
  /-- 16-bit logical shift right (R47). -/
  | shrShort (i : BitVec 1) (b : BitVec 5) (d : BitVec 5)
  /-- 16-bit arithmetic shift right (R47). -/
  | sarShort (i : BitVec 1) (b : BitVec 5) (d : BitVec 5)
  /-- 16-bit FP32 add rounding by sr.fmode (R47). -/
  | addF32Short (i : BitVec 1) (b : BitVec 5) (d : BitVec 5)
  /-- 16-bit FP32 subtract (R47). -/
  | subF32Short (i : BitVec 1) (b : BitVec 5) (d : BitVec 5)
  /-- 16-bit FP32 multiply (R47). -/
  | mulF32Short (i : BitVec 1) (b : BitVec 5) (d : BitVec 5)
  /-- 16-bit FP32 minimum (R47). -/
  | minF32Short (i : BitVec 1) (b : BitVec 5) (d : BitVec 5)
  /-- 16-bit FP32 maximum (R47). -/
  | maxF32Short (i : BitVec 1) (b : BitVec 5) (d : BitVec 5)
  /-- 16-bit no-operation that counts as one word in N (R48). -/
  | nop
  /-- Wrapped 32-bit add of two vector registers (R95). -/
  | addI32 (b : BitVec 7) (a : BitVec 7) (d : BitVec 7)
  /-- Wrapped 32-bit subtract (R95). -/
  | subI32 (b : BitVec 7) (a : BitVec 7) (d : BitVec 7)
  /-- Low 32 bits of the product (R95). -/
  | mulI32 (b : BitVec 7) (a : BitVec 7) (d : BitVec 7)
  /-- High 32 bits of the signed product (R95). -/
  | mulhiI32 (b : BitVec 7) (a : BitVec 7) (d : BitVec 7)
  /-- High 32 bits of the unsigned product (R95). -/
  | mulhiN32 (b : BitVec 7) (a : BitVec 7) (d : BitVec 7)
  /-- Low 32 bits of a·b + d (R95). -/
  | madI32 (b : BitVec 7) (a : BitVec 7) (d : BitVec 7)
  /-- Signed minimum (R95). -/
  | minI32 (b : BitVec 7) (a : BitVec 7) (d : BitVec 7)
  /-- Signed maximum (R95). -/
  | maxI32 (b : BitVec 7) (a : BitVec 7) (d : BitVec 7)
  /-- Unsigned minimum (R95). -/
  | minN32 (b : BitVec 7) (a : BitVec 7) (d : BitVec 7)
  /-- Unsigned maximum (R95). -/
  | maxN32 (b : BitVec 7) (a : BitVec 7) (d : BitVec 7)
  /-- Bitwise and of two registers (R95). -/
  | and (b : BitVec 7) (a : BitVec 7) (d : BitVec 7)
  /-- Bitwise or of two registers (R95). -/
  | or (b : BitVec 7) (a : BitVec 7) (d : BitVec 7)
  /-- Bitwise xor of two registers (R95). -/
  | xor (b : BitVec 7) (a : BitVec 7) (d : BitVec 7)
  /-- Shift left by b AND 31 (R95). -/
  | shl (b : BitVec 7) (a : BitVec 7) (d : BitVec 7)
  /-- Logical shift right by b AND 31 (R95). -/
  | shr (b : BitVec 7) (a : BitVec 7) (d : BitVec 7)
  /-- Arithmetic shift right by b AND 31 (R95). -/
  | sar (b : BitVec 7) (a : BitVec 7) (d : BitVec 7)
  /-- Add a sign-extended imm11 (R97). -/
  | addi (i : BitVec 11) (a : BitVec 7) (d : BitVec 7)
  /-- Multiply by a sign-extended imm11 (R97). -/
  | muli (i : BitVec 11) (a : BitVec 7) (d : BitVec 7)
  /-- And with a sign-extended imm11 (R97). -/
  | andi (i : BitVec 11) (a : BitVec 7) (d : BitVec 7)
  /-- Or with a sign-extended imm11 (R97). -/
  | ori (i : BitVec 11) (a : BitVec 7) (d : BitVec 7)
  /-- Xor with a sign-extended imm11 (R97). -/
  | xori (i : BitVec 11) (a : BitVec 7) (d : BitVec 7)
  /-- Shift left by an immediate amount (R98). -/
  | shiShl (n : BitVec 5) (a : BitVec 7) (d : BitVec 7)
  /-- Logical shift right by an immediate amount (R98). -/
  | shiShr (n : BitVec 5) (a : BitVec 7) (d : BitVec 7)
  /-- Arithmetic shift right by an immediate amount (R98). -/
  | shiSar (n : BitVec 5) (a : BitVec 7) (d : BitVec 7)
  /-- Rotate left by an immediate amount (R98). -/
  | rol (n : BitVec 5) (a : BitVec 7) (d : BitVec 7)
  /-- Bitwise complement (R99). -/
  | not (a : BitVec 7) (d : BitVec 7)
  /-- Wrapped negation (R99). -/
  | negI32 (a : BitVec 7) (d : BitVec 7)
  /-- Absolute value in 32 bits (R99). -/
  | absI32 (a : BitVec 7) (d : BitVec 7)
  /-- Count of 1 bits (R99). -/
  | popc (a : BitVec 7) (d : BitVec 7)
  /-- Count of leading zeros (R99). -/
  | clz (a : BitVec 7) (d : BitVec 7)
  /-- Count of trailing zeros (R99). -/
  | ctz (a : BitVec 7) (d : BitVec 7)
  /-- Bit reversal (R99). -/
  | brev (a : BitVec 7) (d : BitVec 7)
  /-- Sign-extend the low byte (R99). -/
  | sxt8 (a : BitVec 7) (d : BitVec 7)
  /-- Sign-extend the low half (R99). -/
  | sxt16 (a : BitVec 7) (d : BitVec 7)
  /-- Zero-extend the low byte (R99). -/
  | zxt8 (a : BitVec 7) (d : BitVec 7)
  /-- Zero-extend the low half (R99). -/
  | zxt16 (a : BitVec 7) (d : BitVec 7)
  /-- Extract a zero-extended bit field (R100). -/
  | bfeN (w : BitVec 5) (p : BitVec 5) (a : BitVec 7) (d : BitVec 7)
  /-- Extract a sign-extended bit field (R100). -/
  | bfeI (w : BitVec 5) (p : BitVec 5) (a : BitVec 7) (d : BitVec 7)
  /-- Insert a bit field into the destination (R101). -/
  | bfi (w : BitVec 5) (p : BitVec 5) (a : BitVec 7) (d : BitVec 7)
  /-- Integer compare equal into mask bits of the issuing lanes (R102). -/
  | icmpEq (b : BitVec 7) (a : BitVec 7) (m : BitVec 4)
  /-- Integer compare not equal into a mask (R102). -/
  | icmpNe (b : BitVec 7) (a : BitVec 7) (m : BitVec 4)
  /-- Signed less-than into a mask (R102). -/
  | icmpLtI (b : BitVec 7) (a : BitVec 7) (m : BitVec 4)
  /-- Signed less-or-equal into a mask (R102). -/
  | icmpLeI (b : BitVec 7) (a : BitVec 7) (m : BitVec 4)
  /-- Signed greater-than into a mask (R102). -/
  | icmpGtI (b : BitVec 7) (a : BitVec 7) (m : BitVec 4)
  /-- Signed greater-or-equal into a mask (R102). -/
  | icmpGeI (b : BitVec 7) (a : BitVec 7) (m : BitVec 4)
  /-- Unsigned less-than into a mask (R102). -/
  | icmpLtN (b : BitVec 7) (a : BitVec 7) (m : BitVec 4)
  /-- Unsigned less-or-equal into a mask (R102). -/
  | icmpLeN (b : BitVec 7) (a : BitVec 7) (m : BitVec 4)
  /-- Unsigned greater-than into a mask (R102). -/
  | icmpGtN (b : BitVec 7) (a : BitVec 7) (m : BitVec 4)
  /-- Unsigned greater-or-equal into a mask (R102). -/
  | icmpGeN (b : BitVec 7) (a : BitVec 7) (m : BitVec 4)
  /-- Select vA or vB per lane by a mask bit (R103). -/
  | sel (m : BitVec 4) (b : BitVec 7) (a : BitVec 7) (d : BitVec 7)
  /-- Load a sign-extended imm18 (R104). -/
  | li (i : BitVec 18) (d : BitVec 7)
  /-- Load imm18 into bits 31:14, keeping the low bits (R104). -/
  | liu (i : BitVec 18) (d : BitVec 7)
  /-- FP32 add rounded once by sr.fmode (R113). -/
  | addF32 (b : BitVec 7) (a : BitVec 7) (d : BitVec 7)
  /-- FP32 subtract (R113). -/
  | subF32 (b : BitVec 7) (a : BitVec 7) (d : BitVec 7)
  /-- FP32 multiply (R113). -/
  | mulF32 (b : BitVec 7) (a : BitVec 7) (d : BitVec 7)
  /-- Fused a·b + d with one rounding (R113). -/
  | fmaF32 (b : BitVec 7) (a : BitVec 7) (d : BitVec 7)
  /-- Fused a·b − d (R113). -/
  | fmsF32 (b : BitVec 7) (a : BitVec 7) (d : BitVec 7)
  /-- Fused −(a·b) + d (R113). -/
  | fnmaF32 (b : BitVec 7) (a : BitVec 7) (d : BitVec 7)
  /-- FP32 minimum with NaN and signed-zero rules (R114). -/
  | minF32 (b : BitVec 7) (a : BitVec 7) (d : BitVec 7)
  /-- FP32 maximum (R114). -/
  | maxF32 (b : BitVec 7) (a : BitVec 7) (d : BitVec 7)
  /-- Magnitude of a with the sign of b (R114). -/
  | copysignF32 (b : BitVec 7) (a : BitVec 7) (d : BitVec 7)
  /-- a times 2 to the integer b, rounded (R114). -/
  | scaleF32 (b : BitVec 7) (a : BitVec 7) (d : BitVec 7)
  /-- Unbiased exponent of a as an f32 (R114). -/
  | getexpF32 (a : BitVec 7) (d : BitVec 7)
  /-- FP32 ordered equal into a mask (R115). -/
  | fcmpEq (b : BitVec 7) (a : BitVec 7) (m : BitVec 4)
  /-- FP32 unordered or not equal into a mask (R115). -/
  | fcmpNe (b : BitVec 7) (a : BitVec 7) (m : BitVec 4)
  /-- FP32 ordered less-than (R115). -/
  | fcmpLt (b : BitVec 7) (a : BitVec 7) (m : BitVec 4)
  /-- FP32 ordered less-or-equal (R115). -/
  | fcmpLe (b : BitVec 7) (a : BitVec 7) (m : BitVec 4)
  /-- FP32 ordered greater-than (R115). -/
  | fcmpGt (b : BitVec 7) (a : BitVec 7) (m : BitVec 4)
  /-- FP32 ordered greater-or-equal (R115). -/
  | fcmpGe (b : BitVec 7) (a : BitVec 7) (m : BitVec 4)
  /-- True when either operand is NaN (R115). -/
  | fcmpUno (b : BitVec 7) (a : BitVec 7) (m : BitVec 4)
  /-- True when neither operand is NaN (R115). -/
  | fcmpOrd (b : BitVec 7) (a : BitVec 7) (m : BitVec 4)
  /-- FP32 absolute value (R118). -/
  | absF32 (a : BitVec 7) (d : BitVec 7)
  /-- FP32 negation (R118). -/
  | negF32 (a : BitVec 7) (d : BitVec 7)
  /-- Faithful reciprocal (R117). -/
  | rcpF32 (a : BitVec 7) (d : BitVec 7)
  /-- Faithful reciprocal square root (R117). -/
  | rsqF32 (a : BitVec 7) (d : BitVec 7)
  /-- Correctly rounded square root (R118). -/
  | sqrtF32 (a : BitVec 7) (d : BitVec 7)
  /-- Faithful 2 to the a (R117). -/
  | exp2F32 (a : BitVec 7) (d : BitVec 7)
  /-- Faithful base-2 logarithm (R117). -/
  | log2F32 (a : BitVec 7) (d : BitVec 7)
  /-- Faithful sine of a turns (R117). -/
  | sinF32 (a : BitVec 7) (d : BitVec 7)
  /-- Faithful cosine of a turns (R117). -/
  | cosF32 (a : BitVec 7) (d : BitVec 7)
  /-- Largest integer not above a (R118). -/
  | floorF32 (a : BitVec 7) (d : BitVec 7)
  /-- Smallest integer not below a (R118). -/
  | ceilF32 (a : BitVec 7) (d : BitVec 7)
  /-- Integer part toward zero (R118). -/
  | truncF32 (a : BitVec 7) (d : BitVec 7)
  /-- Round to integer by sr.fmode (R118). -/
  | rintF32 (a : BitVec 7) (d : BitVec 7)
  /-- a minus trunc(a) (R118). -/
  | fracF32 (a : BitVec 7) (d : BitVec 7)
  /-- One-hot class mask of a (R119). -/
  | classF32 (a : BitVec 7) (d : BitVec 7)
  /-- Packed f16 add (R120). -/
  | addF16x2 (b : BitVec 7) (a : BitVec 7) (d : BitVec 7)
  /-- Packed f16 multiply (R120). -/
  | mulF16x2 (b : BitVec 7) (a : BitVec 7) (d : BitVec 7)
  /-- Packed f16 fused multiply-add (R120). -/
  | fmaF16x2 (b : BitVec 7) (a : BitVec 7) (d : BitVec 7)
  /-- Packed f16 minimum (R120). -/
  | minF16x2 (b : BitVec 7) (a : BitVec 7) (d : BitVec 7)
  /-- Packed f16 maximum (R120). -/
  | maxF16x2 (b : BitVec 7) (a : BitVec 7) (d : BitVec 7)
  /-- Packed bf16 add (R120). -/
  | addBf16x2 (b : BitVec 7) (a : BitVec 7) (d : BitVec 7)
  /-- Packed bf16 multiply (R120). -/
  | mulBf16x2 (b : BitVec 7) (a : BitVec 7) (d : BitVec 7)
  /-- Packed bf16 fused multiply-add (R120). -/
  | fmaBf16x2 (b : BitVec 7) (a : BitVec 7) (d : BitVec 7)
  /-- Packed bf16 minimum (R120). -/
  | minBf16x2 (b : BitVec 7) (a : BitVec 7) (d : BitVec 7)
  /-- Packed bf16 maximum (R120). -/
  | maxBf16x2 (b : BitVec 7) (a : BitVec 7) (d : BitVec 7)
  /-- Accumulate a signed 4-element i8 dot product (R121). -/
  | dot4I8 (b : BitVec 7) (a : BitVec 7) (d : BitVec 7)
  /-- Accumulate an unsigned 4-element n8 dot product (R121). -/
  | dot4N8 (b : BitVec 7) (a : BitVec 7) (d : BitVec 7)
  /-- Accumulate an f16 pair dot product with one rounding (R121). -/
  | dot2F16 (b : BitVec 7) (a : BitVec 7) (d : BitVec 7)
  /-- Accumulate a bf16 pair dot product with one rounding (R121). -/
  | dot2Bf16 (b : BitVec 7) (a : BitVec 7) (d : BitVec 7)
  /-- Accumulate an 8-element i4 dot product (R121). -/
  | dot8I4 (b : BitVec 7) (a : BitVec 7) (d : BitVec 7)
  /-- Convert one value per lane between formats by Convert (R123). -/
  | cvt (s : BitVec 1) (r : BitVec 2) (u : BitVec 1) (c : BitVec 3) (t : BitVec 4) (a : BitVec 7) (d : BitVec 7)
  /-- Convert an f32 and write one byte of the destination (R124). -/
  | cvtpByte (s : BitVec 1) (r : BitVec 2) (t : BitVec 2) (h : BitVec 1) (l : BitVec 1) (a : BitVec 7) (d : BitVec 7)
  /-- Convert an f32 to f16 into one half of the destination (R124). -/
  | cvtpF16 (s : BitVec 1) (r : BitVec 2) (h : BitVec 1) (a : BitVec 7) (d : BitVec 7)
  /-- Convert an f32 to bf16 into one half of the destination (R124). -/
  | cvtpBf16 (s : BitVec 1) (r : BitVec 2) (h : BitVec 1) (a : BitVec 7) (d : BitVec 7)
  /-- Decode one SB4 element to an exact f32 (R125). -/
  | sbdecSb4 (b : BitVec 7) (a : BitVec 7) (d : BitVec 7)
  /-- Decode one SB8 element to an exact f32 (R125). -/
  | sbdecSb8 (b : BitVec 7) (a : BitVec 7) (d : BitVec 7)
  /-- Shuffle from a lane index vector once the membership mask is gathered (R153). -/
  | shfl (p : BitVec 4) (b : BitVec 7) (a : BitVec 7) (d : BitVec 7)
  /-- Shuffle from lane L − k (R153). -/
  | shflkUp (p : BitVec 4) (k : BitVec 6) (a : BitVec 7) (d : BitVec 7)
  /-- Shuffle from lane L + k (R153). -/
  | shflkDn (p : BitVec 4) (k : BitVec 6) (a : BitVec 7) (d : BitVec 7)
  /-- Shuffle from lane L XOR c (R153). -/
  | shflxXor (p : BitVec 4) (c : BitVec 6) (a : BitVec 7) (d : BitVec 7)
  /-- Broadcast from lane c (R153). -/
  | shflxIdx (p : BitVec 4) (c : BitVec 6) (a : BitVec 7) (d : BitVec 7)
  /-- Integer sum over member lanes (R154). -/
  | xredSumI32 (p : BitVec 4) (a : BitVec 7) (d : BitVec 7)
  /-- Signed minimum over member lanes (R154). -/
  | xredMinI32 (p : BitVec 4) (a : BitVec 7) (d : BitVec 7)
  /-- Signed maximum over member lanes (R154). -/
  | xredMaxI32 (p : BitVec 4) (a : BitVec 7) (d : BitVec 7)
  /-- FP32 sum over member lanes by a fixed tree (R154). -/
  | xredSumF32 (p : BitVec 4) (a : BitVec 7) (d : BitVec 7)
  /-- FP32 minimum over member lanes (R154). -/
  | xredMinF32 (p : BitVec 4) (a : BitVec 7) (d : BitVec 7)
  /-- FP32 maximum over member lanes (R154). -/
  | xredMaxF32 (p : BitVec 4) (a : BitVec 7) (d : BitVec 7)
  /-- Inclusive integer scan over member lanes (R154). -/
  | xredScanI32 (p : BitVec 4) (a : BitVec 7) (d : BitVec 7)
  /-- Inclusive FP32 scan by doubling (R154). -/
  | xredScanF32 (p : BitVec 4) (a : BitVec 7) (d : BitVec 7)
  /-- Scalar 1 if any member predicate is true (R155). -/
  | voteAny (p : BitVec 4) (a : BitVec 7) (d : BitVec 7)
  /-- Scalar 1 if every member predicate is true (R155). -/
  | voteAll (p : BitVec 4) (a : BitVec 7) (d : BitVec 7)
  /-- Scalar ballot of true member lanes (R155). -/
  | voteBallot (p : BitVec 4) (a : BitVec 7) (d : BitVec 7)
  /-- Ballot of true member lanes written whole into a mask (R155). -/
  | voteBallotMask (p : BitVec 4) (a : BitVec 7) (m : BitVec 4)
  /-- Unconditional PC-relative branch of all issuing lanes (R145). -/
  | bra (o : BitVec 18) (m : BitVec 4)
  /-- Branch the whole sub-group if any mask bit of it is set (R145). -/
  | braAny (o : BitVec 18) (m : BitVec 4)
  /-- Branch the whole sub-group if all its mask bits are set (R145). -/
  | braAll (o : BitVec 18) (m : BitVec 4)
  /-- Branch the whole sub-group if none of its mask bits is set (R145). -/
  | braNone (o : BitVec 18) (m : BitVec 4)
  /-- Lanes with the mask bit set branch; the others fall through (R145). -/
  | braSet (o : BitVec 18) (m : BitVec 4)
  /-- Lanes with the mask bit clear branch; the others fall through (R145). -/
  | braClr (o : BitVec 18) (m : BitVec 4)
  /-- PC-relative jump of all issuing lanes (R146). -/
  | jmp (o : BitVec 18)
  /-- PC-relative call that sets s63 to the return header position (R146). -/
  | call (o : BitVec 18)
  /-- Jump to the address in a scalar (R147). -/
  | jmpS (a : BitVec 7)
  /-- Call the address in a scalar, setting s63 (R147). -/
  | callS (a : BitVec 7)
  /-- Jump to s63 (R147). -/
  | ret
  /-- Per-lane indirect jump through a vector pair, splitting by target (R147). -/
  | jmpV (a : BitVec 7)
  /-- Per-lane jump through a table of offsets, with range, window and alignment checks (R148). -/
  | jmpt (s : BitVec 6) (a : BitVec 7)
  /-- Set the issuing lanes' bits in a mask (R142). -/
  | join (m : BitVec 4)
  /-- Clear the issuing lanes' bits in a mask (R142). -/
  | leave (m : BitVec 4)
  /-- Block until every member of the mask is waiting, has left or has exited (R142). -/
  | wait (m : BitVec 4)
  /-- Write a mask from a scalar, limited to the gang width (R144). -/
  | mset (a : BitVec 7) (m : BitVec 4)
  /-- Copy a mask into a scalar (R144). -/
  | mget (a : BitVec 4) (d : BitVec 7)
  /-- And of two masks (R144). -/
  | mand (b : BitVec 4) (a : BitVec 4) (d : BitVec 4)
  /-- Or of two masks (R144). -/
  | mor (b : BitVec 4) (a : BitVec 4) (d : BitVec 4)
  /-- Xor of two masks (R144). -/
  | mxor (b : BitVec 4) (a : BitVec 4) (d : BitVec 4)
  /-- Complement of a mask within the gang width (R144). -/
  | mnot (a : BitVec 4) (d : BitVec 4)
  /-- Copy a mask (R144). -/
  | mcpy (a : BitVec 4) (d : BitVec 4)
  /-- Population count of a mask into a scalar (R144). -/
  | mpop (a : BitVec 4) (d : BitVec 7)
  /-- Lowest set lane of a mask, or 64 (R144). -/
  | mfirst (a : BitVec 4) (d : BitVec 7)
  /-- Mask of lanes that have not exited (R144). -/
  | mlive (d : BitVec 4)
  /-- Mask of the issuing sub-group's lanes (R144). -/
  | msub (d : BitVec 4)
  /-- Issuing lanes exit, clearing their mask bits and closing their cursors (R151). -/
  | exit
  /-- Move to the next header position and defer to other ready sub-groups (R151). -/
  | yield
  /-- 32-bit no-operation (R151). -/
  | nop32
  /-- 64-bit scalar add (R105). -/
  | sadd (b : BitVec 7) (a : BitVec 7) (d : BitVec 7)
  /-- 64-bit scalar subtract (R105). -/
  | ssub (b : BitVec 7) (a : BitVec 7) (d : BitVec 7)
  /-- 64-bit scalar multiply, low bits (R105). -/
  | smul (b : BitVec 7) (a : BitVec 7) (d : BitVec 7)
  /-- High 64 bits of the signed scalar product (R105). -/
  | smulhiI64 (b : BitVec 7) (a : BitVec 7) (d : BitVec 7)
  /-- Scalar and (R105). -/
  | sand (b : BitVec 7) (a : BitVec 7) (d : BitVec 7)
  /-- Scalar or (R105). -/
  | sor (b : BitVec 7) (a : BitVec 7) (d : BitVec 7)
  /-- Scalar xor (R105). -/
  | sxor (b : BitVec 7) (a : BitVec 7) (d : BitVec 7)
  /-- Scalar shift left by b AND 63 (R105). -/
  | sshl (b : BitVec 7) (a : BitVec 7) (d : BitVec 7)
  /-- Scalar logical shift right (R105). -/
  | sshr (b : BitVec 7) (a : BitVec 7) (d : BitVec 7)
  /-- Scalar arithmetic shift right (R105). -/
  | ssar (b : BitVec 7) (a : BitVec 7) (d : BitVec 7)
  /-- Signed scalar minimum (R105). -/
  | sminI64 (b : BitVec 7) (a : BitVec 7) (d : BitVec 7)
  /-- Signed scalar maximum (R105). -/
  | smaxI64 (b : BitVec 7) (a : BitVec 7) (d : BitVec 7)
  /-- Unsigned scalar minimum (R105). -/
  | sminN64 (b : BitVec 7) (a : BitVec 7) (d : BitVec 7)
  /-- Unsigned scalar maximum (R105). -/
  | smaxN64 (b : BitVec 7) (a : BitVec 7) (d : BitVec 7)
  /-- Unsigned scalar divide; all ones on divide by zero (R105). -/
  | sdivN64 (b : BitVec 7) (a : BitVec 7) (d : BitVec 7)
  /-- Unsigned scalar remainder; a on divide by zero (R105). -/
  | sremN64 (b : BitVec 7) (a : BitVec 7) (d : BitVec 7)
  /-- Scalar add of a sign-extended imm11 (R106). -/
  | saddi (i : BitVec 11) (a : BitVec 7) (d : BitVec 7)
  /-- Load a sign-extended imm18 into a scalar (R107). -/
  | sli (i : BitVec 18) (s : BitVec 6)
  /-- Load scalar bits 31:14 and sign-fill the top (R107). -/
  | sliu (i : BitVec 18) (s : BitVec 6)
  /-- Load scalar bits 45:32 and sign-fill the top (R107). -/
  | slih (i : BitVec 14) (s : BitVec 6)
  /-- Load scalar bits 63:46 (R107). -/
  | slihu (i : BitVec 18) (s : BitVec 6)
  /-- Scalar compare equal, 1 or 0 (R108). -/
  | scmpEq (b : BitVec 7) (a : BitVec 7) (d : BitVec 7)
  /-- Scalar compare not equal (R108). -/
  | scmpNe (b : BitVec 7) (a : BitVec 7) (d : BitVec 7)
  /-- Scalar signed less-than (R108). -/
  | scmpLtI (b : BitVec 7) (a : BitVec 7) (d : BitVec 7)
  /-- Scalar signed less-or-equal (R108). -/
  | scmpLeI (b : BitVec 7) (a : BitVec 7) (d : BitVec 7)
  /-- Scalar signed greater-than (R108). -/
  | scmpGtI (b : BitVec 7) (a : BitVec 7) (d : BitVec 7)
  /-- Scalar signed greater-or-equal (R108). -/
  | scmpGeI (b : BitVec 7) (a : BitVec 7) (d : BitVec 7)
  /-- Scalar unsigned less-than (R108). -/
  | scmpLtN (b : BitVec 7) (a : BitVec 7) (d : BitVec 7)
  /-- Scalar unsigned less-or-equal (R108). -/
  | scmpLeN (b : BitVec 7) (a : BitVec 7) (d : BitVec 7)
  /-- Scalar unsigned greater-than (R108). -/
  | scmpGtN (b : BitVec 7) (a : BitVec 7) (d : BitVec 7)
  /-- Scalar unsigned greater-or-equal (R108). -/
  | scmpGeN (b : BitVec 7) (a : BitVec 7) (d : BitVec 7)
  /-- Broadcast a scalar's low word to the issuing lanes (R109). -/
  | vbc (b : BitVec 7) (d : BitVec 7)
  /-- Broadcast a scalar's high word to the issuing lanes (R109). -/
  | vbch (b : BitVec 7) (d : BitVec 7)
  /-- Read one lane's register into a scalar (R109). -/
  | vget (n : BitVec 6) (a : BitVec 7) (d : BitVec 7)
  /-- Read a special register's low word into each issuing lane (R93). -/
  | vsr (a : BitVec 7) (d : BitVec 7)
  /-- Read a special register into a scalar (R93). -/
  | ssr (a : BitVec 7) (d : BitVec 7)
  /-- Write a read-write special register from a scalar, with reserved-bit, tvec and privilege checks (R94). -/
  | wsr (a : BitVec 7) (d : BitVec 7)
  /-- Load from global memory per lane, with address checks and page walk (R169). -/
  | ldg (l : BitVec 1) (t : BitVec 3) (e : BitVec 1) (s : BitVec 6) (a : BitVec 7) (d : BitVec 7)
  /-- Store to global memory per lane (R169). -/
  | stg (l : BitVec 1) (t : BitVec 3) (e : BitVec 1) (s : BitVec 6) (a : BitVec 7) (d : BitVec 7)
  /-- Load from the team's scratch (R169). -/
  | lds (l : BitVec 1) (t : BitVec 3) (e : BitVec 1) (s : BitVec 6) (a : BitVec 7) (d : BitVec 7)
  /-- Store to the team's scratch (R169). -/
  | sts (l : BitVec 1) (t : BitVec 3) (e : BitVec 1) (s : BitVec 6) (a : BitVec 7) (d : BitVec 7)
  /-- Load from common memory (R169). -/
  | ldc (l : BitVec 1) (t : BitVec 3) (e : BitVec 1) (s : BitVec 6) (a : BitVec 7) (d : BitVec 7)
  /-- Store to common memory (R169). -/
  | stc (l : BitVec 1) (t : BitVec 3) (e : BitVec 1) (s : BitVec 6) (a : BitVec 7) (d : BitVec 7)
  /-- Load through a generic address (R169). -/
  | ldx (l : BitVec 1) (t : BitVec 3) (e : BitVec 1) (s : BitVec 6) (a : BitVec 7) (d : BitVec 7)
  /-- Store through a generic address (R169). -/
  | stx (l : BitVec 1) (t : BitVec 3) (e : BitVec 1) (s : BitVec 6) (a : BitVec 7) (d : BitVec 7)
  /-- A load, store or acquire-release finishes writing or reading its registers and decrements its flag (R171). -/
  | memoryOpComplete (g : Nat) (o : Nat)
  /-- 32-bit load-acquire at a scope through a generic address (R192). -/
  | ldAcq (c : BitVec 3) (e : BitVec 1) (s : BitVec 6) (a : BitVec 7) (d : BitVec 7)
  /-- 32-bit store-release at a scope through a generic address (R192). -/
  | stRel (c : BitVec 3) (e : BitVec 1) (s : BitVec 6) (a : BitVec 7) (d : BitVec 7)
  /-- Acquire-release fence: stall until earlier accesses are performed, with cache actions by scope (R193). -/
  | fence (s : BitVec 3)
  /-- Acquire fence (R193). -/
  | fenceAcq (s : BitVec 3)
  /-- Release fence (R193). -/
  | fenceRel (s : BitVec 3)
  /-- Atomic integer add returning the old value (R203). -/
  | atomAddI32 (e : BitVec 1) (s : BitVec 6) (a : BitVec 7) (d : BitVec 7)
  /-- Atomic signed minimum (R203). -/
  | atomMinI32 (e : BitVec 1) (s : BitVec 6) (a : BitVec 7) (d : BitVec 7)
  /-- Atomic signed maximum (R203). -/
  | atomMaxI32 (e : BitVec 1) (s : BitVec 6) (a : BitVec 7) (d : BitVec 7)
  /-- Atomic unsigned minimum (R203). -/
  | atomMinN32 (e : BitVec 1) (s : BitVec 6) (a : BitVec 7) (d : BitVec 7)
  /-- Atomic unsigned maximum (R203). -/
  | atomMaxN32 (e : BitVec 1) (s : BitVec 6) (a : BitVec 7) (d : BitVec 7)
  /-- Atomic and (R203). -/
  | atomAnd (e : BitVec 1) (s : BitVec 6) (a : BitVec 7) (d : BitVec 7)
  /-- Atomic or (R203). -/
  | atomOr (e : BitVec 1) (s : BitVec 6) (a : BitVec 7) (d : BitVec 7)
  /-- Atomic xor (R203). -/
  | atomXor (e : BitVec 1) (s : BitVec 6) (a : BitVec 7) (d : BitVec 7)
  /-- Atomic exchange (R203). -/
  | atomXchg (e : BitVec 1) (s : BitVec 6) (a : BitVec 7) (d : BitVec 7)
  /-- 32-bit compare-and-swap on bit patterns (R203). -/
  | atomCas32 (e : BitVec 1) (s : BitVec 6) (a : BitVec 7) (d : BitVec 7)
  /-- Atomic FP32 add rounded by AtomF (R203). -/
  | atomAddF32 (e : BitVec 1) (s : BitVec 6) (a : BitVec 7) (d : BitVec 7)
  /-- Atomic FP32 minimum (R203). -/
  | atomMinF32 (e : BitVec 1) (s : BitVec 6) (a : BitVec 7) (d : BitVec 7)
  /-- Atomic FP32 maximum (R203). -/
  | atomMaxF32 (e : BitVec 1) (s : BitVec 6) (a : BitVec 7) (d : BitVec 7)
  /-- 64-bit compare-and-swap (R203). -/
  | atomCas64 (e : BitVec 1) (s : BitVec 6) (a : BitVec 7) (d : BitVec 7)
  /-- Each lane's atomic is performed at the home in ascending lane order and the returned values complete the instruction (R205). -/
  | atomicPerform (g : Nat) (o : Nat)
  /-- Non-returning integer add reduction (R203). -/
  | redAddI32 (e : BitVec 1) (s : BitVec 6) (a : BitVec 7) (d : BitVec 7)
  /-- Signed minimum reduction (R203). -/
  | redMinI32 (e : BitVec 1) (s : BitVec 6) (a : BitVec 7) (d : BitVec 7)
  /-- Signed maximum reduction (R203). -/
  | redMaxI32 (e : BitVec 1) (s : BitVec 6) (a : BitVec 7) (d : BitVec 7)
  /-- Unsigned minimum reduction (R203). -/
  | redMinN32 (e : BitVec 1) (s : BitVec 6) (a : BitVec 7) (d : BitVec 7)
  /-- Unsigned maximum reduction (R203). -/
  | redMaxN32 (e : BitVec 1) (s : BitVec 6) (a : BitVec 7) (d : BitVec 7)
  /-- And reduction (R203). -/
  | redAnd (e : BitVec 1) (s : BitVec 6) (a : BitVec 7) (d : BitVec 7)
  /-- Or reduction (R203). -/
  | redOr (e : BitVec 1) (s : BitVec 6) (a : BitVec 7) (d : BitVec 7)
  /-- Xor reduction (R203). -/
  | redXor (e : BitVec 1) (s : BitVec 6) (a : BitVec 7) (d : BitVec 7)
  /-- FP32 add reduction (R203). -/
  | redAddF32 (e : BitVec 1) (s : BitVec 6) (a : BitVec 7) (d : BitVec 7)
  /-- FP32 minimum reduction (R203). -/
  | redMinF32 (e : BitVec 1) (s : BitVec 6) (a : BitVec 7) (d : BitVec 7)
  /-- FP32 maximum reduction (R203). -/
  | redMaxF32 (e : BitVec 1) (s : BitVec 6) (a : BitVec 7) (d : BitVec 7)
  /-- FP32 m·d + e reduction, never merged (R203). -/
  | redAxpyF32 (e : BitVec 1) (s : BitVec 6) (a : BitVec 7) (d : BitVec 7)
  /-- A reduction that has left the CU is applied once at its home, taking its place in coherence order (R205). -/
  | reductionApply (r : Nat)
  /-- One attempt to take a lock word for reading (R209). -/
  | rwlTryrd (e : BitVec 1) (s : BitVec 6) (a : BitVec 7) (d : BitVec 7)
  /-- One attempt to take a lock word for writing, counting a waiting writer under preference (R209). -/
  | rwlTrywr (e : BitVec 1) (s : BitVec 6) (a : BitVec 7) (d : BitVec 7)
  /-- Release a read hold (R209). -/
  | rwlRelrd (e : BitVec 1) (s : BitVec 6) (a : BitVec 7) (d : BitVec 7)
  /-- Release a write hold (R209). -/
  | rwlRelwr (e : BitVec 1) (s : BitVec 6) (a : BitVec 7) (d : BitVec 7)
  /-- Set the writer-preference bit (R209). -/
  | rwlSetpref (e : BitVec 1) (s : BitVec 6) (a : BitVec 7) (d : BitVec 7)
  /-- Convert a space address to a generic address, or all ones (R175). -/
  | togen (p : BitVec 3) (a : BitVec 7) (d : BitVec 7)
  /-- Convert a generic address to a space address, or all ones (R175). -/
  | ofgen (p : BitVec 3) (a : BitVec 7) (d : BitVec 7)
  /-- Test per lane whether a generic address is well formed in a space (R175). -/
  | isin (p : BitVec 3) (a : BitVec 7) (m : BitVec 4)
  /-- Set a barrier's expected count (R198). -/
  | barInit (a : BitVec 7) (n : BitVec 4)
  /-- Count an arrival and complete the round when the count is reached (R198). -/
  | barArrive (a : BitVec 7) (n : BitVec 4)
  /-- Arrive and block until the arrival's round completes (R198). -/
  | barArrwait (a : BitVec 7) (n : BitVec 4)
  /-- Block until the gang's target round completes (R198). -/
  | barWait (n : BitVec 4)
  /-- System-mode arrival at a barrier of another rank of the cluster group (R200). -/
  | barRarrive (b : BitVec 7) (a : BitVec 7) (n : BitVec 4)
  /-- Read a barrier's fields and the gang's target round into a scalar (R198). -/
  | barQuery (a : BitVec 7) (n : BitVec 4)
  /-- Check and issue a copy from one layout record to another, with transform, carousel and follow-on (R219). -/
  | copy (x : BitVec 3) (l : BitVec 1) (c : BitVec 4) (m : BitVec 2) (f : BitVec 1) (g : BitVec 3) (h : BitVec 3)
  /-- Close the gang's open copies into a numbered batch (R223). -/
  | sealBatch (d : BitVec 7)
  /-- Set a flag that clears when a range of batches is complete, returning their status (R223). -/
  | cwait (a : BitVec 7) (d : BitVec 7)
  /-- Load a layout record from scratch (R217). -/
  | lyset (a : BitVec 7) (r : BitVec 3)
  /-- Configure an idle carousel (R226). -/
  | carcfg (a : BitVec 7) (c : BitVec 4)
  /-- Block until n carousel slots are filled, then return the head offset (R228). -/
  | ctake (b : BitVec 7) (a : BitVec 7) (c : BitVec 4)
  /-- Free n slots from the carousel head, as a team-scope release (R229). -/
  | cfree (a : BitVec 7) (c : BitVec 4)
  /-- Read and clear the CU's bank-conflict counter (R230). -/
  | bccrd (d : BitVec 7)
  /-- Copy a local tensor to a remote module over a fabric flow (R231). -/
  | fcopyTo (s : BitVec 6) (l : BitVec 1) (r : BitVec 3) (g : BitVec 3)
  /-- Copy a remote tensor into a local record over a fabric flow (R231). -/
  | fcopyFrom (s : BitVec 6) (l : BitVec 1) (r : BitVec 3) (g : BitVec 3)
  /-- The engine starts a queued copy, taking a carousel slot when free, and runs its check pass (R227). -/
  | copyEngineStart (g : Nat) (o : Nat)
  /-- A copy's last destination byte lands, or the copy fails; carousel FILLED advances (R221). -/
  | copyDataLanded (g : Nat) (o : Nat)
  /-- A copy completes after its data and follow-on, merging its status into sr.fstat and decrementing its flag (R221). -/
  | copyComplete (g : Nat) (o : Nat)
  /-- When every batch in range is complete, cwait writes the OR of statuses and clears its flag count (R223). -/
  | cwaitComplete (g : Nat) (o : Nat)
  /-- The destination module acknowledges an fcopy.to, completing it (R231). -/
  | fcopyAck (g : Nat) (o : Nat)
  /-- The destination module performs an arriving fcopy's writes at their homes in flow order (R369). -/
  | fabricWritePerform (flow : W64) (asid : BitVec 8) (va : W64) (bytes : List Byte)
  /-- An unsupported UET packet is dropped and counted (R365). -/
  | uetPacketDrop (die : Nat)
  /-- Load a matrix command slot from scratch (R237). -/
  | msetSlot (a : BitVec 7) (s : BitVec 2)
  /-- Load a B tile into the slot's macro group, aligning or decoding it (R238). -/
  | mloadb (l : BitVec 3) (s : BitVec 2)
  /-- Stream A rows through the macro group and write FP32 output tiles (R241). -/
  | mmul (s : BitVec 2)
  /-- Scale a partial tile by row and column scales and accumulate into C (R242). -/
  | scacc (s : BitVec 2)
  /-- Give back team macros once earlier commands on them complete (R243). -/
  | mrel (a : BitVec 7)
  /-- Read the team's matrix status into a scalar (R244). -/
  | mstat (d : BitVec 7)
  /-- A matrix command finishes its writes, merges its flags and decrements its flag (R234). -/
  | matrixCommandComplete (g : Nat) (o : Nat)
  /-- Add or reweight an edge tentatively, returning a status (R268). -/
  | gadde (b : BitVec 7) (a : BitVec 7) (d : BitVec 7)
  /-- Remove an edge tentatively, returning a status (R268). -/
  | grme (b : BitVec 7) (a : BitVec 7) (d : BitVec 7)
  /-- Set an existing edge's weight tentatively (R268). -/
  | gsetw (b : BitVec 7) (a : BitVec 7) (d : BitVec 7)
  /-- Out-degree of a vertex in the CU's view (R269). -/
  | gdegOut (a : BitVec 7) (d : BitVec 7)
  /-- In-degree of a vertex in the CU's view (R269). -/
  | gdegIn (a : BitVec 7) (d : BitVec 7)
  /-- Neighbour and weight at a rank of an out-list (R269). -/
  | gldOut (b : BitVec 7) (a : BitVec 7) (d : BitVec 7)
  /-- Neighbour and weight at a rank of an in-list (R269). -/
  | gldIn (b : BitVec 7) (a : BitVec 7) (d : BitVec 7)
  /-- Rank of a neighbour in an out-list (R269). -/
  | gfindOut (b : BitVec 7) (a : BitVec 7) (d : BitVec 7)
  /-- Rank of a neighbour in an in-list (R269). -/
  | gfindIn (b : BitVec 7) (a : BitVec 7) (d : BitVec 7)
  /-- Load a vertex property word (R270). -/
  | gvld (a : BitVec 7) (d : BitVec 7)
  /-- Store a vertex property word (R270). -/
  | gvst (a : BitVec 7) (d : BitVec 7)
  /-- Open a cursor pinning an out-list version (R271). -/
  | copenOut (c : BitVec 3) (a : BitVec 7) (d : BitVec 7)
  /-- Open a cursor pinning an in-list version (R271). -/
  | copenIn (c : BitVec 3) (a : BitVec 7) (d : BitVec 7)
  /-- Return the entry at the cursor's rank and advance it (R272). -/
  | cnext (c : BitVec 3) (d : BitVec 7)
  /-- Set a cursor's rank, clamped to its degree (R272). -/
  | cseek (c : BitVec 3) (a : BitVec 7)
  /-- Release a cursor's pin (R272). -/
  | cclose (c : BitVec 3)
  /-- Read a cursor's rank (R272). -/
  | crank (c : BitVec 3) (d : BitVec 7)
  /-- A graph or gsys operation is performed at the Cradles and its results written, decrementing its flag (R267). -/
  | graphOpComplete (g : Nat) (o : Nat)
  /-- The Cradles reclaim version records and slots that no pin, view or tentative mutation needs (R264). -/
  | versionReclaim (gr : Nat)
  /-- Create a graph in a pool and return its handle (R275). -/
  | gnew (b : BitVec 7) (a : BitVec 7) (d : BitVec 7)
  /-- End a graph handle and discard its tentative mutations (R276). -/
  | gfree (a : BitVec 7)
  /-- Set sr.gcur (R277). -/
  | gsel (a : BitVec 7)
  /-- Read a statistic of the current graph or its pool (R278). -/
  | gstat (a : BitVec 7) (d : BitVec 7)
  /-- Push one continuation record per lane onto the CU's deque, as a mod-scope release (R297). -/
  | spawnV (a : BitVec 7)
  /-- Push one continuation record from scalars (R297). -/
  | spawnS (a : BitVec 7)
  /-- Spilled records return from HBM when room frees up (R291). -/
  | dequeRefill (cu : Nat)
  /-- Add to 64-bit join counters, pushing the continuation when a count reaches zero (R298). -/
  | jcadd (b : BitVec 7) (a : BitVec 7) (d : BitVec 7)
  /-- The join-counter add is performed at its home and results are written (R298). -/
  | jcaddPerform (g : Nat) (o : Nat)
  /-- Read a packet from scratch and enqueue it on a device-owned queue (R299). -/
  | launch (b : BitVec 7) (a : BitVec 7) (d : BitVec 7)
  /-- Cancel a launch level (R300). -/
  | cancelLaunch (a : BitVec 7)
  /-- Cancel a chain level (R300). -/
  | cancelChain (a : BitVec 7)
  /-- Cancel a phase level (R300). -/
  | cancelPhase (a : BitVec 7)
  /-- Cancel a job level (R300). -/
  | cancelJob (a : BitVec 7)
  /-- Set a flag that clears when a level counter reaches zero (R301). -/
  | lvwait (a : BitVec 7)
  /-- A counter test finding COUNT zero completes the lvwait as a mod-scope acquire (R301). -/
  | lvwaitComplete (g : Nat) (o : Nat)
  /-- Lower or set the gang's priority within its launch's (R302). -/
  | setprio (a : BitVec 7)
  /-- The Puppeteer accepts the head packet of a queue, validates it and sets the level counters (R284). -/
  | launchAccept (q : Nat)
  /-- For a CU with free resources the Puppeteer places the highest-priority restore, deque record or queued team (R287). -/
  | placementDecision (cu : Nat)
  /-- A pack of matching records is taken from the own deque or stolen and started as one task gang (R292). -/
  | dispatch (cu : Nat)
  /-- A gang whose threads have exited and flags drained retires, freeing resources and decrementing counters after a write-back (R284). -/
  | gangRetirement (g : Nat)
  /-- Publish a tile as the slot's next version (R309). -/
  | rpub (b : BitVec 7) (a : BitVec 7) (s : BitVec 3)
  /-- Publish a tile only if its key beats the current one (R309). -/
  | rpubk (b : BitVec 7) (a : BitVec 7) (s : BitVec 3)
  /-- Read a slot's tile and version atomically, as an acquire (R311). -/
  | rread (b : BitVec 7) (a : BitVec 7) (s : BitVec 3)
  /-- Read a slot's version word, from the mirror when valid (R311). -/
  | rver (a : BitVec 7) (d : BitVec 7)
  /-- Subscribe a record to be re-fired at each new version (R313). -/
  | rsubRerun (b : BitVec 7) (a : BitVec 7)
  /-- Subscribe a record whose chain is cancelled at the first newer version (R313). -/
  | rsubCancel (b : BitVec 7) (a : BitVec 7)
  /-- Remove a subscription and discard its pending re-fire (R313). -/
  | runsub (b : BitVec 7) (a : BitVec 7)
  /-- Make a slot final (R316). -/
  | rstop (a : BitVec 7)
  /-- Set a flag that clears when the slot is final with no pending or running re-fires (R316). -/
  | rsettle (a : BitVec 7)
  /-- Make a slot live and reset its header, tile and subscriptions (R308). -/
  | rinit (b : BitVec 7) (a : BitVec 7) (k : BitVec 3)
  /-- A refinement operation is performed at the slot's home in one order and completes (R317). -/
  | refOpPerform (g : Nat) (o : Nat)
  /-- The slot's home finds it settled and clears the rsettle flag as an acquire (R316). -/
  | rsettleComplete (g : Nat) (o : Nat)
  /-- Load an embedding table descriptor from scratch (R326). -/
  | embcfg (a : BitVec 7) (t : BitVec 4)
  /-- Check a bag list and issue pooling to the capacity buffers (R328). -/
  | embag (b : BitVec 7) (a : BitVec 7) (t : BitVec 4)
  /-- The buffers pool each bag column by column and write outputs and statuses, completing the command (R329). -/
  | embagComplete (g : Nat) (o : Nat)
  /-- Raise SOFTWARE_TRAP in every issuing lane (R342). -/
  | trap (n : BitVec 7)
  /-- Raise BREAKPOINT in every issuing lane (R361). -/
  | brk
  /-- Return trapped lanes to the trapping word, restoring their temporaries (R349). -/
  | tret
  /-- Return trapped lanes past the trapping word (R349). -/
  | tretNext
  /-- Let a tagged faulting request go ahead (R345). -/
  | sretResume (b : BitVec 7) (a : BitVec 7)
  /-- Refuse a tagged request, delivering its cause or its engine failure (R350). -/
  | sretRefuse (b : BitVec 7) (a : BitVec 7)
  /-- Kill a team, group or task gang at once (R356). -/
  | sretKill (b : BitVec 7) (a : BitVec 7)
  /-- Request pre-emption of a unit into a save area (R351). -/
  | sretSave (b : BitVec 7) (a : BitVec 7)
  /-- Request placement of a saved unit from its area (R354). -/
  | sretRestore (b : BitVec 7) (a : BitVec 7)
  /-- Roll back every phase in progress on the module (R359). -/
  | sretRollback (b : BitVec 7) (a : BitVec 7)
  /-- Read the die's cycle counter (R342). -/
  | rdcyc (d : BitVec 7)
  /-- Read a performance counter (R342). -/
  | rdperf (a : BitVec 7) (d : BitVec 7)
  /-- Clear sr.fstat (R342). -/
  | fsclr
  /-- Remove kept translations of one page module-wide (R343). -/
  | tlbinvPage (b : BitVec 7) (a : BitVec 7) (c : BitVec 1)
  /-- Remove kept translations of one address space (R343). -/
  | tlbinvAsid (b : BitVec 7) (a : BitVec 7) (c : BitVec 1)
  /-- Remove every kept translation (R343). -/
  | tlbinvAll (b : BitVec 7) (a : BitVec 7) (c : BitVec 1)
  /-- tlbinv completes once every CU has dropped the translations and earlier walks have ended (R343). -/
  | tlbinvComplete (g : Nat) (o : Nat)
  /-- Set a flag that clears when the event ring holds an unconsumed record (R344). -/
  | halt
  /-- The halt's flag clears when sr.evtail differs from sr.evhead (R344). -/
  | haltComplete (g : Nat) (o : Nat)
  /-- Hint to bring global lines toward the CU, never trapping (R176). -/
  | pfetch (e : BitVec 1) (s : BitVec 6) (a : BitVec 7) (t : BitVec 2)
  /-- After drain and release, the unit's state streams to the save area, resources free and a SAVED record is written (R351). -/
  | saveStream (area : W64)
  /-- A save passing sr.pdead writes an OVERRUN record and continues (R353). -/
  | deadlineOverrun (area : W64)
  /-- Svaphor command appending a launch packet to a host-owned queue (R366). -/
  | qput (conn : Nat) (q : W64) (tag : W64) (packet : BitVec 512)
  /-- Svaphor command writing a job's global memory through its page tables (R366). -/
  | write (conn : Nat) (asid : BitVec 8) (va : W64) (bytes : List Byte)
  /-- Svaphor command returning a job's global memory (R366). -/
  | read (conn : Nat) (asid : BitVec 8) (va : W64) (len : Nat)
  /-- Svaphor command returning a job's released completion records (R366). -/
  | cread (conn : Nat) (job : BitVec 16)
  /-- Svaphor command asking for the boundary that ends a phase (R366). -/
  | phase (conn : Nat) (job : BitVec 16) (p : BitVec 12)
  /-- Once all modules are ready the phase boundary publishes, commits graphs, empties the undo log and releases records (R370). -/
  | phaseBoundary (job : BitVec 16) (p : BitVec 12)
  /-- Management request halting a gang at its next clause boundary (R360). -/
  | debugHalt (h : W64) (idx : Nat)
  /-- Management request issuing exactly one word of a halted gang (R156). -/
  | debugStep (h : W64) (idx : Nat)
  /-- Management request resuming a halted gang, optionally past a watch (R360). -/
  | debugResume (h : W64) (idx : Nat) (past : Bool)
  /-- Management request reading a halted gang's registers and flag counts (R360). -/
  | debugInspect (h : W64) (idx : Nat) (what : DebugReg)
  /-- Management request writing a halted gang's register other than a flag (R360). -/
  | debugWrite (h : W64) (idx : Nat) (what : DebugReg) (v : BitVec 256)
  /-- Management request setting one of a die's four watches (R361). -/
  | debugWatchSet (die : Nat) (n : Nat) (w : Option Watch)
  /-- Loader request making a segment non-writable and returning its bytes (R19). -/
  | measurementRead (die : Nat) (asid : BitVec 8) (va : W64) (len : Nat)
  /-- Loader request to mark a measured segment's pages executable (R372). -/
  | markExecutable (die : Nat) (seg : Segment)
  /-- SPDM request on the management port returning the attestation record (R372). -/
  | spdmMeasurement (job : BitVec 16)
  /-- PLDM request on the management port returning telemetry (R373). -/
  | telemetryRead (die : Nat)
  /-- Management controller sets a die's power cap (R374). -/
  | powerCapSet (die : Nat) (watts : Nat)
  /-- Management request to retrain an HBM stack, waiting for saves and stalling its accesses (R355). -/
  | retrainRequest (stack : Nat) (rate : Nat)
  /-- A retrain waiting 2 ms is refused and reported (R355). -/
  | retrainTimeout (stack : Nat)
  /-- A die's droop detector sees a sag and stretches its clock cycles (R22). -/
  | droopDetected (die : Nat)
  /-- Average power over 1 ms above the cap stretches the die's clock until it falls (R374). -/
  | powerCapExceeded (die : Nat)
  /-- ECC corrects an error and telemetry counts it (R357). -/
  | correctedSoftError (die : Nat) (arr : Nat)
  /-- An uncorrectable error writes an ERROR record and stalls every consumer of the bad data (R357). -/
  | uncorrectableError (die : Nat) (loc : ErrorLoc)
  /-- Die reset starts the cycle counter and leaves the die without an event ring (R344). -/
  | dieReset (die : Nat)
  /-- An HBM stack retrain finishes, ending the stall of its accesses and letting waiting saves stream into the stack (R355). -/
  | retrainEnd (stack : Nat)
  /-- A die's average power falls below its cap and the die stops stretching its clock cycles (R374). -/
  | stretchEnd (die : Nat)
  /-- UET finally fails to deliver a packet, ending its fabric copy with PAGE_PROTECTION or its Svaphor command with status 1 (R365). -/
  | deliveryFailure (what : Undelivered)
  /-- The remote module serves an arriving fcopy.from request by reading each source byte at its home, or refuses it (R369). -/
  | fcopyFromRemoteRead (flow : W64) (asid : BitVec 8) (va : W64) (len : Nat)
  /-- The management controller restarts the device runtime on a die after a fault in a system-mode gang, and rolls back the affected jobs (R348). -/
  | deviceRuntimeRestart (die : Nat)
  deriving DecidableEq, Repr

end Sys2Proof
end

