-- ==== Sys2Proof/WellFormed.lean ====
section
/-!
DEFINITION. Which words are instructions: the operand kinds and code spaces of R50, the spans of R51, the reserved codes of
R52, R53 and R55, and, for each instruction, its operands, its length, whether it must be the last word of its body
(R54, R128) and whether it needs system mode (R56).
-/
namespace Sys2Proof

/-- An operand of an instruction, in the code space of its kind (R50). -/
inductive Operand where
  /-- `n` vector registers from code `c` on (R51: within v0-v119 or within k0-k7). -/
  | vec (c n : Nat)
  /-- `n` scalar registers from code `c` on (R51: within s0-s63). -/
  | sca (c n : Nat)
  /-- A mask register, m0-m11. -/
  | mask (c : Nat)
  /-- A special register index, 0-23 or 32-63. -/
  | special (x : Nat)
  /-- A special register index that wsr may name: not 0-11 and not 18-22 (R56, R94). -/
  | wspecial (x : Nat)
  /-- A completion flag of a set slot: 0-11, or 15 for none (R53). -/
  | slot (c : Nat)
  /-- A field whose codes above `hi` are reserved. -/
  | le (v hi : Nat)
  /-- A field whose codes outside `lo` to `hi` are reserved. -/
  | range (v lo hi : Nat)
  deriving DecidableEq, Repr

/-- Whether an operand's code is assigned and its span stays in its group (R50-R53). -/
def Operand.ok : Operand → Bool
  | .vec c n => decide (c + n ≤ 120) || (decide (120 ≤ c) && decide (c + n ≤ 128))
  | .sca c n => decide (c + n ≤ 64)
  | .mask c => decide (c < 12)
  | .special x => decide (x < 24) || (decide (32 ≤ x) && decide (x < 64))
  | .wspecial x => (decide (12 ≤ x) && decide (x < 18)) || decide (x = 23) || (decide (32 ≤ x) && decide (x < 64))
  | .slot c => decide (c < 12) || decide (c = 15)
  | .le v hi => decide (v ≤ hi)
  | .range v lo hi => decide (lo ≤ v) && decide (v ≤ hi)

/-- Whether an operand names a vector register at or beyond an allotment of `v` registers (R57, R87). -/
def Operand.beyond (v : Nat) : Operand → Bool
  | .vec c n => decide (c < 120) && decide (v < c + n)
  | _ => false

/-- Whether a special register index is system-only (R56). -/
def systemIndex (x : Nat) : Bool := decide (32 ≤ x)

/-- How many 32-bit registers a memory width code moves (R170). -/
def widthRegs (t : BitVec 3) : Nat := if t = 5 then 2 else if t = 6 then 4 else 1

/-- What IssueCheck must know of an instruction (R57). -/
structure Sig where
  /-- Length in bytes (R43); 0 for an event, which has no word. -/
  size : Nat
  /-- Its operands. -/
  ops : List Operand
  /-- Whether it must be the last word of its body (R54). -/
  last : Bool := false
  /-- Whether it needs system mode (R56). -/
  sys : Bool := false
  deriving DecidableEq, Repr

/-- The signature of each instruction, from the layouts of its chapter. -/
def Instr.sig : Instr → Sig
  | .clauseHeader b a _ n => { size := 4, ops := [.slot b.toNat, .slot a.toNat, .range n.toNat 1 24] }
  | .stalledWordResume _ => { size := 0, ops := [] }
  | .movShort i b d => { size := 2, ops := if i = 0 then [.vec d.toNat 1, .vec b.toNat 1] else [.vec d.toNat 1] }
  | .addI32Short i b d => { size := 2, ops := if i = 0 then [.vec d.toNat 1, .vec b.toNat 1] else [.vec d.toNat 1] }
  | .subI32Short i b d => { size := 2, ops := if i = 0 then [.vec d.toNat 1, .vec b.toNat 1] else [.vec d.toNat 1] }
  | .mulI32Short i b d => { size := 2, ops := if i = 0 then [.vec d.toNat 1, .vec b.toNat 1] else [.vec d.toNat 1] }
  | .andShort i b d => { size := 2, ops := if i = 0 then [.vec d.toNat 1, .vec b.toNat 1] else [.vec d.toNat 1] }
  | .orShort i b d => { size := 2, ops := if i = 0 then [.vec d.toNat 1, .vec b.toNat 1] else [.vec d.toNat 1] }
  | .xorShort i b d => { size := 2, ops := if i = 0 then [.vec d.toNat 1, .vec b.toNat 1] else [.vec d.toNat 1] }
  | .shlShort i b d => { size := 2, ops := if i = 0 then [.vec d.toNat 1, .vec b.toNat 1] else [.vec d.toNat 1] }
  | .shrShort i b d => { size := 2, ops := if i = 0 then [.vec d.toNat 1, .vec b.toNat 1] else [.vec d.toNat 1] }
  | .sarShort i b d => { size := 2, ops := if i = 0 then [.vec d.toNat 1, .vec b.toNat 1] else [.vec d.toNat 1] }
  | .addF32Short i b d => { size := 2, ops := if i = 0 then [.vec d.toNat 1, .vec b.toNat 1] else [.vec d.toNat 1] }
  | .subF32Short i b d => { size := 2, ops := if i = 0 then [.vec d.toNat 1, .vec b.toNat 1] else [.vec d.toNat 1] }
  | .mulF32Short i b d => { size := 2, ops := if i = 0 then [.vec d.toNat 1, .vec b.toNat 1] else [.vec d.toNat 1] }
  | .minF32Short i b d => { size := 2, ops := if i = 0 then [.vec d.toNat 1, .vec b.toNat 1] else [.vec d.toNat 1] }
  | .maxF32Short i b d => { size := 2, ops := if i = 0 then [.vec d.toNat 1, .vec b.toNat 1] else [.vec d.toNat 1] }
  | .nop => { size := 2, ops := [] }
  | .addI32 b a d => { size := 4, ops := [.vec b.toNat 1, .vec a.toNat 1, .vec d.toNat 1] }
  | .subI32 b a d => { size := 4, ops := [.vec b.toNat 1, .vec a.toNat 1, .vec d.toNat 1] }
  | .mulI32 b a d => { size := 4, ops := [.vec b.toNat 1, .vec a.toNat 1, .vec d.toNat 1] }
  | .mulhiI32 b a d => { size := 4, ops := [.vec b.toNat 1, .vec a.toNat 1, .vec d.toNat 1] }
  | .mulhiN32 b a d => { size := 4, ops := [.vec b.toNat 1, .vec a.toNat 1, .vec d.toNat 1] }
  | .madI32 b a d => { size := 4, ops := [.vec b.toNat 1, .vec a.toNat 1, .vec d.toNat 1] }
  | .minI32 b a d => { size := 4, ops := [.vec b.toNat 1, .vec a.toNat 1, .vec d.toNat 1] }
  | .maxI32 b a d => { size := 4, ops := [.vec b.toNat 1, .vec a.toNat 1, .vec d.toNat 1] }
  | .minN32 b a d => { size := 4, ops := [.vec b.toNat 1, .vec a.toNat 1, .vec d.toNat 1] }
  | .maxN32 b a d => { size := 4, ops := [.vec b.toNat 1, .vec a.toNat 1, .vec d.toNat 1] }
  | .and b a d => { size := 4, ops := [.vec b.toNat 1, .vec a.toNat 1, .vec d.toNat 1] }
  | .or b a d => { size := 4, ops := [.vec b.toNat 1, .vec a.toNat 1, .vec d.toNat 1] }
  | .xor b a d => { size := 4, ops := [.vec b.toNat 1, .vec a.toNat 1, .vec d.toNat 1] }
  | .shl b a d => { size := 4, ops := [.vec b.toNat 1, .vec a.toNat 1, .vec d.toNat 1] }
  | .shr b a d => { size := 4, ops := [.vec b.toNat 1, .vec a.toNat 1, .vec d.toNat 1] }
  | .sar b a d => { size := 4, ops := [.vec b.toNat 1, .vec a.toNat 1, .vec d.toNat 1] }
  | .addi _ a d => { size := 4, ops := [.vec a.toNat 1, .vec d.toNat 1] }
  | .muli _ a d => { size := 4, ops := [.vec a.toNat 1, .vec d.toNat 1] }
  | .andi _ a d => { size := 4, ops := [.vec a.toNat 1, .vec d.toNat 1] }
  | .ori _ a d => { size := 4, ops := [.vec a.toNat 1, .vec d.toNat 1] }
  | .xori _ a d => { size := 4, ops := [.vec a.toNat 1, .vec d.toNat 1] }
  | .shiShl _ a d => { size := 4, ops := [.vec a.toNat 1, .vec d.toNat 1] }
  | .shiShr _ a d => { size := 4, ops := [.vec a.toNat 1, .vec d.toNat 1] }
  | .shiSar _ a d => { size := 4, ops := [.vec a.toNat 1, .vec d.toNat 1] }
  | .rol _ a d => { size := 4, ops := [.vec a.toNat 1, .vec d.toNat 1] }
  | .not a d => { size := 4, ops := [.vec a.toNat 1, .vec d.toNat 1] }
  | .negI32 a d => { size := 4, ops := [.vec a.toNat 1, .vec d.toNat 1] }
  | .absI32 a d => { size := 4, ops := [.vec a.toNat 1, .vec d.toNat 1] }
  | .popc a d => { size := 4, ops := [.vec a.toNat 1, .vec d.toNat 1] }
  | .clz a d => { size := 4, ops := [.vec a.toNat 1, .vec d.toNat 1] }
  | .ctz a d => { size := 4, ops := [.vec a.toNat 1, .vec d.toNat 1] }
  | .brev a d => { size := 4, ops := [.vec a.toNat 1, .vec d.toNat 1] }
  | .sxt8 a d => { size := 4, ops := [.vec a.toNat 1, .vec d.toNat 1] }
  | .sxt16 a d => { size := 4, ops := [.vec a.toNat 1, .vec d.toNat 1] }
  | .zxt8 a d => { size := 4, ops := [.vec a.toNat 1, .vec d.toNat 1] }
  | .zxt16 a d => { size := 4, ops := [.vec a.toNat 1, .vec d.toNat 1] }
  | .bfeN _ _ a d => { size := 4, ops := [.vec a.toNat 1, .vec d.toNat 1] }
  | .bfeI _ _ a d => { size := 4, ops := [.vec a.toNat 1, .vec d.toNat 1] }
  | .bfi _ _ a d => { size := 4, ops := [.vec a.toNat 1, .vec d.toNat 1] }
  | .icmpEq b a m => { size := 4, ops := [.vec b.toNat 1, .vec a.toNat 1, .mask m.toNat] }
  | .icmpNe b a m => { size := 4, ops := [.vec b.toNat 1, .vec a.toNat 1, .mask m.toNat] }
  | .icmpLtI b a m => { size := 4, ops := [.vec b.toNat 1, .vec a.toNat 1, .mask m.toNat] }
  | .icmpLeI b a m => { size := 4, ops := [.vec b.toNat 1, .vec a.toNat 1, .mask m.toNat] }
  | .icmpGtI b a m => { size := 4, ops := [.vec b.toNat 1, .vec a.toNat 1, .mask m.toNat] }
  | .icmpGeI b a m => { size := 4, ops := [.vec b.toNat 1, .vec a.toNat 1, .mask m.toNat] }
  | .icmpLtN b a m => { size := 4, ops := [.vec b.toNat 1, .vec a.toNat 1, .mask m.toNat] }
  | .icmpLeN b a m => { size := 4, ops := [.vec b.toNat 1, .vec a.toNat 1, .mask m.toNat] }
  | .icmpGtN b a m => { size := 4, ops := [.vec b.toNat 1, .vec a.toNat 1, .mask m.toNat] }
  | .icmpGeN b a m => { size := 4, ops := [.vec b.toNat 1, .vec a.toNat 1, .mask m.toNat] }
  | .sel m b a d => { size := 4, ops := [.mask m.toNat, .vec b.toNat 1, .vec a.toNat 1, .vec d.toNat 1] }
  | .li _ d => { size := 4, ops := [.vec d.toNat 1] }
  | .liu _ d => { size := 4, ops := [.vec d.toNat 1] }
  | .addF32 b a d => { size := 4, ops := [.vec b.toNat 1, .vec a.toNat 1, .vec d.toNat 1] }
  | .subF32 b a d => { size := 4, ops := [.vec b.toNat 1, .vec a.toNat 1, .vec d.toNat 1] }
  | .mulF32 b a d => { size := 4, ops := [.vec b.toNat 1, .vec a.toNat 1, .vec d.toNat 1] }
  | .fmaF32 b a d => { size := 4, ops := [.vec b.toNat 1, .vec a.toNat 1, .vec d.toNat 1] }
  | .fmsF32 b a d => { size := 4, ops := [.vec b.toNat 1, .vec a.toNat 1, .vec d.toNat 1] }
  | .fnmaF32 b a d => { size := 4, ops := [.vec b.toNat 1, .vec a.toNat 1, .vec d.toNat 1] }
  | .minF32 b a d => { size := 4, ops := [.vec b.toNat 1, .vec a.toNat 1, .vec d.toNat 1] }
  | .maxF32 b a d => { size := 4, ops := [.vec b.toNat 1, .vec a.toNat 1, .vec d.toNat 1] }
  | .copysignF32 b a d => { size := 4, ops := [.vec b.toNat 1, .vec a.toNat 1, .vec d.toNat 1] }
  | .scaleF32 b a d => { size := 4, ops := [.vec b.toNat 1, .vec a.toNat 1, .vec d.toNat 1] }
  | .getexpF32 a d => { size := 4, ops := [.vec a.toNat 1, .vec d.toNat 1] }
  | .fcmpEq b a m => { size := 4, ops := [.vec b.toNat 1, .vec a.toNat 1, .mask m.toNat] }
  | .fcmpNe b a m => { size := 4, ops := [.vec b.toNat 1, .vec a.toNat 1, .mask m.toNat] }
  | .fcmpLt b a m => { size := 4, ops := [.vec b.toNat 1, .vec a.toNat 1, .mask m.toNat] }
  | .fcmpLe b a m => { size := 4, ops := [.vec b.toNat 1, .vec a.toNat 1, .mask m.toNat] }
  | .fcmpGt b a m => { size := 4, ops := [.vec b.toNat 1, .vec a.toNat 1, .mask m.toNat] }
  | .fcmpGe b a m => { size := 4, ops := [.vec b.toNat 1, .vec a.toNat 1, .mask m.toNat] }
  | .fcmpUno b a m => { size := 4, ops := [.vec b.toNat 1, .vec a.toNat 1, .mask m.toNat] }
  | .fcmpOrd b a m => { size := 4, ops := [.vec b.toNat 1, .vec a.toNat 1, .mask m.toNat] }
  | .absF32 a d => { size := 4, ops := [.vec a.toNat 1, .vec d.toNat 1] }
  | .negF32 a d => { size := 4, ops := [.vec a.toNat 1, .vec d.toNat 1] }
  | .rcpF32 a d => { size := 4, ops := [.vec a.toNat 1, .vec d.toNat 1] }
  | .rsqF32 a d => { size := 4, ops := [.vec a.toNat 1, .vec d.toNat 1] }
  | .sqrtF32 a d => { size := 4, ops := [.vec a.toNat 1, .vec d.toNat 1] }
  | .exp2F32 a d => { size := 4, ops := [.vec a.toNat 1, .vec d.toNat 1] }
  | .log2F32 a d => { size := 4, ops := [.vec a.toNat 1, .vec d.toNat 1] }
  | .sinF32 a d => { size := 4, ops := [.vec a.toNat 1, .vec d.toNat 1] }
  | .cosF32 a d => { size := 4, ops := [.vec a.toNat 1, .vec d.toNat 1] }
  | .floorF32 a d => { size := 4, ops := [.vec a.toNat 1, .vec d.toNat 1] }
  | .ceilF32 a d => { size := 4, ops := [.vec a.toNat 1, .vec d.toNat 1] }
  | .truncF32 a d => { size := 4, ops := [.vec a.toNat 1, .vec d.toNat 1] }
  | .rintF32 a d => { size := 4, ops := [.vec a.toNat 1, .vec d.toNat 1] }
  | .fracF32 a d => { size := 4, ops := [.vec a.toNat 1, .vec d.toNat 1] }
  | .classF32 a d => { size := 4, ops := [.vec a.toNat 1, .vec d.toNat 1] }
  | .addF16x2 b a d => { size := 4, ops := [.vec b.toNat 1, .vec a.toNat 1, .vec d.toNat 1] }
  | .mulF16x2 b a d => { size := 4, ops := [.vec b.toNat 1, .vec a.toNat 1, .vec d.toNat 1] }
  | .fmaF16x2 b a d => { size := 4, ops := [.vec b.toNat 1, .vec a.toNat 1, .vec d.toNat 1] }
  | .minF16x2 b a d => { size := 4, ops := [.vec b.toNat 1, .vec a.toNat 1, .vec d.toNat 1] }
  | .maxF16x2 b a d => { size := 4, ops := [.vec b.toNat 1, .vec a.toNat 1, .vec d.toNat 1] }
  | .addBf16x2 b a d => { size := 4, ops := [.vec b.toNat 1, .vec a.toNat 1, .vec d.toNat 1] }
  | .mulBf16x2 b a d => { size := 4, ops := [.vec b.toNat 1, .vec a.toNat 1, .vec d.toNat 1] }
  | .fmaBf16x2 b a d => { size := 4, ops := [.vec b.toNat 1, .vec a.toNat 1, .vec d.toNat 1] }
  | .minBf16x2 b a d => { size := 4, ops := [.vec b.toNat 1, .vec a.toNat 1, .vec d.toNat 1] }
  | .maxBf16x2 b a d => { size := 4, ops := [.vec b.toNat 1, .vec a.toNat 1, .vec d.toNat 1] }
  | .dot4I8 b a d => { size := 4, ops := [.vec b.toNat 1, .vec a.toNat 1, .vec d.toNat 1] }
  | .dot4N8 b a d => { size := 4, ops := [.vec b.toNat 1, .vec a.toNat 1, .vec d.toNat 1] }
  | .dot2F16 b a d => { size := 4, ops := [.vec b.toNat 1, .vec a.toNat 1, .vec d.toNat 1] }
  | .dot2Bf16 b a d => { size := 4, ops := [.vec b.toNat 1, .vec a.toNat 1, .vec d.toNat 1] }
  | .dot8I4 b a d => { size := 4, ops := [.vec b.toNat 1, .vec a.toNat 1, .vec d.toNat 1] }
  | .cvt _ _ u c t a d => { size := 4, ops := [.le (u ++ c).toNat 10, .le t.toNat 10, .vec a.toNat 1, .vec d.toNat 1] }
  | .cvtpByte _ _ _ _ _ a d => { size := 4, ops := [.vec a.toNat 1, .vec d.toNat 1] }
  | .cvtpF16 _ _ _ a d => { size := 4, ops := [.vec a.toNat 1, .vec d.toNat 1] }
  | .cvtpBf16 _ _ _ a d => { size := 4, ops := [.vec a.toNat 1, .vec d.toNat 1] }
  | .sbdecSb4 b a d => { size := 4, ops := [.vec b.toNat 1, .vec a.toNat 1, .vec d.toNat 1] }
  | .sbdecSb8 b a d => { size := 4, ops := [.vec b.toNat 1, .vec a.toNat 1, .vec d.toNat 1] }
  | .shfl p b a d => { size := 4, ops := [.mask p.toNat, .vec b.toNat 1, .vec a.toNat 1, .vec d.toNat 1], last := true }
  | .shflkUp p _ a d => { size := 4, ops := [.mask p.toNat, .vec a.toNat 1, .vec d.toNat 1], last := true }
  | .shflkDn p _ a d => { size := 4, ops := [.mask p.toNat, .vec a.toNat 1, .vec d.toNat 1], last := true }
  | .shflxXor p _ a d => { size := 4, ops := [.mask p.toNat, .vec a.toNat 1, .vec d.toNat 1], last := true }
  | .shflxIdx p _ a d => { size := 4, ops := [.mask p.toNat, .vec a.toNat 1, .vec d.toNat 1], last := true }
  | .xredSumI32 p a d => { size := 4, ops := [.mask p.toNat, .vec a.toNat 1, .vec d.toNat 1], last := true }
  | .xredMinI32 p a d => { size := 4, ops := [.mask p.toNat, .vec a.toNat 1, .vec d.toNat 1], last := true }
  | .xredMaxI32 p a d => { size := 4, ops := [.mask p.toNat, .vec a.toNat 1, .vec d.toNat 1], last := true }
  | .xredSumF32 p a d => { size := 4, ops := [.mask p.toNat, .vec a.toNat 1, .vec d.toNat 1], last := true }
  | .xredMinF32 p a d => { size := 4, ops := [.mask p.toNat, .vec a.toNat 1, .vec d.toNat 1], last := true }
  | .xredMaxF32 p a d => { size := 4, ops := [.mask p.toNat, .vec a.toNat 1, .vec d.toNat 1], last := true }
  | .xredScanI32 p a d => { size := 4, ops := [.mask p.toNat, .vec a.toNat 1, .vec d.toNat 1], last := true }
  | .xredScanF32 p a d => { size := 4, ops := [.mask p.toNat, .vec a.toNat 1, .vec d.toNat 1], last := true }
  | .voteAny p a d => { size := 4, ops := [.mask p.toNat, .vec a.toNat 1, .sca d.toNat 1], last := true }
  | .voteAll p a d => { size := 4, ops := [.mask p.toNat, .vec a.toNat 1, .sca d.toNat 1], last := true }
  | .voteBallot p a d => { size := 4, ops := [.mask p.toNat, .vec a.toNat 1, .sca d.toNat 1], last := true }
  | .voteBallotMask p a m => { size := 4, ops := [.mask p.toNat, .vec a.toNat 1, .mask m.toNat], last := true }
  | .bra _ m => { size := 4, ops := [.mask m.toNat], last := true }
  | .braAny _ m => { size := 4, ops := [.mask m.toNat], last := true }
  | .braAll _ m => { size := 4, ops := [.mask m.toNat], last := true }
  | .braNone _ m => { size := 4, ops := [.mask m.toNat], last := true }
  | .braSet _ m => { size := 4, ops := [.mask m.toNat], last := true }
  | .braClr _ m => { size := 4, ops := [.mask m.toNat], last := true }
  | .jmp _ => { size := 4, ops := [], last := true }
  | .call _ => { size := 4, ops := [], last := true }
  | .jmpS a => { size := 4, ops := [.sca a.toNat 1], last := true }
  | .callS a => { size := 4, ops := [.sca a.toNat 1], last := true }
  | .ret => { size := 4, ops := [], last := true }
  | .jmpV a => { size := 4, ops := [.vec a.toNat 2], last := true }
  | .jmpt s a => { size := 4, ops := [.vec a.toNat 1, .sca s.toNat 2], last := true }
  | .join m => { size := 4, ops := [.mask m.toNat] }
  | .leave m => { size := 4, ops := [.mask m.toNat] }
  | .wait m => { size := 4, ops := [.mask m.toNat], last := true }
  | .mset a m => { size := 4, ops := [.sca a.toNat 1, .mask m.toNat] }
  | .mget a d => { size := 4, ops := [.mask a.toNat, .sca d.toNat 1] }
  | .mand b a d => { size := 4, ops := [.mask b.toNat, .mask a.toNat, .mask d.toNat] }
  | .mor b a d => { size := 4, ops := [.mask b.toNat, .mask a.toNat, .mask d.toNat] }
  | .mxor b a d => { size := 4, ops := [.mask b.toNat, .mask a.toNat, .mask d.toNat] }
  | .mnot a d => { size := 4, ops := [.mask a.toNat, .mask d.toNat] }
  | .mcpy a d => { size := 4, ops := [.mask a.toNat, .mask d.toNat] }
  | .mpop a d => { size := 4, ops := [.mask a.toNat, .sca d.toNat 1] }
  | .mfirst a d => { size := 4, ops := [.mask a.toNat, .sca d.toNat 1] }
  | .mlive d => { size := 4, ops := [.mask d.toNat] }
  | .msub d => { size := 4, ops := [.mask d.toNat] }
  | .exit => { size := 4, ops := [], last := true }
  | .yield => { size := 4, ops := [], last := true }
  | .nop32 => { size := 4, ops := [] }
  | .sadd b a d => { size := 4, ops := [.sca b.toNat 1, .sca a.toNat 1, .sca d.toNat 1] }
  | .ssub b a d => { size := 4, ops := [.sca b.toNat 1, .sca a.toNat 1, .sca d.toNat 1] }
  | .smul b a d => { size := 4, ops := [.sca b.toNat 1, .sca a.toNat 1, .sca d.toNat 1] }
  | .smulhiI64 b a d => { size := 4, ops := [.sca b.toNat 1, .sca a.toNat 1, .sca d.toNat 1] }
  | .sand b a d => { size := 4, ops := [.sca b.toNat 1, .sca a.toNat 1, .sca d.toNat 1] }
  | .sor b a d => { size := 4, ops := [.sca b.toNat 1, .sca a.toNat 1, .sca d.toNat 1] }
  | .sxor b a d => { size := 4, ops := [.sca b.toNat 1, .sca a.toNat 1, .sca d.toNat 1] }
  | .sshl b a d => { size := 4, ops := [.sca b.toNat 1, .sca a.toNat 1, .sca d.toNat 1] }
  | .sshr b a d => { size := 4, ops := [.sca b.toNat 1, .sca a.toNat 1, .sca d.toNat 1] }
  | .ssar b a d => { size := 4, ops := [.sca b.toNat 1, .sca a.toNat 1, .sca d.toNat 1] }
  | .sminI64 b a d => { size := 4, ops := [.sca b.toNat 1, .sca a.toNat 1, .sca d.toNat 1] }
  | .smaxI64 b a d => { size := 4, ops := [.sca b.toNat 1, .sca a.toNat 1, .sca d.toNat 1] }
  | .sminN64 b a d => { size := 4, ops := [.sca b.toNat 1, .sca a.toNat 1, .sca d.toNat 1] }
  | .smaxN64 b a d => { size := 4, ops := [.sca b.toNat 1, .sca a.toNat 1, .sca d.toNat 1] }
  | .sdivN64 b a d => { size := 4, ops := [.sca b.toNat 1, .sca a.toNat 1, .sca d.toNat 1] }
  | .sremN64 b a d => { size := 4, ops := [.sca b.toNat 1, .sca a.toNat 1, .sca d.toNat 1] }
  | .saddi _ a d => { size := 4, ops := [.sca a.toNat 1, .sca d.toNat 1] }
  | .sli _ s => { size := 4, ops := [.sca s.toNat 1] }
  | .sliu _ s => { size := 4, ops := [.sca s.toNat 1] }
  | .slih _ s => { size := 4, ops := [.sca s.toNat 1] }
  | .slihu _ s => { size := 4, ops := [.sca s.toNat 1] }
  | .scmpEq b a d => { size := 4, ops := [.sca b.toNat 1, .sca a.toNat 1, .sca d.toNat 1] }
  | .scmpNe b a d => { size := 4, ops := [.sca b.toNat 1, .sca a.toNat 1, .sca d.toNat 1] }
  | .scmpLtI b a d => { size := 4, ops := [.sca b.toNat 1, .sca a.toNat 1, .sca d.toNat 1] }
  | .scmpLeI b a d => { size := 4, ops := [.sca b.toNat 1, .sca a.toNat 1, .sca d.toNat 1] }
  | .scmpGtI b a d => { size := 4, ops := [.sca b.toNat 1, .sca a.toNat 1, .sca d.toNat 1] }
  | .scmpGeI b a d => { size := 4, ops := [.sca b.toNat 1, .sca a.toNat 1, .sca d.toNat 1] }
  | .scmpLtN b a d => { size := 4, ops := [.sca b.toNat 1, .sca a.toNat 1, .sca d.toNat 1] }
  | .scmpLeN b a d => { size := 4, ops := [.sca b.toNat 1, .sca a.toNat 1, .sca d.toNat 1] }
  | .scmpGtN b a d => { size := 4, ops := [.sca b.toNat 1, .sca a.toNat 1, .sca d.toNat 1] }
  | .scmpGeN b a d => { size := 4, ops := [.sca b.toNat 1, .sca a.toNat 1, .sca d.toNat 1] }
  | .vbc b d => { size := 4, ops := [.sca b.toNat 1, .vec d.toNat 1] }
  | .vbch b d => { size := 4, ops := [.sca b.toNat 1, .vec d.toNat 1] }
  | .vget _ a d => { size := 4, ops := [.vec a.toNat 1, .sca d.toNat 1] }
  | .vsr a d => { size := 4, ops := [.special a.toNat, .vec d.toNat 1], sys := systemIndex a.toNat }
  | .ssr a d => { size := 4, ops := [.special a.toNat, .sca d.toNat 1], sys := systemIndex a.toNat }
  | .wsr a d => { size := 4, ops := [.sca a.toNat 1, .wspecial d.toNat], sys := systemIndex d.toNat }
  | .ldg _ t _ _ a d => { size := 4, ops := [.le t.toNat 6, .vec a.toNat 1, .vec d.toNat (widthRegs t)] }
  | .stg _ t _ _ a d => { size := 4, ops := [.le t.toNat 6, .vec a.toNat 1, .vec d.toNat (widthRegs t)] }
  | .lds _ t _ _ a d => { size := 4, ops := [.le t.toNat 6, .vec a.toNat 1, .vec d.toNat (widthRegs t)] }
  | .sts _ t _ _ a d => { size := 4, ops := [.le t.toNat 6, .vec a.toNat 1, .vec d.toNat (widthRegs t)] }
  | .ldc _ t _ _ a d => { size := 4, ops := [.le t.toNat 6, .vec a.toNat 1, .vec d.toNat (widthRegs t)] }
  | .stc _ t _ _ a d => { size := 4, ops := [.le t.toNat 6, .vec a.toNat 1, .vec d.toNat (widthRegs t)] }
  | .ldx _ t _ _ a d => { size := 4, ops := [.le t.toNat 6, .vec a.toNat 1, .vec d.toNat (widthRegs t)] }
  | .stx _ t _ _ a d => { size := 4, ops := [.le t.toNat 6, .vec a.toNat 1, .vec d.toNat (widthRegs t)] }
  | .memoryOpComplete _ _ => { size := 0, ops := [] }
  | .ldAcq c _ _ a d => { size := 4, ops := [.le c.toNat 5, .vec a.toNat 1, .vec d.toNat 1] }
  | .stRel c _ _ a d => { size := 4, ops := [.le c.toNat 5, .vec a.toNat 1, .vec d.toNat 1] }
  | .fence s => { size := 4, ops := [.le s.toNat 5] }
  | .fenceAcq s => { size := 4, ops := [.le s.toNat 5] }
  | .fenceRel s => { size := 4, ops := [.le s.toNat 5] }
  | .atomAddI32 _ _ a d => { size := 4, ops := [.vec a.toNat 1, .vec d.toNat 1] }
  | .atomMinI32 _ _ a d => { size := 4, ops := [.vec a.toNat 1, .vec d.toNat 1] }
  | .atomMaxI32 _ _ a d => { size := 4, ops := [.vec a.toNat 1, .vec d.toNat 1] }
  | .atomMinN32 _ _ a d => { size := 4, ops := [.vec a.toNat 1, .vec d.toNat 1] }
  | .atomMaxN32 _ _ a d => { size := 4, ops := [.vec a.toNat 1, .vec d.toNat 1] }
  | .atomAnd _ _ a d => { size := 4, ops := [.vec a.toNat 1, .vec d.toNat 1] }
  | .atomOr _ _ a d => { size := 4, ops := [.vec a.toNat 1, .vec d.toNat 1] }
  | .atomXor _ _ a d => { size := 4, ops := [.vec a.toNat 1, .vec d.toNat 1] }
  | .atomXchg _ _ a d => { size := 4, ops := [.vec a.toNat 1, .vec d.toNat 1] }
  | .atomCas32 _ _ a d => { size := 4, ops := [.vec a.toNat 1, .vec d.toNat 2] }
  | .atomAddF32 _ _ a d => { size := 4, ops := [.vec a.toNat 1, .vec d.toNat 1] }
  | .atomMinF32 _ _ a d => { size := 4, ops := [.vec a.toNat 1, .vec d.toNat 1] }
  | .atomMaxF32 _ _ a d => { size := 4, ops := [.vec a.toNat 1, .vec d.toNat 1] }
  | .atomCas64 _ _ a d => { size := 4, ops := [.vec a.toNat 1, .vec d.toNat 4] }
  | .atomicPerform _ _ => { size := 0, ops := [] }
  | .redAddI32 _ _ a d => { size := 4, ops := [.vec a.toNat 1, .vec d.toNat 1] }
  | .redMinI32 _ _ a d => { size := 4, ops := [.vec a.toNat 1, .vec d.toNat 1] }
  | .redMaxI32 _ _ a d => { size := 4, ops := [.vec a.toNat 1, .vec d.toNat 1] }
  | .redMinN32 _ _ a d => { size := 4, ops := [.vec a.toNat 1, .vec d.toNat 1] }
  | .redMaxN32 _ _ a d => { size := 4, ops := [.vec a.toNat 1, .vec d.toNat 1] }
  | .redAnd _ _ a d => { size := 4, ops := [.vec a.toNat 1, .vec d.toNat 1] }
  | .redOr _ _ a d => { size := 4, ops := [.vec a.toNat 1, .vec d.toNat 1] }
  | .redXor _ _ a d => { size := 4, ops := [.vec a.toNat 1, .vec d.toNat 1] }
  | .redAddF32 _ _ a d => { size := 4, ops := [.vec a.toNat 1, .vec d.toNat 1] }
  | .redMinF32 _ _ a d => { size := 4, ops := [.vec a.toNat 1, .vec d.toNat 1] }
  | .redMaxF32 _ _ a d => { size := 4, ops := [.vec a.toNat 1, .vec d.toNat 1] }
  | .redAxpyF32 _ _ a d => { size := 4, ops := [.vec a.toNat 1, .vec d.toNat 2] }
  | .reductionApply _ => { size := 0, ops := [] }
  | .rwlTryrd _ _ a d => { size := 4, ops := [.vec a.toNat 1, .vec d.toNat 2] }
  | .rwlTrywr _ _ a d => { size := 4, ops := [.vec a.toNat 1, .vec d.toNat 2] }
  | .rwlRelrd _ _ a d => { size := 4, ops := [.vec a.toNat 1, .vec d.toNat 2] }
  | .rwlRelwr _ _ a d => { size := 4, ops := [.vec a.toNat 1, .vec d.toNat 2] }
  | .rwlSetpref _ _ a d => { size := 4, ops := [.vec a.toNat 1, .vec d.toNat 2] }
  | .togen p a d => { size := 4, ops := [.le p.toNat 3, .vec a.toNat (if p = 0 then 2 else 1), .vec d.toNat 2] }
  | .ofgen p a d => { size := 4, ops := [.le p.toNat 3, .vec a.toNat 2, .vec d.toNat 2] }
  | .isin p a m => { size := 4, ops := [.le p.toNat 3, .vec a.toNat 2, .mask m.toNat] }
  | .barInit a _ => { size := 4, ops := [.sca a.toNat 1] }
  | .barArrive a _ => { size := 4, ops := [.sca a.toNat 1] }
  | .barArrwait a _ => { size := 4, ops := [.sca a.toNat 1], last := true }
  | .barWait _ => { size := 4, ops := [], last := true }
  | .barRarrive b a _ => { size := 4, ops := [.sca b.toNat 1, .sca a.toNat 1], sys := true }
  | .barQuery a _ => { size := 4, ops := [.sca a.toNat 1] }
  | .copy x _ _ _ _ _ _ => { size := 4, ops := [.le x.toNat 3] }
  | .sealBatch d => { size := 4, ops := [.sca d.toNat 1] }
  | .cwait a d => { size := 4, ops := [.sca a.toNat 1, .sca d.toNat 1] }
  | .lyset a _ => { size := 4, ops := [.sca a.toNat 1] }
  | .carcfg a _ => { size := 4, ops := [.sca a.toNat 1] }
  | .ctake b a _ => { size := 4, ops := [.sca b.toNat 1, .sca a.toNat 1], last := true }
  | .cfree a _ => { size := 4, ops := [.sca a.toNat 1] }
  | .bccrd d => { size := 4, ops := [.sca d.toNat 1] }
  | .fcopyTo s _ _ _ => { size := 4, ops := [.sca s.toNat 1] }
  | .fcopyFrom s _ _ _ => { size := 4, ops := [.sca s.toNat 1] }
  | .copyEngineStart _ _ => { size := 0, ops := [] }
  | .copyDataLanded _ _ => { size := 0, ops := [] }
  | .copyComplete _ _ => { size := 0, ops := [] }
  | .cwaitComplete _ _ => { size := 0, ops := [] }
  | .fcopyAck _ _ => { size := 0, ops := [] }
  | .fabricWritePerform _ _ _ _ => { size := 0, ops := [] }
  | .uetPacketDrop _ => { size := 0, ops := [] }
  | .msetSlot a _ => { size := 4, ops := [.sca a.toNat 1] }
  | .mloadb _ _ => { size := 4, ops := [] }
  | .mmul _ => { size := 4, ops := [] }
  | .scacc _ => { size := 4, ops := [] }
  | .mrel a => { size := 4, ops := [.sca a.toNat 1] }
  | .mstat d => { size := 4, ops := [.sca d.toNat 1] }
  | .matrixCommandComplete _ _ => { size := 0, ops := [] }
  | .gadde b a d => { size := 4, ops := [.vec b.toNat 1, .vec a.toNat 1, .vec d.toNat 1] }
  | .grme b a d => { size := 4, ops := [.vec b.toNat 1, .vec a.toNat 1, .vec d.toNat 1] }
  | .gsetw b a d => { size := 4, ops := [.vec b.toNat 1, .vec a.toNat 1, .vec d.toNat 1] }
  | .gdegOut a d => { size := 4, ops := [.vec a.toNat 1, .vec d.toNat 1] }
  | .gdegIn a d => { size := 4, ops := [.vec a.toNat 1, .vec d.toNat 1] }
  | .gldOut b a d => { size := 4, ops := [.vec b.toNat 1, .vec a.toNat 1, .vec d.toNat 2] }
  | .gldIn b a d => { size := 4, ops := [.vec b.toNat 1, .vec a.toNat 1, .vec d.toNat 2] }
  | .gfindOut b a d => { size := 4, ops := [.vec b.toNat 1, .vec a.toNat 1, .vec d.toNat 1] }
  | .gfindIn b a d => { size := 4, ops := [.vec b.toNat 1, .vec a.toNat 1, .vec d.toNat 1] }
  | .gvld a d => { size := 4, ops := [.vec a.toNat 1, .vec d.toNat 2] }
  | .gvst a d => { size := 4, ops := [.vec a.toNat 1, .vec d.toNat 2] }
  | .copenOut _ a d => { size := 4, ops := [.vec a.toNat 1, .vec d.toNat 1] }
  | .copenIn _ a d => { size := 4, ops := [.vec a.toNat 1, .vec d.toNat 1] }
  | .cnext _ d => { size := 4, ops := [.vec d.toNat 2] }
  | .cseek _ a => { size := 4, ops := [.vec a.toNat 1] }
  | .cclose _ => { size := 4, ops := [] }
  | .crank _ d => { size := 4, ops := [.vec d.toNat 1] }
  | .graphOpComplete _ _ => { size := 0, ops := [] }
  | .versionReclaim _ => { size := 0, ops := [] }
  | .gnew b a d => { size := 4, ops := [.sca b.toNat 1, .sca a.toNat 1, .sca d.toNat 1] }
  | .gfree a => { size := 4, ops := [.sca a.toNat 1] }
  | .gsel a => { size := 4, ops := [.sca a.toNat 1] }
  | .gstat a d => { size := 4, ops := [.sca a.toNat 1, .sca d.toNat 1] }
  | .spawnV a => { size := 4, ops := [.vec a.toNat 7] }
  | .spawnS a => { size := 4, ops := [.sca a.toNat 3] }
  | .dequeRefill _ => { size := 0, ops := [] }
  | .jcadd b a d => { size := 4, ops := [.vec b.toNat 1, .vec a.toNat 2, .vec d.toNat 1] }
  | .jcaddPerform _ _ => { size := 0, ops := [] }
  | .launch b a d => { size := 4, ops := [.sca b.toNat 1, .sca a.toNat 1, .sca d.toNat 1] }
  | .cancelLaunch a => { size := 4, ops := [.sca a.toNat 1] }
  | .cancelChain a => { size := 4, ops := [.sca a.toNat 1] }
  | .cancelPhase a => { size := 4, ops := [.sca a.toNat 1] }
  | .cancelJob a => { size := 4, ops := [.sca a.toNat 1] }
  | .lvwait a => { size := 4, ops := [.sca a.toNat 1] }
  | .lvwaitComplete _ _ => { size := 0, ops := [] }
  | .setprio a => { size := 4, ops := [.sca a.toNat 1] }
  | .launchAccept _ => { size := 0, ops := [] }
  | .placementDecision _ => { size := 0, ops := [] }
  | .dispatch _ => { size := 0, ops := [] }
  | .gangRetirement _ => { size := 0, ops := [] }
  | .rpub b a s => { size := 4, ops := [.sca b.toNat 1, .sca a.toNat 1, .le s.toNat 4] }
  | .rpubk b a s => { size := 4, ops := [.sca b.toNat 1, .sca a.toNat 1, .le s.toNat 4] }
  | .rread b a s => { size := 4, ops := [.sca b.toNat 1, .sca a.toNat 1, .le s.toNat 4] }
  | .rver a d => { size := 4, ops := [.sca a.toNat 1, .sca d.toNat 1] }
  | .rsubRerun b a => { size := 4, ops := [.sca b.toNat 4, .sca a.toNat 1] }
  | .rsubCancel b a => { size := 4, ops := [.sca b.toNat 4, .sca a.toNat 1] }
  | .runsub b a => { size := 4, ops := [.sca b.toNat 1, .sca a.toNat 1] }
  | .rstop a => { size := 4, ops := [.sca a.toNat 1] }
  | .rsettle a => { size := 4, ops := [.sca a.toNat 1] }
  | .rinit b a k => { size := 4, ops := [.sca b.toNat 1, .sca a.toNat 1, .le k.toNat 6] }
  | .refOpPerform _ _ => { size := 0, ops := [] }
  | .rsettleComplete _ _ => { size := 0, ops := [] }
  | .embcfg a _ => { size := 4, ops := [.sca a.toNat 1] }
  | .embag b a _ => { size := 4, ops := [.sca b.toNat 1, .sca a.toNat 1] }
  | .embagComplete _ _ => { size := 0, ops := [] }
  | .trap _ => { size := 4, ops := [] }
  | .brk => { size := 4, ops := [] }
  | .tret => { size := 4, ops := [] }
  | .tretNext => { size := 4, ops := [] }
  | .sretResume b a => { size := 4, ops := [.sca b.toNat 1, .sca a.toNat 1], sys := true }
  | .sretRefuse b a => { size := 4, ops := [.sca b.toNat 1, .sca a.toNat 1], sys := true }
  | .sretKill b a => { size := 4, ops := [.sca b.toNat 1, .sca a.toNat 1], sys := true }
  | .sretSave b a => { size := 4, ops := [.sca b.toNat 1, .sca a.toNat 1], sys := true }
  | .sretRestore b a => { size := 4, ops := [.sca b.toNat 1, .sca a.toNat 1], sys := true }
  | .sretRollback b a => { size := 4, ops := [.sca b.toNat 1, .sca a.toNat 1], sys := true }
  | .rdcyc d => { size := 4, ops := [.sca d.toNat 1] }
  | .rdperf a d => { size := 4, ops := [.sca a.toNat 1, .sca d.toNat 1] }
  | .fsclr => { size := 4, ops := [] }
  | .tlbinvPage b a _ => { size := 4, ops := [.sca b.toNat 1, .sca a.toNat 1], sys := true }
  | .tlbinvAsid b a _ => { size := 4, ops := [.sca b.toNat 1, .sca a.toNat 1], sys := true }
  | .tlbinvAll b a _ => { size := 4, ops := [.sca b.toNat 1, .sca a.toNat 1], sys := true }
  | .tlbinvComplete _ _ => { size := 0, ops := [] }
  | .halt => { size := 4, ops := [], sys := true }
  | .haltComplete _ _ => { size := 0, ops := [] }
  | .pfetch _ s a t => { size := 4, ops := [.vec a.toNat 1, .sca s.toNat 1, .le t.toNat 1] }
  | .saveStream _ => { size := 0, ops := [] }
  | .deadlineOverrun _ => { size := 0, ops := [] }
  | .qput _ _ _ _ => { size := 0, ops := [] }
  | .write _ _ _ _ => { size := 0, ops := [] }
  | .read _ _ _ _ => { size := 0, ops := [] }
  | .cread _ _ => { size := 0, ops := [] }
  | .phase _ _ _ => { size := 0, ops := [] }
  | .phaseBoundary _ _ => { size := 0, ops := [] }
  | .debugHalt _ _ => { size := 0, ops := [] }
  | .debugStep _ _ => { size := 0, ops := [] }
  | .debugResume _ _ _ => { size := 0, ops := [] }
  | .debugInspect _ _ _ => { size := 0, ops := [] }
  | .debugWrite _ _ _ _ => { size := 0, ops := [] }
  | .debugWatchSet _ _ _ => { size := 0, ops := [] }
  | .measurementRead _ _ _ _ => { size := 0, ops := [] }
  | .markExecutable _ _ => { size := 0, ops := [] }
  | .spdmMeasurement _ => { size := 0, ops := [] }
  | .telemetryRead _ => { size := 0, ops := [] }
  | .powerCapSet _ _ => { size := 0, ops := [] }
  | .retrainRequest _ _ => { size := 0, ops := [] }
  | .retrainTimeout _ => { size := 0, ops := [] }
  | .droopDetected _ => { size := 0, ops := [] }
  | .powerCapExceeded _ => { size := 0, ops := [] }
  | .correctedSoftError _ _ => { size := 0, ops := [] }
  | .uncorrectableError _ _ => { size := 0, ops := [] }
  | .dieReset _ => { size := 0, ops := [] }
  | .retrainEnd _ => { size := 0, ops := [] }
  | .stretchEnd _ => { size := 0, ops := [] }
  | .deliveryFailure _ => { size := 0, ops := [] }
  | .fcopyFromRemoteRead _ _ _ _ => { size := 0, ops := [] }
  | .deviceRuntimeRestart _ => { size := 0, ops := [] }

/-- Whether the instruction is a word (an event has none). -/
def Instr.isWord (i : Instr) : Bool := decide (i.sig.size ≠ 0)

/-- Whether every operand code of the instruction is assigned (R50-R53): what `Assigned` of R57 asks beyond the layout
itself, which a constructor of `Instr` cannot break. -/
def Instr.wf (i : Instr) : Bool := i.isWord && i.sig.ops.all Operand.ok

end Sys2Proof
end

