-- ==== Sys2Proof/Machine/Ops.lean ====
section
/-!
DEFINITION. The named operations over the state: gangs, teams, CUs and dies by number; the launch packet's fields; the event ring and
the runtime's requests (R344, R350); taking a trap and returning from one (R347-R349, R133, R149); and the
issue of a word, from IssueCheck (R57) to the next word.
-/
namespace Sys2Proof.Machine

/-- The outcome of a step of this machine. -/
abbrev Result := Host.Outcome State Fault Refusal

/-! ## Gangs, teams, CUs and dies by number -/

/-- The gang numbered `i`. -/
def State.gang? (s : State) (i : Nat) : Option Gang := s.gangs.find? fun g => decide (g.id = i)

/-- Stores a gang under its number. -/
def State.setGang (s : State) (g : Gang) : State := { s with gangs := s.gangs.map fun x => if x.id = g.id then g else x }

/-- Changes the gang numbered `i`. -/
def State.onGang (s : State) (i : Nat) (f : Gang → Gang) : State := { s with gangs := s.gangs.map fun x => if x.id = i then f x else x }

/-- The team numbered `i`. -/
def State.team? (s : State) (i : Nat) : Option Team := s.teams.find? fun t => decide (t.id = i)

/-- What stands for a team that is not resident: it has nothing. -/
def noTeam : Team := { id := 0, origin := {}, cu := 0 }

/-- The team of a gang. -/
def State.teamOf (s : State) (g : Gang) : Team := (s.team? g.team).getD noTeam

/-- Changes the team numbered `i`. -/
def State.onTeam (s : State) (i : Nat) (f : Team → Team) : State := { s with teams := s.teams.map fun x => if x.id = i then f x else x }

/-- The CU numbered `n`. -/
def State.cu (s : State) (n : Nat) : Cu := entry {} s.cus n
/-- Changes the CU numbered `n`. -/
def State.onCu (s : State) (n : Nat) (f : Cu → Cu) : State := { s with cus := setEntry s.cus n (f (s.cu n)) }

/-- The die numbered `n`. -/
def State.die (s : State) (n : Nat) : Die := entry {} s.dies n
/-- Changes the die numbered `n`. -/
def State.onDie (s : State) (n : Nat) (f : Die → Die) : State := { s with dies := setEntry s.dies n (f (s.die n)) }

/-- The cluster of a CU (R12). -/
def clusterOf (cu : Nat) : Nat := cu / 8
/-- The die of a CU (R12). -/
def dieOf (cu : Nat) : Nat := cu / 144

/-- The CU on which a gang runs. -/
def State.cuOf (s : State) (g : Gang) : Nat := (s.teamOf g).cu

/-- A fresh number for an operation, a gang, a team, a clause or a group. -/
def State.bump (s : State) : State := { s with serial := s.serial + 1 }

/-- Sends a message out of the module. -/
def State.send (s : State) (m : Message) : State := { s with outbox := s.outbox ++ [m] }

/-- The number behind the next name that the device gives, past the one that would give the name 0 (log 9). -/
def nextName {w : Nat} (n : Nat) (mask : BitVec w) : Nat := if BitVec.ofNat w n ^^^ mask = 0 then n + 1 else n

/-! ## The launch packet (R281) -/

def pktKind (p : BitVec 512) : Nat := fld p 7 0
def pktPrio (p : BitVec 512) : Nat := fld p 12 8
/-- The gang width: 16, 32 or 64. -/
def pktWidth (p : BitVec 512) : Nat := 16 * 2 ^ fld p 14 13
/-- Gangs per team. -/
def pktGangs (p : BitVec 512) : Nat := fld p 19 16 + 1
/-- Vector registers. -/
def pktVregs (p : BitVec 512) : Nat := 8 * (fld p 23 20 + 1)
/-- Scratch bytes per team. -/
def pktScratch (p : BitVec 512) : Nat := 4096 * fld p 30 24
def pktMacros (p : BitVec 512) : Nat := fld p 35 32
def pktBarriers (p : BitVec 512) : Nat := fld p 40 36
def pktCarousels (p : BitVec 512) : Nat := fld p 45 41
def pktGroup (p : BitVec 512) : Nat := fld p 49 46
def pktCode (p : BitVec 512) : W64 := BitVec.ofNat 64 (fld p 119 64)
def pktArg (p : BitVec 512) : W64 := BitVec.ofNat 64 (fld p 191 128)
def pktCount (p : BitVec 512) : Nat := fld p 223 192
def pktLtg (p : BitVec 512) : Nat := fld p 236 224
def pktDies (p : BitVec 512) : Nat := fld p 259 256
def pktClusters (p : BitVec 512) : Nat := fld p 277 260
def pktOne (p : BitVec 512) : Bool := p.getLsbD 278
def pktCu (p : BitVec 512) : Nat := fld p 281 279
def pktChain (p : BitVec 512) : BitVec 12 := BitVec.ofNat 12 (fld p 331 320)
def pktPhase (p : BitVec 512) : BitVec 12 := BitVec.ofNat 12 (fld p 347 336)
def pktJob (p : BitVec 512) : BitVec 16 := BitVec.ofNat 16 (fld p 367 352)
def pktCounter (p : BitVec 512) : Nat := fld p 412 384
def pktTvec (p : BitVec 512) : BitVec 56 := BitVec.ofNat 56 (fld p 503 448)

/-- What a read-only special register shows: `v`, unless a debugger has written it (R92, R360). -/
def Gang.showing (g : Gang) (n : Nat) (v : W64) : W64 := (entry? g.shown n).getD v

/-- sr.launch, sr.chain, sr.phase and sr.job: those of the gang's launch, the chain of its team (R92, R289). -/
def State.launchOf (s : State) (g : Gang) : W32 := (g.showing 4 ((s.teamOf g).origin.id.setWidth 64)).setWidth 32
def State.chainOf (s : State) (g : Gang) : BitVec 12 := (g.showing 5 ((s.teamOf g).chain.setWidth 64)).setWidth 12
def State.phaseOf (s : State) (g : Gang) : BitVec 12 := (g.showing 6 ((pktPhase (s.teamOf g).origin.packet).setWidth 64)).setWidth 12
def State.jobOf (s : State) (g : Gang) : BitVec 16 := (g.showing 7 ((pktJob (s.teamOf g).origin.packet).setWidth 64)).setWidth 16

/-- A gang's address space (R286), and whether it runs in system mode (R339). -/
def State.asidOf (s : State) (g : Gang) : BitVec 8 := (s.teamOf g).origin.asid
def State.system (s : State) (g : Gang) : Bool := decide (s.asidOf g = 0)

/-! ## The event ring and the requests (R344, R350) -/

/-- The record as it lies in the ring. -/
def EventRecord.word (r : EventRecord) : BitVec 256 :=
  BitVec.ofNat 256 (r.kind.toNat + r.cause.toNat * 2 ^ 8 + r.tag.toNat * 2 ^ 96 + r.handle.toNat * 2 ^ 128 + r.addr.toNat * 2 ^ 192)

/-- Whether the ring of a die takes one more record (R344). -/
def Die.ringRoom (d : Die) : Bool := d.hasRing && decide (d.evtail - d.evhead ≠ 2048)

/-- Writes the oldest waiting record of a die, if the ring has room. -/
def State.ringOne (d : Nat) (s : State) : Option State :=
  match (s.die d).pending with
  | [] => none
  | r :: rest =>
    if (s.die d).ringRoom then
      let off := (s.die d).evring.toNat * 65536 + 32 * ((s.die d).evtail.toNat % 2048)
      some (({ s with common := storeNat s.common off 32 r.word.toNat }).onDie d fun x => { x with pending := rest, evtail := x.evtail + 1 })
    else none

/-- Writes every waiting record that the ring of a die has room for. -/
def State.flushRing (s : State) (d : Nat) : State := exhaust (State.ringOne d) (s.die d).pending.length s

/-- Puts a record on the ring of a die; it waits where there is no room (R344). -/
def State.record (s : State) (d : Nat) (kind cause : Nat) (tag : W32) (handle addr : W64) : State :=
  (s.onDie d fun x => { x with pending := x.pending ++ [EventRecord.mk addr handle tag (BitVec.ofNat 8 cause) (BitVec.ofNat 8 kind)] }).flushRing d

/-- The handle that names no team (R344). -/
def noHandle : W64 := 0xFFFFFFFFFFFFFFFF

/-- The handle of a gang's team, or of a task gang (R344). -/
def handleOf (t : Team) (g : Gang) : W64 :=
  if t.isTask then BitVec.ofNat 64 (t.origin.id.toNat + 0xFFFF * 2 ^ 32 + t.cu * 2 ^ 48 + g.gslot * 2 ^ 58)
  else BitVec.ofNat 64 (t.origin.id.toNat + t.index % 65536 * 2 ^ 32)

/-- The handle of a gang. -/
def State.handle (s : State) (g : Gang) : W64 := handleOf (s.teamOf g) g

/-- The TAG the next request takes (R350; log 9). -/
def State.freshTag (s : State) : W32 := BitVec.ofNat 32 s.named ^^^ Config.tagMask

/-- Reports a fault or a want of room to the runtime under a fresh TAG (R350). -/
def State.request (s : State) (d kind cause : Nat) (handle addr : W64) (what : Pending) : State :=
  ({ s with named := s.named + 1, requests := s.requests ++ [TagReq.mk s.freshTag addr what] }).record d kind cause s.freshTag handle addr

/-! ## Trap causes (R346) -/

def ILLEGAL_ENCODING : Nat := 0x01
def PRIVILEGE        : Nat := 0x02
def CLAUSE_FORM      : Nat := 0x03
def ADDRESS_WINDOW   : Nat := 0x04
def ALIGNMENT        : Nat := 0x05
def PAGE_NOT_PRESENT : Nat := 0x06
def PAGE_PROTECTION  : Nat := 0x07
def SCRATCH_RANGE    : Nat := 0x08
def TABLE_RANGE      : Nat := 0x09
def SELECTOR_CORRUPT : Nat := 0x0A
def GRAPH_HANDLE     : Nat := 0x0B
def GRAPH_CAPACITY   : Nat := 0x0C
def CURSOR_STATE     : Nat := 0x0D
def MATRIX_SLOT      : Nat := 0x0E
def CAROUSEL         : Nat := 0x0F
def SOFTWARE_TRAP    : Nat := 0x10
def BREAKPOINT       : Nat := 0x11
def VERSION_OVERFLOW : Nat := 0x12
def BARRIER_STATE    : Nat := 0x13
def REGISTER_RANGE   : Nat := 0x14
def UNCORRECTABLE    : Nat := 0x15

/-! ## Code addresses -/

/-- A code address in the 56-bit virtual space (R92 sr.tpc, R165). -/
def pcOf (x : W64) : W64 := x &&& 0x00FFFFFFFFFFFFFF

/-- Where the word after a word of `size` bytes stands: in the body, or at the next header position (R54, R126). -/
def nextAt (f : Flight) (size : Nat) : W64 × Option BodyAt :=
  (pcOf (f.pc + BitVec.ofNat 64 size), match f.place with
    | some b => if b.left ≤ 1 then none else some { b with left := b.left - 1 }
    | none => none)

/-! ## Taking a trap -/

/-- The lanes of a set that stand at the first header of their handler (R348). -/
def Gang.entering (g : Gang) (t : Lanes) : Lanes := lanesWhere t fun l => (g.thread l).entering

/-- k0-k7 of a thread, for its trap copy (R133). -/
def Thread.temps (t : Thread) : Cells 32 := between t.vregs 120 128

/-- One lane takes a trap: it records the delivery and goes to the header position at sr.tvec (R347). -/
def Thread.deliver (cause : Nat) (f : Flight) (mask : Lanes) (addr : W64) (next : W64 × Option BodyAt) (grp : Option Nat) (tvec : W64)
    (t : Thread) : Thread :=
  { t with
    delivery := some
      { cause := BitVec.ofNat 8 cause, pc := f.pc, mask := mask, addr := addr, rePc := f.pc, reAt := f.place, nextPc := next.1, nextAt := next.2,
        via := t.via, temps := t.temps, clause := t.clause, unreturned := true, grp := grp }
    pc := tvec, place := none, status := .ready, waited := 0, yielded := false, via := 0, entering := true, clause := 0 }

/-- The lanes that cannot start a handler: sr.tvec is 0, or they were about to start one (R348). -/
def Gang.unhandled (g : Gang) (t : Lanes) : Lanes := if g.tvec = 0 then t else g.entering t

/-- A number that no withheld group of the gang has. -/
def Gang.freshGroup (g : Gang) : Nat := (g.withheld.map Withheld.id).foldl max 0 + 1

/-- The gang after a cause in lanes `t` of the flight `f`: lanes of `t` are delivered or held, the others are withheld as a new group
(R347, R348, R149). With `skip`, `tret:at=next` passes over the word of `size` bytes; otherwise it returns to it (R59, R349). -/
def Gang.trapped (g : Gang) (f : Flight) (cause : Nat) (t : Lanes) (addr : W64) (skip : Bool) (size : Nat) : Gang :=
  let grp := g.freshGroup
  let others := f.lanes &&& ~~~t
  let group := if others = 0 then none else some grp
  let next := if skip then nextAt f size else (f.pc, f.place)
  let stay : Thread → Thread := fun x => { x with pc := f.pc, place := f.place, waited := 0, yielded := false }
  let g1 := g.mapLanes (t &&& ~~~g.unhandled t) fun _ x => x.deliver cause f t addr next group (g.tvec.setWidth 64)
  let g2 := g1.mapLanes (g.unhandled t) fun _ x => { stay x with status := .held }
  let g3 := g2.mapLanes others fun _ x => { stay x with status := .withheld grp }
  { g3 with
    flight := none
    pastWatch := false
    halt := if g.halt = .stepping then .halted else g.halt
    withheld := if others = 0 then g.withheld else g.withheld ++ [⟨grp, others, t⟩] }

/-- The cause a NOHANDLER record gives: that of the delivery whose handler cannot start (R348). -/
def Gang.lostCause (g : Gang) (cause : Nat) (t : Lanes) : Nat :=
  if g.tvec = 0 then cause
  else match (g.thread (lowestLane (g.entering t))).delivery with
    | some d => d.cause.toNat
    | none => cause

/-- Takes a trap with the given cause in lanes `t` of the gang's flight (R347, R348). A gang in system mode stops, and the management
controller is told. -/
def State.trap (s : State) (g : Gang) (f : Flight) (cause : Nat) (t : Lanes) (addr : W64) (skip : Bool) (size : Nat) : State :=
  let die := dieOf (s.cuOf g)
  if s.system g then
    (s.setGang { g with flight := some f, crashed := true }).send (.systemFault die (BitVec.ofNat 8 cause))
  else
    let s1 := s.setGang ((g.trapped f cause t addr skip size).settle)
    if g.unhandled t = 0 then s1 else s1.record die 5 (g.lostCause cause t) 0 (s.handle g) 0

/-- Suspends a gang at its word of a size, or at the word's fetch, and reports the fault of lanes `t` to the runtime (R350). At a header position no
sub-group is in flight any more. -/
def State.suspend (s : State) (g : Gang) (f : Flight) (t : Lanes) (addr : W64) (size : Option Nat) : State :=
  let die := dieOf (s.cuOf g)
  if s.system g then
    (s.setGang { g with flight := some f, crashed := true }).send (.systemFault die (BitVec.ofNat 8 PAGE_NOT_PRESENT))
  else
    (s.setGang { g with suspended := some s.freshTag, flight := if f.place = none then none else some f }).request
      die 1 PAGE_NOT_PRESENT (s.handle g) addr (.word g.id t size)

/-! ## Returning from a trap (R349) -/

/-- Whether a delivery came from a word that `tret:at=next` passes over as a nop that was issued: one that IssueCheck refused in a body (R59). -/
def Delivery.passesNop (d : Delivery) : Bool :=
  d.reAt.isSome && decide (d.rePc ≠ d.nextPc) && [ILLEGAL_ENCODING, PRIVILEGE, REGISTER_RANGE].contains d.cause.toNat

/-- One lane returns from its latest delivery: to the trapping word, or to the word after it with `next`. Past the last word of a body its temporaries
are dead (R132, R133). -/
def Thread.tret (next : Bool) (t : Thread) : Thread :=
  match t.delivery with
  | none => t
  | some d =>
    { t with
      pc := if next then d.nextPc else d.rePc
      place := if next then d.nextAt else d.reAt
      vregs := outside t.vregs 120 128 ++ between d.temps 120 128
      bad := t.bad.filter fun n => decide (n < 120)
      clause := if (if next then d.nextAt else d.reAt).isSome then d.clause else 0
      delivery := some { d with unreturned := false, grp := none }
      status := .ready, waited := 0, yielded := false, entering := false
      via := if next && d.reAt.isSome then 0 else d.via }

/-- The groups that wait for lane `l`'s delivery no longer do. -/
def Gang.returned (g : Gang) (t : Lanes) : List Withheld :=
  g.withheld.map fun w => { w with waiting := w.waiting &&& ~~~(lanesWhere t fun l => match (g.thread l).delivery with
    | some d => decide (d.grp = some w.id)
    | none => false) }

/-- The lanes of a set that hold an unreturned delivery. -/
def Gang.unreturned (g : Gang) (t : Lanes) : Lanes := lanesWhere t fun l => match (g.thread l).delivery with
  | some d => d.unreturned
  | none => false

/-- The lanes of `t` whose return passes over a word as a nop (R59). -/
def Gang.nopped (g : Gang) (t : Lanes) : Lanes := lanesWhere t fun l => ((g.thread l).delivery.map Delivery.passesNop).getD false

/-- Counts the nop that stands for a word passed over (R59, R342). -/
def Gang.countNop (g : Gang) (t : Lanes) : Gang :=
  if t = 0 then g else { g with words := g.words + 1, laneOps := g.laneOps + BitVec.ofNat 64 (laneCount t) }

/-- Every lane of `t` returns. -/
def Gang.tret (g : Gang) (t : Lanes) (next : Bool) : Gang :=
  let g1 := g.countNop (if next then g.nopped t else 0)
  { g1.mapLanes t (fun _ x => x.tret next) with flight := none, withheld := g.returned t }

/-! ## Issuing a word -/

/-- A word that has passed IssueCheck: the state, the gang, its flight, the place in the body and the word's length. -/
structure Issue where
  s    : State
  g    : Gang
  f    : Flight
  b    : BodyAt
  size : Nat

/-- The lanes of the issuing sub-group. -/
def Issue.lanes (x : Issue) : Lanes := x.f.lanes

/-- Counts an issued word (R342). -/
def Gang.counted (g : Gang) (f : Flight) : Gang :=
  { g with words := g.words + 1, laneOps := g.laneOps + BitVec.ofNat 64 (laneCount f.lanes), pastWatch := false }

/-- The issuing sub-group goes on to the next word of its body, or to the next header position (R126). -/
def Gang.advance (g : Gang) (f : Flight) (size : Nat) : Gang :=
  let n := nextAt f size
  let g1 := g.counted f
  match n.2 with
  | some b => { g1 with flight := some { f with pc := n.1, place := some b } }
  | none =>
    { g1.mapLanes f.lanes (fun _ t => { t with pc := n.1, place := none, status := .ready, via := 0, clause := 0 }) with flight := none }

/-- Whether a holding word still reads registers once its members have gathered (R152). -/
def Hold.exchanges : Hold → Bool
  | .member _ _ => true
  | _ => false

/-- The issuing sub-group blocks at its holding word (R128); the body is over unless the word is an exchange, which executes later (R132, R152). -/
def Gang.block (g : Gang) (f : Flight) (h : Hold) : Gang :=
  { (g.counted f).mapLanes f.lanes (fun _ t =>
      { t with pc := f.pc, place := none, status := .blocked h, via := 0, clause := if h.exchanges then t.clause else 0 }) with flight := none }

/-- The word is done and left the gang as `g`; the state around it is `s`. -/
def Issue.doneIn (x : Issue) (s : State) (g : Gang) : Result := .next (s.setGang (g.advance x.f x.size).settle)

/-- The word is done and left the gang as `g`. -/
def Issue.done (x : Issue) (g : Gang) : Result := x.doneIn x.s g

/-- The word raises a cause of its own in the lanes `t`: `tret:at=next` then passes over it (R349). -/
def Issue.raise (x : Issue) (cause : Nat) (t : Lanes) (addr : W64) : Result := .next (x.s.trap x.g x.f cause t addr true x.size)

/-- The word stalls in place (R127). -/
def Issue.stall (x : Issue) (st : Stall) : Result := .next (x.s.setGang { x.g with stall := some st })

/-- The word stalls in place, after a change of the state around it. -/
def Issue.stallIn (x : Issue) (s : State) (st : Stall) : Result := .next (s.setGang { x.g with stall := some st })

/-- The word suspends the gang: lanes `t` met a page that is not present (R169, R350). -/
def Issue.suspend (x : Issue) (t : Lanes) (addr : W64) : Result := .next (x.s.suspend x.g x.f t addr (some x.size))

/-- Takes the first trap whose lanes are not empty, in the order given; each names its address by its lowest lane (R169). -/
def Issue.checks (x : Issue) (cs : List (Nat × Lanes × (Nat → W64))) (k : Result) : Result :=
  match cs with
  | [] => k
  | (cause, t, addr) :: r => if t = 0 then x.checks r k else x.raise cause t (addr (lowestLane t))

/-- A control transfer: each lane of `s` goes to the header position of its target (R145-R148). Lanes outside `took` only fall through, so that no
transfer leads them there (R58). A whole transfer ends the waiting of its lanes, so that its counts of R139 are 0 also where a debug step took the sub-group up
at a body word, whose other words leave the counts alone (R156; log 54). -/
def Gang.transfer (g : Gang) (f : Flight) (s took : Lanes) (target : Nat → W64) : Gang :=
  { (g.counted f).mapLanes s (fun l t =>
      { t with
        pc := pcOf (target l), place := none, status := .ready, waited := 0, clause := 0
        via := if took.getLsbD l then f.pc else 0 }) with flight := none }

/-- IssueCheck of a body word (R57), then the word's own meaning. At a header position sr.taddr names the transfer that led there; where several led there, that of the lowest lane (R58; log 54). -/
def issue (sig : Sig) (s : State) (k : Issue → Result) : Result :=
  match s.focus.bind s.gang? with
  | none => .fault .noIssuer
  | some g => match g.flight with
    | none => .fault .noIssuer
    | some f => match f.place with
      | none => .next (s.trap g f CLAUSE_FORM f.lanes (g.thread (lowestLane f.lanes)).via false sig.size)
      | some b =>
        if !sig.ops.all Operand.ok then .next (s.trap g f ILLEGAL_ENCODING f.lanes 0 true sig.size)
        else if sig.last && decide (b.left ≠ 1) then .next (s.trap g f CLAUSE_FORM f.lanes 0 false sig.size)
        else if sig.sys && !s.system g then .next (s.trap g f PRIVILEGE f.lanes 0 true sig.size)
        else if sig.ops.any (Operand.beyond g.vcount) then .next (s.trap g f REGISTER_RANGE f.lanes 0 true sig.size)
        else k ⟨s, g, f, b, sig.size⟩

/-- A word that is no instruction (R57): at a header position CLAUSE_FORM, unless it has the header major; in a body
ILLEGAL_ENCODING, unless it has the header major. -/
def State.badWord (s : State) (g : Gang) (f : Flight) (headerMajor : Bool) (size : Nat) : State :=
  match f.place with
  | none =>
    if headerMajor then s.trap g f ILLEGAL_ENCODING f.lanes 0 false size
    else s.trap g f CLAUSE_FORM f.lanes (g.thread (lowestLane f.lanes)).via false size
  | some _ =>
    if headerMajor then s.trap g f CLAUSE_FORM f.lanes 0 false size
    else s.trap g f ILLEGAL_ENCODING f.lanes 0 true size

/-! ## Operations -/

/-- The operations whose results may supply a word that issues now, its control included: those that have landed a result and have not completed (R183). -/
def Gang.suppliers (g : Gang) : List Nat := (g.ops.filter fun o => decide (o.landed ≠ []) || o.slanded).map Op.id

/-- The operations whose results may supply a register of a lane that is read now (R183). -/
def Gang.suppliersOf (g : Gang) (l r : Nat) : List Nat := (g.ops.filter fun o => o.landed.contains (l, r)).map Op.id

/-- Whether every operation that may have supplied `o` has completed (R183). -/
def Gang.supplied (g : Gang) (o : Op) : Bool := o.after.all fun i => (g.op? i).isNone

/-- The lanes of `t` that are in another clause than the lowest of them, each with its own: lanes that began a clause apart and fused in its body (R132,
R138). -/
def Gang.strays (g : Gang) (t : Lanes) : List (Nat × Nat) :=
  ((lanesOf t).map fun l => (l, (g.thread l).clause)).filter fun e => decide (e.2 ≠ (g.thread (lowestLane t)).clause)

/-- The issuing gang with a new outstanding operation (R129). -/
def Issue.newOp (x : Issue) (g : Gang) (flag : Option Nat) (body : OpBody) (sland : List ScalarLanding := []) : Gang :=
  { g with ops := g.ops ++ [{
      id := x.s.serial, flag := flag, pc := x.f.pc, clause := (g.thread (lowestLane x.lanes)).clause, strays := g.strays x.lanes, sland := sland
      after := g.suppliers, body := body }] }

/-- Issues an operation on a flag: it stalls in place while the flag is at 63 (R129). `s` is the state around it. -/
def Issue.trackIn (x : Issue) (s : State) (g : Gang) (flag : Option Nat) (body : OpBody) : Result :=
  match flag with
  | some i => if 63 ≤ x.g.flag i then x.stall (.flagFull i) else x.doneIn s.bump (x.newOp g flag body)
  | none => x.doneIn s.bump (x.newOp g flag body)

/-- The flag of slot A of the current header (R130). -/
def Issue.slotA (x : Issue) : Option Nat := slotFlag x.b.slotA
/-- The flag of slot B of the current header (R130). -/
def Issue.slotB (x : Issue) : Option Nat := slotFlag x.b.slotB
/-- The flag a slot bit chooses (R130). -/
def Issue.slot (x : Issue) (bit : BitVec 1) : Option Nat := if bit = 0 then x.slotA else x.slotB

/-- Whether an earlier ld.acq or rread of the gang has not completed, so that a later memory access stalls (R179). -/
def Gang.acquiring (g : Gang) : Bool := g.ops.any fun o => match o.body with
  | .mem (.ldAcq _) _ => true
  | .ref (.rread _ _ _) _ => true
  | _ => false

end Sys2Proof.Machine
end

