-- ==== Sys2Proof/Machine/Boot.lean ====
section
/-!
DEFINITION. A loaded program for one word: a gang of the device runtime that stands at a word in its code page (log 3).
-/
namespace Sys2Proof.Machine

/-- The packet of the loaded team: one gang of 64 lanes with every register, all of the scratch, 8 macros, 16 barriers and 16 carousels. -/
def bootPacket : BitVec 512 :=
  BitVec.ofNat 512 (23 * 2 ^ 8 + 2 * 2 ^ 13 + 14 * 2 ^ 20 + 64 * 2 ^ 24 + 8 * 2 ^ 32 + 16 * 2 ^ 36 + 16 * 2 ^ 41 + 0x10000 * 2 ^ 64 + 2 ^ 192 + 2 ^ 256 + 2 ^ 260)

/-- The loaded team. -/
def bootTeam : Team :=
  { id := 1, origin := { id := 1, asid := 0, packet := bootPacket }, cu := 0, scratchZ := 262144, barCount := 16, carCount := 16, asked := 8
    macros := (List.range 8).map fun j => (j, {}) }

/-- The physical addresses of the address-space table, of the four tables of a walk, and of the frames of the data page and the code page. -/
def bootAst : Nat := 0x10000
def bootTable (lvl : Nat) : Nat := 0x10000 + 0x2000 * lvl
def bootData : Nat := 0x20000
def bootCode : Nat := 0x30000

/-- The page tables of address space 0: a data page at 0 and a code page at 0x10000, both used already. -/
def bootTables (m : List Host.Cell) : List Host.Cell :=
  let link := fun (m : List Host.Cell) (at_ child : Nat) => storeNat m at_ 8 (child + 1)
  let m1 := link (link (link (link m bootAst (bootTable 1)) (bootTable 1) (bootTable 2)) (bootTable 2) (bootTable 3)) (bootTable 3) (bootTable 4)
  storeNat (storeNat m1 (bootTable 4) 8 (bootData + 0xE3)) (bootTable 4 + 8) 8 (bootCode + 0xA5)

/-- The loaded gang: all its lanes are in flight at `pc`, at a header position or at the last word of a body. -/
def bootGang (pc : W64) (header : Bool) : Gang :=
  let place : Option BodyAt := if header then none else some ⟨0, 1, 1⟩
  { id := 2, team := 1, width := 64, vcount := 120, quads := 15, prio := 23
    threads := (List.range 64).map fun _ => { pc := pc, place := place, clause := 1 }
    flight := some ⟨BitVec.allOnes 64, pc, place⟩ }

/-- The state with the loaded gang at a word of bytes `bs`, and nothing else that could come first. -/
def State.boot (s : State) (header : Bool) (bs : List Byte) : State :=
  { s with
    gangs := [bootGang 0x10000 header], teams := [bootTeam], focus := none, cus := [], dies := [(0, { hasRing := true, evring := 1 })]
    phys := storeBytes (bootTables s.phys) bootCode bs
    ptbase := BitVec.ofNat 64 bootAst
    graph := {}, reds := [], queues := [], restores := [], savings := [], phases := [], hbmStacks := [], inputs := [], poisoned := []
    serial := 3 }

end Sys2Proof.Machine
end

