-- ==== Sys2Proof/Decode.lean ====
section
/-!
DEFINITION. The decoder, from the layouts of R46, R49 and each instruction's chapter, and after it the encoder written from
the same layouts. A word is first cut into its fields (`Layout`), then named. The definitions that build an `Instr` carry no
compiled code: the compiler admits no inductive of this many constructors; the kernel evaluates them.
-/
namespace Sys2Proof

noncomputable section

/-- The fields of a word: the 16-bit form of R46, or the common 32-bit form of R49. -/
inductive Layout where
  | short (i : BitVec 1) (b d : BitVec 5) (op : BitVec 4)
  | long (x : BitVec 4) (b a d : BitVec 7) (op : BitVec 6)
  deriving DecidableEq, Repr

/-- A 16-bit word cut into its fields (R46); bit 0 is the length bit. -/
def shortLayout (h : BitVec 16) : Layout :=
  .short (h.extractLsb' 15 1) (h.extractLsb' 10 5) (h.extractLsb' 5 5) (h.extractLsb' 1 4)

/-- A 32-bit word cut into its fields (R49). -/
def longLayout (w : W32) : Layout :=
  .long (w.extractLsb' 28 4) (w.extractLsb' 21 7) (w.extractLsb' 14 7) (w.extractLsb' 7 7) (w.extractLsb' 1 6)

/-- The instruction of a 16-bit layout (R47, R48). -/
def shortInstr (i : BitVec 1) (b d : BitVec 5) (op : BitVec 4) : Option Instr :=
  match op.toNat with
  | 0 => some (.movShort i b d)
  | 1 => some (.addI32Short i b d)
  | 2 => some (.subI32Short i b d)
  | 3 => some (.mulI32Short i b d)
  | 4 => some (.andShort i b d)
  | 5 => some (.orShort i b d)
  | 6 => some (.xorShort i b d)
  | 7 => some (.shlShort i b d)
  | 8 => some (.shrShort i b d)
  | 9 => some (.sarShort i b d)
  | 10 => some (.addF32Short i b d)
  | 11 => some (.subF32Short i b d)
  | 12 => some (.mulF32Short i b d)
  | 13 => some (.minF32Short i b d)
  | 14 => some (.maxF32Short i b d)
  | 15 => if i = 0 ∧ b = 0 ∧ d = 0 then some .nop else none
  | _ => none

/-- Major 0x00 (R55). -/
def major00 (x : BitVec 4) (b : BitVec 7) (a : BitVec 7) (d : BitVec 7) : Option Instr :=
  some (.clauseHeader x (b.extractLsb' 3 4) (b.extractLsb' 0 3 ++ a ++ d.extractLsb' 5 2) (d.extractLsb' 0 5))

/-- Major 0x01 (R55). -/
def major01 (x : BitVec 4) (b : BitVec 7) (a : BitVec 7) (d : BitVec 7) : Option Instr :=
  match x.toNat with
  | 0 => some (.addI32 b a d)
  | 1 => some (.subI32 b a d)
  | 2 => some (.mulI32 b a d)
  | 3 => some (.mulhiI32 b a d)
  | 4 => some (.mulhiN32 b a d)
  | 5 => some (.madI32 b a d)
  | 6 => some (.minI32 b a d)
  | 7 => some (.maxI32 b a d)
  | 8 => some (.minN32 b a d)
  | 9 => some (.maxN32 b a d)
  | 10 => some (.and b a d)
  | 11 => some (.or b a d)
  | 12 => some (.xor b a d)
  | 13 => some (.shl b a d)
  | 14 => some (.shr b a d)
  | 15 => some (.sar b a d)
  | _ => none

/-- Major 0x02 (R55). -/
def major02 (x : BitVec 4) (b : BitVec 7) (a : BitVec 7) (d : BitVec 7) : Option Instr :=
  match x.toNat with
  | 0 => if d.extractLsb' 3 4 = 0 then some (.rpub b a (d.extractLsb' 0 3))
         else none
  | 1 => if d.extractLsb' 3 4 = 0 then some (.rpubk b a (d.extractLsb' 0 3))
         else none
  | 2 => if d.extractLsb' 3 4 = 0 then some (.rread b a (d.extractLsb' 0 3))
         else none
  | 3 => if b = 0 then some (.rver a d)
         else none
  | 4 => if d = 0 then some (.rsubRerun b a)
         else if d = 1 then some (.rsubCancel b a)
         else none
  | 5 => if d = 0 then some (.runsub b a)
         else none
  | 6 => if b = 0 ∧ d = 0 then some (.rstop a)
         else none
  | 7 => if b = 0 ∧ d = 0 then some (.rsettle a)
         else none
  | 8 => if d.extractLsb' 3 4 = 0 then some (.rinit b a (d.extractLsb' 0 3))
         else none
  | _ => none

/-- Major 0x03 (R55). -/
def major03 (x : BitVec 4) (b : BitVec 7) (a : BitVec 7) (d : BitVec 7) : Option Instr :=
  some (.addi (x ++ b) a d)

/-- Major 0x04 (R55). -/
def major04 (x : BitVec 4) (b : BitVec 7) (a : BitVec 7) (d : BitVec 7) : Option Instr :=
  some (.muli (x ++ b) a d)

/-- Major 0x05 (R55). -/
def major05 (x : BitVec 4) (b : BitVec 7) (a : BitVec 7) (d : BitVec 7) : Option Instr :=
  some (.andi (x ++ b) a d)

/-- Major 0x06 (R55). -/
def major06 (x : BitVec 4) (b : BitVec 7) (a : BitVec 7) (d : BitVec 7) : Option Instr :=
  some (.ori (x ++ b) a d)

/-- Major 0x07 (R55). -/
def major07 (x : BitVec 4) (b : BitVec 7) (a : BitVec 7) (d : BitVec 7) : Option Instr :=
  some (.xori (x ++ b) a d)

/-- Major 0x08 (R55). -/
def major08 (x : BitVec 4) (b : BitVec 7) (a : BitVec 7) (d : BitVec 7) : Option Instr :=
  match x.toNat with
  | 0 => if b.extractLsb' 5 2 = 0 then some (.shiShl (b.extractLsb' 0 5) a d)
         else if b.extractLsb' 5 2 = 1 then some (.shiShr (b.extractLsb' 0 5) a d)
         else if b.extractLsb' 5 2 = 2 then some (.shiSar (b.extractLsb' 0 5) a d)
         else if b.extractLsb' 5 2 = 3 then some (.rol (b.extractLsb' 0 5) a d)
         else none
  | _ => none

/-- Major 0x09 (R55). -/
def major09 (x : BitVec 4) (b : BitVec 7) (a : BitVec 7) (d : BitVec 7) : Option Instr :=
  match x.toNat with
  | 0 => if b = 0 then some (.not a d)
         else if b = 1 then some (.negI32 a d)
         else if b = 2 then some (.absI32 a d)
         else if b = 3 then some (.popc a d)
         else if b = 4 then some (.clz a d)
         else if b = 5 then some (.ctz a d)
         else if b = 6 then some (.brev a d)
         else if b = 7 then some (.sxt8 a d)
         else if b = 8 then some (.sxt16 a d)
         else if b = 9 then some (.zxt8 a d)
         else if b = 10 then some (.zxt16 a d)
         else none
  | _ => none

/-- Major 0x0A (R55). -/
def major0A (x : BitVec 4) (b : BitVec 7) (a : BitVec 7) (d : BitVec 7) : Option Instr :=
  if x.extractLsb' 3 1 = 0 then some (.bfeN (x.extractLsb' 0 3 ++ b.extractLsb' 5 2) (b.extractLsb' 0 5) a d)
  else if x.extractLsb' 3 1 = 1 then some (.bfeI (x.extractLsb' 0 3 ++ b.extractLsb' 5 2) (b.extractLsb' 0 5) a d)
  else none

/-- Major 0x0B (R55). -/
def major0B (x : BitVec 4) (b : BitVec 7) (a : BitVec 7) (d : BitVec 7) : Option Instr :=
  if x.extractLsb' 3 1 = 0 then some (.bfi (x.extractLsb' 0 3 ++ b.extractLsb' 5 2) (b.extractLsb' 0 5) a d)
  else none

/-- Major 0x0C (R55). -/
def major0C (x : BitVec 4) (b : BitVec 7) (a : BitVec 7) (d : BitVec 7) : Option Instr :=
  match x.toNat with
  | 0 => if d.extractLsb' 4 3 = 0 then some (.icmpEq b a (d.extractLsb' 0 4))
         else none
  | 1 => if d.extractLsb' 4 3 = 0 then some (.icmpNe b a (d.extractLsb' 0 4))
         else none
  | 2 => if d.extractLsb' 4 3 = 0 then some (.icmpLtI b a (d.extractLsb' 0 4))
         else none
  | 3 => if d.extractLsb' 4 3 = 0 then some (.icmpLeI b a (d.extractLsb' 0 4))
         else none
  | 4 => if d.extractLsb' 4 3 = 0 then some (.icmpGtI b a (d.extractLsb' 0 4))
         else none
  | 5 => if d.extractLsb' 4 3 = 0 then some (.icmpGeI b a (d.extractLsb' 0 4))
         else none
  | 6 => if d.extractLsb' 4 3 = 0 then some (.icmpLtN b a (d.extractLsb' 0 4))
         else none
  | 7 => if d.extractLsb' 4 3 = 0 then some (.icmpLeN b a (d.extractLsb' 0 4))
         else none
  | 8 => if d.extractLsb' 4 3 = 0 then some (.icmpGtN b a (d.extractLsb' 0 4))
         else none
  | 9 => if d.extractLsb' 4 3 = 0 then some (.icmpGeN b a (d.extractLsb' 0 4))
         else none
  | _ => none

/-- Major 0x0D (R55). -/
def major0D (x : BitVec 4) (b : BitVec 7) (a : BitVec 7) (d : BitVec 7) : Option Instr :=
  match x.toNat with
  | 0 => if b = 0 ∧ d.extractLsb' 4 3 = 0 then some (.embcfg a (d.extractLsb' 0 4))
         else none
  | 1 => if d.extractLsb' 4 3 = 0 then some (.embag b a (d.extractLsb' 0 4))
         else none
  | _ => none

/-- Major 0x0E (R55). -/
def major0E (x : BitVec 4) (b : BitVec 7) (a : BitVec 7) (d : BitVec 7) : Option Instr :=
  some (.sel x b a d)

/-- Major 0x0F (R55). -/
def major0F (x : BitVec 4) (b : BitVec 7) (a : BitVec 7) (d : BitVec 7) : Option Instr :=
  some (.li (x ++ b ++ a) d)

/-- Major 0x10 (R55). -/
def major10 (x : BitVec 4) (b : BitVec 7) (a : BitVec 7) (d : BitVec 7) : Option Instr :=
  some (.liu (x ++ b ++ a) d)

/-- Major 0x11 (R55). -/
def major11 (x : BitVec 4) (b : BitVec 7) (a : BitVec 7) (d : BitVec 7) : Option Instr :=
  match x.toNat with
  | 0 => some (.addF32 b a d)
  | 1 => some (.subF32 b a d)
  | 2 => some (.mulF32 b a d)
  | 3 => some (.fmaF32 b a d)
  | 4 => some (.fmsF32 b a d)
  | 5 => some (.fnmaF32 b a d)
  | 6 => some (.minF32 b a d)
  | 7 => some (.maxF32 b a d)
  | 8 => some (.copysignF32 b a d)
  | 9 => some (.scaleF32 b a d)
  | 10 => if b = 0 then some (.getexpF32 a d)
         else none
  | _ => none

/-- Major 0x13 (R55). -/
def major13 (x : BitVec 4) (b : BitVec 7) (a : BitVec 7) (d : BitVec 7) : Option Instr :=
  match x.toNat with
  | 0 => if d.extractLsb' 4 3 = 0 then some (.fcmpEq b a (d.extractLsb' 0 4))
         else none
  | 1 => if d.extractLsb' 4 3 = 0 then some (.fcmpNe b a (d.extractLsb' 0 4))
         else none
  | 2 => if d.extractLsb' 4 3 = 0 then some (.fcmpLt b a (d.extractLsb' 0 4))
         else none
  | 3 => if d.extractLsb' 4 3 = 0 then some (.fcmpLe b a (d.extractLsb' 0 4))
         else none
  | 4 => if d.extractLsb' 4 3 = 0 then some (.fcmpGt b a (d.extractLsb' 0 4))
         else none
  | 5 => if d.extractLsb' 4 3 = 0 then some (.fcmpGe b a (d.extractLsb' 0 4))
         else none
  | 6 => if d.extractLsb' 4 3 = 0 then some (.fcmpUno b a (d.extractLsb' 0 4))
         else none
  | 7 => if d.extractLsb' 4 3 = 0 then some (.fcmpOrd b a (d.extractLsb' 0 4))
         else none
  | _ => none

/-- Major 0x14 (R55). -/
def major14 (x : BitVec 4) (b : BitVec 7) (a : BitVec 7) (d : BitVec 7) : Option Instr :=
  match x.toNat with
  | 0 => if b = 0 then some (.absF32 a d)
         else if b = 1 then some (.negF32 a d)
         else if b = 2 then some (.rcpF32 a d)
         else if b = 3 then some (.rsqF32 a d)
         else if b = 4 then some (.sqrtF32 a d)
         else if b = 5 then some (.exp2F32 a d)
         else if b = 6 then some (.log2F32 a d)
         else if b = 7 then some (.sinF32 a d)
         else if b = 8 then some (.cosF32 a d)
         else if b = 9 then some (.floorF32 a d)
         else if b = 10 then some (.ceilF32 a d)
         else if b = 11 then some (.truncF32 a d)
         else if b = 12 then some (.rintF32 a d)
         else if b = 13 then some (.fracF32 a d)
         else if b = 14 then some (.classF32 a d)
         else none
  | _ => none

/-- Major 0x16 (R55). -/
def major16 (x : BitVec 4) (b : BitVec 7) (a : BitVec 7) (d : BitVec 7) : Option Instr :=
  match x.toNat with
  | 0 => some (.addF16x2 b a d)
  | 1 => some (.mulF16x2 b a d)
  | 2 => some (.fmaF16x2 b a d)
  | 3 => some (.minF16x2 b a d)
  | 4 => some (.maxF16x2 b a d)
  | 5 => some (.addBf16x2 b a d)
  | 6 => some (.mulBf16x2 b a d)
  | 7 => some (.fmaBf16x2 b a d)
  | 8 => some (.minBf16x2 b a d)
  | 9 => some (.maxBf16x2 b a d)
  | _ => none

/-- Major 0x17 (R55). -/
def major17 (x : BitVec 4) (b : BitVec 7) (a : BitVec 7) (d : BitVec 7) : Option Instr :=
  match x.toNat with
  | 0 => some (.dot4I8 b a d)
  | 1 => some (.dot4N8 b a d)
  | 2 => some (.dot2F16 b a d)
  | 3 => some (.dot2Bf16 b a d)
  | 4 => some (.dot8I4 b a d)
  | _ => none

/-- Major 0x18 (R55). -/
def major18 (x : BitVec 4) (b : BitVec 7) (a : BitVec 7) (d : BitVec 7) : Option Instr :=
  some (.cvt (x.extractLsb' 3 1) (x.extractLsb' 1 2) (x.extractLsb' 0 1) (b.extractLsb' 4 3) (b.extractLsb' 0 4) a d)

/-- Major 0x19 (R55). -/
def major19 (x : BitVec 4) (b : BitVec 7) (a : BitVec 7) (d : BitVec 7) : Option Instr :=
  match x.toNat with
  | 0 => some (.cvtpByte (b.extractLsb' 6 1) (b.extractLsb' 4 2) (b.extractLsb' 2 2) (b.extractLsb' 1 1) (b.extractLsb' 0 1) a d)
  | 1 => if b.extractLsb' 1 3 = 0 then some (.cvtpF16 (b.extractLsb' 6 1) (b.extractLsb' 4 2) (b.extractLsb' 0 1) a d)
         else none
  | 2 => if b.extractLsb' 1 3 = 0 then some (.cvtpBf16 (b.extractLsb' 6 1) (b.extractLsb' 4 2) (b.extractLsb' 0 1) a d)
         else none
  | _ => none

/-- Major 0x1A (R55). -/
def major1A (x : BitVec 4) (b : BitVec 7) (a : BitVec 7) (d : BitVec 7) : Option Instr :=
  match x.toNat with
  | 0 => some (.sbdecSb4 b a d)
  | 1 => some (.sbdecSb8 b a d)
  | _ => none

/-- Major 0x1B (R55). -/
def major1B (x : BitVec 4) (b : BitVec 7) (a : BitVec 7) (d : BitVec 7) : Option Instr :=
  some (.shfl x b a d)

/-- Major 0x1C (R55). -/
def major1C (x : BitVec 4) (b : BitVec 7) (a : BitVec 7) (d : BitVec 7) : Option Instr :=
  if b.extractLsb' 6 1 = 0 then some (.shflkUp x (b.extractLsb' 0 6) a d)
  else if b.extractLsb' 6 1 = 1 then some (.shflkDn x (b.extractLsb' 0 6) a d)
  else none

/-- Major 0x1D (R55). -/
def major1D (x : BitVec 4) (b : BitVec 7) (a : BitVec 7) (d : BitVec 7) : Option Instr :=
  if b.extractLsb' 6 1 = 0 then some (.shflxXor x (b.extractLsb' 0 6) a d)
  else if b.extractLsb' 6 1 = 1 then some (.shflxIdx x (b.extractLsb' 0 6) a d)
  else none

/-- Major 0x1E (R55). -/
def major1E (x : BitVec 4) (b : BitVec 7) (a : BitVec 7) (d : BitVec 7) : Option Instr :=
  match x.toNat with
  | 0 => if b.extractLsb' 4 3 = 0 then some (.xredSumI32 (b.extractLsb' 0 4) a d)
         else none
  | 1 => if b.extractLsb' 4 3 = 0 then some (.xredMinI32 (b.extractLsb' 0 4) a d)
         else none
  | 2 => if b.extractLsb' 4 3 = 0 then some (.xredMaxI32 (b.extractLsb' 0 4) a d)
         else none
  | 3 => if b.extractLsb' 4 3 = 0 then some (.xredSumF32 (b.extractLsb' 0 4) a d)
         else none
  | 4 => if b.extractLsb' 4 3 = 0 then some (.xredMinF32 (b.extractLsb' 0 4) a d)
         else none
  | 5 => if b.extractLsb' 4 3 = 0 then some (.xredMaxF32 (b.extractLsb' 0 4) a d)
         else none
  | 6 => if b.extractLsb' 4 3 = 0 then some (.xredScanI32 (b.extractLsb' 0 4) a d)
         else none
  | 7 => if b.extractLsb' 4 3 = 0 then some (.xredScanF32 (b.extractLsb' 0 4) a d)
         else none
  | _ => none

/-- Major 0x1F (R55). -/
def major1F (x : BitVec 4) (b : BitVec 7) (a : BitVec 7) (d : BitVec 7) : Option Instr :=
  match x.toNat with
  | 0 => if b.extractLsb' 4 3 = 0 then some (.voteAny (b.extractLsb' 0 4) a d)
         else none
  | 1 => if b.extractLsb' 4 3 = 0 then some (.voteAll (b.extractLsb' 0 4) a d)
         else none
  | 2 => if b.extractLsb' 4 3 = 0 then some (.voteBallot (b.extractLsb' 0 4) a d)
         else none
  | 3 => if b.extractLsb' 4 3 = 0 ∧ d.extractLsb' 4 3 = 0 then some (.voteBallotMask (b.extractLsb' 0 4) a (d.extractLsb' 0 4))
         else none
  | _ => none

/-- Major 0x20 (R55). -/
def major20 (x : BitVec 4) (b : BitVec 7) (a : BitVec 7) (d : BitVec 7) : Option Instr :=
  if d.extractLsb' 4 3 = 0 then some (.bra (x ++ b ++ a) (d.extractLsb' 0 4))
  else if d.extractLsb' 4 3 = 1 then some (.braAny (x ++ b ++ a) (d.extractLsb' 0 4))
  else if d.extractLsb' 4 3 = 2 then some (.braAll (x ++ b ++ a) (d.extractLsb' 0 4))
  else if d.extractLsb' 4 3 = 3 then some (.braNone (x ++ b ++ a) (d.extractLsb' 0 4))
  else if d.extractLsb' 4 3 = 4 then some (.braSet (x ++ b ++ a) (d.extractLsb' 0 4))
  else if d.extractLsb' 4 3 = 5 then some (.braClr (x ++ b ++ a) (d.extractLsb' 0 4))
  else none

/-- Major 0x21 (R55). -/
def major21 (x : BitVec 4) (b : BitVec 7) (a : BitVec 7) (d : BitVec 7) : Option Instr :=
  if d = 0 then some (.jmp (x ++ b ++ a))
  else if d = 1 then some (.call (x ++ b ++ a))
  else none

/-- Major 0x22 (R55). -/
def major22 (x : BitVec 4) (b : BitVec 7) (a : BitVec 7) (d : BitVec 7) : Option Instr :=
  match x.toNat with
  | 0 => if b = 0 ∧ d = 0 then some (.jmpS a)
         else none
  | 1 => if b = 0 ∧ d = 0 then some (.callS a)
         else none
  | 2 => if b = 0 ∧ a = 0 ∧ d = 0 then some (.ret)
         else none
  | 3 => if b = 0 ∧ d = 0 then some (.jmpV a)
         else none
  | 4 => if b.extractLsb' 6 1 = 0 ∧ d = 0 then some (.jmpt (b.extractLsb' 0 6) a)
         else none
  | _ => none

/-- Major 0x23 (R55). -/
def major23 (x : BitVec 4) (b : BitVec 7) (a : BitVec 7) (d : BitVec 7) : Option Instr :=
  match x.toNat with
  | 0 => if b = 0 ∧ a = 0 ∧ d.extractLsb' 4 3 = 0 then some (.join (d.extractLsb' 0 4))
         else none
  | 1 => if b = 0 ∧ a = 0 ∧ d.extractLsb' 4 3 = 0 then some (.leave (d.extractLsb' 0 4))
         else none
  | 2 => if b = 0 ∧ a = 0 ∧ d.extractLsb' 4 3 = 0 then some (.wait (d.extractLsb' 0 4))
         else none
  | 3 => if b = 0 ∧ d.extractLsb' 4 3 = 0 then some (.mset a (d.extractLsb' 0 4))
         else none
  | 4 => if b = 0 ∧ a.extractLsb' 4 3 = 0 then some (.mget (a.extractLsb' 0 4) d)
         else none
  | 5 => if b.extractLsb' 4 3 = 0 ∧ a.extractLsb' 4 3 = 0 ∧ d.extractLsb' 4 3 = 0 then some (.mand (b.extractLsb' 0 4) (a.extractLsb' 0 4) (d.extractLsb' 0 4))
         else none
  | 6 => if b.extractLsb' 4 3 = 0 ∧ a.extractLsb' 4 3 = 0 ∧ d.extractLsb' 4 3 = 0 then some (.mor (b.extractLsb' 0 4) (a.extractLsb' 0 4) (d.extractLsb' 0 4))
         else none
  | 7 => if b.extractLsb' 4 3 = 0 ∧ a.extractLsb' 4 3 = 0 ∧ d.extractLsb' 4 3 = 0 then some (.mxor (b.extractLsb' 0 4) (a.extractLsb' 0 4) (d.extractLsb' 0 4))
         else none
  | 8 => if b = 0 ∧ a.extractLsb' 4 3 = 0 ∧ d.extractLsb' 4 3 = 0 then some (.mnot (a.extractLsb' 0 4) (d.extractLsb' 0 4))
         else none
  | 9 => if b = 0 ∧ a.extractLsb' 4 3 = 0 ∧ d.extractLsb' 4 3 = 0 then some (.mcpy (a.extractLsb' 0 4) (d.extractLsb' 0 4))
         else none
  | 10 => if b = 0 ∧ a.extractLsb' 4 3 = 0 then some (.mpop (a.extractLsb' 0 4) d)
         else none
  | 11 => if b = 0 ∧ a.extractLsb' 4 3 = 0 then some (.mfirst (a.extractLsb' 0 4) d)
         else none
  | 12 => if b = 0 ∧ a = 0 ∧ d.extractLsb' 4 3 = 0 then some (.mlive (d.extractLsb' 0 4))
         else none
  | 13 => if b = 0 ∧ a = 0 ∧ d.extractLsb' 4 3 = 0 then some (.msub (d.extractLsb' 0 4))
         else none
  | _ => none

/-- Major 0x24 (R55). -/
def major24 (x : BitVec 4) (b : BitVec 7) (a : BitVec 7) (d : BitVec 7) : Option Instr :=
  match x.toNat with
  | 0 => if b = 0 ∧ a = 0 ∧ d = 0 then some (.exit)
         else none
  | 1 => if b = 0 ∧ a = 0 ∧ d = 0 then some (.yield)
         else none
  | 2 => if b = 0 ∧ a = 0 ∧ d = 0 then some (.nop32)
         else none
  | _ => none

/-- Major 0x25 (R55). -/
def major25 (x : BitVec 4) (b : BitVec 7) (a : BitVec 7) (d : BitVec 7) : Option Instr :=
  match x.toNat with
  | 0 => some (.sadd b a d)
  | 1 => some (.ssub b a d)
  | 2 => some (.smul b a d)
  | 3 => some (.smulhiI64 b a d)
  | 4 => some (.sand b a d)
  | 5 => some (.sor b a d)
  | 6 => some (.sxor b a d)
  | 7 => some (.sshl b a d)
  | 8 => some (.sshr b a d)
  | 9 => some (.ssar b a d)
  | 10 => some (.sminI64 b a d)
  | 11 => some (.smaxI64 b a d)
  | 12 => some (.sminN64 b a d)
  | 13 => some (.smaxN64 b a d)
  | 14 => some (.sdivN64 b a d)
  | 15 => some (.sremN64 b a d)
  | _ => none

/-- Major 0x26 (R55). -/
def major26 (x : BitVec 4) (b : BitVec 7) (a : BitVec 7) (d : BitVec 7) : Option Instr :=
  some (.saddi (x ++ b) a d)

/-- Major 0x27 (R55). -/
def major27 (x : BitVec 4) (b : BitVec 7) (a : BitVec 7) (d : BitVec 7) : Option Instr :=
  if d.extractLsb' 6 1 = 0 then some (.sli (x ++ b ++ a) (d.extractLsb' 0 6))
  else if d.extractLsb' 6 1 = 1 then some (.sliu (x ++ b ++ a) (d.extractLsb' 0 6))
  else none

/-- Major 0x28 (R55). -/
def major28 (x : BitVec 4) (b : BitVec 7) (a : BitVec 7) (d : BitVec 7) : Option Instr :=
  if x = 0 ∧ d.extractLsb' 6 1 = 0 then some (.slih (b ++ a) (d.extractLsb' 0 6))
  else if d.extractLsb' 6 1 = 1 then some (.slihu (x ++ b ++ a) (d.extractLsb' 0 6))
  else none

/-- Major 0x29 (R55). -/
def major29 (x : BitVec 4) (b : BitVec 7) (a : BitVec 7) (d : BitVec 7) : Option Instr :=
  match x.toNat with
  | 0 => some (.scmpEq b a d)
  | 1 => some (.scmpNe b a d)
  | 2 => some (.scmpLtI b a d)
  | 3 => some (.scmpLeI b a d)
  | 4 => some (.scmpGtI b a d)
  | 5 => some (.scmpGeI b a d)
  | 6 => some (.scmpLtN b a d)
  | 7 => some (.scmpLeN b a d)
  | 8 => some (.scmpGtN b a d)
  | 9 => some (.scmpGeN b a d)
  | _ => none

/-- Major 0x2A (R55). -/
def major2A (x : BitVec 4) (b : BitVec 7) (a : BitVec 7) (d : BitVec 7) : Option Instr :=
  match x.toNat with
  | 0 => if a = 0 then some (.vbc b d)
         else none
  | 1 => if a = 0 then some (.vbch b d)
         else none
  | 2 => if b.extractLsb' 6 1 = 0 then some (.vget (b.extractLsb' 0 6) a d)
         else none
  | 3 => if b = 0 then some (.vsr a d)
         else none
  | 4 => if b = 0 then some (.ssr a d)
         else none
  | 5 => if b = 0 then some (.wsr a d)
         else none
  | _ => none

/-- Major 0x2B (R55). -/
def major2B (x : BitVec 4) (b : BitVec 7) (a : BitVec 7) (d : BitVec 7) : Option Instr :=
  some (.ldg (x.extractLsb' 3 1) (x.extractLsb' 0 3) (b.extractLsb' 6 1) (b.extractLsb' 0 6) a d)

/-- Major 0x2C (R55). -/
def major2C (x : BitVec 4) (b : BitVec 7) (a : BitVec 7) (d : BitVec 7) : Option Instr :=
  some (.stg (x.extractLsb' 3 1) (x.extractLsb' 0 3) (b.extractLsb' 6 1) (b.extractLsb' 0 6) a d)

/-- Major 0x2D (R55). -/
def major2D (x : BitVec 4) (b : BitVec 7) (a : BitVec 7) (d : BitVec 7) : Option Instr :=
  some (.lds (x.extractLsb' 3 1) (x.extractLsb' 0 3) (b.extractLsb' 6 1) (b.extractLsb' 0 6) a d)

/-- Major 0x2E (R55). -/
def major2E (x : BitVec 4) (b : BitVec 7) (a : BitVec 7) (d : BitVec 7) : Option Instr :=
  some (.sts (x.extractLsb' 3 1) (x.extractLsb' 0 3) (b.extractLsb' 6 1) (b.extractLsb' 0 6) a d)

/-- Major 0x2F (R55). -/
def major2F (x : BitVec 4) (b : BitVec 7) (a : BitVec 7) (d : BitVec 7) : Option Instr :=
  some (.ldc (x.extractLsb' 3 1) (x.extractLsb' 0 3) (b.extractLsb' 6 1) (b.extractLsb' 0 6) a d)

/-- Major 0x30 (R55). -/
def major30 (x : BitVec 4) (b : BitVec 7) (a : BitVec 7) (d : BitVec 7) : Option Instr :=
  some (.stc (x.extractLsb' 3 1) (x.extractLsb' 0 3) (b.extractLsb' 6 1) (b.extractLsb' 0 6) a d)

/-- Major 0x31 (R55). -/
def major31 (x : BitVec 4) (b : BitVec 7) (a : BitVec 7) (d : BitVec 7) : Option Instr :=
  some (.ldx (x.extractLsb' 3 1) (x.extractLsb' 0 3) (b.extractLsb' 6 1) (b.extractLsb' 0 6) a d)

/-- Major 0x32 (R55). -/
def major32 (x : BitVec 4) (b : BitVec 7) (a : BitVec 7) (d : BitVec 7) : Option Instr :=
  some (.stx (x.extractLsb' 3 1) (x.extractLsb' 0 3) (b.extractLsb' 6 1) (b.extractLsb' 0 6) a d)

/-- Major 0x33 (R55). -/
def major33 (x : BitVec 4) (b : BitVec 7) (a : BitVec 7) (d : BitVec 7) : Option Instr :=
  if x.extractLsb' 0 1 = 0 then some (.ldAcq (x.extractLsb' 1 3) (b.extractLsb' 6 1) (b.extractLsb' 0 6) a d)
  else if x.extractLsb' 0 1 = 1 then some (.stRel (x.extractLsb' 1 3) (b.extractLsb' 6 1) (b.extractLsb' 0 6) a d)
  else none

/-- Major 0x34 (R55). -/
def major34 (x : BitVec 4) (b : BitVec 7) (a : BitVec 7) (d : BitVec 7) : Option Instr :=
  if x.extractLsb' 0 1 = 0 ∧ b = 0 ∧ a = 0 ∧ d = 0 then some (.fence (x.extractLsb' 1 3))
  else if x.extractLsb' 0 1 = 0 ∧ b = 0 ∧ a = 0 ∧ d = 1 then some (.fenceAcq (x.extractLsb' 1 3))
  else if x.extractLsb' 0 1 = 0 ∧ b = 0 ∧ a = 0 ∧ d = 2 then some (.fenceRel (x.extractLsb' 1 3))
  else none

/-- Major 0x35 (R55). -/
def major35 (x : BitVec 4) (b : BitVec 7) (a : BitVec 7) (d : BitVec 7) : Option Instr :=
  match x.toNat with
  | 0 => some (.atomAddI32 (b.extractLsb' 6 1) (b.extractLsb' 0 6) a d)
  | 1 => some (.atomMinI32 (b.extractLsb' 6 1) (b.extractLsb' 0 6) a d)
  | 2 => some (.atomMaxI32 (b.extractLsb' 6 1) (b.extractLsb' 0 6) a d)
  | 3 => some (.atomMinN32 (b.extractLsb' 6 1) (b.extractLsb' 0 6) a d)
  | 4 => some (.atomMaxN32 (b.extractLsb' 6 1) (b.extractLsb' 0 6) a d)
  | 5 => some (.atomAnd (b.extractLsb' 6 1) (b.extractLsb' 0 6) a d)
  | 6 => some (.atomOr (b.extractLsb' 6 1) (b.extractLsb' 0 6) a d)
  | 7 => some (.atomXor (b.extractLsb' 6 1) (b.extractLsb' 0 6) a d)
  | 8 => some (.atomXchg (b.extractLsb' 6 1) (b.extractLsb' 0 6) a d)
  | 9 => some (.atomCas32 (b.extractLsb' 6 1) (b.extractLsb' 0 6) a d)
  | 10 => some (.atomAddF32 (b.extractLsb' 6 1) (b.extractLsb' 0 6) a d)
  | 11 => some (.atomMinF32 (b.extractLsb' 6 1) (b.extractLsb' 0 6) a d)
  | 12 => some (.atomMaxF32 (b.extractLsb' 6 1) (b.extractLsb' 0 6) a d)
  | 13 => some (.atomCas64 (b.extractLsb' 6 1) (b.extractLsb' 0 6) a d)
  | _ => none

/-- Major 0x36 (R55). -/
def major36 (x : BitVec 4) (b : BitVec 7) (a : BitVec 7) (d : BitVec 7) : Option Instr :=
  match x.toNat with
  | 0 => some (.redAddI32 (b.extractLsb' 6 1) (b.extractLsb' 0 6) a d)
  | 1 => some (.redMinI32 (b.extractLsb' 6 1) (b.extractLsb' 0 6) a d)
  | 2 => some (.redMaxI32 (b.extractLsb' 6 1) (b.extractLsb' 0 6) a d)
  | 3 => some (.redMinN32 (b.extractLsb' 6 1) (b.extractLsb' 0 6) a d)
  | 4 => some (.redMaxN32 (b.extractLsb' 6 1) (b.extractLsb' 0 6) a d)
  | 5 => some (.redAnd (b.extractLsb' 6 1) (b.extractLsb' 0 6) a d)
  | 6 => some (.redOr (b.extractLsb' 6 1) (b.extractLsb' 0 6) a d)
  | 7 => some (.redXor (b.extractLsb' 6 1) (b.extractLsb' 0 6) a d)
  | 8 => some (.redAddF32 (b.extractLsb' 6 1) (b.extractLsb' 0 6) a d)
  | 9 => some (.redMinF32 (b.extractLsb' 6 1) (b.extractLsb' 0 6) a d)
  | 10 => some (.redMaxF32 (b.extractLsb' 6 1) (b.extractLsb' 0 6) a d)
  | 11 => some (.redAxpyF32 (b.extractLsb' 6 1) (b.extractLsb' 0 6) a d)
  | _ => none

/-- Major 0x37 (R55). -/
def major37 (x : BitVec 4) (b : BitVec 7) (a : BitVec 7) (d : BitVec 7) : Option Instr :=
  match x.toNat with
  | 0 => some (.rwlTryrd (b.extractLsb' 6 1) (b.extractLsb' 0 6) a d)
  | 1 => some (.rwlTrywr (b.extractLsb' 6 1) (b.extractLsb' 0 6) a d)
  | 2 => some (.rwlRelrd (b.extractLsb' 6 1) (b.extractLsb' 0 6) a d)
  | 3 => some (.rwlRelwr (b.extractLsb' 6 1) (b.extractLsb' 0 6) a d)
  | 4 => some (.rwlSetpref (b.extractLsb' 6 1) (b.extractLsb' 0 6) a d)
  | _ => none

/-- Major 0x38 (R55). -/
def major38 (x : BitVec 4) (b : BitVec 7) (a : BitVec 7) (d : BitVec 7) : Option Instr :=
  match x.toNat with
  | 0 => if b.extractLsb' 3 4 = 0 then some (.togen (b.extractLsb' 0 3) a d)
         else none
  | 1 => if b.extractLsb' 3 4 = 0 then some (.ofgen (b.extractLsb' 0 3) a d)
         else none
  | 2 => if b.extractLsb' 3 4 = 0 ∧ d.extractLsb' 4 3 = 0 then some (.isin (b.extractLsb' 0 3) a (d.extractLsb' 0 4))
         else none
  | _ => none

/-- Major 0x39 (R55). -/
def major39 (x : BitVec 4) (b : BitVec 7) (a : BitVec 7) (d : BitVec 7) : Option Instr :=
  match x.toNat with
  | 0 => if b = 0 ∧ d.extractLsb' 4 3 = 0 then some (.barInit a (d.extractLsb' 0 4))
         else none
  | 1 => if b = 0 ∧ d.extractLsb' 4 3 = 0 then some (.barArrive a (d.extractLsb' 0 4))
         else none
  | 2 => if b = 0 ∧ d.extractLsb' 4 3 = 0 then some (.barArrwait a (d.extractLsb' 0 4))
         else none
  | 3 => if b = 0 ∧ a = 0 ∧ d.extractLsb' 4 3 = 0 then some (.barWait (d.extractLsb' 0 4))
         else none
  | 4 => if d.extractLsb' 4 3 = 0 then some (.barRarrive b a (d.extractLsb' 0 4))
         else none
  | 5 => if b = 0 ∧ d.extractLsb' 4 3 = 0 then some (.barQuery a (d.extractLsb' 0 4))
         else none
  | _ => none

/-- Major 0x3A (R55). -/
def major3A (x : BitVec 4) (b : BitVec 7) (a : BitVec 7) (d : BitVec 7) : Option Instr :=
  match x.toNat with
  | 0 => if b.extractLsb' 3 4 = 0 then some (.copy (b.extractLsb' 0 3) (a.extractLsb' 6 1) (a.extractLsb' 2 4) (a.extractLsb' 0 2) (d.extractLsb' 6 1) (d.extractLsb' 3 3) (d.extractLsb' 0 3))
         else none
  | 1 => if b = 0 ∧ a = 0 then some (.sealBatch d)
         else none
  | 2 => if b = 0 then some (.cwait a d)
         else none
  | 3 => if b = 0 ∧ d.extractLsb' 3 4 = 0 then some (.lyset a (d.extractLsb' 0 3))
         else none
  | 4 => if b = 0 ∧ d.extractLsb' 4 3 = 0 then some (.carcfg a (d.extractLsb' 0 4))
         else none
  | 5 => if d.extractLsb' 4 3 = 0 then some (.ctake b a (d.extractLsb' 0 4))
         else none
  | 6 => if b = 0 ∧ d.extractLsb' 4 3 = 0 then some (.cfree a (d.extractLsb' 0 4))
         else none
  | 7 => if b = 0 ∧ a = 0 then some (.bccrd d)
         else none
  | 8 => if b.extractLsb' 6 1 = 0 ∧ a.extractLsb' 0 6 = 0 ∧ d.extractLsb' 6 1 = 0 then some (.fcopyTo (b.extractLsb' 0 6) (a.extractLsb' 6 1) (d.extractLsb' 3 3) (d.extractLsb' 0 3))
         else if b.extractLsb' 6 1 = 0 ∧ a.extractLsb' 0 6 = 0 ∧ d.extractLsb' 6 1 = 1 then some (.fcopyFrom (b.extractLsb' 0 6) (a.extractLsb' 6 1) (d.extractLsb' 3 3) (d.extractLsb' 0 3))
         else none
  | _ => none

/-- Major 0x3B (R55). -/
def major3B (x : BitVec 4) (b : BitVec 7) (a : BitVec 7) (d : BitVec 7) : Option Instr :=
  match x.toNat with
  | 0 => if b = 0 ∧ d.extractLsb' 2 5 = 0 then some (.msetSlot a (d.extractLsb' 0 2))
         else none
  | 1 => if b = 0 ∧ a = 0 ∧ d.extractLsb' 5 2 = 0 then some (.mloadb (d.extractLsb' 2 3) (d.extractLsb' 0 2))
         else none
  | 2 => if b = 0 ∧ a = 0 ∧ d.extractLsb' 2 5 = 0 then some (.mmul (d.extractLsb' 0 2))
         else none
  | 3 => if b = 0 ∧ a = 0 ∧ d.extractLsb' 2 5 = 0 then some (.scacc (d.extractLsb' 0 2))
         else none
  | 4 => if b = 0 ∧ d = 0 then some (.mrel a)
         else none
  | 5 => if b = 0 ∧ a = 0 then some (.mstat d)
         else none
  | _ => none

/-- Major 0x3C (R55). -/
def major3C (x : BitVec 4) (b : BitVec 7) (a : BitVec 7) (d : BitVec 7) : Option Instr :=
  match x.toNat with
  | 0 => some (.gadde b a d)
  | 1 => some (.grme b a d)
  | 2 => some (.gsetw b a d)
  | 3 => if b = 0 then some (.gdegOut a d)
         else if b = 1 then some (.gdegIn a d)
         else none
  | 4 => some (.gldOut b a d)
  | 5 => some (.gldIn b a d)
  | 6 => some (.gfindOut b a d)
  | 7 => some (.gfindIn b a d)
  | 8 => if b = 0 then some (.gvld a d)
         else none
  | 9 => if b = 0 then some (.gvst a d)
         else none
  | 10 => if b.extractLsb' 3 4 = 0 then some (.copenOut (b.extractLsb' 0 3) a d)
         else none
  | 11 => if b.extractLsb' 3 4 = 0 then some (.copenIn (b.extractLsb' 0 3) a d)
         else none
  | 12 => if b.extractLsb' 3 4 = 0 ∧ a = 0 then some (.cnext (b.extractLsb' 0 3) d)
         else none
  | 13 => if b.extractLsb' 3 4 = 0 ∧ d = 0 then some (.cseek (b.extractLsb' 0 3) a)
         else none
  | 14 => if b.extractLsb' 3 4 = 0 ∧ a = 0 ∧ d = 0 then some (.cclose (b.extractLsb' 0 3))
         else none
  | 15 => if b.extractLsb' 3 4 = 0 ∧ a = 0 then some (.crank (b.extractLsb' 0 3) d)
         else none
  | _ => none

/-- Major 0x3D (R55). -/
def major3D (x : BitVec 4) (b : BitVec 7) (a : BitVec 7) (d : BitVec 7) : Option Instr :=
  match x.toNat with
  | 0 => some (.gnew b a d)
  | 1 => if b = 0 ∧ d = 0 then some (.gfree a)
         else none
  | 2 => if b = 0 ∧ d = 0 then some (.gsel a)
         else none
  | 3 => if b = 0 then some (.gstat a d)
         else none
  | _ => none

/-- Major 0x3E (R55). -/
def major3E (x : BitVec 4) (b : BitVec 7) (a : BitVec 7) (d : BitVec 7) : Option Instr :=
  match x.toNat with
  | 0 => if b = 0 ∧ d = 0 then some (.spawnV a)
         else none
  | 1 => if b = 0 ∧ d = 0 then some (.spawnS a)
         else none
  | 2 => some (.jcadd b a d)
  | 3 => some (.launch b a d)
  | 4 => if b = 0 ∧ d = 0 then some (.cancelLaunch a)
         else if b = 0 ∧ d = 1 then some (.cancelChain a)
         else if b = 0 ∧ d = 2 then some (.cancelPhase a)
         else if b = 0 ∧ d = 3 then some (.cancelJob a)
         else none
  | 5 => if b = 0 ∧ d = 0 then some (.lvwait a)
         else none
  | 6 => if b = 0 ∧ d = 0 then some (.setprio a)
         else none
  | _ => none

/-- Major 0x3F (R55). -/
def major3F (x : BitVec 4) (b : BitVec 7) (a : BitVec 7) (d : BitVec 7) : Option Instr :=
  match x.toNat with
  | 0 => if a = 0 ∧ d = 0 then some (.trap b)
         else none
  | 1 => if b = 0 ∧ a = 0 ∧ d = 0 then some (.brk)
         else none
  | 2 => if b = 0 ∧ a = 0 ∧ d = 0 then some (.tret)
         else if b = 0 ∧ a = 0 ∧ d = 1 then some (.tretNext)
         else none
  | 3 => if d = 0 then some (.sretResume b a)
         else if d = 1 then some (.sretRefuse b a)
         else if d = 2 then some (.sretKill b a)
         else if d = 3 then some (.sretSave b a)
         else if d = 4 then some (.sretRestore b a)
         else if d = 5 then some (.sretRollback b a)
         else none
  | 4 => if b = 0 ∧ a = 0 then some (.rdcyc d)
         else none
  | 5 => if b = 0 then some (.rdperf a d)
         else none
  | 6 => if b = 0 ∧ a = 0 ∧ d = 0 then some (.fsclr)
         else none
  | 7 => if d.extractLsb' 3 4 = 0 ∧ d.extractLsb' 0 2 = 0 then some (.tlbinvPage b a (d.extractLsb' 2 1))
         else if d.extractLsb' 3 4 = 0 ∧ d.extractLsb' 0 2 = 1 then some (.tlbinvAsid b a (d.extractLsb' 2 1))
         else if d.extractLsb' 3 4 = 0 ∧ d.extractLsb' 0 2 = 2 then some (.tlbinvAll b a (d.extractLsb' 2 1))
         else none
  | 8 => if b = 0 ∧ a = 0 ∧ d = 0 then some (.halt)
         else none
  | 9 => if d.extractLsb' 2 5 = 0 then some (.pfetch (b.extractLsb' 6 1) (b.extractLsb' 0 6) a (d.extractLsb' 0 2))
         else none
  | _ => none

/-- The instruction of a 32-bit layout (R55): majors 0x12 and 0x15 are reserved. -/
def longInstr (x : BitVec 4) (b a d : BitVec 7) (op : BitVec 6) : Option Instr :=
  match op.toNat with
  | 0 => major00 x b a d
  | 1 => major01 x b a d
  | 2 => major02 x b a d
  | 3 => major03 x b a d
  | 4 => major04 x b a d
  | 5 => major05 x b a d
  | 6 => major06 x b a d
  | 7 => major07 x b a d
  | 8 => major08 x b a d
  | 9 => major09 x b a d
  | 10 => major0A x b a d
  | 11 => major0B x b a d
  | 12 => major0C x b a d
  | 13 => major0D x b a d
  | 14 => major0E x b a d
  | 15 => major0F x b a d
  | 16 => major10 x b a d
  | 17 => major11 x b a d
  | 19 => major13 x b a d
  | 20 => major14 x b a d
  | 22 => major16 x b a d
  | 23 => major17 x b a d
  | 24 => major18 x b a d
  | 25 => major19 x b a d
  | 26 => major1A x b a d
  | 27 => major1B x b a d
  | 28 => major1C x b a d
  | 29 => major1D x b a d
  | 30 => major1E x b a d
  | 31 => major1F x b a d
  | 32 => major20 x b a d
  | 33 => major21 x b a d
  | 34 => major22 x b a d
  | 35 => major23 x b a d
  | 36 => major24 x b a d
  | 37 => major25 x b a d
  | 38 => major26 x b a d
  | 39 => major27 x b a d
  | 40 => major28 x b a d
  | 41 => major29 x b a d
  | 42 => major2A x b a d
  | 43 => major2B x b a d
  | 44 => major2C x b a d
  | 45 => major2D x b a d
  | 46 => major2E x b a d
  | 47 => major2F x b a d
  | 48 => major30 x b a d
  | 49 => major31 x b a d
  | 50 => major32 x b a d
  | 51 => major33 x b a d
  | 52 => major34 x b a d
  | 53 => major35 x b a d
  | 54 => major36 x b a d
  | 55 => major37 x b a d
  | 56 => major38 x b a d
  | 57 => major39 x b a d
  | 58 => major3A x b a d
  | 59 => major3B x b a d
  | 60 => major3C x b a d
  | 61 => major3D x b a d
  | 62 => major3E x b a d
  | 63 => major3F x b a d
  | _ => none

/-- The instruction of a layout, whatever its operand codes. -/
def Layout.instr : Layout → Option Instr
  | .short i b d op => shortInstr i b d op
  | .long x b a d op => longInstr x b a d op

/-- Why a word is no instruction. Each raises ILLEGAL_ENCODING at issue (R48, R50-R52, R55) but `truncated`, which says that the
bytes given are fewer than the word's length. -/
inductive Reject where
  /-- Fewer bytes than the word needs (R43). -/
  | truncated
  /-- No sub-operation of the major, or of OP16, has these bits (R48, R52, R55). -/
  | unassigned
  /-- A reserved operand code, or a span that leaves its register group (R50, R51, R53). -/
  | reservedOperand
  deriving DecidableEq, Repr

/-- The instruction of a layout, with its operand codes checked (R50-R53, R55). -/
def Layout.decode (l : Layout) : Except Reject Instr :=
  match l.instr with
  | none => .error .unassigned
  | some i => if i.wf then .ok i else .error .reservedOperand

/-- Two bytes as a little-endian halfword (R43). -/
def halfOf (lo hi : Byte) : BitVec 16 := hi ++ lo
/-- Four bytes as a little-endian word (R43). -/
def wordOf (b0 b1 b2 b3 : Byte) : W32 := (b3 ++ b2) ++ (b1 ++ b0)

/-- The instruction at the head of a byte list and its length in bytes: bit 0 of the first halfword decides the length (R43). -/
def decode (bytes : List Byte) : Except Reject (Instr × Nat) :=
  match bytes with
  | b0 :: b1 :: rest =>
    if b0.getLsbD 0 then
      match rest with
      | b2 :: b3 :: _ => (longLayout (wordOf b0 b1 b2 b3)).decode.map fun i => (i, 4)
      | _ => .error .truncated
    else (shortLayout (halfOf b0 b1)).decode.map fun i => (i, 2)
  | _ => .error .truncated

/-- The four bytes of a table word: a 16-bit word is followed by a halfword of zeros. -/
def tableBytes (nbits w : Nat) : List Byte :=
  let v : W32 := BitVec.ofNat 32 (w % 2 ^ nbits)
  [v.extractLsb' 0 8, v.extractLsb' 8 8, v.extractLsb' 16 8, v.extractLsb' 24 8]

/-- The instruction that the decoder reads from a word numbered as the opcode table numbers it. -/
def decodeTableWord (nbits w : Nat) : Option Instr :=
  match decode (tableBytes nbits w) with
  | .ok (i, _) => some i
  | .error _ => none

/-! ## The encoder -/

/-- The fields of an instruction's word, from the layout of its chapter; none for an event, which has no word. -/
def Instr.layout : Instr → Option Layout
  | .clauseHeader b a w n => some (.long b (a ++ w.extractLsb' 9 3) (w.extractLsb' 2 7) (w.extractLsb' 0 2 ++ n) 0)
  | .stalledWordResume _ => none
  | .movShort i b d => some (.short i b d 0)
  | .addI32Short i b d => some (.short i b d 1)
  | .subI32Short i b d => some (.short i b d 2)
  | .mulI32Short i b d => some (.short i b d 3)
  | .andShort i b d => some (.short i b d 4)
  | .orShort i b d => some (.short i b d 5)
  | .xorShort i b d => some (.short i b d 6)
  | .shlShort i b d => some (.short i b d 7)
  | .shrShort i b d => some (.short i b d 8)
  | .sarShort i b d => some (.short i b d 9)
  | .addF32Short i b d => some (.short i b d 10)
  | .subF32Short i b d => some (.short i b d 11)
  | .mulF32Short i b d => some (.short i b d 12)
  | .minF32Short i b d => some (.short i b d 13)
  | .maxF32Short i b d => some (.short i b d 14)
  | .nop => some (.short 0 0 0 15)
  | .addI32 b a d => some (.long 0#4 b a d 1)
  | .subI32 b a d => some (.long 1#4 b a d 1)
  | .mulI32 b a d => some (.long 2#4 b a d 1)
  | .mulhiI32 b a d => some (.long 3#4 b a d 1)
  | .mulhiN32 b a d => some (.long 4#4 b a d 1)
  | .madI32 b a d => some (.long 5#4 b a d 1)
  | .minI32 b a d => some (.long 6#4 b a d 1)
  | .maxI32 b a d => some (.long 7#4 b a d 1)
  | .minN32 b a d => some (.long 8#4 b a d 1)
  | .maxN32 b a d => some (.long 9#4 b a d 1)
  | .and b a d => some (.long 10#4 b a d 1)
  | .or b a d => some (.long 11#4 b a d 1)
  | .xor b a d => some (.long 12#4 b a d 1)
  | .shl b a d => some (.long 13#4 b a d 1)
  | .shr b a d => some (.long 14#4 b a d 1)
  | .sar b a d => some (.long 15#4 b a d 1)
  | .addi i a d => some (.long (i.extractLsb' 7 4) (i.extractLsb' 0 7) a d 3)
  | .muli i a d => some (.long (i.extractLsb' 7 4) (i.extractLsb' 0 7) a d 4)
  | .andi i a d => some (.long (i.extractLsb' 7 4) (i.extractLsb' 0 7) a d 5)
  | .ori i a d => some (.long (i.extractLsb' 7 4) (i.extractLsb' 0 7) a d 6)
  | .xori i a d => some (.long (i.extractLsb' 7 4) (i.extractLsb' 0 7) a d 7)
  | .shiShl n a d => some (.long 0#4 (0#2 ++ n) a d 8)
  | .shiShr n a d => some (.long 0#4 (1#2 ++ n) a d 8)
  | .shiSar n a d => some (.long 0#4 (2#2 ++ n) a d 8)
  | .rol n a d => some (.long 0#4 (3#2 ++ n) a d 8)
  | .not a d => some (.long 0#4 0#7 a d 9)
  | .negI32 a d => some (.long 0#4 1#7 a d 9)
  | .absI32 a d => some (.long 0#4 2#7 a d 9)
  | .popc a d => some (.long 0#4 3#7 a d 9)
  | .clz a d => some (.long 0#4 4#7 a d 9)
  | .ctz a d => some (.long 0#4 5#7 a d 9)
  | .brev a d => some (.long 0#4 6#7 a d 9)
  | .sxt8 a d => some (.long 0#4 7#7 a d 9)
  | .sxt16 a d => some (.long 0#4 8#7 a d 9)
  | .zxt8 a d => some (.long 0#4 9#7 a d 9)
  | .zxt16 a d => some (.long 0#4 10#7 a d 9)
  | .bfeN w p a d => some (.long (0#1 ++ w.extractLsb' 2 3) (w.extractLsb' 0 2 ++ p) a d 10)
  | .bfeI w p a d => some (.long (1#1 ++ w.extractLsb' 2 3) (w.extractLsb' 0 2 ++ p) a d 10)
  | .bfi w p a d => some (.long (0#1 ++ w.extractLsb' 2 3) (w.extractLsb' 0 2 ++ p) a d 11)
  | .icmpEq b a m => some (.long 0#4 b a (0#3 ++ m) 12)
  | .icmpNe b a m => some (.long 1#4 b a (0#3 ++ m) 12)
  | .icmpLtI b a m => some (.long 2#4 b a (0#3 ++ m) 12)
  | .icmpLeI b a m => some (.long 3#4 b a (0#3 ++ m) 12)
  | .icmpGtI b a m => some (.long 4#4 b a (0#3 ++ m) 12)
  | .icmpGeI b a m => some (.long 5#4 b a (0#3 ++ m) 12)
  | .icmpLtN b a m => some (.long 6#4 b a (0#3 ++ m) 12)
  | .icmpLeN b a m => some (.long 7#4 b a (0#3 ++ m) 12)
  | .icmpGtN b a m => some (.long 8#4 b a (0#3 ++ m) 12)
  | .icmpGeN b a m => some (.long 9#4 b a (0#3 ++ m) 12)
  | .sel m b a d => some (.long m b a d 14)
  | .li i d => some (.long (i.extractLsb' 14 4) (i.extractLsb' 7 7) (i.extractLsb' 0 7) d 15)
  | .liu i d => some (.long (i.extractLsb' 14 4) (i.extractLsb' 7 7) (i.extractLsb' 0 7) d 16)
  | .addF32 b a d => some (.long 0#4 b a d 17)
  | .subF32 b a d => some (.long 1#4 b a d 17)
  | .mulF32 b a d => some (.long 2#4 b a d 17)
  | .fmaF32 b a d => some (.long 3#4 b a d 17)
  | .fmsF32 b a d => some (.long 4#4 b a d 17)
  | .fnmaF32 b a d => some (.long 5#4 b a d 17)
  | .minF32 b a d => some (.long 6#4 b a d 17)
  | .maxF32 b a d => some (.long 7#4 b a d 17)
  | .copysignF32 b a d => some (.long 8#4 b a d 17)
  | .scaleF32 b a d => some (.long 9#4 b a d 17)
  | .getexpF32 a d => some (.long 10#4 0#7 a d 17)
  | .fcmpEq b a m => some (.long 0#4 b a (0#3 ++ m) 19)
  | .fcmpNe b a m => some (.long 1#4 b a (0#3 ++ m) 19)
  | .fcmpLt b a m => some (.long 2#4 b a (0#3 ++ m) 19)
  | .fcmpLe b a m => some (.long 3#4 b a (0#3 ++ m) 19)
  | .fcmpGt b a m => some (.long 4#4 b a (0#3 ++ m) 19)
  | .fcmpGe b a m => some (.long 5#4 b a (0#3 ++ m) 19)
  | .fcmpUno b a m => some (.long 6#4 b a (0#3 ++ m) 19)
  | .fcmpOrd b a m => some (.long 7#4 b a (0#3 ++ m) 19)
  | .absF32 a d => some (.long 0#4 0#7 a d 20)
  | .negF32 a d => some (.long 0#4 1#7 a d 20)
  | .rcpF32 a d => some (.long 0#4 2#7 a d 20)
  | .rsqF32 a d => some (.long 0#4 3#7 a d 20)
  | .sqrtF32 a d => some (.long 0#4 4#7 a d 20)
  | .exp2F32 a d => some (.long 0#4 5#7 a d 20)
  | .log2F32 a d => some (.long 0#4 6#7 a d 20)
  | .sinF32 a d => some (.long 0#4 7#7 a d 20)
  | .cosF32 a d => some (.long 0#4 8#7 a d 20)
  | .floorF32 a d => some (.long 0#4 9#7 a d 20)
  | .ceilF32 a d => some (.long 0#4 10#7 a d 20)
  | .truncF32 a d => some (.long 0#4 11#7 a d 20)
  | .rintF32 a d => some (.long 0#4 12#7 a d 20)
  | .fracF32 a d => some (.long 0#4 13#7 a d 20)
  | .classF32 a d => some (.long 0#4 14#7 a d 20)
  | .addF16x2 b a d => some (.long 0#4 b a d 22)
  | .mulF16x2 b a d => some (.long 1#4 b a d 22)
  | .fmaF16x2 b a d => some (.long 2#4 b a d 22)
  | .minF16x2 b a d => some (.long 3#4 b a d 22)
  | .maxF16x2 b a d => some (.long 4#4 b a d 22)
  | .addBf16x2 b a d => some (.long 5#4 b a d 22)
  | .mulBf16x2 b a d => some (.long 6#4 b a d 22)
  | .fmaBf16x2 b a d => some (.long 7#4 b a d 22)
  | .minBf16x2 b a d => some (.long 8#4 b a d 22)
  | .maxBf16x2 b a d => some (.long 9#4 b a d 22)
  | .dot4I8 b a d => some (.long 0#4 b a d 23)
  | .dot4N8 b a d => some (.long 1#4 b a d 23)
  | .dot2F16 b a d => some (.long 2#4 b a d 23)
  | .dot2Bf16 b a d => some (.long 3#4 b a d 23)
  | .dot8I4 b a d => some (.long 4#4 b a d 23)
  | .cvt s r u c t a d => some (.long (s ++ r ++ u) (c ++ t) a d 24)
  | .cvtpByte s r t h l a d => some (.long 0#4 (s ++ r ++ t ++ h ++ l) a d 25)
  | .cvtpF16 s r h a d => some (.long 1#4 (s ++ r ++ 0#3 ++ h) a d 25)
  | .cvtpBf16 s r h a d => some (.long 2#4 (s ++ r ++ 0#3 ++ h) a d 25)
  | .sbdecSb4 b a d => some (.long 0#4 b a d 26)
  | .sbdecSb8 b a d => some (.long 1#4 b a d 26)
  | .shfl p b a d => some (.long p b a d 27)
  | .shflkUp p k a d => some (.long p (0#1 ++ k) a d 28)
  | .shflkDn p k a d => some (.long p (1#1 ++ k) a d 28)
  | .shflxXor p c a d => some (.long p (0#1 ++ c) a d 29)
  | .shflxIdx p c a d => some (.long p (1#1 ++ c) a d 29)
  | .xredSumI32 p a d => some (.long 0#4 (0#3 ++ p) a d 30)
  | .xredMinI32 p a d => some (.long 1#4 (0#3 ++ p) a d 30)
  | .xredMaxI32 p a d => some (.long 2#4 (0#3 ++ p) a d 30)
  | .xredSumF32 p a d => some (.long 3#4 (0#3 ++ p) a d 30)
  | .xredMinF32 p a d => some (.long 4#4 (0#3 ++ p) a d 30)
  | .xredMaxF32 p a d => some (.long 5#4 (0#3 ++ p) a d 30)
  | .xredScanI32 p a d => some (.long 6#4 (0#3 ++ p) a d 30)
  | .xredScanF32 p a d => some (.long 7#4 (0#3 ++ p) a d 30)
  | .voteAny p a d => some (.long 0#4 (0#3 ++ p) a d 31)
  | .voteAll p a d => some (.long 1#4 (0#3 ++ p) a d 31)
  | .voteBallot p a d => some (.long 2#4 (0#3 ++ p) a d 31)
  | .voteBallotMask p a m => some (.long 3#4 (0#3 ++ p) a (0#3 ++ m) 31)
  | .bra o m => some (.long (o.extractLsb' 14 4) (o.extractLsb' 7 7) (o.extractLsb' 0 7) (0#3 ++ m) 32)
  | .braAny o m => some (.long (o.extractLsb' 14 4) (o.extractLsb' 7 7) (o.extractLsb' 0 7) (1#3 ++ m) 32)
  | .braAll o m => some (.long (o.extractLsb' 14 4) (o.extractLsb' 7 7) (o.extractLsb' 0 7) (2#3 ++ m) 32)
  | .braNone o m => some (.long (o.extractLsb' 14 4) (o.extractLsb' 7 7) (o.extractLsb' 0 7) (3#3 ++ m) 32)
  | .braSet o m => some (.long (o.extractLsb' 14 4) (o.extractLsb' 7 7) (o.extractLsb' 0 7) (4#3 ++ m) 32)
  | .braClr o m => some (.long (o.extractLsb' 14 4) (o.extractLsb' 7 7) (o.extractLsb' 0 7) (5#3 ++ m) 32)
  | .jmp o => some (.long (o.extractLsb' 14 4) (o.extractLsb' 7 7) (o.extractLsb' 0 7) 0#7 33)
  | .call o => some (.long (o.extractLsb' 14 4) (o.extractLsb' 7 7) (o.extractLsb' 0 7) 1#7 33)
  | .jmpS a => some (.long 0#4 0#7 a 0#7 34)
  | .callS a => some (.long 1#4 0#7 a 0#7 34)
  | .ret => some (.long 2#4 0#7 0#7 0#7 34)
  | .jmpV a => some (.long 3#4 0#7 a 0#7 34)
  | .jmpt s a => some (.long 4#4 (0#1 ++ s) a 0#7 34)
  | .join m => some (.long 0#4 0#7 0#7 (0#3 ++ m) 35)
  | .leave m => some (.long 1#4 0#7 0#7 (0#3 ++ m) 35)
  | .wait m => some (.long 2#4 0#7 0#7 (0#3 ++ m) 35)
  | .mset a m => some (.long 3#4 0#7 a (0#3 ++ m) 35)
  | .mget a d => some (.long 4#4 0#7 (0#3 ++ a) d 35)
  | .mand b a d => some (.long 5#4 (0#3 ++ b) (0#3 ++ a) (0#3 ++ d) 35)
  | .mor b a d => some (.long 6#4 (0#3 ++ b) (0#3 ++ a) (0#3 ++ d) 35)
  | .mxor b a d => some (.long 7#4 (0#3 ++ b) (0#3 ++ a) (0#3 ++ d) 35)
  | .mnot a d => some (.long 8#4 0#7 (0#3 ++ a) (0#3 ++ d) 35)
  | .mcpy a d => some (.long 9#4 0#7 (0#3 ++ a) (0#3 ++ d) 35)
  | .mpop a d => some (.long 10#4 0#7 (0#3 ++ a) d 35)
  | .mfirst a d => some (.long 11#4 0#7 (0#3 ++ a) d 35)
  | .mlive d => some (.long 12#4 0#7 0#7 (0#3 ++ d) 35)
  | .msub d => some (.long 13#4 0#7 0#7 (0#3 ++ d) 35)
  | .exit => some (.long 0#4 0#7 0#7 0#7 36)
  | .yield => some (.long 1#4 0#7 0#7 0#7 36)
  | .nop32 => some (.long 2#4 0#7 0#7 0#7 36)
  | .sadd b a d => some (.long 0#4 b a d 37)
  | .ssub b a d => some (.long 1#4 b a d 37)
  | .smul b a d => some (.long 2#4 b a d 37)
  | .smulhiI64 b a d => some (.long 3#4 b a d 37)
  | .sand b a d => some (.long 4#4 b a d 37)
  | .sor b a d => some (.long 5#4 b a d 37)
  | .sxor b a d => some (.long 6#4 b a d 37)
  | .sshl b a d => some (.long 7#4 b a d 37)
  | .sshr b a d => some (.long 8#4 b a d 37)
  | .ssar b a d => some (.long 9#4 b a d 37)
  | .sminI64 b a d => some (.long 10#4 b a d 37)
  | .smaxI64 b a d => some (.long 11#4 b a d 37)
  | .sminN64 b a d => some (.long 12#4 b a d 37)
  | .smaxN64 b a d => some (.long 13#4 b a d 37)
  | .sdivN64 b a d => some (.long 14#4 b a d 37)
  | .sremN64 b a d => some (.long 15#4 b a d 37)
  | .saddi i a d => some (.long (i.extractLsb' 7 4) (i.extractLsb' 0 7) a d 38)
  | .sli i s => some (.long (i.extractLsb' 14 4) (i.extractLsb' 7 7) (i.extractLsb' 0 7) (0#1 ++ s) 39)
  | .sliu i s => some (.long (i.extractLsb' 14 4) (i.extractLsb' 7 7) (i.extractLsb' 0 7) (1#1 ++ s) 39)
  | .slih i s => some (.long 0#4 (i.extractLsb' 7 7) (i.extractLsb' 0 7) (0#1 ++ s) 40)
  | .slihu i s => some (.long (i.extractLsb' 14 4) (i.extractLsb' 7 7) (i.extractLsb' 0 7) (1#1 ++ s) 40)
  | .scmpEq b a d => some (.long 0#4 b a d 41)
  | .scmpNe b a d => some (.long 1#4 b a d 41)
  | .scmpLtI b a d => some (.long 2#4 b a d 41)
  | .scmpLeI b a d => some (.long 3#4 b a d 41)
  | .scmpGtI b a d => some (.long 4#4 b a d 41)
  | .scmpGeI b a d => some (.long 5#4 b a d 41)
  | .scmpLtN b a d => some (.long 6#4 b a d 41)
  | .scmpLeN b a d => some (.long 7#4 b a d 41)
  | .scmpGtN b a d => some (.long 8#4 b a d 41)
  | .scmpGeN b a d => some (.long 9#4 b a d 41)
  | .vbc b d => some (.long 0#4 b 0#7 d 42)
  | .vbch b d => some (.long 1#4 b 0#7 d 42)
  | .vget n a d => some (.long 2#4 (0#1 ++ n) a d 42)
  | .vsr a d => some (.long 3#4 0#7 a d 42)
  | .ssr a d => some (.long 4#4 0#7 a d 42)
  | .wsr a d => some (.long 5#4 0#7 a d 42)
  | .ldg l t e s a d => some (.long (l ++ t) (e ++ s) a d 43)
  | .stg l t e s a d => some (.long (l ++ t) (e ++ s) a d 44)
  | .lds l t e s a d => some (.long (l ++ t) (e ++ s) a d 45)
  | .sts l t e s a d => some (.long (l ++ t) (e ++ s) a d 46)
  | .ldc l t e s a d => some (.long (l ++ t) (e ++ s) a d 47)
  | .stc l t e s a d => some (.long (l ++ t) (e ++ s) a d 48)
  | .ldx l t e s a d => some (.long (l ++ t) (e ++ s) a d 49)
  | .stx l t e s a d => some (.long (l ++ t) (e ++ s) a d 50)
  | .memoryOpComplete _ _ => none
  | .ldAcq c e s a d => some (.long (c ++ 0#1) (e ++ s) a d 51)
  | .stRel c e s a d => some (.long (c ++ 1#1) (e ++ s) a d 51)
  | .fence s => some (.long (s ++ 0#1) 0#7 0#7 0#7 52)
  | .fenceAcq s => some (.long (s ++ 0#1) 0#7 0#7 1#7 52)
  | .fenceRel s => some (.long (s ++ 0#1) 0#7 0#7 2#7 52)
  | .atomAddI32 e s a d => some (.long 0#4 (e ++ s) a d 53)
  | .atomMinI32 e s a d => some (.long 1#4 (e ++ s) a d 53)
  | .atomMaxI32 e s a d => some (.long 2#4 (e ++ s) a d 53)
  | .atomMinN32 e s a d => some (.long 3#4 (e ++ s) a d 53)
  | .atomMaxN32 e s a d => some (.long 4#4 (e ++ s) a d 53)
  | .atomAnd e s a d => some (.long 5#4 (e ++ s) a d 53)
  | .atomOr e s a d => some (.long 6#4 (e ++ s) a d 53)
  | .atomXor e s a d => some (.long 7#4 (e ++ s) a d 53)
  | .atomXchg e s a d => some (.long 8#4 (e ++ s) a d 53)
  | .atomCas32 e s a d => some (.long 9#4 (e ++ s) a d 53)
  | .atomAddF32 e s a d => some (.long 10#4 (e ++ s) a d 53)
  | .atomMinF32 e s a d => some (.long 11#4 (e ++ s) a d 53)
  | .atomMaxF32 e s a d => some (.long 12#4 (e ++ s) a d 53)
  | .atomCas64 e s a d => some (.long 13#4 (e ++ s) a d 53)
  | .atomicPerform _ _ => none
  | .redAddI32 e s a d => some (.long 0#4 (e ++ s) a d 54)
  | .redMinI32 e s a d => some (.long 1#4 (e ++ s) a d 54)
  | .redMaxI32 e s a d => some (.long 2#4 (e ++ s) a d 54)
  | .redMinN32 e s a d => some (.long 3#4 (e ++ s) a d 54)
  | .redMaxN32 e s a d => some (.long 4#4 (e ++ s) a d 54)
  | .redAnd e s a d => some (.long 5#4 (e ++ s) a d 54)
  | .redOr e s a d => some (.long 6#4 (e ++ s) a d 54)
  | .redXor e s a d => some (.long 7#4 (e ++ s) a d 54)
  | .redAddF32 e s a d => some (.long 8#4 (e ++ s) a d 54)
  | .redMinF32 e s a d => some (.long 9#4 (e ++ s) a d 54)
  | .redMaxF32 e s a d => some (.long 10#4 (e ++ s) a d 54)
  | .redAxpyF32 e s a d => some (.long 11#4 (e ++ s) a d 54)
  | .reductionApply _ => none
  | .rwlTryrd e s a d => some (.long 0#4 (e ++ s) a d 55)
  | .rwlTrywr e s a d => some (.long 1#4 (e ++ s) a d 55)
  | .rwlRelrd e s a d => some (.long 2#4 (e ++ s) a d 55)
  | .rwlRelwr e s a d => some (.long 3#4 (e ++ s) a d 55)
  | .rwlSetpref e s a d => some (.long 4#4 (e ++ s) a d 55)
  | .togen p a d => some (.long 0#4 (0#4 ++ p) a d 56)
  | .ofgen p a d => some (.long 1#4 (0#4 ++ p) a d 56)
  | .isin p a m => some (.long 2#4 (0#4 ++ p) a (0#3 ++ m) 56)
  | .barInit a n => some (.long 0#4 0#7 a (0#3 ++ n) 57)
  | .barArrive a n => some (.long 1#4 0#7 a (0#3 ++ n) 57)
  | .barArrwait a n => some (.long 2#4 0#7 a (0#3 ++ n) 57)
  | .barWait n => some (.long 3#4 0#7 0#7 (0#3 ++ n) 57)
  | .barRarrive b a n => some (.long 4#4 b a (0#3 ++ n) 57)
  | .barQuery a n => some (.long 5#4 0#7 a (0#3 ++ n) 57)
  | .copy x l c m f g h => some (.long 0#4 (0#4 ++ x) (l ++ c ++ m) (f ++ g ++ h) 58)
  | .sealBatch d => some (.long 1#4 0#7 0#7 d 58)
  | .cwait a d => some (.long 2#4 0#7 a d 58)
  | .lyset a r => some (.long 3#4 0#7 a (0#4 ++ r) 58)
  | .carcfg a c => some (.long 4#4 0#7 a (0#3 ++ c) 58)
  | .ctake b a c => some (.long 5#4 b a (0#3 ++ c) 58)
  | .cfree a c => some (.long 6#4 0#7 a (0#3 ++ c) 58)
  | .bccrd d => some (.long 7#4 0#7 0#7 d 58)
  | .fcopyTo s l r g => some (.long 8#4 (0#1 ++ s) (l ++ 0#6) (0#1 ++ r ++ g) 58)
  | .fcopyFrom s l r g => some (.long 8#4 (0#1 ++ s) (l ++ 0#6) (1#1 ++ r ++ g) 58)
  | .copyEngineStart _ _ => none
  | .copyDataLanded _ _ => none
  | .copyComplete _ _ => none
  | .cwaitComplete _ _ => none
  | .fcopyAck _ _ => none
  | .fabricWritePerform _ _ _ _ => none
  | .uetPacketDrop _ => none
  | .msetSlot a s => some (.long 0#4 0#7 a (0#5 ++ s) 59)
  | .mloadb l s => some (.long 1#4 0#7 0#7 (0#2 ++ l ++ s) 59)
  | .mmul s => some (.long 2#4 0#7 0#7 (0#5 ++ s) 59)
  | .scacc s => some (.long 3#4 0#7 0#7 (0#5 ++ s) 59)
  | .mrel a => some (.long 4#4 0#7 a 0#7 59)
  | .mstat d => some (.long 5#4 0#7 0#7 d 59)
  | .matrixCommandComplete _ _ => none
  | .gadde b a d => some (.long 0#4 b a d 60)
  | .grme b a d => some (.long 1#4 b a d 60)
  | .gsetw b a d => some (.long 2#4 b a d 60)
  | .gdegOut a d => some (.long 3#4 0#7 a d 60)
  | .gdegIn a d => some (.long 3#4 1#7 a d 60)
  | .gldOut b a d => some (.long 4#4 b a d 60)
  | .gldIn b a d => some (.long 5#4 b a d 60)
  | .gfindOut b a d => some (.long 6#4 b a d 60)
  | .gfindIn b a d => some (.long 7#4 b a d 60)
  | .gvld a d => some (.long 8#4 0#7 a d 60)
  | .gvst a d => some (.long 9#4 0#7 a d 60)
  | .copenOut c a d => some (.long 10#4 (0#4 ++ c) a d 60)
  | .copenIn c a d => some (.long 11#4 (0#4 ++ c) a d 60)
  | .cnext c d => some (.long 12#4 (0#4 ++ c) 0#7 d 60)
  | .cseek c a => some (.long 13#4 (0#4 ++ c) a 0#7 60)
  | .cclose c => some (.long 14#4 (0#4 ++ c) 0#7 0#7 60)
  | .crank c d => some (.long 15#4 (0#4 ++ c) 0#7 d 60)
  | .graphOpComplete _ _ => none
  | .versionReclaim _ => none
  | .gnew b a d => some (.long 0#4 b a d 61)
  | .gfree a => some (.long 1#4 0#7 a 0#7 61)
  | .gsel a => some (.long 2#4 0#7 a 0#7 61)
  | .gstat a d => some (.long 3#4 0#7 a d 61)
  | .spawnV a => some (.long 0#4 0#7 a 0#7 62)
  | .spawnS a => some (.long 1#4 0#7 a 0#7 62)
  | .dequeRefill _ => none
  | .jcadd b a d => some (.long 2#4 b a d 62)
  | .jcaddPerform _ _ => none
  | .launch b a d => some (.long 3#4 b a d 62)
  | .cancelLaunch a => some (.long 4#4 0#7 a 0#7 62)
  | .cancelChain a => some (.long 4#4 0#7 a 1#7 62)
  | .cancelPhase a => some (.long 4#4 0#7 a 2#7 62)
  | .cancelJob a => some (.long 4#4 0#7 a 3#7 62)
  | .lvwait a => some (.long 5#4 0#7 a 0#7 62)
  | .lvwaitComplete _ _ => none
  | .setprio a => some (.long 6#4 0#7 a 0#7 62)
  | .launchAccept _ => none
  | .placementDecision _ => none
  | .dispatch _ => none
  | .gangRetirement _ => none
  | .rpub b a s => some (.long 0#4 b a (0#4 ++ s) 2)
  | .rpubk b a s => some (.long 1#4 b a (0#4 ++ s) 2)
  | .rread b a s => some (.long 2#4 b a (0#4 ++ s) 2)
  | .rver a d => some (.long 3#4 0#7 a d 2)
  | .rsubRerun b a => some (.long 4#4 b a 0#7 2)
  | .rsubCancel b a => some (.long 4#4 b a 1#7 2)
  | .runsub b a => some (.long 5#4 b a 0#7 2)
  | .rstop a => some (.long 6#4 0#7 a 0#7 2)
  | .rsettle a => some (.long 7#4 0#7 a 0#7 2)
  | .rinit b a k => some (.long 8#4 b a (0#4 ++ k) 2)
  | .refOpPerform _ _ => none
  | .rsettleComplete _ _ => none
  | .embcfg a t => some (.long 0#4 0#7 a (0#3 ++ t) 13)
  | .embag b a t => some (.long 1#4 b a (0#3 ++ t) 13)
  | .embagComplete _ _ => none
  | .trap n => some (.long 0#4 n 0#7 0#7 63)
  | .brk => some (.long 1#4 0#7 0#7 0#7 63)
  | .tret => some (.long 2#4 0#7 0#7 0#7 63)
  | .tretNext => some (.long 2#4 0#7 0#7 1#7 63)
  | .sretResume b a => some (.long 3#4 b a 0#7 63)
  | .sretRefuse b a => some (.long 3#4 b a 1#7 63)
  | .sretKill b a => some (.long 3#4 b a 2#7 63)
  | .sretSave b a => some (.long 3#4 b a 3#7 63)
  | .sretRestore b a => some (.long 3#4 b a 4#7 63)
  | .sretRollback b a => some (.long 3#4 b a 5#7 63)
  | .rdcyc d => some (.long 4#4 0#7 0#7 d 63)
  | .rdperf a d => some (.long 5#4 0#7 a d 63)
  | .fsclr => some (.long 6#4 0#7 0#7 0#7 63)
  | .tlbinvPage b a c => some (.long 7#4 b a (0#4 ++ c ++ 0#2) 63)
  | .tlbinvAsid b a c => some (.long 7#4 b a (0#4 ++ c ++ 1#2) 63)
  | .tlbinvAll b a c => some (.long 7#4 b a (0#4 ++ c ++ 2#2) 63)
  | .tlbinvComplete _ _ => none
  | .halt => some (.long 8#4 0#7 0#7 0#7 63)
  | .haltComplete _ _ => none
  | .pfetch e s a t => some (.long 9#4 (e ++ s) a (0#5 ++ t) 63)
  | .saveStream _ => none
  | .deadlineOverrun _ => none
  | .qput _ _ _ _ => none
  | .write _ _ _ _ => none
  | .read _ _ _ _ => none
  | .cread _ _ => none
  | .phase _ _ _ => none
  | .phaseBoundary _ _ => none
  | .debugHalt _ _ => none
  | .debugStep _ _ => none
  | .debugResume _ _ _ => none
  | .debugInspect _ _ _ => none
  | .debugWrite _ _ _ _ => none
  | .debugWatchSet _ _ _ => none
  | .measurementRead _ _ _ _ => none
  | .markExecutable _ _ => none
  | .spdmMeasurement _ => none
  | .telemetryRead _ => none
  | .powerCapSet _ _ => none
  | .retrainRequest _ _ => none
  | .retrainTimeout _ => none
  | .droopDetected _ => none
  | .powerCapExceeded _ => none
  | .correctedSoftError _ _ => none
  | .uncorrectableError _ _ => none
  | .dieReset _ => none
  | .retrainEnd _ => none
  | .stretchEnd _ => none
  | .deliveryFailure _ => none
  | .fcopyFromRemoteRead _ _ _ _ => none
  | .deviceRuntimeRestart _ => none

/-- The bits of a 16-bit word (R46). -/
def shortBits (i : BitVec 1) (b d : BitVec 5) (op : BitVec 4) : BitVec 16 := i ++ b ++ d ++ op ++ 0#1
/-- The bits of a 32-bit word (R49). -/
def longBits (x : BitVec 4) (b a d : BitVec 7) (op : BitVec 6) : W32 := x ++ b ++ a ++ d ++ op ++ 1#1

/-- The bytes of a layout as memory holds them (R43). -/
def Layout.bytes : Layout → List Byte
  | .short i b d op =>
    let h := shortBits i b d op
    [h.extractLsb' 0 8, h.extractLsb' 8 8]
  | .long x b a d op =>
    let w := longBits x b a d op
    [w.extractLsb' 0 8, w.extractLsb' 8 8, w.extractLsb' 16 8, w.extractLsb' 24 8]

/-- The words of an instruction as bytes; empty for an event. -/
def encode (i : Instr) : List Byte :=
  match i.layout with
  | some l => l.bytes
  | none => []

end

end Sys2Proof
end

