-- ==== Sys2Proof/Machine/Translate.lean ====
section
/-!
DEFINITION. Addresses: the page walk and kept translations (R334-R338), instruction fetch (R43-R45), generic addresses and windows (R158,
R159, R161), common granules (R164), watches (R361), the undo log (R358), and the checks that every memory
instruction makes for all its lanes before any effect (R169).
-/
namespace Sys2Proof.Machine

/-! ## Places that may be accessed -/

/-- Whether two places overlap, each with its size. -/
def overlap (p : Place) (n : Nat) (q : Place) (m : Nat) : Bool :=
  match p, q with
  | .phys a, .phys b => decide (a < b + m) && decide (b < a + n)
  | .common a, .common b => decide (a < b + m) && decide (b < a + n)
  | .scratch t a, .scratch u b => decide (t = u) && decide (a < b + m) && decide (b < a + n)
  | _, _ => false

/-- Whether a place may be accessed now: it has no uncorrectable error (R357), and its HBM stack is not retraining (R355). -/
def State.accessible (s : State) (p : Place) (n : Nat) : Bool :=
  (s.poisoned.all fun q => !overlap p n q 1) &&
  match p with
  | .phys a => match entry .idle s.hbmStacks (Config.stackOf (a / 64)) with
    | .running _ => false
    | _ => true
  | _ => true

/-! ## Physical addresses and page tables -/

/-- Whether bytes [a, a + n) lie in HBM5 (R334). -/
def inHbm (a n : Nat) : Bool := decide (a + n ≤ 0xC000000000)
/-- Whether bytes [a, a + n) lie in the capacity tier (R334). -/
def inTier (a n : Nat) : Bool := decide (0x100000000000 ≤ a) && decide (a + n ≤ 0x140000000000)

/-- A page-table entry's next table or frame (R336). -/
def pteAddr (e : W64) : Nat := fld e 45 13 * 8192
/-- How many bytes a leaf of a level maps (R336). -/
def pageSize (lvl : Nat) : Nat := 2 ^ (56 - 10 * lvl)

/-- Whether an entry of level `lvl` is malformed (R336). -/
def malformed (e : W64) (lvl : Nat) : Bool :=
  let leaf := e.getLsbD 7
  decide (fld e 63 46 ≠ 0) || decide (fld e 12 8 ≠ 0) ||
  (leaf && decide (lvl = 1)) || (!leaf && decide (lvl = 4)) ||
  (if leaf then
    decide (pteAddr e % pageSize lvl ≠ 0) || !(if e.getLsbD 3 then inTier (pteAddr e) (pageSize lvl) else inHbm (pteAddr e) (pageSize lvl))
  else decide (fld e 6 1 ≠ 0) || !inHbm (pteAddr e) 8192)

/-- A page as a walk finds it: its first virtual address, size, frame, transit bit, and where its entry lies. -/
structure Page where
  va      : Nat
  size    : Nat
  frame   : Nat
  transit : Bool
  entry   : Nat
  deriving DecidableEq, Repr

/-- The outcome of a walk (R337); it waits while an entry it reads cannot be accessed (R355, R357). -/
inductive Walk where
  | wait
  | fault
  | protection
  | page (p : Page)
  deriving DecidableEq, Repr

/-- The levels of a walk from table `t` on (R337). -/
def State.walkFrom (s : State) (va : Nat) (k : Kind) : List Nat → Nat → Walk
  | [], _ => .fault
  | lvl :: rest, t =>
    let at_ := t + 8 * (va / pageSize lvl % 1024)
    let e := read64 s.phys at_
    if !s.accessible (.phys at_) 8 then .wait
    else if !e.getLsbD 0 || malformed e lvl then .fault
    else if e.getLsbD 7 then
      if k = Kind.fetch ∧ !e.getLsbD 2 then .protection
      else if k = Kind.write ∧ (!e.getLsbD 1 ∨ e.getLsbD 2) then .protection
      else .page ⟨va / pageSize lvl * pageSize lvl, pageSize lvl, pteAddr e, e.getLsbD 4, at_⟩
    else s.walkFrom va k rest (pteAddr e)

/-- Walk(asid, va, k) of R337: what it answers; `setUsed` sets its bits. A table outside HBM, or a reserved bit of the address space's entry (R6, R335),
answers FAULT (log 14). -/
def State.walk (s : State) (asid : BitVec 8) (va : Nat) (k : Kind) : Walk :=
  let ast := s.ptbase.toNat + 8 * asid.toNat
  let e := read64 s.phys ast
  if !inHbm ast 8 then .fault
  else if !s.accessible (.phys ast) 8 then .wait
  else if !e.getLsbD 0 || decide (fld e 63 46 ≠ 0) || decide (fld e 12 1 ≠ 0) || !inHbm (pteAddr e) 8192 then .fault
  else s.walkFrom (va % 2 ^ 56) k [1, 2, 3, 4] (pteAddr e)

/-- Where an address points before translation. -/
inductive Target where
  | global (va : Nat)
  /-- An offset in the scratch of a team, whose allotment is `z` bytes. -/
  | scratch (team z off : Nat)
  | common (off : Nat)
  deriving DecidableEq, Repr

/-! ## Kept translations -/

/-- A translation of one address: what went wrong, or the physical address, the transit bit, and the page if it is not kept yet. -/
inductive Xlate where
  | wait
  | fault
  | protection
  | ok (pa : Nat) (transit : Bool) (new : Option Page)
  deriving DecidableEq, Repr

/-- The kept translation of a CU for an address and a kind (R338). -/
def Cu.kept? (c : Cu) (asid : BitVec 8) (va : Nat) (k : Kind) : Option Kept :=
  c.kept.find? fun e => decide (e.asid = asid) && decide (e.kind = k) && decide (e.va ≤ va) && decide (va < e.va + e.size)

/-- Translates for a CU: by a kept translation, or by a walk (R337, R338). -/
def State.translate (s : State) (cu : Nat) (asid : BitVec 8) (va : Nat) (k : Kind) : Xlate :=
  let v := va % 2 ^ 56
  match (s.cu cu).kept? asid v k with
  | some e => .ok (e.frame + (v - e.va)) e.transit none
  | none => match s.walk asid v k with
    | .wait => .wait
    | .fault => .fault
    | .protection => .protection
    | .page p => .ok (p.frame + (v - p.va)) p.transit (some p)

/-- Sets A, and D for a write, in a page's entry (R337). -/
def setUsed (phys : List Host.Cell) (p : Page) (k : Kind) : List Host.Cell :=
  put phys p.entry (look phys p.entry ||| (if k = .write then 0x60 else 0x20))

/-- The bits of a completed walk are set (R337), the walk is counted (R342), and the CU may keep the translation until a tlbinv removes it: it keeps
those of fetches, and of the others those that a free choice names (R45, R338; log 26). -/
def State.keep (s : State) (cu : Nat) (asid : BitVec 8) (k : Kind) (p : Page) : State :=
  if (s.cu cu).kept.contains ⟨asid, k, p.va, p.size, p.frame, p.transit⟩ then s
  else ({ s with phys := setUsed s.phys p k }).onCu cu fun c =>
    { c with
      walks := c.walks + 1
      kept := if decide (k = Kind.fetch) || Config.keeps s.serial p.va then c.kept ++ [Kept.mk asid k p.va p.size p.frame p.transit] else c.kept }

/-- Keeps the page of a translation, if it is a new one. -/
def State.keepNew (s : State) (cu : Nat) (asid : BitVec 8) (k : Kind) : Xlate → State
  | .ok _ _ (some p) => s.keep cu asid k p
  | _ => s

/-- The effects of the translation of a target: a walk that ended in FAULT or PROTECTION is counted too, since it was started (R342; log 22). -/
def State.translated (s : State) (cu : Nat) (asid : BitVec 8) (k : Kind) : Option Target → Xlate → State
  | some (.global _), .fault | some (.global _), .protection => s.onCu cu fun c => { c with walks := c.walks + 1 }
  | _, x => s.keepNew cu asid k x

/-- A translation that an engine makes: by a walk alone, with its bits set; nothing is kept. -/
def State.engineTranslate (s : State) (asid : BitVec 8) (va : Nat) (k : Kind) : Xlate :=
  match s.walk asid va k with
  | .wait => .wait
  | .fault => .fault
  | .protection => .protection
  | .page p => .ok (p.frame + (va % 2 ^ 56 - p.va)) p.transit (some p)

/-- The bits of an engine's walk are set. -/
def State.engineUsed (s : State) (k : Kind) : Xlate → State
  | .ok _ _ (some p) => { s with phys := setUsed s.phys p k }
  | _ => s

/-! ## Instruction fetch (R43-R45) -/

/-- What a fetch brings: the word's bits and its length, or what went wrong at which address; it waits while code or a page-table entry cannot be read
(R355, R357). -/
inductive Fetch where
  | wait
  | word (w : Nat) (size : Nat)
  | fault (va : W64)
  | protection (va : W64)
  deriving DecidableEq, Repr

/-- The 64-byte line of code at a physical line number, as the CU's instruction cache holds it or as memory does. -/
def State.codeLine (s : State) (cu line : Nat) : BitVec 512 :=
  match entry? (s.cu cu).icode line with
  | some d => d
  | none => BitVec.ofNat 512 (readNat s.phys (64 * line) 64)

/-- The halfword at a physical address, through the instruction cache. -/
def State.codeHalf (s : State) (cu pa : Nat) : Nat :=
  match entry? (s.cu cu).icode (pa / 64) with
  | some d => fld d (8 * (pa % 64) + 15) (8 * (pa % 64))
  | none => readNat s.phys pa 2

/-- Whether the code line of a physical address can be read now: it is cached without an error, or its home may be accessed (R355, R357). -/
def State.codeSound (s : State) (cu pa : Nat) : Bool :=
  if (entry? (s.cu cu).icode (pa / 64)).isSome then !(s.cu cu).badCode.contains (pa / 64) else s.accessible (.phys (64 * (pa / 64))) 64

/-- FetchWord (R57): the halfword at PC, and the one at PC + 2 when bit 0 is set; nothing changes. -/
def State.fetch (s : State) (cu : Nat) (asid : BitVec 8) (pc : W64) : Fetch :=
  match s.translate cu asid pc.toNat .fetch with
  | .wait => .wait
  | .fault => .fault pc
  | .protection => .protection pc
  | .ok pa _ _ =>
    let h0 := s.codeHalf cu pa
    if !s.codeSound cu pa then .wait
    else if h0 % 2 = 0 then .word h0 2
    else
      let p2 := pcOf (pc + 2)
      match s.translate cu asid p2.toNat .fetch with
      | .wait => .wait
      | .fault => .fault p2
      | .protection => .protection p2
      | .ok pb _ _ => if s.codeSound cu pb then .word (h0 + 65536 * s.codeHalf cu pb) 4 else .wait

/-- Enters a code line in an instruction cache of 1,024 lines; a full one gives up the line it has held longest (R13; log 30). -/
def enterCode (c : List (Nat × BitVec 512)) (n : Nat) (d : BitVec 512) : List (Nat × BitVec 512) :=
  (if 1024 ≤ c.length then c.drop 1 else c) ++ [(n, d)]

/-- The CU keeps the code line of a physical address. -/
def State.fillCode (s : State) (cu pa : Nat) : State :=
  if (entry? (s.cu cu).icode (pa / 64)).isSome then s
  else s.onCu cu fun c =>
    { c with icode := enterCode c.icode (pa / 64) (s.codeLine cu (pa / 64)), badCode := c.badCode.filter fun n => decide (n ≠ pa / 64) }

/-- The effects of fetching the halfword at an address: its translation and its code line are kept. -/
def State.fetched (s : State) (cu : Nat) (asid : BitVec 8) (va : Nat) : State :=
  let x := s.translate cu asid va .fetch
  let t := s.translated cu asid .fetch (some (.global va)) x
  match x with
  | .ok pa _ _ => t.fillCode cu pa
  | _ => t

/-- The effects of fetching a word of `size` bytes. -/
def State.fetchedWord (s : State) (cu : Nat) (asid : BitVec 8) (pc : W64) (size : Nat) : State :=
  let s1 := s.fetched cu asid pc.toNat
  if size = 4 then s1.fetched cu asid (pcOf (pc + 2)).toNat else s1

/-- The effects of a fetch whose halfword at `va` cannot be translated: that one, or the one before it too. -/
def State.fetchedTo (s : State) (cu : Nat) (asid : BitVec 8) (pc va : W64) : State := s.fetchedWord cu asid pc (if va = pc then 2 else 4)

/-! ## Generic addresses (R158) -/

/-- A rank of the issuing team's cluster group (R161). -/
def State.rankTeam (s : State) (t : Team) (r : Nat) : Option Team :=
  if t.group = none ∨ t.groupSize ≤ r then none
  else if r = t.rank then some t
  else s.teams.find? fun x => decide (x.group = t.group) && decide (x.rank = r)

/-- What a generic address names, none for ADDRESS_WINDOW (R158). -/
def State.window (s : State) (g : Gang) (a : W64) : Option Target :=
  let t := s.teamOf g
  match fld a 63 56 with
  | 0x00 => some (.global a.toNat)
  | 0xF8 => if fld a 55 18 = 0 then some (.scratch t.id t.scratchZ (fld a 17 0)) else none
  | 0xF9 =>
    if fld a 55 21 = 0 then (s.rankTeam t (fld a 20 18)).map fun x => .scratch x.id x.scratchZ (fld a 17 0) else none
  | 0xFA => if fld a 55 29 = 0 then some (.common (fld a 28 0)) else none
  | _ => none

/-- The grant of an address space for a common offset (R164). -/
def State.grantAt (s : State) (asid : BitVec 8) (off : Nat) : Option GrantKind :=
  (s.grants.find? fun g => decide (g.asid = asid) && decide (g.granule = off / 65536)).map Grant.kind

/-- Whether a common access is allowed (R164): any grant for a load, a data grant for anything that writes. -/
def grantAllows (k : Kind) : Option GrantKind → Bool
  | none => false
  | some .data => true
  | some _ => decide (k ≠ .write)

/-- Whether a target passes its scratch allotment (R159). -/
def Target.outOfScratch (size : Nat) : Target → Bool
  | .scratch _ z off => decide (z < off + size)
  | _ => false

/-- The translation of a global target; other targets need none. -/
def State.targetXlate (s : State) (g : Gang) (k : Kind) : Target → Xlate
  | .global va => s.translate (s.cuOf g) (s.asidOf g) va k
  | .scratch _ _ off => .ok off false none
  | .common off => if grantAllows k (s.grantAt (s.asidOf g) off) then .ok off false none else .protection

/-- The place of a translated target. -/
def placeOf (pa : Nat) : Target → Place
  | .global _ => .phys pa
  | .scratch t _ off => .scratch t off
  | .common off => .common off

/-! ## The undo log (R358) -/

/-- The log line of a place: global lines and lines of common data granules are logged, scratch never. -/
def State.logLine (s : State) : Place → Option (Bool × Nat)
  | .phys a => some (false, a / 64)
  | .common o =>
    if s.grants.any fun g => decide (g.granule = o / 65536) && decide (g.kind = .data) then some (true, o / 64) else none
  | .scratch _ _ => none

/-- Whether a line has its record already. -/
def State.logged (s : State) (l : Bool × Nat) : Bool := s.undo.any fun u => decide (u.common = l.1) && decide (u.line = l.2)

/-- The lines of some places that have no record yet. -/
def State.logNeeds (s : State) (ps : List Place) : List (Bool × Nat) := ((ps.filterMap s.logLine).eraseDups).filter fun l => !s.logged l

/-- The lines of some places that need a record before they are written: only while a phase is in progress. -/
def State.unlogged (s : State) (ps : List Place) : List (Bool × Nat) := if s.phases = [] then [] else s.logNeeds ps

/-- How many records of 128 bytes the log holds: sr.ulog [63:48] is its size in GiB (R340, R358). -/
def State.logRoom (s : State) : Nat := fld s.ulog 63 48 * 2 ^ 30 / 128

/-- Where record `n` of the log lies in the capacity tier: sr.ulog [45:16] is bits [45:16] of the log's base (R340, R358). -/
def State.logAt (s : State) (n : Nat) : Nat := fld s.ulog 45 16 * 65536 + 128 * n

/-- Physical memory with the 128 bytes of record `n` in the tier; how a record lays out what it holds is the device's own (log 17). -/
def State.withRecord (s : State) (phys : List Host.Cell) (n : Nat) : List Host.Cell :=
  storeBytes phys (s.logAt n) ((List.range 128).map fun i => Config.areaByte s.serial (s.logAt n + i))

/-- The record of a line, with its old bytes (R358). -/
def State.undoOf (s : State) (l : Bool × Nat) : Undo :=
  ⟨l.1, l.2, BitVec.ofNat 512 (readNat (if l.1 then s.common else s.phys) (64 * l.2) 64)⟩

/-- Appends the records of lines (R358). -/
def State.logLines (s : State) (ls : List (Bool × Nat)) : State :=
  { s with
    undo := s.undo ++ ls.map s.undoOf
    phys := (List.range ls.length).foldl (fun m i => s.withRecord m (s.undo.length + i)) s.phys }

/-! ## Watches (R361) -/

/-- Whether an access of kind `load`, `store` or read-modify-write matches a watch of the die. -/
def watchHit (d : Die) (asid : BitVec 8) (load store rmw : Bool) (va size : Nat) : Bool :=
  d.watches.any fun e =>
    let w := e.2
    decide (w.asid = asid) && decide (va < w.stop.toNat) && decide (w.start.toNat < va + size) &&
    ((load && w.load) || (store && w.store) || (rmw && w.rmw))

/-- A BREAKPOINT in lanes `t`: with a debug session on the job the gang halts at the word and the controller is told; otherwise the
cause goes to the trap vector (R361). -/
def Issue.breakpoint (x : Issue) (t : Lanes) (addr : W64) : Result :=
  if x.s.sessions.contains (x.s.jobOf x.g) then
    .next ((x.s.setGang { x.g with halt := .halted }).send (.stopped (x.s.handle x.g) x.g.index.toNat))
  else x.raise BREAKPOINT t addr

/-! ## The checks of a memory instruction (R169) -/

/-- What kind of access a memory instruction makes: for pages and grants, and for watches. -/
structure AccessKind where
  page  : Kind
  load  : Bool := false
  store : Bool := false
  rmw   : Bool := false

def AccessKind.read : AccessKind := { page := .read, load := true }
def AccessKind.write : AccessKind := { page := .write, store := true }
def AccessKind.modify : AccessKind := { page := .write, rmw := true }

/-- One lane of a memory instruction with its address, target and translation. -/
structure LaneAccess where
  lane : Nat
  addr : W64
  target : Option Target
  xl : Xlate
  deriving DecidableEq, Repr

/-- The lanes of a list for which `p` holds. -/
def lanesThat (ls : List LaneAccess) (p : LaneAccess → Bool) : Lanes := laneSet ((ls.filter p).map LaneAccess.lane)

/-- The place of a lane's access. -/
def LaneAccess.place (a : LaneAccess) : Place :=
  match a.xl, a.target with
  | .ok pa _ _, some t => placeOf pa t
  | _, _ => .phys 0

/-- The word after the walks of its lanes: the bits of the completed ones are set whatever becomes of the word (R337), and each is counted (R342). -/
def Issue.walked (x : Issue) (k : Kind) (ls : List LaneAccess) : Issue :=
  { x with s := ls.foldl (fun (s : State) a => s.translated (x.s.cuOf x.g) (x.s.asidOf x.g) k a.target a.xl) x.s }

/-- MemIssue up to the point where every lane goes ahead (R169): each lane's address and target, the causes in their order for all lanes
before any effect, the walks of its global lanes, watches (log 26), pages that are not present,
pages in transit (R185), an outstanding acquire (R179), and the undo log of a write. `k` is given the accesses and the state with translations kept. -/
def Issue.access (x : Issue) (ak : AccessKind) (size : Nat) (addr : Nat → W64) (target : Nat → Option Target)
    (k : List LaneAccess → State → Result) : Result :=
  let ls := (lanesOf x.lanes).map fun l =>
    LaneAccess.mk l (addr l) (target l) (match target l with
      | none => .protection
      | some t => if t.outOfScratch size then .protection else x.s.targetXlate x.g ak.page t)
  let window := lanesThat ls fun a => decide (a.target = none)
  let range := lanesThat ls fun a => (a.target.map (Target.outOfScratch size)).getD false
  let align := lanesThat ls fun a => decide (a.addr.toNat % size ≠ 0)
  let prot := lanesThat ls fun a => decide (a.xl = .protection)
  let asid := x.s.asidOf x.g
  let die := x.s.die (dieOf (x.s.cuOf x.g))
  let watched := lanesThat ls fun a => match a.target with
    | some (.global va) => !x.g.pastWatch && watchHit die asid ak.load ak.store ak.rmw va size
    | _ => false
  let absent := lanesThat ls fun a => decide (a.xl = .fault)
  let low := fun (t : Lanes) => ((ls.filter fun a => t.getLsbD a.lane).map fun a => a.addr.toNat).foldl min (2 ^ 64 - 1)
  let moving := ls.find? fun a => match a.xl with
    | .ok _ tr _ => tr && decide (ak.page = .write)
    | _ => false
  x.checks [(ADDRESS_WINDOW, window, addr), (SCRATCH_RANGE, range, addr), (ALIGNMENT, align, addr)] <|
  let y := x.walked ak.page ls
  match ls.find? fun a => decide (a.xl = .wait) with
  | some a => y.stall (.walk a.addr ak.page)
  | none =>
    y.checks [(PAGE_PROTECTION, prot, addr)] <|
    if watched ≠ 0 then y.breakpoint watched (BitVec.ofNat 64 (low watched))
    else if absent ≠ 0 then y.suspend absent (BitVec.ofNat 64 (low absent))
    else match moving with
      | some a => y.stall (.transit a.addr)
      | none =>
        if x.g.acquiring then y.stall .acquire
        else
          let lines := if ak.page = .write then y.s.unlogged (ls.map LaneAccess.place) else []
          if y.s.logRoom < y.s.undo.length + lines.length ∧ lines ≠ [] then
            let s1 := y.s.request (dieOf (y.s.cuOf y.g)) 2 0 (y.s.handle y.g) (addr (lowestLane x.lanes)) (.room x.g.id (addr (lowestLane x.lanes)))
            y.stallIn s1 (.logFull y.s.freshTag)
          else k ls (y.s.logLines lines)

end Sys2Proof.Machine
end

