-- ==== Sys2Proof/Machine/SubGroups.lean ====
section
/-!
DEFINITION. Sub-groups and the issue rule of a gang (R138, R139, R151, R362), the choice between the gangs of a CU (R293), and the
start of a word or a clause (R126).
-/
namespace Sys2Proof.Machine

/-- A sub-group: ready threads that stand at one place (R138). -/
structure SubGroup where
  lanes   : Lanes
  pc      : W64
  place   : Option BodyAt
  waited  : Nat
  /-- Every thread of it has yielded since the gang's last decision (R151). -/
  yielded : Bool
  deriving DecidableEq, Repr

/-- Adds a ready thread to the sub-group that stands where it does; its waiting count is the largest among its threads (R138). -/
def addThread (l : Nat) (t : Thread) : List SubGroup → List SubGroup
  | [] => [⟨lane l, t.pc, t.place, t.waited, t.yielded⟩]
  | q :: r =>
    if q.pc = t.pc ∧ q.place = t.place then
      { q with lanes := q.lanes ||| lane l, waited := max q.waited t.waited, yielded := q.yielded && t.yielded } :: r
    else q :: addThread l t r

/-- Adds the ready threads of a list, from lane `n` on. -/
def groupFrom : Nat → List Thread → List SubGroup → List SubGroup
  | _, [], gs => gs
  | n, t :: r, gs => groupFrom (n + 1) r (if t.status = .ready then addThread n t gs else gs)

/-- The sub-groups of a gang between clauses, in the order of their lowest lanes. -/
def Gang.subGroups (g : Gang) : List SubGroup := groupFrom 0 g.threads []

/-- Whether a sub-group is ready: at a body word always (R362); at a header position when the flags of the header's WAIT field are zero
(R126). A header that cannot be fetched, or is none, is issued, and traps or waits. -/
def State.groupReady (s : State) (g : Gang) (q : SubGroup) : Bool :=
  match q.place with
  | some _ => true
  | none => match s.fetch (s.cuOf g) (s.asidOf g) q.pc with
    | .word w 4 => if w % 128 = 1 then g.waitsDone (w / 4096 % 4096) else true
    | _ => true

/-- The ready sub-groups of a gang; those of a cancelled gang go on only to their next clause boundary (R295). -/
def State.readyGroups (s : State) (g : Gang) : List SubGroup :=
  (g.subGroups.filter fun q => !g.cancelled || q.place.isSome).filter (s.groupReady g)

/-- The better of two ready sub-groups by R139: one that has waited 64 or more goes first, the longest wait before the others, then the
smaller lowest lane. -/
def betterGroup (a b : SubGroup) : Bool :=
  let oa := decide (64 ≤ a.waited)
  let ob := decide (64 ≤ b.waited)
  if oa && ob then decide (b.waited < a.waited) || (decide (a.waited = b.waited) && decide (lowestLane a.lanes < lowestLane b.lanes))
  else if oa || ob then oa
  else decide (lowestLane a.lanes < lowestLane b.lanes)

/-- The first by R139 of some sub-groups. -/
def pickGroup : List SubGroup → Option SubGroup
  | [] => none
  | q :: r => match pickGroup r with
    | none => some q
    | some p => if betterGroup q p then some q else some p

/-- ChooseSubGroup (R139): one that has yielded is chosen only when no other is ready (R151). -/
def chooseGroup (r : List SubGroup) : Option SubGroup :=
  match r.filter fun q => !q.yielded with
  | [] => pickGroup r
  | u :: us => pickGroup (u :: us)

/-- Sub-group `p` is in flight. -/
def Gang.flying (g : Gang) (p : SubGroup) : Gang := { g with flight := some ⟨p.lanes, p.pc, p.place⟩ }

/-- The gang after a decision for sub-group `p` among the ready ones: the others wait one issue more, and `p` is in flight. -/
def Gang.chosen (g : Gang) (ready : List SubGroup) (p : SubGroup) : Gang :=
  let g1 := ready.foldl (fun (a : Gang) q => a.mapLanes q.lanes fun _ t => { t with waited := if q.lanes = p.lanes then 0 else q.waited + 1 }) g
  (g1.mapLanes g1.lanes fun _ t => { t with yielded := false }).flying p

/-- The waiting counts and yield marks as they stood in `x`, before a decision for a header whose fetch suspends the gang: no clause issued, and the
decision is made anew when the gang goes on (R139, R350). -/
def Gang.undecided (x g : Gang) : Gang :=
  if g.suspended.isSome ∧ g.flight = none then
    { g with threads := mapFrom (fun l t => { t with waited := (x.thread l).waited, yielded := (x.thread l).yielded }) 0 g.threads }
  else g

/-- The sub-group that a debug step takes: the one of the chosen lane, or that of R139 (R156). -/
def State.stepGroup (s : State) (g : Gang) : Option SubGroup :=
  if g.dbsel.getLsbD 6 then (s.readyGroups g).find? fun q => q.lanes.getLsbD (fld g.dbsel 5 0) else chooseGroup (s.readyGroups g)

/-- The gang with the sub-group of its next decision in flight. A debug step at a body word is no clause issue and leaves the waiting counts (R156). -/
def State.decided (s : State) (g : Gang) : Gang :=
  if g.halt = .stepping then match s.stepGroup g with
    | some p => if p.place = none then g.chosen (s.readyGroups g) p else g.flying p
    | none => g
  else match chooseGroup (s.readyGroups g) with
    | some p => g.chosen (s.readyGroups g) p
    | none => g

/-- Whether a gang is stopped as a whole: suspended, stalled in place, killed, or stopped by a fault in system mode. -/
def Gang.stopped (g : Gang) : Bool := g.suspended.isSome || g.stall.isSome || g.killed || g.crashed

/-- Whether a gang may start a clause or resume a body: it is not asked to stand at its resumable points (R351, R360). -/
def Gang.mayStart (g : Gang) : Bool := !g.saving && decide (g.halt = .no)

/-- Whether the gang has a word to issue: the next word of its flight, or a ready sub-group. -/
def State.issuable (s : State) (g : Gang) : Bool :=
  !g.stopped &&
  match g.flight with
  | some _ => decide (g.halt ≠ .halted)
  | none => if g.halt = .stepping then !g.saving && (s.stepGroup g).isSome else g.mayStart && (s.readyGroups g).any fun _ => true

/-! ## The choice between gangs (R293) -/

/-- Whether gang `a` goes before gang `b` on a free quadrant: starved ones first, oldest first; then the higher priority; then the one that issued
least recently. -/
def State.before (s : State) (a b : Gang) : Bool :=
  let sa := Config.starved s.tick a.id
  let sb := Config.starved s.tick b.id
  if sa && sb then decide (a.lastIssue < b.lastIssue)
  else if sa || sb then sa
  else if a.prio ≠ b.prio then decide (b.prio < a.prio)
  else decide (a.lastIssue < b.lastIssue)

/-- Whether two gangs share a quadrant of a CU. -/
def State.sharesQuads (s : State) (g h : Gang) : Bool := decide (h.id ≠ g.id) && decide (s.cuOf h = s.cuOf g) && decide (h.quads &&& g.quads ≠ 0)

/-- Whether every quadrant of a gang is free: a gang in mid-clause keeps its quadrants until the clause ends, whatever it waits for (R126, R293). -/
def State.quadsFree (s : State) (g : Gang) : Bool := s.gangs.all fun h => !s.sharesQuads g h || h.flight.isNone

/-- Whether a gang may issue now (R293): in mid-clause it goes on; between clauses every quadrant of it must be free, and it goes first by R293 among the gangs
that have a word to issue and whose quadrants are all free. `stalls` says of a gang that it issues nothing for a reason that its own state does not show. -/
def State.mayIssue (s : State) (stalls : Gang → Bool) (g : Gang) : Bool :=
  let ready := fun h => s.issuable h && !stalls h
  ready g && (g.flight.isSome || (s.quadsFree g && s.gangs.all fun h =>
    !s.sharesQuads g h || h.flight.isSome || !ready h || !s.quadsFree h || !s.before h g))

/-! ## Starting a word -/

/-- The state in which gang `g` issues its next word: a sub-group is in flight, and the gang is the issuing one. -/
def State.begin (s : State) (g : Gang) : State :=
  let g1 := match g.flight with
    | some _ => g
    | none => s.decided g
  { s.setGang { g1 with lastIssue := s.serial } with focus := some g.id, serial := s.serial + 1 }

/-- StartClause (R126): k0-k7 of the lanes become 0, the slots are latched, and the body begins. -/
def Gang.startClause (g : Gang) (f : Flight) (clause slotB slotA n : Nat) : Gang :=
  { g.mapLanes f.lanes (fun _ t => { t with
      vregs := outside t.vregs 120 128, bad := t.bad.filter fun n => decide (n < 120), clause := clause, entering := false }) with
    issues := g.issues + 1
    flight := some ⟨f.lanes, pcOf (f.pc + 4), some ⟨BitVec.ofNat 4 slotA, BitVec.ofNat 4 slotB, n⟩⟩ }

/-- The header of a clause (R126, R53). In a body it raises CLAUSE_FORM; at a header position whose flags are not zero, the sub-group goes on
waiting. -/
def execClauseHeader (b a : BitVec 4) (w : BitVec 12) (n : BitVec 5) (s : State) : Result :=
  match s.focus.bind s.gang? with
  | none => .fault .noIssuer
  | some g => match g.flight with
    | none => .fault .noIssuer
    | some f => match f.place with
      | some _ => .next (s.trap g f CLAUSE_FORM f.lanes 0 false 4)
      | none =>
        if !([Operand.slot b.toNat, .slot a.toNat, .range n.toNat 1 24].all Operand.ok) then
          .next (s.trap g f ILLEGAL_ENCODING f.lanes 0 false 4)
        else if !g.waitsDone w.toNat then .next (s.setGang { g with flight := none })
        else .next ((s.bump).setGang (g.startClause f s.serial b.toNat a.toNat n.toNat))

end Sys2Proof.Machine
end

