-- ==== Sys2Proof/Machine/Memory.lean ====
section
/-!
DEFINITION. Memory as the parties see it: homes and view caches (R177, R178), write-back, invalidation, publication and commit points
(R179, R180, R258, R260), the order of one CU's accesses to one location (R172), and the performance of
loads, stores, atomics, reductions and lock words (R169-R173, R182, R191-R210).
-/
namespace Sys2Proof.Machine

/-! ## Homes -/

/-- The bytes of a place at its home. -/
def State.homeBytes (s : State) (p : Place) (n : Nat) : List Byte :=
  match p with
  | .phys a => bytesAt s.phys a n
  | .common o => bytesAt s.common o n
  | .scratch t o => match s.team? t with
    | some x => bytesAt x.scratch o n
    | none => bytesAt [] o n

/-- Stores bytes at the home of a place. -/
def State.storeHome (s : State) (p : Place) (bs : List Byte) : State :=
  match p with
  | .phys a => { s with phys := storeBytes s.phys a bs }
  | .common o => { s with common := storeBytes s.common o bs }
  | .scratch t o => s.onTeam t fun x => { x with scratch := storeBytes x.scratch o bs }

/-! ## View caches -/

/-- The cached line of a physical line number. -/
def Cu.line? (c : Cu) (n : Nat) : Option Line := c.lines.find? fun l => decide (l.line = n)

/-- A line's byte at offset `o`. -/
def Line.byte (l : Line) (o : Nat) : Byte := BitVec.ofNat 8 (fld l.data (8 * o + 7) (8 * o))

/-- A line with bytes replaced from offset `o` on; they become dirty if `d`. -/
def Line.patch (l : Line) (d : Bool) (o : Nat) (bs : List Byte) : Line :=
  let n := bs.length
  let mk : BitVec 512 := BitVec.ofNat 512 (2 ^ (8 * n) - 1) <<< (8 * o)
  { l with
    data := (l.data &&& ~~~mk) ||| (BitVec.ofNat 512 (leNat bs) <<< (8 * o))
    dirty := if d then l.dirty ||| (BitVec.ofNat 64 (2 ^ n - 1) <<< o) else l.dirty }

/-- A line as its home holds it. -/
def State.homeLine (s : State) (n : Nat) : Line := { line := n, data := BitVec.ofNat 512 (readNat s.phys (64 * n) 64), dirty := 0 }

/-- The bytes of a place in a CU's view (R178): its cached line if it has one, else the home. -/
def State.viewBytes (s : State) (cu : Nat) (p : Place) (n : Nat) : List Byte :=
  match p with
  | .phys a => match (s.cu cu).line? (a / 64) with
    | some l => (List.range n).map fun i => l.byte (a % 64 + i)
    | none => s.homeBytes p n
  | _ => s.homeBytes p n

/-- Changes a line of a CU's view cache. -/
def State.onLine (s : State) (cu n : Nat) (f : Line → Line) : State :=
  s.onCu cu fun c => { c with lines := c.lines.map fun l => if l.line = n then f l else l }

/-- The dirty bytes of a line go to its home. -/
def flushBytes (l : Line) : List Host.Cell → Nat → List Host.Cell
  | m, 0 => m
  | m, o + 1 => flushBytes l (if l.dirty.getLsbD o then put m (64 * l.line + o) (l.byte o) else m) o

/-- Writes back a line of a CU; the line stays, clean. -/
def State.writeBackLine (s : State) (cu n : Nat) : State :=
  match (s.cu cu).line? n with
  | some l => ({ s with phys := flushBytes l s.phys 64 }).onLine cu n fun l => { l with dirty := 0 }
  | none => s

/-- Writes back every dirty line of a CU (R179). -/
def State.writeBack (s : State) (cu : Nat) : State := (s.cu cu).lines.foldl (fun s l => s.writeBackLine cu l.line) s

/-- A line that keeps its dirty bytes and takes the others from its home. -/
def State.refresh (s : State) (l : Line) : Line :=
  let h := { s.homeLine l.line with bad := l.bad }
  (List.range 64).foldl (fun x o => if l.dirty.getLsbD o then x.patch true o [l.byte o] else x) h

/-- Invalidates every clean line of a CU (R179); the clean bytes of a dirty line are read again from the home (log 15). -/
def State.invalidate (s : State) (cu : Nat) : State :=
  s.onCu cu fun c => { c with lines := (c.lines.filter fun l => decide (l.dirty ≠ 0)).map s.refresh }

/-- A CU gives up a line: a dirty one is written back first (R178). -/
def State.evict (s : State) (cu n : Nat) : State :=
  (s.writeBackLine cu n).onCu cu fun c => { c with lines := c.lines.filter fun l => decide (l.line ≠ n) }

/-- Whether a line may leave its CU, or be written back: it has no error, and its home may be accessed, unless it is clean (R355, R357). -/
def State.lineFree (s : State) (l : Line) : Bool := decide (l.dirty = 0) || (!l.bad && s.accessible (.phys (64 * l.line)) 64)

/-- Whether every dirty line of a CU can be written back now. -/
def State.flushable (s : State) (cu : Nat) : Bool := (s.cu cu).lines.all s.lineFree

/-- Whether a CU's copy of a place has no error (R357). -/
def State.lineSound (s : State) (cu : Nat) (p : Place) : Bool :=
  match p with
  | .phys a => (((s.cu cu).line? (a / 64)).map fun l => !l.bad).getD true
  | _ => true

/-- Whether a CU's view cache holds the line of a place or can take it: one of its 2,048 lines is empty, or may leave (R13). -/
def State.lineRoom (s : State) (cu : Nat) (p : Place) : Bool :=
  match p with
  | .phys a => ((s.cu cu).line? (a / 64)).isSome || decide ((s.cu cu).lines.length < 2048) || (s.cu cu).lines.any s.lineFree
  | _ => true

/-- A full view cache of 2,048 lines gives up the line that it has held longest among those that may leave (R13; log 18). -/
def State.makeRoom (s : State) (cu : Nat) : State :=
  if (s.cu cu).lines.length < 2048 then s
  else match (s.cu cu).lines.find? s.lineFree with
    | some l => s.evict cu l.line
    | none => s

/-- A CU takes a line into its view cache if it does not hold it; that is a miss (R342). -/
def State.fillLine (s : State) (cu : Nat) (n : Nat) : State :=
  match (s.cu cu).line? n with
  | some _ => s
  | none => (s.makeRoom cu).onCu cu fun c => { c with lines := c.lines ++ [s.homeLine n], misses := c.misses + 1 }

/-- A load of a place brings its line into the view cache. -/
def State.touch (s : State) (cu : Nat) (p : Place) : State :=
  match p with
  | .phys a => s.fillLine cu (a / 64)
  | _ => s

/-- A store performed in a CU's view: a global byte becomes dirty in its line (R177, R178). -/
def State.storeView (s : State) (cu : Nat) (p : Place) (bs : List Byte) : State :=
  match p with
  | .phys a => (s.fillLine cu (a / 64)).onLine cu (a / 64) fun l => l.patch true (a % 64) bs
  | _ => s.storeHome p bs

/-- After an update at its home, a CU's own copy of a place shows the new bytes (R172, R178). -/
def State.ownCopy (s : State) (cu : Nat) (p : Place) (bs : List Byte) : State :=
  match p with
  | .phys a => s.onLine cu (a / 64) fun l => l.patch false (a % 64) bs
  | _ => s

/-- A place's own dirty bytes reach their home before a read-modify-write there. -/
def State.ownHome (s : State) (cu : Nat) (p : Place) : State :=
  match p with
  | .phys a => s.writeBackLine cu (a / 64)
  | _ => s

/-! ## Commit points and view generations (R258, R260) -/

/-- Commits the tentative mutations tagged with a CU as one set, under one new generation (R258). A commit point that finds none takes no generation (log 37). -/
def State.commitCu (s : State) (cu : Nat) : State :=
  if s.graph.graphs.any fun g => g.tentative.any fun t => decide (t.1 = cu) then
    let gen := s.graph.gen + 1
    { s with graph := { s.graph with
        gen := gen
        graphs := s.graph.graphs.map fun g =>
          let mine := (g.tentative.filter fun t => decide (t.1 = cu)).map Prod.snd
          if mine = [] then g
          else { g with history := g.history ++ [⟨gen, cu, mine.map fun i => { intent := i }⟩], tentative := g.tentative.filter fun t => decide (t.1 ≠ cu) } } }
  else s

/-- A CU's view generation advances to the latest committed one (R260). -/
def State.advanceView (s : State) (cu : Nat) : State := s.onCu cu fun c => { c with view := max c.view s.graph.gen }

/-- The actions of a release at a scope (R179, R258): write-back from clus up, a commit point from die up. Scopes are coded 0 gang to 5 fab. -/
def State.releaseActs (s : State) (cu scope : Nat) : State :=
  let s1 := if 2 ≤ scope then s.writeBack cu else s
  if 3 ≤ scope then s1.commitCu cu else s1

/-- The actions of an acquire at a scope (R179, R260). -/
def State.acquireActs (s : State) (cu scope : Nat) : State :=
  let s1 := if 2 ≤ scope then s.invalidate cu else s
  if 3 ≤ scope then s1.advanceView cu else s1

/-! ## What has been performed -/

/-- Whether a memory access of R179 has been performed; operations of other kinds are none. -/
def Op.performed (o : Op) : Bool :=
  match o.body with
  | .mem _ accs => accs.all Access.done
  | .graph _ _ _ ls => ls.all GraphLane.done
  | .ref _ _ => false
  | .embag _ => false
  | _ => true

/-- Whether a load, atomic or rwl, or a load of the graph store: it completes only when its results have landed (R179, R262). -/
def Op.reads (o : Op) : Bool :=
  match o.body with
  | .mem (.load _) _ => true
  | .mem (.ldAcq _) _ => true
  | .mem (.atom _) _ => true
  | .mem (.rwl _) _ => true
  | .mem .jcadd _ => true
  | .graph .gvld _ _ _ => true
  | .graph (.gld _) _ _ _ => true
  | _ => false

/-- Whether every memory access of the gang before operation `o` has been performed, reductions at their homes (R179). -/
def State.earlierPerformed (s : State) (g : Gang) (o : Nat) : Bool :=
  (g.ops.all fun x => decide (o ≤ x.id) || x.performed) &&
  s.reds.all fun r => r.sources.all fun t => decide (t.2.1 ≠ g.id) || decide (o ≤ t.2.2)

/-- Whether every load, atomic and rwl of the gang before operation `o` has completed (R179). -/
def Gang.earlierRead (g : Gang) (o : Nat) : Bool := g.ops.all fun x => decide (o ≤ x.id) || !x.reads

/-- Whether every fcopy of the gang before operation `o` has been acknowledged (R189). -/
def Gang.earlierFcopies (g : Gang) (o : Nat) : Bool := g.ops.all fun x => decide (o ≤ x.id) || match x.body with
  | .copy c => c.remote.isNone
  | _ => true

/-- Whether a release at a scope by operation `o` may be performed (R179, R189): from clus scope up the CU's dirty lines must be free to go. -/
def State.mayRelease (s : State) (g : Gang) (o scope : Nat) : Bool :=
  s.earlierPerformed g o && (decide (scope < 2) || s.flushable (s.cuOf g)) && (decide (scope ≠ 5) || g.earlierFcopies o)

/-! ## The order of one CU's accesses to one location (R172) -/

/-- Whether access `i` of operation `o` stands before access `j` of operation `p` in issue order. -/
def earlierThan (o i p j : Nat) : Bool := decide (o < p) || (decide (o = p) && decide (i < j))

/-- Whether an operation holds an access, before access `j` of operation `p`, to an overlapping place that is not performed. -/
def Op.holdsBack (o : Op) (p j : Nat) (pl : Place) (n : Nat) : Bool :=
  match o.body with
  | .mem _ accs => (accs.zip (List.range accs.length)).any fun a => !a.1.done && earlierThan o.id a.2 p j && overlap a.1.place a.1.size pl n
  | _ => false

/-- Whether every earlier access of the CU to the place has been performed, with the reductions that are on their way. -/
def State.inOrder (s : State) (cu p j : Nat) (pl : Place) (n : Nat) : Bool :=
  (s.gangs.all fun h => decide (s.cuOf h ≠ cu) || h.ops.all fun o => !o.holdsBack p j pl n) &&
  s.reds.all fun r => !overlap r.place 4 pl n || r.sources.all fun t => decide (t.1 ≠ cu) || decide (p ≤ t.2.2)

/-- Whether operation `o` of a CU may use a place now: its home may be accessed, the CU's copy is sound, and every earlier access of the CU to it has been
performed. -/
def State.ready (s : State) (cu o : Nat) (p : Place) (n : Nat) : Bool := s.accessible p n && s.lineSound cu p && s.inOrder cu o 0 p n

/-! ## Loads and stores (R170) -/

/-- The size in bytes of a width code. -/
def widthBytes (w : Nat) : Nat := match w with
  | 0 => 1
  | 1 => 1
  | 2 => 2
  | 3 => 2
  | 4 => 4
  | 5 => 8
  | _ => 16

/-- The registers a load of width `w` writes, from the bytes it read (R170). -/
def loadWords (w : Nat) (bs : List Byte) : List W32 :=
  match w with
  | 0 => [(BitVec.ofNat 8 (leNat bs)).signExtend 32]
  | 1 => [BitVec.ofNat 32 (leNat bs)]
  | 2 => [(BitVec.ofNat 16 (leNat bs)).signExtend 32]
  | 3 => [BitVec.ofNat 32 (leNat bs)]
  | 4 => [BitVec.ofNat 32 (leNat bs)]
  | _ => [BitVec.ofNat 32 (leNat bs), BitVec.ofNat 32 (leNat bs / 2 ^ 32)]

/-- The bytes a store of `n` bytes writes from its registers. -/
def storeOf (n : Nat) (vs : List W32) : List Byte :=
  leBytes n (vs.foldr (fun (v : W32) a => v.toNat + 2 ^ 32 * a) 0)

/-- The source registers an access has read, or none if one is still to be read. -/
def Access.values (a : Access) : Option (List W32) := a.data.mapM Port.val

/-! ## Atomics, reductions and lock words (R203, R206, R209) -/

/-- AtomF and the f32 min and max of R203. -/
def atomAdd (m d : W32) : W32 := (addF32 .rne m d).1

/-- What a 32-bit operation leaves in memory (R203): atom X, or red X when `red`. -/
def atomNew (red : Bool) (x : Nat) (m d d1 : W32) : W32 :=
  match x with
  | 0 => m + d
  | 1 => if d.slt m then d else m
  | 2 => if m.slt d then d else m
  | 3 => if d.ult m then d else m
  | 4 => if m.ult d then d else m
  | 5 => m &&& d
  | 6 => m ||| d
  | 7 => m ^^^ d
  | _ =>
    if red then match x with
      | 8 => atomAdd m d
      | 9 => (minMaxF32 false m d).1
      | 10 => (minMaxF32 true m d).1
      | _ => (fmaF32 .rne m d d1).1
    else match x with
      | 8 => d
      | 9 => if m = d then d1 else m
      | 10 => atomAdd m d
      | 11 => (minMaxF32 false m d).1
      | _ => (minMaxF32 true m d).1

/-- The combination of the operands of two merged reductions (R206); axpy is never merged. -/
def redCombine (x : Nat) (d e : W32) : W32 := atomNew true x d e 0

/-- Rwl of R209 on a lock word (R207). -/
def rwlNew (x : Nat) (w : W64) (i : Bool) : W64 :=
  let p := w.getLsbD 63
  let wr := w.getLsbD 62
  let ww := fld w 61 48
  let rc := fld w 31 0
  let mk := fun (p wr : Bool) (ww rc : Nat) => BitVec.ofNat 64 ((if p then 2 ^ 63 else 0) + (if wr then 2 ^ 62 else 0) + ww * 2 ^ 48 + rc)
  if fld w 47 32 ≠ 0 then w
  else match x with
    | 0 => if !wr && !(p && decide (0 < ww)) && decide (rc < 0xFFFFFFFF) then mk p wr ww (rc + 1) else w
    | 1 =>
      if !wr && decide (rc = 0) then mk p true (ww - 1) rc
      else if p && !i && decide (ww < 0x3FFF) then mk p wr (ww + 1) rc
      else w
    | 2 => if 0 < rc then mk p wr ww (rc - 1) else w
    | 3 => mk p false ww rc
    | _ => mk i wr ww rc

/-- A read-modify-write at the home of a place, by a party of CU `cu` (R182). -/
def State.rmw (s : State) (cu : Nat) (p : Place) (n : Nat) (f : Nat → Nat) : State :=
  let s1 := s.ownHome cu p
  let bs := leBytes n (f (leNat (s1.homeBytes p n)))
  (s1.storeHome p bs).ownCopy cu p bs

/-! ## Performing one access -/

/-- Marks access `i` of an operation as performed, with results that are to land. -/
def Gang.accessDone (g : Gang) (o i : Nat) (land : List Landing) : Gang :=
  g.mapOp o fun x => match x.body with
    | .mem k accs => { x with land := x.land ++ land, body := .mem k (mapFrom (fun j a => if j = i then { a with done := true } else a) 0 accs) }
    | _ => x

/-- The results of an access for its destination registers. -/
def landings (a : Access) (vs : List W32) : List Landing := (a.dst.zip vs).map fun p => ⟨a.lane, p.1, p.2⟩

/-- Whether an operation only loads: R183 holds back stores, atomics and engine commands, not loads. -/
def Op.onlyLoads (o : Op) : Bool :=
  match o.body with
  | .mem (.load _) _ => true
  | .mem (.ldAcq _) _ => true
  | _ => false

/-- Whether access `i`, namely `a`, of operation `o` of a gang may be performed now; one that brings its line into the view cache needs room there. -/
def State.mayPerform (s : State) (g : Gang) (o : Op) (i : Nat) (a : Access) : Bool :=
  !a.done && a.values.isSome && (o.onlyLoads || g.supplied o) && s.accessible a.place a.size && s.lineSound (s.cuOf g) a.place &&
  s.inOrder (s.cuOf g) o.id i a.place a.size &&
  match o.body with
  | .mem (.stRel scope) accs => accs.any Access.done || s.mayRelease g o.id scope
  | .mem .jcadd _ => false
  | .mem (.load _) _ | .mem (.ldAcq _) _ | .mem .store _ => s.lineRoom (s.cuOf g) a.place
  | .mem _ _ => true
  | _ => false

/-- Performs one access (R170, R192, R203, R209): a load reads the view, a store writes it, a st.rel acts at
the home at once (R180), a read-modify-write acts at the home, and a reduction leaves the CU. -/
def State.performOne (s : State) (g : Gang) (o : Op) (k : MemKind) (i : Nat) (a : Access) : State :=
  let cu := s.cuOf g
  let vs := a.values.getD []
  let done := fun (t : State) (land : List Landing) => t.onGang g.id fun x => x.accessDone o.id i land
  match k with
  | .load w => done (s.touch cu a.place) (landings a (loadWords w (s.viewBytes cu a.place a.size)))
  | .ldAcq _ => done (s.touch cu a.place) (landings a (loadWords 4 (s.viewBytes cu a.place a.size)))
  | .store => done (s.storeView cu a.place (storeOf a.size vs)) []
  | .stRel _ =>
    let bs := storeOf 4 vs
    done (((s.ownHome cu a.place).storeHome a.place bs).ownCopy cu a.place bs) []
  | .atom x =>
    let old := leNat ((s.ownHome cu a.place).homeBytes a.place a.size)
    if x = 13 then
      let cmp := (vs.getD 0 0).toNat + 2 ^ 32 * (vs.getD 1 0).toNat
      let new := (vs.getD 2 0).toNat + 2 ^ 32 * (vs.getD 3 0).toNat
      done (s.rmw cu a.place 8 fun m => if m = cmp then new else m) (landings a [BitVec.ofNat 32 old, BitVec.ofNat 32 (old / 2 ^ 32)])
    else
      done (s.rmw cu a.place 4 fun m => (atomNew false x (BitVec.ofNat 32 m) (vs.getD 0 0) (vs.getD 1 0)).toNat) (landings a [BitVec.ofNat 32 old])
  | .rwl x =>
    let old := leNat ((s.ownHome cu a.place).homeBytes a.place 8)
    done (s.rmw cu a.place 8 fun m => (rwlNew x (BitVec.ofNat 64 m) ((vs.getD 0 0).getLsbD 0)).toNat)
      (landings a [BitVec.ofNat 32 old, BitVec.ofNat 32 (old / 2 ^ 32)])
  | .red _ => done s []
  | .jcadd => s

/-- The accesses of an operation that name the same place as access `a`, each with its index, in ascending lane order (R205). -/
def samePlace (accs : List Access) (a : Access) : List (Access × Nat) :=
  (accs.zip (List.range accs.length)).filter fun x => !x.1.done && decide (x.1.place = a.place)

/-- Performs access `i` of an operation with every other access of it that names the place, in ascending lane order and with nothing between
them: a store leaves the value of its highest lane and a load gives every such lane one value (R170); read-modify-writes follow one another
(R205); the operands of a reduction leave the CU together. One issue of st.rel is one release, made before the first of its stores (R192, R258). -/
def State.perform (s : State) (g : Gang) (o : Op) (a : Access) : State :=
  match o.body with
  | .mem (.red x) accs =>
    let same := samePlace accs a
    let ds := same.map fun p => let vs := p.1.values.getD []; (vs.getD 0 0, vs.getD 1 0)
    let s1 := (s.ownHome (s.cuOf g) a.place).onGang g.id fun h => same.foldl (fun h p => h.accessDone o.id p.2 []) h
    { s1 with reds := s1.reds ++ [⟨s1.serial, [(s.cuOf g, g.id, o.id)], a.place, x, ds⟩], serial := s1.serial + 1 }
  | .mem k accs =>
    let s1 := match k with
      | .stRel scope => if accs.any Access.done then s else s.releaseActs (s.cuOf g) scope
      | _ => s
    (samePlace accs a).foldl (fun t p => t.performOne g o k p.2 p.1) s1
  | _ => s

/-- Whether access `i` may be performed with every access of the operation that is performed together with it. -/
def State.mayPerformAll (s : State) (g : Gang) (o : Op) (i : Nat) (a : Access) : Bool :=
  match o.body with
  | .mem _ accs => s.mayPerform g o i a && (samePlace accs a).all fun p => p.1.values.isSome
  | _ => false

/-- Reads one source register of an access (R131, R183). -/
def Gang.grab (g : Gang) (o i n : Nat) : Gang :=
  g.mapOp o fun x => match x.body with
    | .mem k accs =>
      let more := ((accs[i]?).bind fun a => (a.data[n]?).map fun p => g.suppliersOf a.lane p.reg).getD []
      { x with after := x.after ++ more.filter (fun j => decide (j ≠ o)), body := .mem k (mapFrom (fun j a =>
        if j = i then { a with data := mapFrom (fun m (p : Port) => if m = n then { p with val := some (g.vreg a.lane p.reg) } else p) 0 a.data } else a) 0 accs) }
    | _ => x

/-! ## Completion -/

/-- Lands every result that an operation still holds, and removes it: its flag falls (R129, R131). -/
def Gang.complete (g : Gang) (o : Op) : Gang :=
  let g1 := o.land.foldl (fun (h : Gang) x => h.mapLanes (lane x.lane) fun _ t => t.land (o.clauseAt x.lane) x.reg x.val) g
  let g2 := o.sland.foldl (fun (h : Gang) x => h.setSreg x.reg x.val) g1
  g2.dropOp o.id

/-- The gang and the operation an event names. -/
def State.op? (s : State) (g o : Nat) : Option (Gang × Op) :=
  match s.gang? g with
  | none => none
  | some x => (x.op? o).map fun y => (x, y)

/-- Runs an event on an operation: a fault when the event is not enabled. -/
def State.onOp (s : State) (g o : Nat) (enabled : Gang → Op → Bool) (f : Gang → Op → State) : Result :=
  match s.op? g o with
  | none => .fault .notEnabled
  | some (x, y) => if enabled x y then .next (f x y) else .fault .notEnabled

/-- Whether a load, store or acquire-release has done all its accesses (R171, R192). -/
def Op.memoryDone (o : Op) : Bool :=
  match o.body with
  | .mem (.load _) accs => accs.all Access.done
  | .mem .store accs => accs.all Access.done
  | .mem (.ldAcq _) accs => accs.all Access.done
  | .mem (.stRel _) accs => accs.all Access.done
  | .mem (.red _) accs => accs.all Access.done
  | _ => false

/-- MEMORY_OP_COMPLETE (R171, R192, R205): the results land, an ld.acq acquires, and the flag falls. -/
def execMemoryOpComplete (g o : Nat) (s : State) : Result :=
  s.onOp g o (fun _ y => y.memoryDone) fun x y =>
    let s1 := match y.body with
      | .mem (.ldAcq scope) _ => s.acquireActs (s.cuOf x) scope
      | _ => s
    s1.onGang g fun h => h.complete y

/-- The first access of an atomic or a lock operation that may be performed now, with its index. -/
def State.nextAtomic (s : State) (g : Gang) (o : Op) : Option (Access × Nat) :=
  match o.body with
  | .mem _ accs => (accs.zip (List.range accs.length)).find? fun p => s.mayPerformAll g o p.2 p.1
  | _ => none

/-- Performs what is left of an atomic, group by group. -/
def State.atomicStep (g o : Nat) (s : State) : Option State :=
  match s.op? g o with
  | none => none
  | some (x, y) => (s.nextAtomic x y).map fun p => s.perform x y p.1

/-- Whether an operation is a returning atomic or a lock operation. -/
def Op.isAtomic (o : Op) : Bool :=
  match o.body with
  | .mem (.atom _) _ => true
  | .mem (.rwl _) _ => true
  | _ => false

/-- The state after every lane of an atomic has been performed, where that is possible now. -/
def State.atomicAll (s : State) (g o : Nat) : State := exhaust (State.atomicStep g o) 64 s

/-- ATOMIC_PERFORM (R205): each lane's operation is performed at its home in ascending lane order, and the returned values complete the
instruction. It is enabled when every lane can be performed. -/
def execAtomicPerform (g o : Nat) (s : State) : Result :=
  match s.op? g o with
  | none => .fault .notEnabled
  | some (_, y) =>
    let s1 := s.atomicAll g o
    match s1.op? g o with
    | none => .fault .notEnabled
    | some (_, z) =>
      if y.isAtomic && z.performed then .next (s1.onGang g fun h => h.complete z) else .fault .notEnabled

/-- Applies a reduction at its home, lane after lane, and shows the result in the own copies of the CUs it came from (R205, R172). -/
def State.applyRed (s : State) (r : Red) : State :=
  let m := leNat (s.homeBytes r.place 4)
  let v := r.ds.foldl (fun (m : W32) d => atomNew true r.x m d.1 d.2) (BitVec.ofNat 32 m)
  let bs := leBytes 4 v.toNat
  r.sources.foldl (fun t c => t.ownCopy c.1 r.place bs) (s.storeHome r.place bs)

/-- REDUCTION_APPLY (R205): a reduction that has left its CU is applied once at its home. -/
def execReductionApply (r : Nat) (s : State) : Result :=
  match s.reds.find? fun x => decide (x.id = r) with
  | none => .fault .notEnabled
  | some x =>
    if s.accessible x.place 4 then .next { s.applyRed x with reds := s.reds.filter fun y => decide (y.id ≠ r) } else .fault .notEnabled

/-! ## Merging in the routers (R206) -/

/-- Whether a place is reached through the network: scratch reductions never pass a router. -/
def routed : Place → Bool
  | .scratch _ _ => false
  | _ => true

/-- Whether reductions of two lanes, `a` and `b` among them, may be merged: neither is an axpy, and they name one place by one operation. -/
def mayMerge (a b : Red) : Bool := decide (a.place = b.place) && decide (a.x = b.x) && decide (a.x ≠ 11) && routed a.place

/-- Combines operand `i` of a list with another operand. -/
def combineAt (x i : Nat) (d : W32) (ds : List (W32 × W32)) : List (W32 × W32) :=
  mapFrom (fun n (p : W32 × W32) => if n = i then (redCombine x p.1 d, 0) else p) 0 ds

/-- Merges operand `j` of reduction `b` into operand `i` of reduction `a`; `b` is gone with its last operand. -/
def State.mergeReds (s : State) (a b : Red) (i j : Nat) : State :=
  let d := (b.ds.getD j (0, 0)).1
  let rest := b.ds.eraseIdx j
  { s with reds := (s.reds.filter fun r => decide (r.id ≠ b.id) || decide (rest ≠ [])).map fun r =>
      if r.id = a.id then { r with sources := a.sources ++ b.sources, ds := combineAt a.x i d a.ds }
      else if r.id = b.id then { r with ds := rest } else r }

/-- Merges operand `j` of reduction `a` into its operand `i`. -/
def State.mergeWithin (s : State) (a : Red) (i j : Nat) : State :=
  { s with reds := s.reds.map fun r => if r.id = a.id then { r with ds := (combineAt r.x i (r.ds.getD j (0, 0)).1 r.ds).eraseIdx j } else r }

end Sys2Proof.Machine
end

