-- ==== Sys2Proof/Machine/Barriers.lean ====
section
/-!
DEFINITION. The named barriers of a team (R195-R201).
-/
namespace Sys2Proof.Machine

/-- Barrier `b` of a team. -/
def Team.barrier (t : Team) (b : Nat) : Barrier := entry {} t.barriers b

/-- Changes barrier `b` of the team numbered `t`. -/
def State.onBarrier (s : State) (t b : Nat) (f : Barrier → Barrier) : State :=
  s.onTeam t fun x => { x with barriers := setEntry x.barriers b (f (x.barrier b)) }

/-- Whether a wait of a gang on a barrier is met: (rnd − t_g) mod 2^16 < 2^15 (R198). -/
def barMet (r : Barrier) (g : Gang) (b : Nat) : Bool := decide ((r.rnd - look g.targets b).toNat < 2 ^ 15)

/-- The lanes of a gang blocked at barrier `b`. -/
def Gang.atBarrier (g : Gang) (b : Nat) : Lanes := g.lanesFor fun t => decide (t.status = .blocked (.bar b))

/-- Whether a wait of a gang on a barrier is an acquire at clus scope: its round included a remote arrival (R200), or an earlier round did whose values no
wait has acquired since (R184; log 20). -/
def barRemote (r : Barrier) (g : Gang) (b : Nat) : Bool :=
  r.remotes.contains (look g.targets b) || r.owed.any fun m => decide ((look g.targets b - m).toNat < 2 ^ 15)

/-- Release(b) (R198): the sub-groups of the team whose wait is met go on; where remote arrivals took part, as an acquire at clus scope (R184, R200). -/
def State.releaseBar (s : State) (t b : Nat) : State :=
  let x := (s.team? t).getD noTeam
  let r := x.barrier b
  let remote := s.gangs.any fun g => decide (g.team = t) && barMet r g b && decide (g.atBarrier b ≠ 0) && barRemote r g b
  let s1 := { s with gangs := s.gangs.map fun g =>
    if g.team = t ∧ barMet r g b ∧ g.atBarrier b ≠ 0 then (g.release (g.atBarrier b)).settle else g }
  if remote then (s1.onBarrier t b fun r => { r with owed := [] }).acquireActs x.cu 2 else s1

/-- An arrival of count `c`: ARR rises, and the round completes at EXP (R198). -/
def Barrier.arrive (r : Barrier) (c : Nat) (remote : Bool) : Barrier :=
  let arr := r.arr + BitVec.ofNat 16 c
  if arr = r.exp then
    let held := fun (ns : List (BitVec 16)) => ns.filter (fun n => decide (n ≠ r.rnd + 1)) ++ if r.remote || remote then [r.rnd + 1] else []
    { r with rnd := r.rnd + 1, arr := 0, remote := false, remotes := held r.remotes, owed := held r.owed }
  else { r with arr := arr, remote := r.remote || remote }

/-- Whether an arrival of count `c` is refused (R198). -/
def Barrier.refuses (r : Barrier) (c : Nat) : Bool :=
  decide (c = 0) || decide (0xFFFF < c) || decide (r.exp.toNat < r.arr.toNat + c)

/-- An arrival's count: the lanes of the sub-group when A names s0, else Sc[A] (R198). -/
def Issue.arrivalCount (x : Issue) (a : BitVec 7) : Nat := if a = 0 then laneCount x.lanes else (x.g.sreg a.toNat).toNat

/-- BARRIER_STATE in every lane, with sr.taddr := b. -/
def Issue.barrierState (x : Issue) (n : BitVec 4) : Result := x.raise BARRIER_STATE x.lanes (n.setWidth 64)

/-- The team of the issuing gang, for a barrier number that it has; otherwise BARRIER_STATE (R198). -/
def Issue.withBarrier (x : Issue) (n : BitVec 4) (k : Team → Barrier → Result) : Result :=
  let t := x.s.teamOf x.g
  if t.barCount ≤ n.toNat then x.barrierState n else k t (t.barrier n.toNat)

/-- The gang with target t_g := rnd + 1 (R198). -/
def Gang.aim (g : Gang) (n : BitVec 4) (r : Barrier) : Gang := { g with targets := put g.targets n.toNat (r.rnd + 1) }

/-- bar.init: EXP := e while no arrival is counted; the round is kept (R198). -/
def execBarInit (a : BitVec 7) (n : BitVec 4) (s : State) : Result :=
  issue { size := 4, ops := [.sca a.toNat 1] } s fun x => x.withBarrier n fun t r =>
    let e := (x.g.sreg a.toNat).toNat
    if r.arr ≠ 0 ∨ 0xFFFF < e then x.barrierState n
    else x.doneIn (x.s.onBarrier t.id n.toNat fun r => { r with exp := BitVec.ofNat 16 e }) x.g

/-- bar.arrive: a release at team scope, once every earlier access of the gang has been performed (R179, R198, R199). -/
def execBarArrive (a : BitVec 7) (n : BitVec 4) (s : State) : Result :=
  issue { size := 4, ops := [.sca a.toNat 1] } s fun x => x.withBarrier n fun t r =>
    let c := x.arrivalCount a
    if r.refuses c then x.barrierState n
    else if !x.s.earlierPerformed x.g x.s.serial then x.stall .earlier
    else
      let s1 := x.s.setGang (((x.g.aim n r).advance x.f 4).settle)
      .next ((s1.onBarrier t.id n.toNat fun r => r.arrive c false).releaseBar t.id n.toNat)

/-- bar.arrwait: arrives, then blocks until its round is complete (R198). -/
def execBarArrwait (a : BitVec 7) (n : BitVec 4) (s : State) : Result :=
  issue { size := 4, ops := [.sca a.toNat 1], last := true } s fun x => x.withBarrier n fun t r =>
    let c := x.arrivalCount a
    if r.refuses c then x.barrierState n
    else if !x.s.earlierPerformed x.g x.s.serial then x.stall .earlier
    else
      let s1 := x.s.setGang ((x.g.aim n r).block x.f (.bar n.toNat)).settle
      .next ((s1.onBarrier t.id n.toNat fun r => r.arrive c false).releaseBar t.id n.toNat)

/-- bar.wait: blocks until the gang's target round is complete (R198). -/
def execBarWait (n : BitVec 4) (s : State) : Result :=
  issue { size := 4, ops := [], last := true } s fun x => x.withBarrier n fun t _ =>
    .next ((x.s.setGang (x.g.block x.f (.bar n.toNat)).settle).releaseBar t.id n.toNat)

/-- bar.rarrive: arrives at a barrier of another rank's team, as a release at clus scope (R200). -/
def execBarRarrive (b a : BitVec 7) (n : BitVec 4) (s : State) : Result :=
  issue { size := 4, ops := [.sca b.toNat 1, .sca a.toNat 1], sys := true } s fun x =>
    let rank := x.g.sreg b.toNat
    match x.s.rankTeam (x.s.teamOf x.g) rank.toNat with
    | none => x.raise ADDRESS_WINDOW x.lanes rank
    | some t =>
      let r := t.barrier n.toNat
      let c := x.arrivalCount a
      if t.barCount ≤ n.toNat ∨ r.refuses c then x.barrierState n
      else if !x.s.earlierPerformed x.g x.s.serial then x.stall .earlier
      else if !x.s.flushable (x.s.cuOf x.g) then x.stall .flush
      else
        let s1 := (x.s.releaseActs (x.s.cuOf x.g) 2).setGang ((x.g.advance x.f 4).settle)
        .next ((s1.onBarrier t.id n.toNat fun r => r.arrive c true).releaseBar t.id n.toNat)

/-- bar.query: t_g, rnd, ARR and EXP in one scalar (R198). -/
def execBarQuery (a : BitVec 7) (n : BitVec 4) (s : State) : Result :=
  issue { size := 4, ops := [.sca a.toNat 1] } s fun x => x.withBarrier n fun _ r =>
    x.done (x.g.setSreg a.toNat (look x.g.targets n.toNat ++ r.rnd ++ r.arr ++ r.exp))

end Sys2Proof.Machine
end

