-- ==== Sys2Proof/Machine/LoadStore.lean ====
section
/-!
DEFINITION. The memory instructions: loads and stores (R167-R171), acquire and release accesses and fences (R191-R193), atomics, reductions and
lock operations (R202-R209), address conversion (R174, R175) and prefetch (R176).
-/
namespace Sys2Proof.Machine

/-! ## Addresses -/

/-- The address a lane forms: Sc[SB] + V[A], zero- or sign-extended (R169). -/
def Gang.memAddr (g : Gang) (e : BitVec 1) (sb : BitVec 6) (a : BitVec 7) (l : Nat) : W64 :=
  let v := g.vreg l a.toNat
  g.sreg sb.toNat + (if e = 1 then v.signExtend 64 else v.setWidth 64)

/-- The spaces that a memory major names (R168). -/
inductive Space where
  | global | scratch | common | generic
  deriving DecidableEq, Repr

/-- Resolve (R168, R169): what an address names in a space, none for ADDRESS_WINDOW. -/
def State.resolve (s : State) (g : Gang) (sp : Space) (a : W64) : Option Target :=
  match sp with
  | .global => if fld a 63 56 = 0 then some (.global a.toNat) else none
  | .scratch => some (.scratch g.team (s.teamOf g).scratchZ a.toNat)
  | .common => if a.toNat < 2 ^ 29 then some (.common a.toNat) else none
  | .generic => s.window g a

/-- The place `n` bytes further on. -/
def placePlus (p : Place) (n : Nat) : Place :=
  match p with
  | .phys a => .phys (a + n)
  | .common o => .common (o + n)
  | .scratch t o => .scratch t (o + n)

/-- The accesses of one lane: one, or two 8-byte halves for a b128 (R173). `regs` and `dst` name the registers it reads and writes. -/
def laneAccesses (g : Gang) (a : LaneAccess) (size : Nat) (regs dst : List Nat) : List Access :=
  if size = 16 then
    [{ lane := a.lane, place := a.place, addr := a.addr, size := 8, data := (regs.take 2).map (g.port a.lane), dst := dst.take 2 },
     { lane := a.lane, place := placePlus a.place 8, addr := a.addr + 8, size := 8, data := (regs.drop 2).map (g.port a.lane), dst := dst.drop 2 }]
  else [{ lane := a.lane, place := a.place, addr := a.addr, size := size, data := regs.map (g.port a.lane), dst := dst }]

/-- Registers D to D + n - 1. -/
def regSpan (d : BitVec 7) (n : Nat) : List Nat := (List.range n).map fun i => d.toNat + i

/-- A memory instruction: the checks of R169 for all lanes, then one operation on a flag. -/
def Issue.memory (x : Issue) (ak : AccessKind) (sp : Space) (size : Nat) (addr : Nat → W64) (regs dst : List Nat) (flag : Option Nat)
    (k : MemKind) : Result :=
  x.access ak size addr (fun l => x.s.resolve x.g sp (addr l)) fun ls s =>
    Issue.trackIn { x with s := s } s x.g flag (.mem k ((ls.map fun a => laneAccesses x.g a size regs dst).foldr (· ++ ·) []))

/-- What IssueCheck must know of a plain load or store (R167). -/
def memSig (t : BitVec 3) (a d : BitVec 7) : Sig := { size := 4, ops := [.le t.toNat 6, .vec a.toNat 1, .vec d.toNat (widthRegs t)] }

/-- A plain load (R167-R170). -/
def plainLoad (sp : Space) (l : BitVec 1) (t : BitVec 3) (e : BitVec 1) (sb : BitVec 6) (a d : BitVec 7) (s : State) : Result :=
  issue (memSig t a d) s fun x =>
    x.memory .read sp (widthBytes t.toNat) (x.g.memAddr e sb a) [] (regSpan d (widthRegs t)) (x.slot l) (.load t.toNat)

/-- A plain store (R167-R170). -/
def plainStore (sp : Space) (l : BitVec 1) (t : BitVec 3) (e : BitVec 1) (sb : BitVec 6) (a d : BitVec 7) (s : State) : Result :=
  issue (memSig t a d) s fun x =>
    x.memory .write sp (widthBytes t.toNat) (x.g.memAddr e sb a) (regSpan d (widthRegs t)) [] (x.slot l) .store

/-- ldg: R168. -/
def execLdg (l : BitVec 1) (t : BitVec 3) (e : BitVec 1) (sb : BitVec 6) (a d : BitVec 7) (s : State) : Result :=
  plainLoad .global l t e sb a d s

/-- stg: R168. -/
def execStg (l : BitVec 1) (t : BitVec 3) (e : BitVec 1) (sb : BitVec 6) (a d : BitVec 7) (s : State) : Result :=
  plainStore .global l t e sb a d s

/-- lds: R168. -/
def execLds (l : BitVec 1) (t : BitVec 3) (e : BitVec 1) (sb : BitVec 6) (a d : BitVec 7) (s : State) : Result :=
  plainLoad .scratch l t e sb a d s

/-- sts: R168. -/
def execSts (l : BitVec 1) (t : BitVec 3) (e : BitVec 1) (sb : BitVec 6) (a d : BitVec 7) (s : State) : Result :=
  plainStore .scratch l t e sb a d s

/-- ldc: R168. -/
def execLdc (l : BitVec 1) (t : BitVec 3) (e : BitVec 1) (sb : BitVec 6) (a d : BitVec 7) (s : State) : Result :=
  plainLoad .common l t e sb a d s

/-- stc: R168. -/
def execStc (l : BitVec 1) (t : BitVec 3) (e : BitVec 1) (sb : BitVec 6) (a d : BitVec 7) (s : State) : Result :=
  plainStore .common l t e sb a d s

/-- ldx: R168. -/
def execLdx (l : BitVec 1) (t : BitVec 3) (e : BitVec 1) (sb : BitVec 6) (a d : BitVec 7) (s : State) : Result :=
  plainLoad .generic l t e sb a d s

/-- stx: R168. -/
def execStx (l : BitVec 1) (t : BitVec 3) (e : BitVec 1) (sb : BitVec 6) (a d : BitVec 7) (s : State) : Result :=
  plainStore .generic l t e sb a d s

/-! ## Acquire and release (R191-R193) -/

/-- ld.acq: a load at a generic address; its completion acquires (R179, R192). -/
def execLdAcq (c : BitVec 3) (e : BitVec 1) (sb : BitVec 6) (a d : BitVec 7) (s : State) : Result :=
  issue { size := 4, ops := [.le c.toNat 5, .vec a.toNat 1, .vec d.toNat 1] } s fun x =>
    x.memory .read .generic 4 (x.g.memAddr e sb a) [] [d.toNat] x.slotA (.ldAcq c.toNat)

/-- st.rel: a store at a generic address that is performed at its home after the release (R179, R192). -/
def execStRel (c : BitVec 3) (e : BitVec 1) (sb : BitVec 6) (a d : BitVec 7) (s : State) : Result :=
  issue { size := 4, ops := [.le c.toNat 5, .vec a.toNat 1, .vec d.toNat 1] } s fun x =>
    x.memory .write .generic 4 (x.g.memAddr e sb a) [d.toNat] [] x.slotA (.stRel c.toNat)

/-- A fence (R179, R193): it stalls in place until the gang's earlier accesses allow it, then makes the cache actions of its scope. -/
def fenceWord (sc : BitVec 3) (acq rel : Bool) (s : State) : Result :=
  issue { size := 4, ops := [.le sc.toNat 5] } s fun x =>
    if x.g.acquiring then x.stall .acquire
    else if rel && !x.s.earlierPerformed x.g x.s.serial then x.stall .earlier
    else if rel && decide (sc.toNat = 5) && !x.g.earlierFcopies x.s.serial then x.stall .fcopies
    else if rel && decide (2 ≤ sc.toNat) && !x.s.flushable (x.s.cuOf x.g) then x.stall .flush
    else if acq && !x.g.earlierRead x.s.serial then x.stall .earlierLoads
    else
      let cu := x.s.cuOf x.g
      let s1 := if rel then x.s.releaseActs cu sc.toNat else x.s
      x.doneIn (if acq then s1.acquireActs cu sc.toNat else s1) x.g

/-- fence (kind ar): R193. -/
def execFence (sc : BitVec 3) (s : State) : Result :=
  fenceWord sc true true s

/-- fence:kind=acq: R193. -/
def execFenceAcq (sc : BitVec 3) (s : State) : Result :=
  fenceWord sc true false s

/-- fence:kind=rel: R193. -/
def execFenceRel (sc : BitVec 3) (s : State) : Result :=
  fenceWord sc false true s

/-! ## Atomics, reductions and lock words (R202-R209) -/

/-- A read-modify-write of `n` registers from D on, with the registers it writes (R203, R204). -/
def modifyWord (sp : Issue → W64 → Option Target) (k : MemKind) (size n span : Nat) (dst : List Nat) (e : BitVec 1) (sb : BitVec 6) (a d : BitVec 7)
    (s : State) : Result :=
  issue { size := 4, ops := [.vec a.toNat 1, .vec d.toNat span] } s fun x =>
    x.access .modify size (x.g.memAddr e sb a) (fun l => sp x (x.g.memAddr e sb a l)) fun ls t =>
      Issue.trackIn { x with s := t } t x.g x.slotA (.mem k ((ls.map fun b => laneAccesses x.g b size (regSpan d n) dst).foldr (· ++ ·) []))

/-- A 32-bit atomic, which returns the old value in D. -/
def atomWord (x n : Nat) (e : BitVec 1) (sb : BitVec 6) (a d : BitVec 7) (s : State) : Result :=
  modifyWord (fun i => i.s.window i.g) (.atom x) 4 n n [d.toNat] e sb a d s

/-- A reduction, which returns nothing. -/
def redWord (x n : Nat) (e : BitVec 1) (sb : BitVec 6) (a d : BitVec 7) (s : State) : Result :=
  modifyWord (fun i => i.s.window i.g) (.red x) 4 n n [] e sb a d s

/-- A lock operation: only window 0xFA (R208). -/
def rwlWord (x : Nat) (e : BitVec 1) (sb : BitVec 6) (a d : BitVec 7) (s : State) : Result :=
  modifyWord (fun i v => if fld v 63 56 = 0xFA then i.s.window i.g v else none) (.rwl x) 8 1 2 [d.toNat, d.toNat + 1] e sb a d s

/-- atom X = 0: R203. -/
def execAtomAddI32 (e : BitVec 1) (sb : BitVec 6) (a d : BitVec 7) (s : State) : Result :=
  atomWord 0 1 e sb a d s

/-- atom X = 1: R203. -/
def execAtomMinI32 (e : BitVec 1) (sb : BitVec 6) (a d : BitVec 7) (s : State) : Result :=
  atomWord 1 1 e sb a d s

/-- atom X = 2: R203. -/
def execAtomMaxI32 (e : BitVec 1) (sb : BitVec 6) (a d : BitVec 7) (s : State) : Result :=
  atomWord 2 1 e sb a d s

/-- atom X = 3: R203. -/
def execAtomMinN32 (e : BitVec 1) (sb : BitVec 6) (a d : BitVec 7) (s : State) : Result :=
  atomWord 3 1 e sb a d s

/-- atom X = 4: R203. -/
def execAtomMaxN32 (e : BitVec 1) (sb : BitVec 6) (a d : BitVec 7) (s : State) : Result :=
  atomWord 4 1 e sb a d s

/-- atom X = 5: R203. -/
def execAtomAnd (e : BitVec 1) (sb : BitVec 6) (a d : BitVec 7) (s : State) : Result :=
  atomWord 5 1 e sb a d s

/-- atom X = 6: R203. -/
def execAtomOr (e : BitVec 1) (sb : BitVec 6) (a d : BitVec 7) (s : State) : Result :=
  atomWord 6 1 e sb a d s

/-- atom X = 7: R203. -/
def execAtomXor (e : BitVec 1) (sb : BitVec 6) (a d : BitVec 7) (s : State) : Result :=
  atomWord 7 1 e sb a d s

/-- atom X = 8: R203. -/
def execAtomXchg (e : BitVec 1) (sb : BitVec 6) (a d : BitVec 7) (s : State) : Result :=
  atomWord 8 1 e sb a d s

/-- atom X = 9: R203. -/
def execAtomCas32 (e : BitVec 1) (sb : BitVec 6) (a d : BitVec 7) (s : State) : Result :=
  atomWord 9 2 e sb a d s

/-- atom X = 10: R203. -/
def execAtomAddF32 (e : BitVec 1) (sb : BitVec 6) (a d : BitVec 7) (s : State) : Result :=
  atomWord 10 1 e sb a d s

/-- atom X = 11: R203. -/
def execAtomMinF32 (e : BitVec 1) (sb : BitVec 6) (a d : BitVec 7) (s : State) : Result :=
  atomWord 11 1 e sb a d s

/-- atom X = 12: R203. -/
def execAtomMaxF32 (e : BitVec 1) (sb : BitVec 6) (a d : BitVec 7) (s : State) : Result :=
  atomWord 12 1 e sb a d s

/-- atom.cas64: the quad D to D+3 is read, the pair D, D+1 written (R203). -/
def execAtomCas64 (e : BitVec 1) (sb : BitVec 6) (a d : BitVec 7) (s : State) : Result :=
  modifyWord (fun i => i.s.window i.g) (.atom 13) 8 4 4 [d.toNat, d.toNat + 1] e sb a d s

/-- red X = 0: R203. -/
def execRedAddI32 (e : BitVec 1) (sb : BitVec 6) (a d : BitVec 7) (s : State) : Result :=
  redWord 0 1 e sb a d s

/-- red X = 1: R203. -/
def execRedMinI32 (e : BitVec 1) (sb : BitVec 6) (a d : BitVec 7) (s : State) : Result :=
  redWord 1 1 e sb a d s

/-- red X = 2: R203. -/
def execRedMaxI32 (e : BitVec 1) (sb : BitVec 6) (a d : BitVec 7) (s : State) : Result :=
  redWord 2 1 e sb a d s

/-- red X = 3: R203. -/
def execRedMinN32 (e : BitVec 1) (sb : BitVec 6) (a d : BitVec 7) (s : State) : Result :=
  redWord 3 1 e sb a d s

/-- red X = 4: R203. -/
def execRedMaxN32 (e : BitVec 1) (sb : BitVec 6) (a d : BitVec 7) (s : State) : Result :=
  redWord 4 1 e sb a d s

/-- red X = 5: R203. -/
def execRedAnd (e : BitVec 1) (sb : BitVec 6) (a d : BitVec 7) (s : State) : Result :=
  redWord 5 1 e sb a d s

/-- red X = 6: R203. -/
def execRedOr (e : BitVec 1) (sb : BitVec 6) (a d : BitVec 7) (s : State) : Result :=
  redWord 6 1 e sb a d s

/-- red X = 7: R203. -/
def execRedXor (e : BitVec 1) (sb : BitVec 6) (a d : BitVec 7) (s : State) : Result :=
  redWord 7 1 e sb a d s

/-- red X = 8: R203. -/
def execRedAddF32 (e : BitVec 1) (sb : BitVec 6) (a d : BitVec 7) (s : State) : Result :=
  redWord 8 1 e sb a d s

/-- red X = 9: R203. -/
def execRedMinF32 (e : BitVec 1) (sb : BitVec 6) (a d : BitVec 7) (s : State) : Result :=
  redWord 9 1 e sb a d s

/-- red X = 10: R203. -/
def execRedMaxF32 (e : BitVec 1) (sb : BitVec 6) (a d : BitVec 7) (s : State) : Result :=
  redWord 10 1 e sb a d s

/-- red X = 11: R203. -/
def execRedAxpyF32 (e : BitVec 1) (sb : BitVec 6) (a d : BitVec 7) (s : State) : Result :=
  redWord 11 2 e sb a d s

/-- rwl X = 0: R209. -/
def execRwlTryrd (e : BitVec 1) (sb : BitVec 6) (a d : BitVec 7) (s : State) : Result :=
  rwlWord 0 e sb a d s

/-- rwl X = 1: R209. -/
def execRwlTrywr (e : BitVec 1) (sb : BitVec 6) (a d : BitVec 7) (s : State) : Result :=
  rwlWord 1 e sb a d s

/-- rwl X = 2: R209. -/
def execRwlRelrd (e : BitVec 1) (sb : BitVec 6) (a d : BitVec 7) (s : State) : Result :=
  rwlWord 2 e sb a d s

/-- rwl X = 3: R209. -/
def execRwlRelwr (e : BitVec 1) (sb : BitVec 6) (a d : BitVec 7) (s : State) : Result :=
  rwlWord 3 e sb a d s

/-- rwl X = 4: R209. -/
def execRwlSetpref (e : BitVec 1) (sb : BitVec 6) (a d : BitVec 7) (s : State) : Result :=
  rwlWord 4 e sb a d s

/-! ## Address-space conversion (R174, R175) -/

/-- The window byte of a space code: global, scratch, clus, common. -/
def spaceWindow (p : BitVec 3) : Nat := match p.toNat with
  | 0 => 0x00
  | 1 => 0xF8
  | 2 => 0xF9
  | _ => 0xFA

/-- Whether a generic address is well formed in a space (R175). -/
def State.wellFormedIn (s : State) (g : Gang) (p : BitVec 3) (a : W64) : Bool :=
  decide (fld a 63 56 = spaceWindow p) && (s.window g a).isSome

/-- The all-ones result for a value outside the space. -/
def outsideSpace : W64 := 0xFFFFFFFFFFFFFFFF

/-- togen: an address of one space as a generic one; scratch, cluster and common offsets are one register (R175). -/
def execTogen (p : BitVec 3) (a d : BitVec 7) (s : State) : Result :=
  issue { size := 4, ops := [.le p.toNat 3, .vec a.toNat (if p = 0 then 2 else 1), .vec d.toNat 2] } s fun x =>
    x.done (x.g.setVpair x.lanes d.toNat fun l =>
      let v : W64 := if p = 0 then x.g.vpair l a.toNat else (x.g.vreg l a.toNat).setWidth 64
      let g := v + BitVec.ofNat 64 (spaceWindow p * 2 ^ 56)
      let fits := if p = 0 then decide (fld v 63 56 = 0) else if p = 1 then decide (v.toNat < 2 ^ 18)
        else if p = 2 then decide (v.toNat < 2 ^ 21) else decide (v.toNat < 2 ^ 29)
      if fits && x.s.wellFormedIn x.g p g then g else outsideSpace)

/-- ofgen: bits [63:56] cleared when the address is well formed in the space (R175). -/
def execOfgen (p : BitVec 3) (a d : BitVec 7) (s : State) : Result :=
  issue { size := 4, ops := [.le p.toNat 3, .vec a.toNat 2, .vec d.toNat 2] } s fun x =>
    x.done (x.g.setVpair x.lanes d.toNat fun l =>
      let v := x.g.vpair l a.toNat
      if x.s.wellFormedIn x.g p v then pcOf v else outsideSpace)

/-- isin: whether the address is well formed in the space, into the bits of the issuing lanes (R175). -/
def execIsin (p : BitVec 3) (a : BitVec 7) (m : BitVec 4) (s : State) : Result :=
  issue { size := 4, ops := [.le p.toNat 3, .vec a.toNat 2, .mask m.toNat] } s fun x =>
    x.done (x.g.setMaskLanes x.lanes m.toNat (lanesWhere x.lanes fun l => x.s.wellFormedIn x.g p (x.g.vpair l a.toNat)))

/-! ## Prefetch (R176) -/

/-- pfetch never traps and changes no value that a load can return. The device MAY fetch the line (R176); in the model it never does, so pfetch
leaves the view cache, the counters and the page tables alone (log 54). -/
def execPfetch (_e : BitVec 1) (sb : BitVec 6) (a : BitVec 7) (t : BitVec 2) (s : State) : Result :=
  issue { size := 4, ops := [.vec a.toNat 1, .sca sb.toNat 1, .le t.toNat 1] } s fun x => x.done x.g

end Sys2Proof.Machine
end

