-- ==== Sys2Proof/Machine/Control.lean ====
section
/-!
DEFINITION. Transfers, masks, holding words and exchanges (R128, R141-R155), with exit, yield and nop32.
-/
namespace Sys2Proof.Machine

/-! ## Transfers -/

/-- Every lane of the sub-group has gone to its target; the lanes of `took` by a transfer. -/
def Issue.goto (x : Issue) (g : Gang) (took : Lanes) (target : Nat → W64) : Result := .next (x.s.setGang (g.transfer x.f x.lanes took target).settle)

/-- A PC-relative target: PC + 2·sext(OFF) (R145, R146). -/
def Issue.relative (x : Issue) (o : BitVec 18) : W64 := x.f.pc + (o.signExtend 64 <<< 1)

/-- The header position after the word. -/
def Issue.after (x : Issue) : W64 := x.f.pc + 4

/-- The checks that an indirect transfer makes over all its targets, then the transfer (R147). -/
def Issue.indirect (x : Issue) (g : Gang) (target : Nat → W64) : Result :=
  x.checks [(ADDRESS_WINDOW, lanesWhere x.lanes (fun l => decide (fld (target l) 63 56 ≠ 0)), target),
    (ALIGNMENT, lanesWhere x.lanes (fun l => (target l).getLsbD 0), target)] (x.goto g x.lanes target)

/-- A branch on a mask: the lanes of `taken` go to the target, the others fall through (R145). -/
def branch (o : BitVec 18) (m : BitVec 4) (s : State) (taken : Lanes → Lanes → Lanes) : Result :=
  issue { size := 4, ops := [.mask m.toNat], last := true } s fun x =>
    let go := taken x.lanes (x.lanes &&& x.g.mreg m.toNat)
    x.goto x.g go fun l => if go.getLsbD l then x.relative o else x.after

/-- bra: every lane (R145). -/
def execBra (o : BitVec 18) (m : BitVec 4) (s : State) : Result :=
  branch o m s (fun all _ => all)

/-- bra.any (R145). -/
def execBraAny (o : BitVec 18) (m : BitVec 4) (s : State) : Result :=
  branch o m s (fun all t => if t = 0 then 0 else all)

/-- bra.all (R145). -/
def execBraAll (o : BitVec 18) (m : BitVec 4) (s : State) : Result :=
  branch o m s (fun all t => if t = all then all else 0)

/-- bra.none (R145). -/
def execBraNone (o : BitVec 18) (m : BitVec 4) (s : State) : Result :=
  branch o m s (fun all t => if t = 0 then all else 0)

/-- bra.set: the lanes whose bit is 1 (R145). -/
def execBraSet (o : BitVec 18) (m : BitVec 4) (s : State) : Result :=
  branch o m s (fun _ t => t)

/-- bra.clr: the lanes whose bit is 0 (R145). -/
def execBraClr (o : BitVec 18) (m : BitVec 4) (s : State) : Result :=
  branch o m s (fun all t => all &&& ~~~t)

/-- jmp (R146). -/
def execJmp (o : BitVec 18) (s : State) : Result :=
  issue { size := 4, ops := [], last := true } s fun x => x.goto x.g x.lanes fun _ => x.relative o

/-- call: Sc[63] := PC + 4 (R146). -/
def execCall (o : BitVec 18) (s : State) : Result :=
  issue { size := 4, ops := [], last := true } s fun x => x.goto (x.g.setSreg 63 x.after) x.lanes fun _ => x.relative o

/-- jmp.s (R147). -/
def execJmpS (a : BitVec 7) (s : State) : Result :=
  issue { size := 4, ops := [.sca a.toNat 1], last := true } s fun x => x.indirect x.g fun _ => x.g.sreg a.toNat

/-- call.s: Sc[A] is read before s63 is written (R147). -/
def execCallS (a : BitVec 7) (s : State) : Result :=
  issue { size := 4, ops := [.sca a.toNat 1], last := true } s fun x => x.indirect (x.g.setSreg 63 x.after) fun _ => x.g.sreg a.toNat

/-- ret: to Sc[63] (R147). -/
def execRet (s : State) : Result :=
  issue { size := 4, ops := [], last := true } s fun x => x.indirect x.g fun _ => x.g.sreg 63

/-- jmp.v: one target per lane (R147). -/
def execJmpV (a : BitVec 7) (s : State) : Result :=
  issue { size := 4, ops := [.vec a.toNat 2], last := true } s fun x => x.indirect x.g fun l => x.g.vpair l a.toNat

/-- The address of the table entry that a lane of jmpt reads (R148). -/
def Issue.entryAddr (x : Issue) (sb : BitVec 6) (a : BitVec 7) (l : Nat) : W64 :=
  x.g.sreg sb.toNat + BitVec.ofNat 64 (4 * (x.g.vreg l a.toNat).toNat)

/-- The target that a lane of jmpt reads from its entry: an i32 offset from the table base (R148). -/
def Issue.tableTarget (x : Issue) (sb : BitVec 6) (p : Place) : W64 :=
  x.g.sreg sb.toNat + (BitVec.ofNat 32 (leNat (x.s.viewBytes (x.s.cuOf x.g) p 4))).signExtend 64

/-- jmpt: the index, the table base and the targets are checked in turn; the entries are ordinary reads (R148), which match a load watch like those of
a load (log 26). -/
def execJmpt (sb : BitVec 6) (a : BitVec 7) (s : State) : Result :=
  issue { size := 4, ops := [.vec a.toNat 1, .sca sb.toNat 2], last := true } s fun x =>
    let b := x.g.sreg sb.toNat
    let bad := lanesWhere x.lanes fun l => decide ((x.g.sreg (sb.toNat + 1)).toNat ≤ (x.g.vreg l a.toNat).toNat)
    x.checks [(TABLE_RANGE, bad, fun _ => b), (ADDRESS_WINDOW, if fld b 63 56 ≠ 0 then x.lanes else 0, fun _ => b),
      (ALIGNMENT, if fld b 1 0 ≠ 0 then x.lanes else 0, fun _ => b)] <|
    x.access .read 4 (x.entryAddr sb a) (fun l => x.s.resolve x.g .global (x.entryAddr sb a l)) fun ls t =>
      match ls.find? fun e => !(x.s.ready (x.s.cuOf x.g) x.s.serial e.place 4 && x.s.lineRoom (x.s.cuOf x.g) e.place) with
      | some e => x.stall (.overlap e.place 4)
      | none =>
        let place := fun (l : Nat) => ((ls.find? fun e => decide (e.lane = l)).map LaneAccess.place).getD (.phys 0)
        let y : Issue := { x with s := ls.foldl (fun u e => u.touch (x.s.cuOf x.g) e.place) t }
        y.indirect y.g fun l => x.tableTarget sb (place l)

/-! ## Masks (R144) -/

/-- join: the issuing lanes become members (R142). -/
def execJoin (m : BitVec 4) (s : State) : Result :=
  issue { size := 4, ops := [.mask m.toNat] } s fun x => x.done (x.g.setMaskLanes x.lanes m.toNat x.lanes)

/-- leave: the issuing lanes are members no longer (R142). -/
def execLeave (m : BitVec 4) (s : State) : Result :=
  issue { size := 4, ops := [.mask m.toNat] } s fun x => x.done (x.g.setMaskLanes x.lanes m.toNat 0)

/-- The sub-group blocks at its holding word; what that allows is released at once (R128, R142, R152). -/
def Issue.hold (x : Issue) (h : Hold) : Result := .next (x.s.setGang (x.g.block x.f h).settle)

/-- wait: a holding word; its release is `Gang.settle` (R142). -/
def execWait (m : BitVec 4) (s : State) : Result :=
  issue { size := 4, ops := [.mask m.toNat], last := true } s fun x => x.hold (.wait m.toNat)

/-- mset: mD := Sc[A] AND W (R144). -/
def execMset (a : BitVec 7) (m : BitVec 4) (s : State) : Result :=
  issue { size := 4, ops := [.sca a.toNat 1, .mask m.toNat] } s fun x => x.done (x.g.setMask m.toNat (x.g.sreg a.toNat))

/-- mget: Sc[D] := mA (R144). -/
def execMget (a : BitVec 4) (d : BitVec 7) (s : State) : Result :=
  issue { size := 4, ops := [.mask a.toNat, .sca d.toNat 1] } s fun x => x.done (x.g.setSreg d.toNat (x.g.mreg a.toNat))

/-- mand (R144). -/
def execMand (b a d : BitVec 4) (s : State) : Result :=
  issue { size := 4, ops := [.mask b.toNat, .mask a.toNat, .mask d.toNat] } s fun x =>
    x.done (x.g.setMask d.toNat (x.g.mreg a.toNat &&& x.g.mreg b.toNat))

/-- mor (R144). -/
def execMor (b a d : BitVec 4) (s : State) : Result :=
  issue { size := 4, ops := [.mask b.toNat, .mask a.toNat, .mask d.toNat] } s fun x =>
    x.done (x.g.setMask d.toNat (x.g.mreg a.toNat ||| x.g.mreg b.toNat))

/-- mxor (R144). -/
def execMxor (b a d : BitVec 4) (s : State) : Result :=
  issue { size := 4, ops := [.mask b.toNat, .mask a.toNat, .mask d.toNat] } s fun x =>
    x.done (x.g.setMask d.toNat (x.g.mreg a.toNat ^^^ x.g.mreg b.toNat))

/-- mnot (R144). -/
def execMnot (a d : BitVec 4) (s : State) : Result :=
  issue { size := 4, ops := [.mask a.toNat, .mask d.toNat] } s fun x => x.done (x.g.setMask d.toNat (~~~(x.g.mreg a.toNat)))

/-- mcpy (R144). -/
def execMcpy (a d : BitVec 4) (s : State) : Result :=
  issue { size := 4, ops := [.mask a.toNat, .mask d.toNat] } s fun x => x.done (x.g.setMask d.toNat (x.g.mreg a.toNat))

/-- mpop: the number of set bits (R144). -/
def execMpop (a : BitVec 4) (d : BitVec 7) (s : State) : Result :=
  issue { size := 4, ops := [.mask a.toNat, .sca d.toNat 1] } s fun x => x.done (x.g.setSreg d.toNat (BitVec.ofNat 64 (laneCount (x.g.mreg a.toNat))))

/-- mfirst: the lowest set lane, or 64 (R144). -/
def execMfirst (a : BitVec 4) (d : BitVec 7) (s : State) : Result :=
  issue { size := 4, ops := [.mask a.toNat, .sca d.toNat 1] } s fun x => x.done (x.g.setSreg d.toNat (BitVec.ofNat 64 (lowestLane (x.g.mreg a.toNat))))

/-- mlive: the lanes that have not exited (R144). -/
def execMlive (d : BitVec 4) (s : State) : Result :=
  issue { size := 4, ops := [.mask d.toNat] } s fun x => x.done (x.g.setMask d.toNat x.g.live)

/-- msub: the lanes of the issuing sub-group (R144). -/
def execMsub (d : BitVec 4) (s : State) : Result :=
  issue { size := 4, ops := [.mask d.toNat] } s fun x => x.done (x.g.setMask d.toNat x.lanes)

/-! ## exit, yield, nop32 (R151) -/

/-- exit: every issuing lane exits (R143, R151). -/
def execExit (s : State) : Result :=
  issue { size := 4, ops := [], last := true } s fun x =>
    .next (x.s.setGang ({ (x.g.counted x.f).exitLanes x.lanes with flight := none }).settle)

/-- yield: to the next header position, behind the gang's other sub-groups at the next decision (R151). -/
def execYield (s : State) : Result :=
  issue { size := 4, ops := [], last := true } s fun x =>
    .next (x.s.setGang ((x.g.advance x.f 4).mapLanes x.lanes fun _ t => { t with yielded := true }).settle)

/-- nop32: no effect (R151). -/
def execNop32 (s : State) : Result :=
  issue { size := 4, ops := [] } s fun x => x.done x.g

/-! ## Exchanges between lanes (R152-R155) -/

/-- A shuffle, reduction or vote: the sub-group blocks with its membership mask, and the word executes once it has gathered (R152). -/
def exchangeWord (ops : List Operand) (p : BitVec 4) (k : MemberKind) (s : State) : Result :=
  issue { size := 4, ops := .mask p.toNat :: ops, last := true } s fun x => x.hold (.member p.toNat k)

/-- shfl: src = u32(V[B][L]) (R153). -/
def execShfl (p : BitVec 4) (b a d : BitVec 7) (s : State) : Result :=
  exchangeWord [.vec b.toNat 1, .vec a.toNat 1, .vec d.toNat 1] p (.shfl b.toNat a.toNat d.toNat) s

/-- shflkUp (R153). -/
def execShflkUp (p : BitVec 4) (k : BitVec 6) (a d : BitVec 7) (s : State) : Result :=
  exchangeWord [.vec a.toNat 1, .vec d.toNat 1] p (.shflk false k.toNat a.toNat d.toNat) s

/-- shflkDn (R153). -/
def execShflkDn (p : BitVec 4) (k : BitVec 6) (a d : BitVec 7) (s : State) : Result :=
  exchangeWord [.vec a.toNat 1, .vec d.toNat 1] p (.shflk true k.toNat a.toNat d.toNat) s

/-- shflxXor (R153). -/
def execShflxXor (p : BitVec 4) (c : BitVec 6) (a d : BitVec 7) (s : State) : Result :=
  exchangeWord [.vec a.toNat 1, .vec d.toNat 1] p (.shflx false c.toNat a.toNat d.toNat) s

/-- shflxIdx (R153). -/
def execShflxIdx (p : BitVec 4) (c : BitVec 6) (a d : BitVec 7) (s : State) : Result :=
  exchangeWord [.vec a.toNat 1, .vec d.toNat 1] p (.shflx true c.toNat a.toNat d.toNat) s

/-- xred X = 0 (R154). -/
def execXredSumI32 (p : BitVec 4) (a d : BitVec 7) (s : State) : Result :=
  exchangeWord [.vec a.toNat 1, .vec d.toNat 1] p (.xred 0 a.toNat d.toNat) s

/-- xred X = 1 (R154). -/
def execXredMinI32 (p : BitVec 4) (a d : BitVec 7) (s : State) : Result :=
  exchangeWord [.vec a.toNat 1, .vec d.toNat 1] p (.xred 1 a.toNat d.toNat) s

/-- xred X = 2 (R154). -/
def execXredMaxI32 (p : BitVec 4) (a d : BitVec 7) (s : State) : Result :=
  exchangeWord [.vec a.toNat 1, .vec d.toNat 1] p (.xred 2 a.toNat d.toNat) s

/-- xred X = 3 (R154). -/
def execXredSumF32 (p : BitVec 4) (a d : BitVec 7) (s : State) : Result :=
  exchangeWord [.vec a.toNat 1, .vec d.toNat 1] p (.xred 3 a.toNat d.toNat) s

/-- xred X = 4 (R154). -/
def execXredMinF32 (p : BitVec 4) (a d : BitVec 7) (s : State) : Result :=
  exchangeWord [.vec a.toNat 1, .vec d.toNat 1] p (.xred 4 a.toNat d.toNat) s

/-- xred X = 5 (R154). -/
def execXredMaxF32 (p : BitVec 4) (a d : BitVec 7) (s : State) : Result :=
  exchangeWord [.vec a.toNat 1, .vec d.toNat 1] p (.xred 5 a.toNat d.toNat) s

/-- xred X = 6 (R154). -/
def execXredScanI32 (p : BitVec 4) (a d : BitVec 7) (s : State) : Result :=
  exchangeWord [.vec a.toNat 1, .vec d.toNat 1] p (.xred 6 a.toNat d.toNat) s

/-- xred X = 7 (R154). -/
def execXredScanF32 (p : BitVec 4) (a d : BitVec 7) (s : State) : Result :=
  exchangeWord [.vec a.toNat 1, .vec d.toNat 1] p (.xred 7 a.toNat d.toNat) s

/-- vote X = 0 (R155). -/
def execVoteAny (p : BitVec 4) (a d : BitVec 7) (s : State) : Result :=
  exchangeWord [.vec a.toNat 1, .sca d.toNat 1] p (.vote 0 a.toNat d.toNat) s

/-- vote X = 1 (R155). -/
def execVoteAll (p : BitVec 4) (a d : BitVec 7) (s : State) : Result :=
  exchangeWord [.vec a.toNat 1, .sca d.toNat 1] p (.vote 1 a.toNat d.toNat) s

/-- vote X = 2 (R155). -/
def execVoteBallot (p : BitVec 4) (a d : BitVec 7) (s : State) : Result :=
  exchangeWord [.vec a.toNat 1, .sca d.toNat 1] p (.vote 2 a.toNat d.toNat) s

/-- vote.ballot into a mask: a whole write (R155). -/
def execVoteBallotMask (p : BitVec 4) (a : BitVec 7) (m : BitVec 4) (s : State) : Result :=
  exchangeWord [.vec a.toNat 1, .mask m.toNat] p (.vote 3 a.toNat m.toNat) s

end Sys2Proof.Machine
end

