-- ==== Sys2Proof/Machine/Faithful.lean ====
section
/-!
DEFINITION. The faithful functions of the FP32 path (R117): rcp, rsq, exp2, log2, sin and cos, and the square root. Each exact value is
bracketed by integers of a fixed point of 260 bits; where it is not an f32, the spec allows both
neighbours, and the constant `Config.faithfulUp` names one (log 8).
-/
namespace Sys2Proof.Machine

/-- Fraction bits of the fixed point. Every non-exact result lies well inside one step of it. -/
def FP : Nat := 260

/-- The integer square root, by bits from 2^(n-1) down. -/
def isqrtFrom (v : Nat) : Nat → Nat → Nat
  | 0, r => r
  | n + 1, r => isqrtFrom v n (if (r + 2 ^ n) * (r + 2 ^ n) ≤ v then r + 2 ^ n else r)

/-- floor(√v) for v below 2^(2·400). -/
def isqrt (v : Nat) : Nat := isqrtFrom v (Nat.log2 v / 2 + 1) 0

/-- Σ x^(2j+1)/(2j+1) · (±1)^j over `n` terms, in the fixed point: `x2` is x², `t` the power so far. -/
def oddSeries (alternate : Bool) (x2 : Int) (bits : Nat) : Nat → Nat → Int → Int → Int
  | 0, _, _, acc => acc
  | n + 1, j, t, acc =>
    oddSeries alternate x2 bits n (j + 1) (t * x2 / 2 ^ bits)
      (acc + (if alternate && decide (j % 2 = 1) then -1 else 1) * (t / ((2 * j + 1 : Nat) : Int)))

/-- atanh x of a fixed-point x at most 1/3. -/
def atanhFP (bits : Nat) (x : Int) : Int := oddSeries false (x * x / 2 ^ bits) bits 120 0 x 0

/-- atan(1/k). -/
def atanInv (bits k : Nat) : Int := oddSeries true (2 ^ bits / ((k * k : Nat) : Int)) bits 120 0 (2 ^ bits / (k : Int)) 0

/-- ln 2 = 2 · atanh(1/3), with 40 guard bits. -/
def ln2FP : Int := 2 * atanhFP (FP + 40) (2 ^ (FP + 40) / 3)

/-- π = 16 · atan(1/5) − 4 · atan(1/239), with 40 guard bits. -/
def piFP : Int := 16 * atanInv (FP + 40) 5 - 4 * atanInv (FP + 40) 239

/-- Σ x^k/k! in steps: `num` gives the factor from one term to the next. -/
def taylor (bits : Nat) (num : Int) (step : Nat → Int) : Nat → Nat → Int → Int → Int
  | 0, _, _, acc => acc
  | n + 1, k, t, acc => taylor bits num step n (k + 1) (t * num / 2 ^ bits / step k) (acc + t)

/-- e^x for 0 ≤ x < 1. -/
def expFP (bits : Nat) (x : Int) : Int := taylor bits x (fun k => ((k + 1 : Nat) : Int)) 90 0 (2 ^ bits) 0

/-- sin x and cos x for 0 ≤ x < 1.6. -/
def sinFP (bits : Nat) (x : Int) : Int := taylor bits (-(x * x / 2 ^ bits)) (fun k => (((2 * k + 2) * (2 * k + 3) : Nat) : Int)) 50 0 x 0
def cosFP (bits : Nat) (x : Int) : Int := taylor bits (-(x * x / 2 ^ bits)) (fun k => (((2 * k + 1) * (2 * k + 2) : Nat) : Int)) 50 0 (2 ^ bits) 0

/-- A value that lies strictly between n · 2^e and (n + 1) · 2^e. -/
def between1 (n : Int) (e : Int) : Term := let m := 2 * n + 1; (decide (m < 0), m.natAbs, e - 1)

/-- The result of R117 for an exact value, or for one strictly between two points of a grid far finer than f32: the value itself when it is
an f32, else the neighbour that `up` says. -/
def faithful (up : Bool) (t : Term) : W32 × BitVec 8 :=
  let inf := f32.signed t.1 f32.infMag
  if t.2.1 ≠ 0 ∧ 128 ≤ floorLog t.2.1 t.2.2 then (BitVec.ofNat 32 inf, OVERFLOW ||| INEXACT)
  else
    let (c, ix) := roundMag f32 (if up then .rup else .rdn) t.1 t.2.1 t.2.2
    if !ix then (BitVec.ofNat 32 (f32.signed t.1 c), 0)
    else if f32.maxMag < c then (BitVec.ofNat 32 inf, OVERFLOW ||| INEXACT)
    else (BitVec.ofNat 32 (f32.signed t.1 c), roundFlags true (tiny f32 t.2.1 t.2.2))

/-- 1/(m · 2^e). -/
def rcpTerm (neg : Bool) (m : Nat) (e : Int) : Term :=
  let q := 2 ^ 64 / m
  (neg, 2 * q + (if 2 ^ 64 % m = 0 then 0 else 1), -e - 65)

/-- √(m · 2^e): the root with 64 more bits than it needs. -/
def sqrtTerm (m : Nat) (e : Int) : Term :=
  let odd := e % 2 = 1
  let v := (if odd then 2 * m else m) * 2 ^ 128
  let r := isqrt v
  (false, 2 * r + (if r * r = v then 0 else 1), (if odd then e - 1 else e) / 2 - 65)

/-- 1/√(m · 2^e). -/
def rsqTerm (m : Nat) (e : Int) : Term :=
  let odd := e % 2 = 1
  let d := if odd then 2 * m else m
  let q := 2 ^ 160 / d
  let r := isqrt q
  (false, 2 * r + (if r * r = q ∧ 2 ^ 160 % d = 0 then 0 else 1), -((if odd then e - 1 else e) / 2) - 81)

/-- A finite value in the fixed point: exact, for every f32 below 2^200. -/
def fixed (neg : Bool) (m : Nat) (e : Int) : Int := let v : Int := (m : Int) * 2 ^ (e + FP).toNat; if neg then -v else v

/-- 2^a: exact at integers; elsewhere 2^k · e^(f · ln 2) for a = k + f. -/
def exp2Term (neg : Bool) (m : Nat) (e : Int) : Term :=
  if 12 < floorLog m e then (if neg then between1 0 (-1000) else (false, 1, 1000))
  else
    let a := fixed neg m e
    let k := a / 2 ^ FP
    let f := a % 2 ^ FP
    if f = 0 then (false, 1, k)
    else
      let g := FP + 40
      between1 (expFP g (f * 2 ^ 40 * ln2FP / 2 ^ g) / 2 ^ 40) (k - FP)

/-- log2 a: exact at powers of two, the zero of log2(1.0) taken as +0, whose sign the spec leaves open (R117; log 52); elsewhere k + ln z / ln 2 for a = 2^k · z, 1 < z < 2. -/
def log2Term (m : Nat) (e : Int) : Term :=
  let k := floorLog m e
  let top := Nat.log2 m
  if m = 2 ^ top then (decide (k < 0), k.natAbs, 0)
  else
    let g := FP + 40
    let z : Int := (m : Int) * 2 ^ (g - top)
    let one : Int := 2 ^ g
    let l := 2 * atanhFP g ((z - one) * 2 ^ g / (z + one))
    between1 (k * 2 ^ FP + l * 2 ^ FP / ln2FP) (-FP)

/-- sin(2π·u/2^FP) or cos of it, for 0 < u < 2^(FP-2): strictly between 0 and 1. -/
def quarter (cosine : Bool) (u : Int) : Int :=
  let g := FP + 40
  let x := u * (2 * piFP) / 2 ^ FP
  let v := (if cosine then cosFP g x else sinFP g x) / 2 ^ 40
  max 0 (min v (2 ^ FP - 1))

/-- sin(2π·a) for `cosine` false, cos(2π·a) for true, with the exact cases of R117. -/
def turnTerm (cosine neg : Bool) (m : Nat) (e : Int) : Term :=
  let r := fixed neg m e % 2 ^ FP
  let q := r / 2 ^ (FP - 2)
  let u := r % 2 ^ (FP - 2)
  -- the quarter in which the sine is read: a cosine is the sine one quarter on
  let p := if cosine then (q + 1) % 4 else q
  let minus := decide (2 ≤ p)
  if u = 0 then (if p % 2 = 0 then (!cosine && neg, 0, 0) else (minus, 1, 0))
  else
    let v := between1 (quarter (decide (p % 2 = 1)) u) (-FP)
    (minus, v.2.1, v.2.2)

end Sys2Proof.Machine
end

