-- ==== Sys2Proof/Machine/Float.lean ====
section
/-!
DEFINITION. The FP32 path, the packed 16-bit and the dot-product instructions (R110-R121), with their 16-bit forms (R47).
-/
namespace Sys2Proof.Machine

/-! ## The FP32 path (R111) -/

/-- Whether a pattern is a subnormal f32. -/
def isSubnormal (x : W32) : Bool := decide (fld x 30 23 = 0) && decide (fld x 22 0 ≠ 0)

/-- InF32 (R111): under FTZ a subnormal reads as a zero of its sign. -/
def Gang.inF32 (g : Gang) (x : W32) : W32 := if g.ftz && isSubnormal x then x &&& 0x80000000 else x

/-- OutF32 (R111): under FTZ a result below the smallest normal becomes a zero of its sign, with UNDERFLOW and INEXACT. -/
def Gang.outF32 (g : Gang) (r : W32 × BitVec 8) : W32 × BitVec 8 :=
  if g.ftz && isSubnormal r.1 then (r.1 &&& 0x80000000, r.2 ||| UNDERFLOW ||| INEXACT) else r

/-- The value an operand of the path has. -/
def Gang.opF32 (g : Gang) (x : W32) : Val := f32.val (g.inF32 x).toNat

/-- FopArith (R113): one rounding of products and addends by RM. -/
def Gang.fop (g : Gang) (prods : List (Val × Val)) (adds : List Val) (fma : Bool := false) : W32 × BitVec 8 :=
  let (c, fl) := fopTo fma f32 g.rm prods adds
  g.outF32 (BitVec.ofNat 32 c, fl)

/-- min or max on the path (R114). -/
def Gang.fminmax (g : Gang) (isMax : Bool) (a b : W32) : W32 × BitVec 8 := minMaxF32 isMax (g.inF32 a) (g.inF32 b)

/-- copysign (R114). -/
def Gang.copysign (g : Gang) (a b : W32) : W32 × BitVec 8 :=
  let va := g.opF32 a
  if va.isNan then (0x7FC00000, snanFlag [va]) else ((g.inF32 a &&& 0x7FFFFFFF) ||| (b &&& 0x80000000), 0)

/-- scale (R114): a · 2^k with k = s32(b), which is never flushed. -/
def Gang.fscale (g : Gang) (a b : W32) : W32 × BitVec 8 :=
  let va := g.opF32 a
  match va with
  | .nan _ => (0x7FC00000, snanFlag [va])
  | .inf _ => (g.inF32 a, 0)
  | .fin n m e =>
    if m = 0 then (g.inF32 a, 0)
    else
      -- beyond 2^±1000 the result no longer depends on k
      let k := max (-1000) (min 1000 b.toInt)
      g.outF32 (roundF32 g.rm n m (e + k))

/-- getexp (R114). -/
def Gang.getexp (g : Gang) (a : W32) : W32 × BitVec 8 :=
  let va := g.opF32 a
  match va with
  | .nan _ => (0x7FC00000, snanFlag [va])
  | .inf _ => (0x7F800000, 0)
  | .fin _ m e =>
    if m = 0 then (0xFF800000, DIVZERO)
    else let k := floorLog m e; ((roundF32 .rne (decide (k < 0)) k.natAbs 0).1, 0)

/-- A lane instruction on f32 with two sources: the result and its flags (R110). -/
def float2 (b a d : BitVec 7) (s : State) (r : Gang → W32 → W32 → W32 → W32 × BitVec 8) : Result :=
  issue { size := 4, ops := [.vec b.toNat 1, .vec a.toNat 1, .vec d.toNat 1] } s fun x =>
    x.done (x.g.setVregF x.lanes d.toNat fun l => r x.g (x.g.vreg l a.toNat) (x.g.vreg l b.toNat) (x.g.vreg l d.toNat))

/-- A lane instruction on f32 with one source. -/
def float1 (a d : BitVec 7) (s : State) (r : Gang → W32 → W32 × BitVec 8) : Result :=
  issue { size := 4, ops := [.vec a.toNat 1, .vec d.toNat 1] } s fun x =>
    x.done (x.g.setVregF x.lanes d.toNat fun l => r x.g (x.g.vreg l a.toNat))

/-- A 16-bit float form: D is the destination and the first source; an immediate is converted exactly (R47). -/
def floatShort (i : BitVec 1) (b d : BitVec 5) (s : State) (r : Gang → W32 → W32 → W32 × BitVec 8) : Result :=
  issue { size := 2, ops := if i = 0 then [.vec d.toNat 1, .vec b.toNat 1] else [.vec d.toNat 1] } s fun x =>
    let imm := (roundF32 .rne (decide (b.toInt < 0)) b.toInt.natAbs 0).1
    x.done (x.g.setVregF x.lanes d.toNat fun l => r x.g (x.g.vreg l d.toNat) (if i = 1 then imm else x.g.vreg l b.toNat))

/-! ## The arithmetic forms of fop (R112, R113) -/

def Gang.fadd (g : Gang) (a b : W32) : W32 × BitVec 8 := g.fop [] [g.opF32 a, g.opF32 b]
def Gang.fsub (g : Gang) (a b : W32) : W32 × BitVec 8 := g.fop [] [g.opF32 a, (g.opF32 b).negate]
def Gang.fmul (g : Gang) (a b : W32) : W32 × BitVec 8 := g.fop [(g.opF32 a, g.opF32 b)] []
def Gang.ffma (g : Gang) (a b d : W32) : W32 × BitVec 8 := g.fop [(g.opF32 a, g.opF32 b)] [g.opF32 d] true
def Gang.ffms (g : Gang) (a b d : W32) : W32 × BitVec 8 := g.fop [(g.opF32 a, g.opF32 b)] [(g.opF32 d).negate]
def Gang.ffnma (g : Gang) (a b d : W32) : W32 × BitVec 8 := g.fop [((g.opF32 a).negate, g.opF32 b)] [g.opF32 d]

/-- addF32: R112, R113. -/
def execAddF32 (b a d : BitVec 7) (s : State) : Result :=
  float2 b a d s fun g a b _ => g.fadd a b

/-- subF32: R112, R113. -/
def execSubF32 (b a d : BitVec 7) (s : State) : Result :=
  float2 b a d s fun g a b _ => g.fsub a b

/-- mulF32: R112, R113. -/
def execMulF32 (b a d : BitVec 7) (s : State) : Result :=
  float2 b a d s fun g a b _ => g.fmul a b

/-- fmaF32: R112, R113. -/
def execFmaF32 (b a d : BitVec 7) (s : State) : Result :=
  float2 b a d s fun g a b d => g.ffma a b d

/-- fmsF32: R112, R113. -/
def execFmsF32 (b a d : BitVec 7) (s : State) : Result :=
  float2 b a d s fun g a b d => g.ffms a b d

/-- fnmaF32: R112, R113. -/
def execFnmaF32 (b a d : BitVec 7) (s : State) : Result :=
  float2 b a d s fun g a b d => g.ffnma a b d

/-- minF32: R112, R114. -/
def execMinF32 (b a d : BitVec 7) (s : State) : Result :=
  float2 b a d s fun g a b _ => g.fminmax false a b

/-- maxF32: R112, R114. -/
def execMaxF32 (b a d : BitVec 7) (s : State) : Result :=
  float2 b a d s fun g a b _ => g.fminmax true a b

/-- copysignF32: R112, R114. -/
def execCopysignF32 (b a d : BitVec 7) (s : State) : Result :=
  float2 b a d s fun g a b _ => g.copysign a b

/-- scaleF32: R112, R114. -/
def execScaleF32 (b a d : BitVec 7) (s : State) : Result :=
  float2 b a d s fun g a b _ => g.fscale a b

/-- getexp.f32: R112, R114. -/
def execGetexpF32 (a d : BitVec 7) (s : State) : Result :=
  float1 a d s fun g v => g.getexp v

/-- addF32Short: the effect of the 32-bit form (R47). -/
def execAddF32Short (i : BitVec 1) (b d : BitVec 5) (s : State) : Result :=
  floatShort i b d s fun g a b => g.fadd a b

/-- subF32Short: the effect of the 32-bit form (R47). -/
def execSubF32Short (i : BitVec 1) (b d : BitVec 5) (s : State) : Result :=
  floatShort i b d s fun g a b => g.fsub a b

/-- mulF32Short: the effect of the 32-bit form (R47). -/
def execMulF32Short (i : BitVec 1) (b d : BitVec 5) (s : State) : Result :=
  floatShort i b d s fun g a b => g.fmul a b

/-- minF32Short: the effect of the 32-bit form (R47). -/
def execMinF32Short (i : BitVec 1) (b d : BitVec 5) (s : State) : Result :=
  floatShort i b d s fun g a b => g.fminmax false a b

/-- maxF32Short: the effect of the 32-bit form (R47). -/
def execMaxF32Short (i : BitVec 1) (b d : BitVec 5) (s : State) : Result :=
  floatShort i b d s fun g a b => g.fminmax true a b

/-! ## fcmp (R115) -/

/-- A compare of two f32 registers into a mask, with its flags: `quiet` compares set INVALID on a signalling NaN only. -/
def floatCmp (b a : BitVec 7) (m : BitVec 4) (s : State) (quiet : Bool) (c : Val → Val → Bool) : Result :=
  issue { size := 4, ops := [.vec b.toNat 1, .vec a.toNat 1, .mask m.toNat] } s fun x =>
    let v := fun (r : BitVec 7) (l : Nat) => x.g.opF32 (x.g.vreg l r.toNat)
    let fl := fun (l : Nat) =>
      if quiet then snanFlag [v a l, v b l] else if (v a l).isNan || (v b l).isNan then INVALID else 0
    x.done ((x.g.setMaskLanes x.lanes m.toNat (lanesWhere x.lanes fun l => c (v a l) (v b l))).merge
      ((lanesOf x.lanes).foldl (fun acc l => acc ||| fl l) 0))

/-- fcmpEq: R115. -/
def execFcmpEq (b a : BitVec 7) (m : BitVec 4) (s : State) : Result :=
  floatCmp b a m s true fun a b => a.eq b

/-- fcmpNe: R115. -/
def execFcmpNe (b a : BitVec 7) (m : BitVec 4) (s : State) : Result :=
  floatCmp b a m s true fun a b => !(a.eq b)

/-- fcmpLt: R115. -/
def execFcmpLt (b a : BitVec 7) (m : BitVec 4) (s : State) : Result :=
  floatCmp b a m s false fun a b => a.lt b

/-- fcmpLe: R115. -/
def execFcmpLe (b a : BitVec 7) (m : BitVec 4) (s : State) : Result :=
  floatCmp b a m s false fun a b => a.lt b || a.eq b

/-- fcmpGt: R115. -/
def execFcmpGt (b a : BitVec 7) (m : BitVec 4) (s : State) : Result :=
  floatCmp b a m s false fun a b => b.lt a

/-- fcmpGe: R115. -/
def execFcmpGe (b a : BitVec 7) (m : BitVec 4) (s : State) : Result :=
  floatCmp b a m s false fun a b => b.lt a || a.eq b

/-- fcmpUno: R115. -/
def execFcmpUno (b a : BitVec 7) (m : BitVec 4) (s : State) : Result :=
  floatCmp b a m s true fun a b => a.isNan || b.isNan

/-- fcmpOrd: R115. -/
def execFcmpOrd (b a : BitVec 7) (m : BitVec 4) (s : State) : Result :=
  floatCmp b a m s true fun a b => !(a.isNan || b.isNan)

/-! ## fun (R116-R119) -/

/-- An exact result of the sign bit alone (R118): abs and neg. -/
def Gang.signOp (g : Gang) (f : W32 → W32) (a : W32) : W32 × BitVec 8 :=
  let v := g.opF32 a
  if v.isNan then (0x7FC00000, snanFlag [v]) else g.outF32 (f (g.inF32 a), 0)

/-- floor, ceil, trunc and rint (R118): the integer that the mode takes, with the sign of a when it is 0. -/
def Gang.toIntegral (g : Gang) (mode : Mode) (inexactFlag : Bool) (a : W32) : W32 × BitVec 8 :=
  let v := g.opF32 a
  match v with
  | .nan _ => (0x7FC00000, snanFlag [v])
  | .inf _ => (a, 0)
  | .fin n m e =>
    let (i, ix) := roundMul mode n m e 0
    let r := (roundMag f32 .rz n i 0).1
    (BitVec.ofNat 32 (f32.signed n r), if ix && inexactFlag then INEXACT else 0)

/-- frac (R118): a − trunc(a), exact, with the sign of a. -/
def Gang.frac (g : Gang) (a : W32) : W32 × BitVec 8 :=
  let v := g.opF32 a
  match v with
  | .nan _ => (0x7FC00000, snanFlag [v])
  | .inf _ => (0x7FC00000, INVALID)
  | .fin n m e =>
    if 0 ≤ e then (BitVec.ofNat 32 (f32.signed n 0), 0)
    else (BitVec.ofNat 32 (f32.signed n (roundMag f32 .rz n (m % 2 ^ (-e).toNat) e).1), 0)

/-- class (R119). -/
def Gang.fclass (g : Gang) (a : W32) : W32 :=
  let x := g.inF32 a
  let b := match f32.val x.toNat with
    | .nan sn => if sn then 8 else 9
    | .inf n => if n then 0 else 7
    | .fin n m _ =>
      if m = 0 then (if n then 3 else 4)
      else if isSubnormal x then (if n then 2 else 5) else (if n then 1 else 6)
  1#32 <<< b

/-- sqrt (R117, R118): correctly rounded by RM. -/
def Gang.fsqrt (g : Gang) (a : W32) : W32 × BitVec 8 :=
  let v := g.opF32 a
  match v with
  | .nan _ => (0x7FC00000, snanFlag [v])
  | .inf n => if n then (0x7FC00000, INVALID) else (a, 0)
  | .fin n m e =>
    if m = 0 then (g.inF32 a, 0)
    else if n then (0x7FC00000, INVALID)
    else let t := sqrtTerm m e; g.outF32 (roundF32 g.rm t.1 t.2.1 t.2.2)

/-- A faithful function (R117): the result at an infinity, at a zero (with its flags), for a negative value if it is not by the rules, and the
exact value elsewhere. -/
def Gang.faithfulOp (g : Gang) (sub : Nat) (atInf : Bool → W32 × BitVec 8) (atZero : Bool → W32 × BitVec 8) (negInvalid : Bool)
    (t : Bool → Nat → Int → Term) (a : W32) : W32 × BitVec 8 :=
  let v := g.opF32 a
  match v with
  | .nan _ => (0x7FC00000, snanFlag [v])
  | .inf n => atInf n
  | .fin n m e =>
    if m = 0 then atZero n
    else if n && negInvalid then (0x7FC00000, INVALID)
    else g.outF32 (faithful (Config.faithfulUp sub (g.inF32 a)) (t n m e))

def signedZero (n : Bool) : W32 := if n then 0x80000000 else 0
def signedInf (n : Bool) : W32 := if n then 0xFF800000 else 0x7F800000

/-- absF32: R116-R118. -/
def execAbsF32 (a d : BitVec 7) (s : State) : Result :=
  float1 a d s fun g v => g.signOp (· &&& 0x7FFFFFFF) v

/-- negF32: R116-R118. -/
def execNegF32 (a d : BitVec 7) (s : State) : Result :=
  float1 a d s fun g v => g.signOp (· ^^^ 0x80000000) v

/-- rcpF32: R116-R118. -/
def execRcpF32 (a d : BitVec 7) (s : State) : Result :=
  float1 a d s fun g v => g.faithfulOp 2 (fun n => (signedZero n, 0)) (fun n => (signedInf n, DIVZERO)) false rcpTerm v

/-- rsqF32: R116-R118. -/
def execRsqF32 (a d : BitVec 7) (s : State) : Result :=
  float1 a d s fun g v => g.faithfulOp 3 (fun n => if n then (0x7FC00000, INVALID) else (0, 0)) (fun n => (signedInf n, DIVZERO)) true (fun _ m e => rsqTerm m e) v

/-- sqrtF32: R116-R118. -/
def execSqrtF32 (a d : BitVec 7) (s : State) : Result :=
  float1 a d s fun g v => g.fsqrt v

/-- exp2F32: R116-R118. -/
def execExp2F32 (a d : BitVec 7) (s : State) : Result :=
  float1 a d s fun g v => g.faithfulOp 5 (fun n => (if n then 0 else 0x7F800000, 0)) (fun _ => (0x3F800000, 0)) false exp2Term v

/-- log2F32: R116-R118. -/
def execLog2F32 (a d : BitVec 7) (s : State) : Result :=
  float1 a d s fun g v => g.faithfulOp 6 (fun n => if n then (0x7FC00000, INVALID) else (0x7F800000, 0)) (fun _ => (0xFF800000, DIVZERO)) true (fun _ m e => log2Term m e) v

/-- sinF32: R116-R118. -/
def execSinF32 (a d : BitVec 7) (s : State) : Result :=
  float1 a d s fun g v => g.faithfulOp 7 (fun _ => (0x7FC00000, INVALID)) (fun n => (signedZero n, 0)) false (turnTerm false) v

/-- cosF32: R116-R118. -/
def execCosF32 (a d : BitVec 7) (s : State) : Result :=
  float1 a d s fun g v => g.faithfulOp 8 (fun _ => (0x7FC00000, INVALID)) (fun _ => (0x3F800000, 0)) false (turnTerm true) v

/-- floorF32: R116-R118. -/
def execFloorF32 (a d : BitVec 7) (s : State) : Result :=
  float1 a d s fun g v => g.toIntegral .rdn false v

/-- ceilF32: R116-R118. -/
def execCeilF32 (a d : BitVec 7) (s : State) : Result :=
  float1 a d s fun g v => g.toIntegral .rup false v

/-- truncF32: R116-R118. -/
def execTruncF32 (a d : BitVec 7) (s : State) : Result :=
  float1 a d s fun g v => g.toIntegral .rz false v

/-- rintF32: R116-R118. -/
def execRintF32 (a d : BitVec 7) (s : State) : Result :=
  float1 a d s fun g v => g.toIntegral g.rm true v

/-- fracF32: R116-R118. -/
def execFracF32 (a d : BitVec 7) (s : State) : Result :=
  float1 a d s fun g v => g.frac v

/-- class.f32: a mask, no flag (R119). -/
def execClassF32 (a d : BitVec 7) (s : State) : Result :=
  float1 a d s fun g v => (g.fclass v, 0)

/-! ## hop (R120) -/

/-- Half h of a register. -/
def half (x : W32) (h : Nat) : Nat := fld x (16 * h + 15) (16 * h)

/-- A packed instruction: each half gives a code and flags. -/
def packed2 (b a d : BitVec 7) (s : State) (r : Mode → Nat → Nat → Nat → Nat × BitVec 8) : Result :=
  float2 b a d s fun g a b d =>
    let lo := r g.rm (half a 0) (half b 0) (half d 0)
    let hi := r g.rm (half a 1) (half b 1) (half d 1)
    (BitVec.ofNat 32 (lo.1 + 65536 * hi.1), lo.2 ||| hi.2)

def halfAdd (f : Fmt) (m : Mode) (a b : Nat) : Nat × BitVec 8 := fopTo false f m [] [f.val a, f.val b]
def halfMul (f : Fmt) (m : Mode) (a b : Nat) : Nat × BitVec 8 := fopTo false f m [(f.val a, f.val b)] []
def halfFma (f : Fmt) (m : Mode) (a b d : Nat) : Nat × BitVec 8 := fopTo true f m [(f.val a, f.val b)] [f.val d]
def halfMinMax (f : Fmt) (isMax : Bool) (a b : Nat) : Nat × BitVec 8 := minMax f isMax a b (f.val a) (f.val b)

/-- add.f16x2: R120. -/
def execAddF16x2 (b a d : BitVec 7) (s : State) : Result :=
  packed2 b a d s fun m a b _ => halfAdd f16 m a b

/-- mul.f16x2: R120. -/
def execMulF16x2 (b a d : BitVec 7) (s : State) : Result :=
  packed2 b a d s fun m a b _ => halfMul f16 m a b

/-- fma.f16x2: R120. -/
def execFmaF16x2 (b a d : BitVec 7) (s : State) : Result :=
  packed2 b a d s fun m a b d => halfFma f16 m a b d

/-- min.f16x2: R120. -/
def execMinF16x2 (b a d : BitVec 7) (s : State) : Result :=
  packed2 b a d s fun _ a b _ => halfMinMax f16 false a b

/-- max.f16x2: R120. -/
def execMaxF16x2 (b a d : BitVec 7) (s : State) : Result :=
  packed2 b a d s fun _ a b _ => halfMinMax f16 true a b

/-- add.bf16x2: R120. -/
def execAddBf16x2 (b a d : BitVec 7) (s : State) : Result :=
  packed2 b a d s fun m a b _ => halfAdd bf16 m a b

/-- mul.bf16x2: R120. -/
def execMulBf16x2 (b a d : BitVec 7) (s : State) : Result :=
  packed2 b a d s fun m a b _ => halfMul bf16 m a b

/-- fma.bf16x2: R120. -/
def execFmaBf16x2 (b a d : BitVec 7) (s : State) : Result :=
  packed2 b a d s fun m a b d => halfFma bf16 m a b d

/-- min.bf16x2: R120. -/
def execMinBf16x2 (b a d : BitVec 7) (s : State) : Result :=
  packed2 b a d s fun _ a b _ => halfMinMax bf16 false a b

/-- max.bf16x2: R120. -/
def execMaxBf16x2 (b a d : BitVec 7) (s : State) : Result :=
  packed2 b a d s fun _ a b _ => halfMinMax bf16 true a b

/-! ## dot (R121) -/

/-- The exact sum of products of `n` integer elements of `w` bits, added to d. -/
def dotInt (sgn : Bool) (w n : Nat) (a b d : W32) : W32 :=
  let el := fun (x : W32) (i : Nat) => let c := fld x (w * i + w - 1) (w * i); if sgn then signed w c else (c : Int)
  d + BitVec.ofInt 32 ((List.range n).foldl (fun s i => s + el a i * el b i) 0)

/-- Two products of halves and an f32 addend in one rounding by RM; subnormals are kept. -/
def dotHalf (f : Fmt) (m : Mode) (a b d : W32) : W32 × BitVec 8 :=
  let p := fun (h : Nat) => (f.val (half a h), f.val (half b h))
  let (c, fl) := fusedTo f32 m [p 0, p 1] [f32.val d.toNat]
  (BitVec.ofNat 32 c, fl)

/-- dot4I8: R121. -/
def execDot4I8 (b a d : BitVec 7) (s : State) : Result :=
  float2 b a d s fun _ a b d => (dotInt true 8 4 a b d, 0)

/-- dot4N8: R121. -/
def execDot4N8 (b a d : BitVec 7) (s : State) : Result :=
  float2 b a d s fun _ a b d => (dotInt false 8 4 a b d, 0)

/-- dot2F16: R121. -/
def execDot2F16 (b a d : BitVec 7) (s : State) : Result :=
  float2 b a d s fun g a b d => dotHalf f16 g.rm a b d

/-- dot2Bf16: R121. -/
def execDot2Bf16 (b a d : BitVec 7) (s : State) : Result :=
  float2 b a d s fun g a b d => dotHalf bf16 g.rm a b d

/-- dot8.i4: R121. -/
def execDot8I4 (b a d : BitVec 7) (s : State) : Result :=
  float2 b a d s fun _ a b d => (dotInt true 4 8 a b d, 0)

end Sys2Proof.Machine
end

