-- ==== Sys2Proof/Machine/Convert.lean ====
section
/-!
DEFINITION. The conversions between formats and the read of one selector-block element (R122-R125, R74, R81-R83).
-/
namespace Sys2Proof.Machine

/-- Place of R123: an integer result is extended to 32 bits, a float result has zeros above it. -/
def placeElem (t : Elem) (c : Nat) : W32 :=
  match t with
  | .int true w => BitVec.ofInt 32 (signed w c)
  | _ => BitVec.ofNat 32 c

/-- Convert on register patterns: the source is read from the low bits (R123). -/
def Gang.cvt (g : Gang) (src dst : Elem) (mode : Mode) (sat : Bool) (a : W32) : W32 × BitVec 8 :=
  let (c, fl) := convert g.cvsub src dst mode sat (a.toNat % 2 ^ src.width)
  (placeElem dst c, fl)

/-- cvt: one value between formats (R122, R123); it never reads sr.fmode. -/
def execCvt (sat : BitVec 1) (r : BitVec 2) (u : BitVec 1) (c : BitVec 3) (t : BitVec 4) (a d : BitVec 7) (s : State) : Result :=
  issue { size := 4, ops := [.le (u ++ c).toNat 10, .le t.toNat 10, .vec a.toNat 1, .vec d.toNat 1] } s fun x =>
    x.done (x.g.setVregF x.lanes d.toNat fun l =>
      x.g.cvt (Elem.of (u ++ c).toNat) (Elem.of t.toNat) (Mode.of r.toNat) (decide (sat = 1)) (x.g.vreg l a.toNat))

/-- Replaces bits [n·w + w − 1 : n·w] of a register. -/
def packField (w n : Nat) (d : W32) (v : Nat) : W32 :=
  let mk : W32 := BitVec.ofNat 32 (2 ^ w - 1) <<< (w * n)
  (d &&& ~~~mk) ||| ((BitVec.ofNat 32 v <<< (w * n)) &&& mk)

/-- cvtp: converts the f32 in a and writes it into one field of d (R124). -/
def cvtPack (t : Elem) (w n : Nat) (sat : BitVec 1) (r : BitVec 2) (a d : BitVec 7) (s : State) : Result :=
  issue { size := 4, ops := [.vec a.toNat 1, .vec d.toNat 1] } s fun x =>
    x.done (x.g.setVregF x.lanes d.toNat fun l =>
      let (c, fl) := convert x.g.cvsub (.flt f32) t (Mode.of r.toNat) (decide (sat = 1)) (x.g.vreg l a.toNat).toNat
      (packField w n (x.g.vreg l d.toNat) c, fl))

/-- The byte targets of cvtp (R124). -/
def byteTarget : Nat → Elem
  | 0 => .flt e4m3
  | 1 => .flt e5m2
  | 2 => .int true 8
  | _ => .int false 8

/-- cvtp into byte 2h + l (R124). -/
def execCvtpByte (sat : BitVec 1) (r t : BitVec 2) (h l : BitVec 1) (a d : BitVec 7) (s : State) : Result :=
  cvtPack (byteTarget t.toNat) 8 (2 * h.toNat + l.toNat) sat r a d s

/-- cvtp into an f16 half (R124). -/
def execCvtpF16 (sat : BitVec 1) (r : BitVec 2) (h : BitVec 1) (a d : BitVec 7) (s : State) : Result :=
  cvtPack (.flt f16) 16 h.toNat sat r a d s

/-- cvtp into a bf16 half (R124). -/
def execCvtpBf16 (sat : BitVec 1) (r : BitVec 2) (h : BitVec 1) (a d : BitVec 7) (s : State) : Result :=
  cvtPack (.flt bf16) 16 h.toNat sat r a d s

/-- One element of a selector block from registers (R125). The check for CORRUPT is per block, as R82 has it for every reader: a reserved selector of any
sub-block gives the NaN, where the pseudocode of R125 would look at SEL_j alone (log 52). -/
def Gang.sbdec (g : Gang) (sb8 : Bool) (a b : W32) : W32 × BitVec 8 :=
  let p := if sb8 then fld b 21 20 else fld b 22 20
  let code := if sb8 then fld a (8 * p + 7) (8 * p) else fld a (4 * p + 3) (4 * p)
  if corrupt sb8 (fld b 15 0) then (0x7FC00000, SELECTOR)
  else match decodeSB sb8 g.lvt0 g.lvt1 (fld b 15 0) code (fld b 17 16) with
    | none => (0x7FC00000, SELECTOR)
    | some (d, ex) => sbValue sb8 d ex

/-- sbdec.sb4: R125. -/
def execSbdecSb4 (b a d : BitVec 7) (s : State) : Result :=
  float2 b a d s fun g a b _ => g.sbdec false a b

/-- sbdec.sb8: R125. -/
def execSbdecSb8 (b a d : BitVec 7) (s : State) : Result :=
  float2 b a d s fun g a b _ => g.sbdec true a b

end Sys2Proof.Machine
end

