-- ==== Sys2Proof/Machine/Layout.lean ====
section
/-!
DEFINITION. Layout records: their fields, the walk, the place of each element and header, the bytes a walk spans, and what makes a
record illegal (R215-R217, R77).
-/
namespace Sys2Proof.Machine

/-! ## Fields (R215) -/

def lyAddr (r : BitVec 256) : Nat := fld r 55 0
def lyWin (r : BitVec 256) : Nat := fld r 59 56
def lyFmt (r : BitVec 256) : Nat := fld r 63 60
/-- Extent of i0-i3. -/
def lyExt (r : BitVec 256) (i : Nat) : Nat := fld r (79 + 16 * i) (64 + 16 * i)
/-- Stride of i0-i3, in elements. -/
def lyStr (r : BitVec 256) (i : Nat) : Int := signed 32 (fld r (159 + 32 * i) (128 + 32 * i))

/-- The generic address of the base. -/
def lyBase (r : BitVec 256) : W64 := BitVec.ofNat 64 ((if lyWin r = 0 then 0 else 0xF0 + lyWin r) * 2 ^ 56 + lyAddr r)

/-- A record with its base replaced by an offset of the issuing team's scratch (R219). -/
def lyRebase (r : BitVec 256) (off : Nat) : BitVec 256 := BitVec.ofNat 256 (r.toNat / 2 ^ 60 * 2 ^ 60 + 8 * 2 ^ 56 + off % 2 ^ 56)

/-- Whether a format is a selector-block format. -/
def isSB (fmt : Nat) : Bool := decide (fmt = 11) || decide (fmt = 12)

/-- Bits per element of a format. -/
def fmtBits (fmt : Nat) : Nat :=
  if fmt ≤ 2 then 32 else if fmt ≤ 4 then 16 else if fmt ≤ 6 then 8 else if fmt ≤ 8 then 16 else if fmt ≤ 10 then 8
  else if fmt = 12 then 8 else 4

/-- Bytes per element of a format; a 4-bit one counts as 1 byte (R219, R238). -/
def fmtBytes (fmt : Nat) : Nat := max 1 (fmtBits fmt / 8)

/-! ## The walk (R216) -/

/-- N: how many elements a record walks. -/
def lyCount (r : BitVec 256) : Nat := lyExt r 0 * lyExt r 1 * lyExt r 2 * lyExt r 3

/-- o(n): the offset of walk index `n`, in elements. -/
def lyOffset (r : BitVec 256) (n : Nat) : Int :=
  let e0 := lyExt r 0
  let e1 := lyExt r 1
  let e2 := lyExt r 2
  (n % e0 : Nat) * lyStr r 0 + (n / e0 % e1 : Nat) * lyStr r 1 + (n / e0 / e1 % e2 : Nat) * lyStr r 2 + (n / e0 / e1 / e2 : Nat) * lyStr r 3

/-- The byte that holds walk index `n`, from the base on. -/
def lyByte (r : BitVec 256) (n : Nat) : Int := lyOffset r n * (fmtBits (lyFmt r) : Nat) / 8

/-- Whether a 4-bit element stands in the high nibble of its byte. -/
def lyHigh (r : BitVec 256) (n : Nat) : Bool := decide (fmtBits (lyFmt r) = 4) && decide (lyOffset r n % 2 = 1)

/-- The first byte of the header of block `b` of an SB record, from the base on (R77, R216). -/
def lyHeader (r : BitVec 256) (b : Nat) : Nat := lyCount r * fmtBits (lyFmt r) / 8 + 2 * b

/-- The least and the greatest o(n) of a walk. -/
def lyLeast (r : BitVec 256) : Int := ((List.range 4).map fun i => min 0 (((lyExt r i : Int) - 1) * lyStr r i)).foldl (· + ·) 0
def lyGreatest (r : BitVec 256) : Int := ((List.range 4).map fun i => max 0 (((lyExt r i : Int) - 1) * lyStr r i)).foldl (· + ·) 0

/-- The bytes a walk touches, from the base on: the first, and one past the last (R219). -/
def lySpan (r : BitVec 256) : Int × Int :=
  let f := lyFmt r
  if lyCount r = 0 then (0, 0)
  else (lyLeast r * (fmtBits f : Nat) / 8,
    if isSB f then ((lyCount r * fmtBits f / 8 + lyCount r / 64 : Nat) : Int) else lyGreatest r * (fmtBits f : Nat) / 8 + (fmtBytes f : Nat))

/-- Whether a record is legal (R217): its format, its window, the bits of ADDR that R158 wants 0, and the dense strides of SB. -/
def lyLegal (r : BitVec 256) : Bool :=
  decide (lyFmt r < 14) &&
  (match lyWin r with
    | 0 => true
    | 8 => decide (lyAddr r < 2 ^ 18)
    | 9 => decide (lyAddr r < 2 ^ 21)
    | 10 => decide (lyAddr r < 2 ^ 29)
    | _ => false) &&
  (!isSB (lyFmt r) ||
    (decide (lyStr r 0 = 1) && decide (lyStr r 1 = (lyExt r 0 : Nat)) && decide (lyStr r 2 = (lyExt r 0 * lyExt r 1 : Nat)) &&
     decide (lyStr r 3 = (lyExt r 0 * lyExt r 1 * lyExt r 2 : Nat)) && decide (lyCount r % 128 = 0)))

/-- The bits of a 4-bit or wider element in the bytes that hold it. -/
def codeOf (fmt : Nat) (high : Bool) (bs : List Byte) : Nat :=
  if fmtBits fmt = 4 then (if high then leNat bs / 16 % 16 else leNat bs % 16) else leNat bs

/-- The bytes of an element with its code replaced. -/
def withCode (fmt : Nat) (high : Bool) (code : Nat) (old : List Byte) : List Byte :=
  if fmtBits fmt = 4 then
    leBytes 1 (if high then leNat old % 16 + 16 * (code % 16) else leNat old / 16 * 16 + code % 16)
  else leBytes (fmtBytes fmt) code

/-! ## Reading a record from the team's scratch (R217, R237) -/

/-- The state in which a read by the issuing CU of `n` bytes at a place may be performed now; otherwise the word stalls in place. -/
def Issue.whenRead (x : Issue) (p : Place) (n : Nat) (k : Result) : Result :=
  if x.g.acquiring then x.stall .acquire
  else if x.s.ready (x.s.cuOf x.g) x.s.serial p n then k
  else x.stall (.overlap p n)

/-- The 32 bytes of the team's scratch at an offset: ALIGNMENT, then SCRATCH_RANGE, then a scratch load in CU issue order. -/
def Issue.scratchRecord (x : Issue) (off : W64) (k : BitVec 256 → Result) : Result :=
  let t := x.s.teamOf x.g
  if off.toNat % 8 ≠ 0 then x.raise ALIGNMENT x.lanes off
  else if t.scratchZ < off.toNat + 32 then x.raise SCRATCH_RANGE x.lanes off
  else x.whenRead (.scratch t.id off.toNat) 32 (k (read256 t.scratch off.toNat))

end Sys2Proof.Machine
end

