-- ==== Sys2Proof/Machine/Matrix.lean ====
section
/-!
DEFINITION. The matrix macros: command slots, the checks of each command, the arithmetic path, and how a command's reads and writes
come to pass (R232-R244).
-/
namespace Sys2Proof.Machine

/-! ## The command slot (R235) -/

def mcN (c : BitVec 256) : Nat := fld c 22 13 + 1
def mcK (c : BitVec 256) : Nat := fld c 32 23 + 1
def mcM (c : BitVec 256) : Nat := fld c 44 33 + 1
def mcBfmt (c : BitVec 256) : Nat := fld c 48 45
def mcAfmt (c : BitVec 256) : Nat := fld c 52 49
def mcMacs (c : BitVec 256) : Nat := fld c 60 53
def mcArr (c : BitVec 256) : Nat := fld c 61 61
def mcMode (c : BitVec 256) : Nat := fld c 63 62
def mcAbase (c : BitVec 256) : Nat := fld c 81 64
def mcAstr (c : BitVec 256) : Nat := fld c 99 82
def mcCbase (c : BitVec 256) : Nat := fld c 145 128
def mcCstr (c : BitVec 256) : Nat := fld c 163 146
def mcSca (c : BitVec 256) : Nat := fld c 209 192
def mcScb (c : BitVec 256) : Nat := fld c 227 210

/-- Whether mset takes a slot (R237). -/
def mcLegal (c : BitVec 256) : Bool :=
  decide (fld c 12 0 = 0) && decide (fld c 127 100 = 0) && decide (fld c 191 164 = 0) && decide (fld c 255 228 = 0) &&
  decide (mcMode c ≠ 3) && decide (mcAfmt c < 14) && decide (mcBfmt c < 14)

/-- The team macros of the group, in ascending number: positions 0, 1, ... -/
def mcGroup (c : BitVec 256) : List Nat := (List.range 8).filter fun j => (mcMacs c).testBit j

/-- ceil(a / b). -/
def ceilDiv (a b : Nat) : Nat := (a + b - 1) / b

/-- Whether g, K and N fit the arrangement (R235). -/
def mcArranged (c : BitVec 256) : Bool :=
  let g := (mcGroup c).length
  if mcArr c = 0 then decide (g = ceilDiv (mcK c) 128) && decide (mcN c ≤ 128)
  else decide (g = ceilDiv (mcN c) 128) && decide (mcK c ≤ 128)

/-- The legal A formats (R235). -/
def isAfmt (f : Nat) : Bool := [3, 4, 5, 6, 9, 13].contains f
/-- The legal B formats (R235). -/
def isBfmt (f : Nat) : Bool := isAfmt f || isSB f

/-! ## Macros -/

/-- Team macro `j`: one that the team never had reads as not held. -/
def Team.macro? (t : Team) (j : Nat) : Option Macro := (entry? t.macros j).bind fun m => if m.held then some m else none

/-- Whether MACS names only held macros, and at least one. -/
def macsHeld (t : Team) (c : BitVec 256) : Bool := decide (mcMacs c ≠ 0) && (mcGroup c).all fun j => (t.macro? j).isSome

/-- The matrix commands of a gang that have not completed. -/
def Gang.matrixOps (g : Gang) : List Op := g.ops.filter fun o => match o.body with
  | .matrix _ => true
  | _ => false

/-- Whether the matrix unit of a CU has room (R234). -/
def State.matrixRoom (s : State) (cu : Nat) : Bool :=
  decide (((s.gangs.filter fun g => decide (s.cuOf g = cu)).map fun g => g.matrixOps.length).foldl (· + ·) 0 < 16)

/-! ## The checks -/

/-- The checks of mloadb that need no header (R238): the cause and sr.taddr. `n` is the slot's number. -/
def loadbCause (t : Team) (n : Nat) (c r : BitVec 256) : Option (Nat × W64) :=
  let span := lySpan r
  if !macsHeld t c || !mcArranged c || !isBfmt (mcBfmt c) || decide (lyWin r ≠ 8) || decide (lyFmt r ≠ mcBfmt c) ||
      decide (lyExt r 0 ≠ mcK c) || decide (lyExt r 1 ≠ mcN c) || decide (lyExt r 2 ≠ 1) || decide (lyExt r 3 ≠ 1) ||
      (isSB (mcBfmt c) && decide (mcK c % 128 ≠ 0)) then some (MATRIX_SLOT, BitVec.ofNat 64 n)
  else if (lyAddr r : Int) + span.1 < 0 ∨ (t.scratchZ : Int) < lyAddr r + span.2 then some (SCRATCH_RANGE, lyBase r)
  else if lyAddr r % fmtBytes (lyFmt r) ≠ 0 then some (ALIGNMENT, lyBase r)
  else none

/-- The headers that an mloadb of a record reads, none for a format without headers. -/
def loadbHeads (t : Team) (r : BitVec 256) : List Nat :=
  if isSB (lyFmt r) then (List.range (lyCount r / 128)).map fun b => readNat t.scratch (lyAddr r + lyHeader r b) 2 else []

/-- The scratch bytes that hold those headers. -/
def headSpan (r : BitVec 256) : Nat × Nat := (lyAddr r + lyHeader r 0, if isSB (lyFmt r) then lyCount r / 64 else 0)

/-- The scratch offset of the first corrupt header (R238). -/
def firstCorrupt (r : BitVec 256) (heads : List Nat) : Option W64 :=
  ((heads.zip (List.range heads.length)).find? fun h => corrupt (decide (lyFmt r = 12)) h.1).map fun h =>
    BitVec.ofNat 64 (lyAddr r + lyHeader r h.2)

/-- A team whose load records show an issued mloadb (R233, R238). -/
def Team.loadRecord (t : Team) (c : BitVec 256) : Team :=
  { t with macros := t.macros.map fun e =>
      if (mcGroup c).contains e.1 then
        (e.1, { e.2 with loaded := true, bfmt := BitVec.ofNat 4 (mcBfmt c), arr := BitVec.ofNat 1 (mcArr c), k := mcK c, n := mcN c, pos := (mcGroup c).idxOf e.1 })
      else e }

/-- Whether the load record of a macro fits a slot at position `p` (R241). -/
def Macro.fits (m : Macro) (c : BitVec 256) (p : Nat) : Bool :=
  m.loaded && decide (m.bfmt.toNat = mcBfmt c) && decide (m.arr.toNat = mcArr c) && decide (m.k = mcK c) && decide (m.n = mcN c) && decide (m.pos = p)

/-- How many tiles an mmul writes (R241). -/
def mmulTiles (c : BitVec 256) : Nat := if mcMode c = 2 ∧ mcArr c = 0 then (mcGroup c).length else 1

/-- The checks of mmul (R241). -/
def mmulCause (t : Team) (n : Nat) (c : BitVec 256) : Option (Nat × W64) :=
  let g := (mcGroup c).length
  let recorded := ((mcGroup c).zip (List.range g)).all fun e => ((t.macro? e.1).map fun m => m.fits c e.2).getD false
  if !macsHeld t c || !mcArranged c || !isAfmt (mcAfmt c) || !isBfmt (mcBfmt c) || (decide (mcMode c = 2) && decide (mcArr c = 1) && decide (1 < g)) ||
      !recorded then some (MATRIX_SLOT, BitVec.ofNat 64 n)
  else if t.scratchZ < mcAbase c + (mcM c - 1) * mcAstr c + ceilDiv (mcK c * fmtBits (mcAfmt c)) 8 then some (SCRATCH_RANGE, BitVec.ofNat 64 (mcAbase c))
  else if t.scratchZ < mcCbase c + (mmulTiles c * mcM c - 1) * mcCstr c + 4 * mcN c then some (SCRATCH_RANGE, BitVec.ofNat 64 (mcCbase c))
  else ([mcAbase c, mcAstr c, mcCbase c, mcCstr c].find? fun v => decide (v % 4 ≠ 0)).map fun v => (ALIGNMENT, BitVec.ofNat 64 v)

/-- The checks of scacc (R242). -/
def scaccCause (t : Team) (c : BitVec 256) : Option (Nat × W64) :=
  match [mcAbase c, mcAstr c, mcCbase c, mcCstr c, mcSca c, mcScb c].find? fun v => decide (v % 4 ≠ 0) with
  | some v => some (ALIGNMENT, BitVec.ofNat 64 v)
  | none =>
    ([(mcAbase c, mcAbase c + (mcM c - 1) * mcAstr c + 4 * mcN c), (mcCbase c, mcCbase c + (mcM c - 1) * mcCstr c + 4 * mcN c),
      (mcSca c, mcSca c + 4 * mcM c), (mcScb c, mcScb c + 4 * mcN c)].find? fun e => decide (t.scratchZ < e.2)).map fun e =>
        (SCRATCH_RANGE, BitVec.ofNat 64 e.1)

/-! ## The words (R236-R244) -/

/-- Issues a matrix command on slot A, once it passed its checks: it stalls while the CU's matrix unit is full (R234). -/
def Issue.matrix (x : Issue) (s : State) (m : Matrix) : Result :=
  if x.s.matrixRoom (x.s.cuOf x.g) then x.trackIn s x.g x.slotA (.matrix m) else x.stall .matrixQueue

/-- A matrix command with what it captures at issue. -/
def Gang.matrix (g : Gang) (k : MatrixKind) (c : BitVec 256) : Matrix := { kind := k, slot := c, layout := 0, lvt0 := g.lvt0, lvt1 := g.lvt1 }

/-- How many output elements a command writes. -/
def Matrix.writeCount (m : Matrix) : Nat :=
  match m.kind with
  | .mmul => mmulTiles m.slot * mcM m.slot * mcN m.slot
  | .scacc => mcM m.slot * mcN m.slot
  | _ => 0

/-- Whether a command has written its destination (R234). -/
def Matrix.written (m : Matrix) : Bool :=
  match m.kind with
  | .mloadb => false
  | .mrel _ => true
  | _ => (List.range m.writeCount).all fun i => decide (look m.parts i ≠ 0)

/-- Whether every matrix command of the gang before operation `o` has written its destination (R234). -/
def Gang.matrixWritten (g : Gang) (o : Nat) : Bool := g.ops.all fun p => decide (o ≤ p.id) || match p.body with
  | .matrix n => n.written
  | _ => true

/-- mset mcS: slot S := 32 bytes of scratch (R237). -/
def execMsetSlot (a : BitVec 7) (n : BitVec 2) (s : State) : Result :=
  issue { size := 4, ops := [.sca a.toNat 1] } s fun x =>
    let off := x.g.sreg a.toNat
    x.scratchRecord off fun c =>
      if mcLegal c then x.done { x.g with slots := put x.g.slots n.toNat c } else x.raise ILLEGAL_ENCODING x.lanes off

/-- mloadb (R238): for an SB format it stalls in place until it may read the headers (R234). -/
def execMloadb (l : BitVec 3) (n : BitVec 2) (s : State) : Result :=
  issue { size := 4, ops := [] } s fun x =>
    let t := x.s.teamOf x.g
    let c := look x.g.slots n.toNat
    let r := look x.g.layouts l.toNat
    match loadbCause t n.toNat c r with
    | some e => x.raise e.1 x.lanes e.2
    | none => if isSB (lyFmt r) && !x.g.matrixWritten x.s.serial then x.stall .matrixTurn
      else x.whenRead (.scratch t.id (headSpan r).1) (headSpan r).2 <|
      match firstCorrupt r (loadbHeads t r) with
      | some a => x.raise SELECTOR_CORRUPT x.lanes a
      | none => x.matrix (x.s.onTeam t.id fun t => t.loadRecord c) { x.g.matrix .mloadb c with layout := r, heads := loadbHeads t r }

/-- mmul (R241). -/
def execMmul (n : BitVec 2) (s : State) : Result :=
  issue { size := 4, ops := [] } s fun x =>
    let c := look x.g.slots n.toNat
    match mmulCause (x.s.teamOf x.g) n.toNat c with
    | some e => x.raise e.1 x.lanes e.2
    | none => x.matrix x.s (x.g.matrix .mmul c)

/-- scacc (R242). -/
def execScacc (n : BitVec 2) (s : State) : Result :=
  issue { size := 4, ops := [] } s fun x =>
    let c := look x.g.slots n.toNat
    match scaccCause (x.s.teamOf x.g) c with
    | some e => x.raise e.1 x.lanes e.2
    | none => x.matrix x.s (x.g.matrix .scacc c)

/-- mrel: the named macros leave the team's held set at issue (R243). -/
def execMrel (a : BitVec 7) (s : State) : Result :=
  issue { size := 4, ops := [.sca a.toNat 1] } s fun x =>
    let v := x.g.sreg a.toNat
    let t := x.s.teamOf x.g
    if v = 0 ∨ fld v 63 8 ≠ 0 ∨ !((List.range 8).all fun j => !v.getLsbD j || (t.macro? j).isSome) then x.raise MATRIX_SLOT x.lanes v
    else
      x.matrix (x.s.onTeam t.id fun t => { t with macros := t.macros.map fun e => if v.getLsbD e.1 then (e.1, { e.2 with held := false }) else e })
        (x.g.matrix (.mrel (v.setWidth 8)) 0)

/-- The team's matrix commands that have not completed. -/
def State.pendingMatrix (s : State) (t : Nat) : Nat :=
  ((s.gangs.filter fun g => decide (g.team = t)).map fun g => g.matrixOps.length).foldl (· + ·) 0

/-- The macros of a team for which `p` holds, bit j for macro j. -/
def macroBits (t : Team) (p : Macro → Bool) : Nat :=
  ((List.range 8).map fun j => if ((entry? t.macros j).map p).getD false then 2 ^ j else 0).foldl (· + ·) 0

/-- mstat (R244). A macro that is held no longer has no load record (R233), so that its LOADED bit reads 0 (log 54). -/
def execMstat (d : BitVec 7) (s : State) : Result :=
  issue { size := 4, ops := [.sca d.toNat 1] } s fun x =>
    let t := x.s.teamOf x.g
    x.done (x.g.setSreg d.toNat (BitVec.ofNat 64
      (x.s.pendingMatrix t.id * 2 ^ 24 + t.asked * 2 ^ 16 + macroBits t (fun m => m.held && m.loaded) * 2 ^ 8 + macroBits t Macro.held)))

/-! ## The arithmetic path (R239, R240) -/

/-- Align of R239 on one group of codes (of integers for the SB formats): q, G and the poisoned mark. -/
def alignGroup (fmt : Nat) (codes : List Nat) : List Int × Int × Bool :=
  match Elem.of fmt with
  | .int _ w => (codes.map (signed w), 0, false)
  | .flt f =>
    let sh : Nat := match fmt with
      | 3 => 4
      | 4 => 7
      | 5 => 3
      | _ => 4
    let field := fun c => c / 2 ^ f.mbits % 2 ^ f.ebits
    let e := fun c => max (field c) 1
    let sig := fun c => if field c = 0 then c % 2 ^ f.mbits else 2 ^ f.mbits + c % 2 ^ f.mbits
    let emax := codes.foldl (fun a c => max a (e c)) 1
    let q := fun c =>
      let m : Nat := sig c * 2 ^ (e c + sh) / 2 ^ emax
      if f.signBit ≤ c then -(m : Int) else (m : Int)
    (codes.map q, (emax : Int) - f.bias - f.mbits - sh, codes.any fun c => match f.val c with
      | .fin _ _ _ => false
      | _ => true)

/-- Flush of R240: a subnormal result becomes a zero of its sign, with UNDERFLOW and INEXACT. -/
def flush (r : W32) : W32 × BitVec 8 :=
  if r &&& 0x7F800000 = 0 ∧ r &&& 0x007FFFFF ≠ 0 then (r &&& 0x80000000, UNDERFLOW ||| INEXACT) else (r, 0)

/-- One group of an output element: acc + Σ qa·qb · 2^(Ga+Gb), each step rounded and flushed (R240). -/
def addGroup (acc : W32 × BitVec 8) (qa : List Int) (ga : Int) (qb : List Int) (gb : Int) : W32 × BitVec 8 :=
  let p := ((qa.zip qb).map fun e => e.1 * e.2).foldl (· + ·) 0
  let v := roundF32 .rne (decide (p < 0)) p.natAbs (ga + gb)
  let v1 := flush v.1
  let a := addF32 .rne acc.1 v1.1
  let a1 := flush a.1
  (a1.1, acc.2 ||| v.2 ||| v1.2 ||| a.2 ||| a1.2)

/-- OutElement (R240) over the groups of T, each with its A group and its stored B group. -/
def outElement (acc : W32 × BitVec 8) : List ((List Int × Int × Bool) × (List Int × Int × Bool)) → W32 × BitVec 8
  | [] => acc
  | (a, b) :: r =>
    if a.2.2 || b.2.2 then (0x7FC00000, acc.2 ||| INVALID)
    else outElement (addGroup acc a.1 a.2.1 b.1 b.2.1) r

/-- Group `t` (of 32 along k) of column `n` as a macro holds it. -/
def Macro.group (m : Macro) (n t : Nat) : List Int × Int × Bool :=
  ((List.range 32).map fun i => entry 0 m.q (128 * n + 32 * t + i), entry 0 m.exps (4 * n + t), decide (look m.poison (4 * n + t) ≠ 0))

/-- Where group `t` of column `n` of B lies: the position in the group of macros, the column and the group in it (R235). -/
def bGroup (c : BitVec 256) (n t : Nat) : Nat × Nat × Nat := if mcArr c = 0 then (t / 4, n, t % 4) else (n / 128, n % 128, t)

/-- The groups T that feed tile `r` (R240, R241). -/
def mmulGroups (c : BitVec 256) (r : Nat) : List Nat :=
  (List.range (ceilDiv (mcK c) 32)).filter fun t => !(decide (mcMode c = 2) && decide (mcArr c = 0)) || decide (t / 4 = r)

/-! ## What a command reads and writes -/

/-- How many elements a command reads one by one. -/
def Matrix.readCount (m : Matrix) : Nat :=
  match m.kind with
  | .mloadb => mcK m.slot * mcN m.slot
  | .mmul => mcM m.slot * mcK m.slot
  | _ => 0

/-- The scratch offset, the size and the nibble of the element read `i`-th. -/
def Matrix.readAt (m : Matrix) (i : Nat) : Nat × Nat × Bool :=
  match m.kind with
  | .mloadb => ((lyAddr m.layout + lyByte m.layout i).toNat, fmtBytes (lyFmt m.layout), lyHigh m.layout i)
  | _ =>
    let k := i % mcK m.slot
    (mcAbase m.slot + i / mcK m.slot * mcAstr m.slot + k * fmtBits (mcAfmt m.slot) / 8, fmtBytes (mcAfmt m.slot),
      decide (mcAfmt m.slot = 13) && decide (k % 2 = 1))

/-- The format of the elements a command reads. -/
def Matrix.readFmt (m : Matrix) : Nat :=
  match m.kind with
  | .mloadb => mcBfmt m.slot
  | _ => mcAfmt m.slot

/-- The scratch offsets of the f32 words that output element `i` reads or writes: the destination first. -/
def Matrix.writeAt (m : Matrix) (i : Nat) : List Nat :=
  let c := m.slot
  let n := i % mcN c
  let row := i / mcN c
  let dst := mcCbase c + row * mcCstr c + 4 * n
  match m.kind with
  | .scacc => [dst, mcAbase c + row * mcAstr c + 4 * n, mcSca c + 4 * row, mcScb c + 4 * n]
  | _ => [dst]

/-- The code read as element `i`. -/
def Matrix.code (m : Matrix) (i : Nat) : Nat := (look m.reads i).toNat % 2 ^ 16

/-- The value of output element `i` of an mmul or scacc, with its flags (R240-R242). -/
def Matrix.output (m : Matrix) (t : Team) (i : Nat) : W32 × BitVec 8 :=
  let c := m.slot
  let word := fun k => read32 t.scratch ((m.writeAt i).getD k 0)
  match m.kind with
  | .scacc =>
    let sc := mulF32 .rne (word 2) (word 3)
    let r := fmaF32 .rne (word 1) sc.1 (word 0)
    let f := flush r.1
    (f.1, sc.2 ||| r.2 ||| f.2)
  | _ =>
    let n := i % mcN c
    let row := i / mcN c % mcM c
    let tile := i / mcN c / mcM c
    let groups := (mmulGroups c tile).map fun g =>
      let codes := (List.range 32).map fun j => if 32 * g + j < mcK c then m.code (row * mcK c + 32 * g + j) else 0
      let b := bGroup c n g
      (alignGroup (mcAfmt c) codes, ((entry? t.macros ((mcGroup c).getD b.1 8)).map fun x => x.group b.2.1 b.2.2).getD ([], 0, false))
    outElement (if mcMode c = 1 then word 0 else 0, 0) groups

/-- The macros a command acts on. -/
def Matrix.macros (m : Matrix) : List Nat :=
  match m.kind with
  | .mloadb => mcGroup m.slot
  | .mmul => mcGroup m.slot
  | .scacc => []
  | .mrel v => (List.range 8).filter fun j => v.getLsbD j

/-- Whether every earlier command of the gang has written its destination, and every earlier command of the team on one of the
macros too (R234), and the loads that supplied it have completed (R183). -/
def State.matrixTurn (s : State) (g : Gang) (o : Op) (m : Matrix) : Bool :=
  g.supplied o && s.gangs.all fun h => decide (h.team ≠ g.team) || h.ops.all fun p => decide (o.id ≤ p.id) || match p.body with
    | .matrix n => n.written || (decide (h.id ≠ g.id) && n.macros.all fun j => !m.macros.contains j)
    | _ => true

/-- Whether the CU may read or write `n` bytes of the team's scratch now, for operation `o`. -/
def State.scratchFree (s : State) (g : Gang) (o off n : Nat) : Bool :=
  s.ready (s.cuOf g) o (.scratch g.team off) n

/-- Whether unit `i` of a command (an element to read, or else an output element to write) may be done now. -/
def State.mayMatrix (s : State) (g : Gang) (o : Op) (m : Matrix) (i : Nat) : Bool :=
  if i < m.readCount then
    decide (look m.reads i = 0) && s.scratchFree g o.id (m.readAt i).1 (m.readAt i).2.1
  else
    let w := i - m.readCount
    decide (look m.parts w = 0) && ((m.writeAt w).all fun a => s.scratchFree g o.id a 4) &&
    match m.kind with
    | .mmul =>
      let row := w / mcN m.slot % mcM m.slot
      ((List.range (mcK m.slot)).all fun k => decide (look m.reads (row * mcK m.slot + k) ≠ 0)) &&
      /- A macro with an uncorrectable error is not read (R357). -/
      m.macros.all fun j => ((entry? (s.teamOf g).macros j).map fun e => !e.bad).getD true
    | _ => true

/-- Changes the matrix command of an operation. -/
def Gang.mapMatrix (g : Gang) (o : Nat) (f : Matrix → Matrix) : Gang := g.mapOp o fun x => match x.body with
  | .matrix m => { x with body := .matrix (f m) }
  | _ => x

/-- Does unit `i` of a command. -/
def State.doMatrix (s : State) (g : Gang) (o : Op) (m : Matrix) (i : Nat) : State :=
  let t := s.teamOf g
  if i < m.readCount then
    let a := m.readAt i
    let code := codeOf m.readFmt a.2.2 (bytesAt t.scratch a.1 a.2.1)
    s.onGang g.id fun h => h.mapMatrix o.id fun m => { m with reads := put m.reads i (BitVec.ofNat 17 (2 ^ 16 + code)) }
  else
    let w := i - m.readCount
    let v := m.output t w
    (s.onTeam t.id fun t => { t with scratch := storeNat t.scratch ((m.writeAt w).getD 0 0) 4 v.1.toNat }).onGang g.id fun h =>
      h.mapMatrix o.id fun m => { m with parts := put m.parts w 1, flags := m.flags ||| v.2 }

/-- The first of `n` numbers, from `start` on and round to it again, for which `p` holds. -/
def firstFrom (n start : Nat) (p : Nat → Bool) : Option Nat := ((List.range n).map fun i => (start + i) % n).find? p

/-- Does the next unit of a matrix command, chosen by `start` among those that may be done. -/
def State.stepMatrix (s : State) (g o start : Nat) : Option State :=
  match s.op? g o with
  | some (x, y) => match y.body with
    | .matrix m =>
      if s.matrixTurn x y m then (firstFrom (m.readCount + m.writeCount) start fun i => s.mayMatrix x y m i).map fun i => s.doMatrix x y m i else none
    | _ => none
  | none => none

/-! ## Completion -/

/-- The content of the macro at position `p` after an mloadb (R238): q, group exponents and poisoned marks of the columns it holds. -/
def Matrix.content (m : Matrix) (p : Nat) (x : Macro) : Macro :=
  let c := m.slot
  let cols := (List.range 128).filter fun n => decide ((if mcArr c = 0 then n else 128 * p + n) < mcN c)
  let groups := (cols.map fun n => (List.range 4).map fun t => (n, t)).foldr (· ++ ·) []
  let cell := fun (n k : Nat) =>
    let col := if mcArr c = 0 then n else 128 * p + n
    let row := if mcArr c = 0 then 128 * p + k else k
    if row < mcK c then some (row + mcK c * col) else none
  let aligned := groups.map fun e => (e, match mcBfmt c with
    | 11 => ((List.range 32).map fun i => ((cell e.1 (32 * e.2 + i)).bind fun j =>
        (decodeSB false m.lvt0 m.lvt1 (m.heads.getD (j / 128) 0) (m.code j) (j % 128 / 32)).map Prod.fst).getD 0, (0 : Int), false)
    | 12 => ((List.range 32).map fun i => ((cell e.1 (32 * e.2 + i)).bind fun j =>
        (decodeSB true m.lvt0 m.lvt1 (m.heads.getD (j / 128) 0) (m.code j) (j % 128 / 32)).map Prod.fst).getD 0, (0 : Int), false)
    | f => alignGroup f ((List.range 32).map fun i => ((cell e.1 (32 * e.2 + i)).map m.code).getD 0))
  { x with
    bad := false
    q := ((aligned.map fun e => (e.2.1.zip (List.range 32)).map fun v => (128 * e.1.1 + 32 * e.1.2 + v.2, v.1)).foldr (· ++ ·) []).filter fun v => decide (v.2 ≠ 0)
    exps := (aligned.map fun e => (4 * e.1.1 + e.1.2, e.2.2.1)).filter fun v => decide (v.2 ≠ 0)
    poison := ((aligned.filter fun e => e.2.2.2).map fun e => (4 * e.1.1 + e.1.2, (1 : BitVec 1))) }

/-- The team after a command has completed: an mloadb has filled its macros, an mrel has returned them. -/
def Matrix.finish (m : Matrix) (t : Team) : Team :=
  match m.kind with
  | .mloadb => { t with macros := t.macros.map fun e => if (mcGroup m.slot).contains e.1 then (e.1, m.content ((mcGroup m.slot).idxOf e.1) e.2) else e }
  | .mrel v => { t with macros := t.macros.map fun e => if v.getLsbD e.1 then (e.1, { e.2 with returned := true }) else e }
  | _ => t

/-- Whether a command may complete: its reads and writes are done, every earlier command of the gang has completed, and every earlier
command of the team on its macros too (R234, R243). -/
def State.matrixDone (s : State) (g : Gang) (o : Op) (m : Matrix) : Bool :=
  g.supplied o && ((List.range m.readCount).all fun i => decide (look m.reads i ≠ 0)) && ((List.range m.writeCount).all fun i => decide (look m.parts i ≠ 0)) &&
  s.gangs.all fun h => decide (h.team ≠ g.team) || h.ops.all fun p => decide (o.id ≤ p.id) || match p.body with
    | .matrix n => decide (h.id ≠ g.id) && n.macros.all fun j => !m.macros.contains j
    | _ => true

/-- MATRIX_COMMAND_COMPLETE (R234, R238, R241-R243): the macros take their content, the flags are merged, and the flag falls. -/
def execMatrixCommandComplete (g o : Nat) (s : State) : Result :=
  match s.op? g o with
  | none => .fault .notEnabled
  | some (x, y) => match y.body with
    | .matrix m =>
      if s.matrixDone x y m then .next ((s.onTeam x.team fun t => m.finish t).onGang g fun h => (h.merge m.flags).complete y)
      else .fault .notEnabled
    | _ => .fault .notEnabled

end Sys2Proof.Machine
end

