-- ==== Sys2Proof/Machine/Copy.lean ====
section
/-!
DEFINITION. The copy engine: the cpy words, a copy's check pass and data pass, follow-on commands, batches, carousels and fabric copies
(R214, R217-R231).
-/
namespace Sys2Proof.Machine

/-! ## Items: what a walk index touches -/

/-- The bytes of element `n` of a record: its generic address and its size. -/
def lyElem (r : BitVec 256) (n : Nat) : W64 × Nat := (lyBase r + BitVec.ofInt 64 (lyByte r n), fmtBytes (lyFmt r))

/-- The two bytes of the header of block `b`. -/
def lyHead (r : BitVec 256) (b : Nat) : List (W64 × Nat) :=
  let a := lyBase r + BitVec.ofNat 64 (lyHeader r b)
  [(a, 1), (a + 1, 1)]

/-- Every address that a walk touches, headers included. -/
def lyTouched (r : BitVec 256) : List W64 :=
  ((List.range (lyCount r)).map fun n => (lyElem r n).1) ++
  if isSB (lyFmt r) then ((List.range (lyCount r / 128)).map fun b => (lyHead r b).map Prod.fst).foldr (· ++ ·) [] else []

/-! ## The units of a copy: elements and headers -/

/-- How many units a copy moves: its elements, and the headers of an untransformed SB tensor. -/
def Copy.units (c : Copy) : Nat := lyCount c.src + if c.xf = 0 ∧ isSB (lyFmt c.src) then lyCount c.src / 128 else 0

/-- What unit `n` of an untransformed walk touches: an element, or a header after them. -/
def plainUnit (r : BitVec 256) (n : Nat) : List (W64 × Nat) := if n < lyCount r then [lyElem r n] else lyHead r (n - lyCount r)

/-- What unit `n` of a copy reads in its source. -/
def Copy.reads (c : Copy) (n : Nat) : List (W64 × Nat) := plainUnit c.src n

/-- Whether unit `n` completes what is written at once: an element or a header, or the last element read of a block to quantise (R220). -/
def Copy.completes (c : Copy) (n : Nat) : Bool :=
  decide (c.xf ≤ 1) || (List.range 128).all fun i => decide (n / 128 * 128 + i = n) || decide (look c.moved (n / 128 * 128 + i) ≠ 0)

/-- What unit `n` of a copy writes in its destination; for a block to quantise, what its block writes. -/
def Copy.writes (c : Copy) (n : Nat) : List (W64 × Nat) :=
  if c.xf ≤ 1 then plainUnit c.dst n
  else
    let w := if c.xf = 2 then 64 else 128
    ((List.range w).map fun i => (lyBase c.dst + BitVec.ofNat 64 (w * (n / 128) + i), 1)) ++ lyHead c.dst (n / 128)

/-- Whether two units name the same destination element. -/
def Copy.sameElem (c : Copy) (n m : Nat) : Bool :=
  decide (c.xf ≤ 1) && decide (n < lyCount c.dst) && decide (m < lyCount c.dst) && decide (lyOffset c.dst n = lyOffset c.dst m)

/-- Whether a unit is not written because the copy has moved a higher walk index of the same destination element, or is not sent because there is a
higher one (R221). -/
def Copy.superseded (c : Copy) (n : Nat) : Bool := c.moved.any fun e => decide (n < e.1) && c.sameElem n e.1
def Copy.shadowed (c : Copy) (n : Nat) : Bool := (List.range (lyCount c.dst)).any fun m => decide (n < m) && c.sameElem n m

/-- Whether the copy reads its source here, and writes its destination here (R231). -/
def Copy.hasSource (c : Copy) : Bool := (c.remote.map fun r => !r.inward).getD true
def Copy.hasDest (c : Copy) : Bool := (c.remote.map Remote.inward).getD true

/-! ## Places -/

/-- The place of an address of a copy, by the translations of its check pass. -/
def State.copyPlace (s : State) (g : Gang) (c : Copy) (a : W64) : Place :=
  match s.window g a with
  | some (.global va) => .phys (entry 0 c.pages (va / 65536) + va % 65536)
  | some t => placeOf 0 t
  | none => .phys 0

/-- The bytes of some items in the issuing CU's view. -/
def State.readItems (s : State) (g : Gang) (c : Copy) (is : List (W64 × Nat)) : List Byte :=
  (is.map fun i => s.viewBytes (s.cuOf g) (s.copyPlace g c i.1) i.2).foldr (· ++ ·) []

/-! ## Issue (R218, R219, R231) -/

/-- The format pairs of R220. -/
def xfLegal (xf s d : Nat) : Bool :=
  match xf with
  | 0 => decide (s = d)
  | 1 => decide (s ≤ 13) && (decide (d ≤ 10) || decide (d = 13))
  | 2 => decide (s = 2) && decide (d = 11)
  | _ => decide (s = 2) && decide (d = 12)

/-- The cause that a record of a copy raises at issue (R219). -/
def State.recordCause (s : State) (g : Gang) (r : BitVec 256) : Option Nat :=
  let t := s.teamOf g
  let span := lySpan r
  let a : Int := (lyAddr r : Nat)
  let off : Int := (lyAddr r % 2 ^ 18 : Nat)
  let beyond := fun (base : Int) (z : Nat) => decide (lyCount r ≠ 0) && (decide (base + span.1 < 0) || decide ((z : Int) < base + span.2))
  let space : Option Nat := match lyWin r with
    | 0 => if beyond a (2 ^ 56) then some ADDRESS_WINDOW else none
    | 8 => if beyond off t.scratchZ then some SCRATCH_RANGE else none
    | 9 => match s.rankTeam t (lyAddr r / 2 ^ 18) with
      | none => some ADDRESS_WINDOW
      | some u => if beyond off u.scratchZ then some SCRATCH_RANGE else none
    | _ => if beyond a (2 ^ 29) then some ADDRESS_WINDOW else none
  match space with
  | some c => some c
  | none => if lyAddr r % fmtBytes (lyFmt r) ≠ 0 then some ALIGNMENT else none

/-- The outstanding copies and fabric copies of a gang. -/
def Gang.copies (g : Gang) : List Op := g.ops.filter fun o => match o.body with
  | .copy _ => true
  | _ => false

/-- Whether the copy engine of a CU has room for one more (R214). -/
def State.copyRoom (s : State) (cu : Nat) : Bool :=
  decide (((s.gangs.filter fun g => decide (s.cuOf g = cu)).map fun g => g.copies.length).foldl (· + ·) 0 < 64)

/-- The cause of the first record of a copy that raises one, with its base; the remote record of a fabric copy is not tested (R219, R231). -/
def State.copyCause (s : State) (g : Gang) (c : Copy) : Option (Nat × W64) :=
  let near := fun (here : Bool) (r : BitVec 256) => if here then (s.recordCause g r).map fun e => (e, lyBase r) else none
  match near c.hasSource c.src with
  | some e => some e
  | none => near c.hasDest c.dst

/-- The gang with a copy that moved nothing and is complete, among its open copies (R219, R223). -/
def Gang.emptyCopy (g : Gang) (o : Nat) : Gang := { g with loose := g.loose ++ [⟨o, 0, none⟩] }

/-- The last checks of a copy: those of its records in turn; then it joins the engine's queue. One that moves nothing completes at once, unless a
follow-on is to come (R219); one that names a carousel then never starts, and takes and lands no slot, which R227 leaves open (log 36). -/
def Issue.copy (x : Issue) (slot : Option Nat) (c : Copy) : Result :=
  match x.s.copyCause x.g c with
  | some e => x.raise e.1 x.lanes e.2
  | none =>
    if lyCount c.src = 0 ∧ c.follow = none then
      if x.g.flagFull slot then x.stall (.flagFull (slot.getD 0)) else x.doneIn x.s.bump (x.g.emptyCopy x.s.serial)
    else if x.s.copyRoom (x.s.cuOf x.g) then x.trackIn x.s x.g slot (.copy c) else x.stall .copyQueue

/-- Carousel `c` of a team, if it is configured. -/
def Team.carousel? (t : Team) (c : Nat) : Option Carousel := if t.carCount ≤ c then none else entry? t.carousels c

/-- The scratch offset of slot `k`. -/
def Carousel.slotAt (c : Carousel) (k : Nat) : Nat := c.base + 64 * c.sz * k

/-- copy (R219): `x` is XF, `c` the carousel or 15, `m` and `f` the follow-on, `g` and `h` the records. -/
def execCopy (x : BitVec 3) (l : BitVec 1) (c : BitVec 4) (m : BitVec 2) (f : BitVec 1) (g h : BitVec 3) (s : State) : Result :=
  issue { size := 4, ops := [.le x.toNat 3] } s fun i =>
    let src := look i.g.layouts h.toNat
    let dst := look i.g.layouts g.toNat
    let car := (i.s.teamOf i.g).carousel? c.toNat
    let span := lySpan dst
    if decide (c ≠ 15) && (match car with
        | none => true
        | some k => decide (lyCount dst ≠ 0) && (decide (span.1 < 0) || decide (((64 * k.sz : Nat) : Int) < span.2))) then
      i.raise CAROUSEL i.lanes (c.setWidth 64)
    else if lyCount src ≠ lyCount dst ∨ !xfLegal x.toNat (lyFmt src) (lyFmt dst) then i.raise ILLEGAL_ENCODING i.lanes 0
    else
      i.copy (i.slot l)
        { src := src
          dst := if c = 15 then dst else lyRebase dst ((car.map fun k => k.slotAt k.tail).getD 0)
          xf := x.toNat
          car := if c = 15 then none else some c.toNat
          follow := if f = 1 then some (m.toNat, look i.g.slots m.toNat) else none
          cvsub := i.g.cvsub, lvt0 := i.g.lvt0, lvt1 := i.g.lvt1, remote := none }

/-- A fabric copy (R231). R231 gives no order among its checks: the counts and formats come first, as in R219, then the remote record's window, the flow
handle, and the local record; it names no address for a remote record outside window 0, and sr.taddr is then that record's BASE (log 54). -/
def fcopyWord (inward : Bool) (n : BitVec 6) (l : BitVec 1) (r g : BitVec 3) (s : State) : Result :=
  issue { size := 4, ops := [.sca n.toNat 1] } s fun i =>
    let far := look i.g.layouts r.toNat
    let near := look i.g.layouts g.toNat
    let flow := i.g.sreg n.toNat
    if lyCount far ≠ lyCount near ∨ lyFmt far ≠ lyFmt near then i.raise ILLEGAL_ENCODING i.lanes 0
    else if lyWin far ≠ 0 then i.raise ADDRESS_WINDOW i.lanes (lyBase far)
    else if !(i.s.flows.any fun x => decide (x.handle = flow) && decide (x.job = i.s.jobOf i.g)) then i.raise ADDRESS_WINDOW i.lanes flow
    else
      i.copy (i.slot l)
        { src := if inward then far else near, dst := if inward then near else far, xf := 0, car := none, follow := none
          cvsub := i.g.cvsub, lvt0 := i.g.lvt0, lvt1 := i.g.lvt1, remote := some { flow := flow, inward := inward } }

/-- fcopy.to (R231). -/
def execFcopyTo (n : BitVec 6) (l : BitVec 1) (r g : BitVec 3) (s : State) : Result := fcopyWord false n l r g s

/-- fcopy.from (R231). -/
def execFcopyFrom (n : BitVec 6) (l : BitVec 1) (r g : BitVec 3) (s : State) : Result := fcopyWord true n l r g s

/-- lyset lyN: record N := 32 bytes of scratch (R217). -/
def execLyset (a : BitVec 7) (r : BitVec 3) (s : State) : Result :=
  issue { size := 4, ops := [.sca a.toNat 1] } s fun x =>
    let off := x.g.sreg a.toNat
    x.scratchRecord off fun v =>
      if lyLegal v then x.done { x.g with layouts := put x.g.layouts r.toNat v } else x.raise ILLEGAL_ENCODING x.lanes off

/-! ## Batches (R223, R224) -/

/-- A gang's copies that no seal has closed join batch `n`. -/
def Gang.sealInto (g : Gang) (n : BitVec 16) : Gang :=
  { g with
    sealedNo := n, sealedAny := true
    batches := g.batches ++ [(n, g.loose)], loose := []
    ops := g.ops.map fun o => match o.body with
      | .copy c => if c.batch = none then { o with body := .copy { c with batch := some n } } else o
      | _ => o }

/-- seal (R223). -/
def execSeal (d : BitVec 7) (s : State) : Result :=
  issue { size := 4, ops := [.sca d.toNat 1] } s fun x =>
    if 16 ≤ x.g.batches.length then x.stall .sealed16
    else
      let n := x.g.sealedNo + 1
      x.done ((x.g.sealInto n).setSreg d.toNat (n.setWidth 64))

/-- The sealed batches in the range of a cwait for number `n` that no completed cwait has reported (R223). -/
def Gang.range (g : Gang) (n : BitVec 16) : List (BitVec 16) :=
  let d := (n - g.sealedNo).toNat
  let m := if 1 ≤ d ∧ d < 2 ^ 15 then g.sealedNo else n
  if g.sealedAny then (g.batches.map Prod.fst).filter fun k => decide ((m - k).toNat < 2 ^ 15) else []

/-- cwait (R223): an empty range completes at once. -/
def execCwait (a d : BitVec 7) (s : State) : Result :=
  issue { size := 4, ops := [.sca a.toNat 1, .sca d.toNat 1] } s fun x =>
    let r := x.g.range ((x.g.sreg a.toNat).setWidth 16)
    if r = [] then
      if x.g.flagFull x.slotA then x.stall (.flagFull (x.slotA.getD 0)) else x.done (x.g.setSreg d.toNat 0)
    else x.trackIn x.s x.g x.slotA (.cwait d.toNat r x.lanes)

/-- The reports of the batches of a list, in the issue order of their copies. -/
def Gang.reports (g : Gang) (bs : List (BitVec 16)) : List CopyReport :=
  sortBy CopyReport.op (((g.batches.filter fun b => bs.contains b.1).map Prod.snd).foldr (· ++ ·) [])

/-- The first fault among some reports. -/
def firstFault (rs : List CopyReport) : Option (BitVec 8 × W64 × W64) := (rs.filterMap CopyReport.fault).head?

/-- The status word of some reports: the OR of their flags, and FAIL with the cause of the failed copy that is earliest in issue order, also where
copies of several batches failed with different causes (R223, R224; log 54). -/
def statusWord (rs : List CopyReport) : W64 :=
  let flags := rs.foldl (fun a r => a ||| r.status) 0
  match firstFault rs with
  | none => flags
  | some f => flags ||| 0x100 ||| (f.1.setWidth 64 <<< 16)

/-- Whether every batch of a list is complete. -/
def Gang.batchesDone (g : Gang) (bs : List (BitVec 16)) : Bool :=
  g.copies.all fun o => match o.body with
    | .copy c => (c.batch.map fun b => !bs.contains b).getD true
    | _ => true

/-- CWAIT_COMPLETE (R222, R223): the status is written, the batches are reported, and the fault of a failed copy goes to the lanes that issued
the cwait. -/
def execCwaitComplete (g o : Nat) (s : State) : Result :=
  match s.op? g o with
  | none => .fault .notEnabled
  | some (x, y) => match y.body with
    | .cwait d bs lanes =>
      if x.batchesDone bs then
        let rs := x.reports bs
        let x1 := match firstFault rs with
          | none => x
          | some f => x.mapLanes (lanes &&& x.live) fun _ t => { t with copyFaults := t.copyFaults ++ [f] }
        let x2 := { x1 with batches := x1.batches.filter fun b => !bs.contains b.1 }
        .next (s.setGang ((x2.setSreg d (statusWord rs)).complete y))
      else .fault .notEnabled
    | _ => .fault .notEnabled

/-- The fault of a failed copy that lanes of a sub-group at a header position are to take, and those lanes (R222). -/
def Gang.dueFault (g : Gang) (t : Lanes) : Option ((BitVec 8 × W64 × W64) × Lanes) :=
  ((lanesOf t).filterMap fun l => (g.thread l).copyFaults.head?).head?.map fun f =>
    (f, lanesWhere t fun l => decide ((g.thread l).copyFaults.head? = some f))

/-- Delivers the fault of a failed copy in lanes `t` of a sub-group at a header position: sr.tpc names the copy, and both forms of tret
return to the header position (R222). The decision that took the sub-group there keeps its counts of R139 although no clause starts: the lanes of the
sub-group that take no fault stay ready with a count of 0 (log 54). -/
def State.copyTrap (s : State) (g : Gang) (f : Flight) (e : BitVec 8 × W64 × W64) (t : Lanes) : State :=
  let g1 := g.mapLanes t fun _ x => { x with copyFaults := x.copyFaults.drop 1 }
  let s1 := s.trap g1 { f with lanes := t } e.1.toNat t e.2.2 false 0
  s1.onGang g.id fun h => h.mapLanes t fun _ x => match x.status with
    | .ready => { x with delivery := x.delivery.map fun d => { d with pc := e.2.1 } }
    | _ => x

/-! ## Carousels (R226-R229) -/

/-- CAROUSEL in every lane. R228 and R229 name no address: the carousel is the one the word names, as in R219, and sr.taddr := c (log 54). -/
def Issue.badCarousel (x : Issue) (c : BitVec 4) : Result := x.raise CAROUSEL x.lanes (c.setWidth 64)

/-- Changes carousel `c` of the team numbered `t`. -/
def State.onCarousel (s : State) (t c : Nat) (f : Carousel → Carousel) : State :=
  s.onTeam t fun x => match entry? x.carousels c with
    | some k => { x with carousels := setEntry x.carousels c (f k) }
    | none => x

/-- Whether a copy has started into carousel `c` of a team and has neither landed nor failed. -/
def State.filling (s : State) (t c : Nat) : Bool :=
  s.gangs.any fun g => decide (g.team = t) && g.copies.any fun o => match o.body with
    | .copy k => decide (k.car = some c) && k.carSlot.isSome && decide (k.stage ≠ .landed) && k.fail.isNone
    | _ => false

/-- carcfg (R226). -/
def execCarcfg (a : BitVec 7) (c : BitVec 4) (s : State) : Result :=
  issue { size := 4, ops := [.sca a.toNat 1] } s fun x =>
    let t := x.s.teamOf x.g
    let v := x.g.sreg a.toNat
    let n := fld v 38 32
    let sz := fld v 31 24
    let base := fld v 17 0
    let idle := match t.carousel? c.toNat with
      | none => true
      | some k => decide (k.filled = 0) && !x.s.filling t.id c.toNat
    if t.carCount ≤ c.toNat ∨ fld v 63 39 ≠ 0 ∨ fld v 23 18 ≠ 0 ∨ n = 0 ∨ 64 < n ∨ sz = 0 ∨ 64 < sz ∨ base % 64 ≠ 0 ∨
        t.scratchZ < base + 64 * sz * n ∨ !idle then x.badCarousel c
    else
      x.doneIn (x.s.onTeam t.id fun t => { t with carousels := setEntry t.carousels c.toNat { nslot := n, sz := sz, base := base, free := n } }) x.g

/-- The lanes of a gang blocked at a ctake that `k`, its carousel `c`, releases now. -/
def Gang.takers (g : Gang) (c : Nat) (k : Carousel) : Lanes := g.lanesFor fun t => match t.status with
  | .blocked (.take c' n _) => decide (c' = c) && decide (n ≤ k.filled)
  | _ => false

/-- The scalar registers that those lanes write. -/
def Gang.takeRegs (g : Gang) (t : Lanes) : List Nat := (lanesOf t).filterMap fun l => match (g.thread l).status with
  | .blocked (.take _ _ d) => some d
  | _ => none

/-- Releases the sub-groups of a team that wait for carousel `c` and are met (R228); in a gang whose other sub-group is in mid-clause they wait for the end of
that clause, so that their scalar write does not fall inside it (R90; log 54). -/
def State.releaseTakes (s : State) (t c : Nat) : State :=
  match ((s.team? t).getD noTeam).carousel? c with
  | none => s
  | some k =>
    { s with gangs := s.gangs.map fun g =>
        let m := g.takers c k
        if g.team = t ∧ m ≠ 0 ∧ g.flight = none then
          (((g.takeRegs m).foldl (fun (h : Gang) d => h.setSreg d (BitVec.ofNat 64 (k.slotAt k.head))) g).release m).settle
        else g }

/-- The carousels for which a gang's lanes wait. -/
def Gang.takeCars (g : Gang) : List Nat := (lanesOf g.lanes).filterMap fun l => match (g.thread l).status with
  | .blocked (.take c _ _) => some c
  | _ => none

/-- The carousel that a gang between clauses has waited for and that is met (R90, R228). -/
def State.takeDue (s : State) (g : Gang) : Option Nat :=
  if g.flight = none then g.takeCars.find? fun c => (((s.teamOf g).carousel? c).map fun k => decide (g.takers c k ≠ 0)).getD false else none

/-- ctake (R228). -/
def execCtake (b a : BitVec 7) (c : BitVec 4) (s : State) : Result :=
  issue { size := 4, ops := [.sca b.toNat 1, .sca a.toNat 1], last := true } s fun x =>
    let n := (x.g.sreg a.toNat).toNat
    match (x.s.teamOf x.g).carousel? c.toNat with
    | none => x.badCarousel c
    | some k =>
      if n = 0 ∨ k.nslot < n then x.badCarousel c
      else .next ((x.s.setGang (x.g.block x.f (.take c.toNat n b.toNat)).settle).releaseTakes x.g.team c.toNat)

/-- cfree: a release at team scope, once every earlier access of the gang has been performed (R229). -/
def execCfree (a : BitVec 7) (c : BitVec 4) (s : State) : Result :=
  issue { size := 4, ops := [.sca a.toNat 1] } s fun x =>
    let n := (x.g.sreg a.toNat).toNat
    match (x.s.teamOf x.g).carousel? c.toNat with
    | none => x.badCarousel c
    | some k =>
      if n = 0 ∨ k.filled < n then x.badCarousel c
      else if !x.s.earlierPerformed x.g x.s.serial then x.stall .earlier
      else
        x.doneIn (x.s.onCarousel x.g.team c.toNat fun k =>
          { k with head := (k.head + n) % k.nslot, filled := k.filled - n, free := k.free + n }) x.g

/-- Counts the landed slots that follow one another from HEAD (R227). -/
def Carousel.count : Nat → Carousel → Carousel
  | 0, k => k
  | n + 1, k =>
    let j := (k.head + k.filled) % k.nslot
    if look k.landed j ≠ 0 ∧ k.filled < k.nslot then Carousel.count n { k with filled := k.filled + 1, landed := put k.landed j 0 } else k

/-- bccrd: the CU's bank-conflict counter, read and cleared in one step (R230). -/
def execBccrd (d : BitVec 7) (s : State) : Result :=
  issue { size := 4, ops := [.sca d.toNat 1] } s fun x =>
    let cu := x.s.cuOf x.g
    x.doneIn (x.s.onCu cu fun c => { c with conflicts := 0 }) (x.g.setSreg d.toNat ((x.s.cu cu).conflicts.setWidth 64))

/-- The cycles of one beat: the largest number of distinct words in one bank (R160, R230). -/
def beatCost (ws : List Nat) : Nat :=
  (List.range 32).foldl (fun a b => max a ((ws.eraseDups.filter fun w => decide (w % 32 = b)).length)) 0

/-- What beat `k` of a record in scratch adds to the counter (R230). A beat is a full group of 32 walk indices, or the last ones; one that reaches the
scratch of another rank counts too, on the issuing CU (log 31). -/
def beatConflicts (r : BitVec 256) (k : Nat) : Nat :=
  if lyWin r = 8 ∨ lyWin r = 9 then
    let is := (List.range 32).filter fun i => decide (32 * k + i < lyCount r)
    beatCost (is.map fun i => (lyElem r (32 * k + i)).1.toNat % 2 ^ 18 / 4) - 1
  else 0

/-- What a copy adds to the counter when it has moved unit `n`: the cost of the beats of unit `n`, once all of their indices are moved. -/
def Copy.conflicts (c : Copy) (n : Nat) : Nat :=
  let k := n / 32
  let beat := (List.range 32).all fun i => decide (lyCount c.src ≤ 32 * k + i) || decide (look c.moved (32 * k + i) ≠ 0)
  if lyCount c.src ≤ n ∨ beat = false then 0
  else (if c.hasSource then beatConflicts c.src k else 0) + (if c.hasDest then beatConflicts c.dst k else 0)

/-! ## The engine starts a copy, and its check pass (R214, R221, R227) -/

/-- Changes the copy of an operation. -/
def Gang.mapCopy (g : Gang) (o : Nat) (f : Copy → Copy) : Gang := g.mapOp o fun x => match x.body with
  | .copy c => { x with body := .copy (f c) }
  | _ => x

/-- Changes the copy of operation `o` of gang `g`. -/
def State.onCopy (s : State) (g o : Nat) (f : Copy → Copy) : State := s.onGang g fun h => h.mapCopy o f

/-- Why a check pass does not go through. -/
inductive PassStop where
  | fail (cause : Nat) (addr : W64)
  | absent (addr : W64)
  /-- A page in transit, or an entry that cannot be read now. -/
  | wait
  deriving DecidableEq, Repr

/-- A check pass so far: 64 KiB pages with their physical bases, the walks it has completed, and what stopped it. -/
structure Pass where
  pages : List (Nat × Nat) := []
  used  : List (Kind × Xlate) := []
  stop  : Option PassStop := none

/-- The check of one address (R221). -/
def State.passOne (s : State) (g : Gang) (k : Kind) (p : Pass) (a : W64) : Pass :=
  if p.stop.isSome then p
  else match s.window g a with
    | some (.global va) =>
      if (entry? p.pages (va / 65536)).isSome then p
      else match s.engineTranslate (s.asidOf g) va k with
        | .wait => { p with stop := some .wait }
        | .fault => { p with stop := some (.absent a) }
        | .protection => { p with stop := some (.fail PAGE_PROTECTION a) }
        | .ok pa tr new =>
          let q := { p with used := p.used ++ [(k, Xlate.ok pa tr new)] }
          if tr && decide (k = .write) then { q with stop := some .wait }
          else { q with pages := setEntry p.pages (va / 65536) (pa - va % 65536) }
    | some (.common off) => if grantAllows k (s.grantAt (s.asidOf g) off) then p else { p with stop := some (.fail PAGE_PROTECTION a) }
    | _ => p

/-- The check pass over the pages of both sides: the source's addresses in walk order, then the destination's. -/
def State.passAll (s : State) (g : Gang) (c : Copy) : Pass :=
  let src := if c.hasSource then (lyTouched c.src).foldl (s.passOne g .read) {} else {}
  let dst := if c.hasDest && src.stop.isNone then (lyTouched c.dst).foldl (s.passOne g .write) {} else {}
  { pages := dst.pages ++ src.pages, used := src.used ++ dst.used, stop := if src.stop.isSome then src.stop else dst.stop }

/-- The A and D bits of the walks that a check pass completed are set, whatever becomes of the pass (R337). -/
def State.passUsed (s : State) (p : Pass) : State := p.used.foldl (fun (s : State) u => s.engineUsed u.1 u.2) s

/-- The SB header bytes that a copy must decode before it moves anything (R82, R221): those of a source that is converted. An untransformed copy moves
headers as they are and decodes none, so that it does not fail on a corrupt one (log 36). -/
def Copy.headItems (c : Copy) : List (W64 × Nat) :=
  if c.xf = 1 ∧ isSB (lyFmt c.src) then ((List.range (lyCount c.src / 128)).map fun b => lyHead c.src b).foldr (· ++ ·) [] else []

/-- Whether the issuing CU may access some items of a copy now, in its order (R172, R221). -/
def State.itemsFree (s : State) (g : Gang) (o : Nat) (c : Copy) (is : List (W64 × Nat)) : Bool :=
  is.all fun i => s.ready (s.cuOf g) o (s.copyPlace g c i.1) i.2

/-- The undo records that some items still need. -/
def State.itemLines (s : State) (g : Gang) (c : Copy) (is : List (W64 × Nat)) : List (Bool × Nat) :=
  s.unlogged (is.map fun i => s.copyPlace g c i.1)

/-- Whether the undo log has room for those records. -/
def State.roomFor (s : State) (ls : List (Bool × Nat)) : Bool := decide (ls = []) || decide (s.undo.length + ls.length ≤ s.logRoom)

/-- What unit `n` writes at home, none for a copy to another module. -/
def Copy.localWrites (c : Copy) (n : Nat) : List (W64 × Nat) := if c.hasDest then c.writes n else []
/-- What unit `n` reads at home, none for a copy from another module. -/
def Copy.localReads (c : Copy) (n : Nat) : List (W64 × Nat) := if c.hasSource then c.reads n else []

/-- The requests that an fcopy.from sends: one for each unit, in walk order (R231). -/
def Copy.requests (c : Copy) (g o : Nat) (asid : BitVec 8) : List Message :=
  match c.remote with
  | some r => if r.inward then (List.range c.units).map fun n =>
      let i := plainUnit c.src n
      .fabricRead r.flow g o asid ((i.map Prod.fst).headD 0) ((i.map Prod.snd).foldl (· + ·) 0) else []
  | none => []

/-- A fault of a gang's copy, in its check pass or at a full undo log: it waits for the runtime under a fresh TAG; in system mode the gang stops
(R348, R350, R358). -/
def State.copyRequest (s : State) (g : Gang) (o kind cause : Nat) (a : W64) : State :=
  if kind = 1 ∧ s.system g then (s.onGang g.id fun h => { h with crashed := true }).send (.systemFault (dieOf (s.cuOf g)) (BitVec.ofNat 8 cause))
  else (s.onCopy g.id o fun c => if c.stage = .moving then c else { c with stage := .checking (some s.freshTag) }).request (dieOf (s.cuOf g)) kind cause
    (s.handle g) a (if kind = 1 then .copy g.id o else .copyLog g.id o)

/-- The check pass of a copy, where it can go on now (R221); `s` holds the bits of its walks already. -/
def State.checkPassed (s : State) (g : Gang) (o : Nat) (c : Copy) (p : Pass) : Option State :=
  let c1 := { c with pages := p.pages }
  match p.stop with
  | some (.fail cause a) => some (s.onCopy g.id o fun c => { c with fail := some (BitVec.ofNat 8 cause, a) })
  | some (.absent a) => if g.crashed then none else some (s.copyRequest g o 1 PAGE_NOT_PRESENT a)
  | some .wait => none
  | none =>
    if !s.itemsFree g o c1 c1.headItems then none
    else
      let bs := s.readItems g c1 c1.headItems
      let heads := (List.range (bs.length / 2)).map fun b => leNat ((bs.drop (2 * b)).take 2)
      match (heads.zip (List.range heads.length)).find? fun h => corrupt (decide (lyFmt c.src = 12)) h.1 with
      | some h => some (s.onCopy g.id o fun c => { c with fail := some (BitVec.ofNat 8 SELECTOR_CORRUPT, ((lyHead c.src h.2).map Prod.fst).headD 0) })
      | none =>
        let lines := s.itemLines g c1 (if c.hasDest then (lyTouched c.dst).map fun a => (a, 1) else [])
        if !s.roomFor lines then
          if g.crashed then none else some (s.copyRequest g o 2 0 (lyBase c.dst))
        else
          let s1 := s.onCopy g.id o fun c => { c with stage := .moving, pages := p.pages, heads := heads }
          some { s1 with outbox := s1.outbox ++ c.requests g.id o (s.asidOf g) }

/-- Runs the check pass of a copy: the bits of its walks are set, also where it has to wait (R337). -/
def State.checkCopy (s : State) (g : Gang) (o : Nat) (c : Copy) : Option State :=
  let p := s.passAll g c
  let s1 := s.passUsed p
  match s1.checkPassed g o c p with
  | some t => some t
  | none => if s1.phys = s.phys then none else some s1

/-- Whether every thread of a stopped gang's team has exited: no cfree of the team can free a carousel slot any more. -/
def State.teamOver (s : State) (g : Gang) : Bool :=
  (g.cancelled || g.killed) && s.gangs.all fun h => decide (h.team ≠ g.team) || h.threads.all fun t => decide (t.status = .exited)

/-- Whether the engine may start a queued copy: the loads that supplied it have completed (R183), every earlier copy of the gang has started, and its
carousel has a free slot (R214, R227). Where a team was cancelled or killed and its threads have exited, no slot comes free, and the copy
starts all the same, since an issued copy always completes (R214; log 29). -/
def State.mayStartCopy (s : State) (g : Gang) (o : Op) (c : Copy) : Bool :=
  decide (c.stage = .queued) && g.supplied o &&
  (g.copies.all fun p => decide (o.id ≤ p.id) || match p.body with
    | .copy d => decide (d.stage ≠ .queued)
    | _ => true) &&
  match c.car with
  | none => true
  | some k => match (s.teamOf g).carousel? k with
    | some x => decide (0 < x.free) || s.teamOver g
    | none => false

/-- The state in which a copy has started, with the carousel slot it took. -/
def State.startCopy (s : State) (g : Gang) (o : Nat) (c : Copy) : State :=
  let s1 := s.bump.onCopy g.id o fun c => { c with stage := .checking none, start := s.serial }
  match c.car.bind fun k => (s.teamOf g).carousel? k with
  | none => s1
  | some x =>
    (s1.onCopy g.id o fun c => { c with carSlot := some x.tail, dst := lyRebase c.dst (x.slotAt x.tail) }).onCarousel g.team (c.car.getD 0) fun k =>
      { k with free := k.free - 1, tail := (k.tail + 1) % k.nslot }

/-- The check pass of the copy of operation `o` of gang `g`, where it waits for nothing but time. -/
def State.recheckCopy (s : State) (g o : Nat) : Option State :=
  match s.op? g o with
  | some (x, y) => match y.body with
    | .copy c => if c.stage = .checking none ∧ c.fail = none then s.checkCopy x o c else none
    | _ => none
  | none => none

/-- COPY_ENGINE_START (R214, R221, R227): the engine starts a copy and runs its check pass. -/
def execCopyEngineStart (g o : Nat) (s : State) : Result :=
  match s.op? g o with
  | none => .fault .notEnabled
  | some (x, y) => match y.body with
    | .copy c =>
      if s.mayStartCopy x y c then
        let s1 := s.startCopy x o c
        .next ((s1.recheckCopy g o).getD s1)
      else .fault .notEnabled
    | _ => .fault .notEnabled

/-! ## The data pass (R220, R221) -/

/-- Converts the code of element `n` (R220): the destination's code and the flags. -/
def Copy.converted (c : Copy) (n code : Nat) : Nat × BitVec 8 :=
  let sf := lyFmt c.src
  let df := Elem.of (lyFmt c.dst)
  if isSB sf then
    let d := (decodeSB (decide (sf = 12)) c.lvt0 c.lvt1 (c.heads.getD (n / 128) 0) code (n % 128 / 32)).getD (0, 1)
    let v := sbValue (decide (sf = 12)) d.1 d.2
    let r := convert c.cvsub (.flt f32) df .rne false v.1.toNat
    (r.1, v.2 ||| r.2)
  else convert c.cvsub (Elem.of sf) df .rne false code

/-- Packs the codes of an SB block (R77): two to a byte for SB4. -/
def packCodes (sb8 : Bool) : List Nat → List Byte
  | a :: b :: r => if sb8 then BitVec.ofNat 8 a :: BitVec.ofNat 8 b :: packCodes sb8 r else BitVec.ofNat 8 (a % 16 + 16 * (b % 16)) :: packCodes sb8 r
  | [a] => [BitVec.ofNat 8 a]
  | [] => []

/-- The codes of block `b`, that of unit `n` among them just read. -/
def Copy.block (c : Copy) (n code : Nat) : List W32 :=
  (List.range 128).map fun i => if n / 128 * 128 + i = n then BitVec.ofNat 32 code else (look c.codes (n / 128 * 128 + i)).setWidth 32

/-- The bytes that unit `n` gives from the bytes it read, with its flags (R220): nothing yet for a block of which elements are missing. -/
def Copy.value (c : Copy) (n : Nat) (bs : List Byte) : List Byte × BitVec 8 :=
  let code := codeOf (lyFmt c.src) (lyHigh c.src n) bs
  let element := fun (v : Nat) => withCode (lyFmt c.dst) (lyHigh c.dst n) v [0]
  match c.xf with
  | 0 => if n < lyCount c.src then (element code, 0) else (bs, 0)
  | 1 =>
    let r := c.converted n code
    (element r.1, r.2)
  | x =>
    if c.completes n then
      let q := quantiseBlock (decide (x = 3)) c.cvsub c.lvt0 c.lvt1 (c.block n code)
      (packCodes (decide (x = 3)) q.2.1 ++ leBytes 2 q.1, q.2.2)
    else ([], 0)

/-- Which bits of its bytes unit `n` writes: one half of the byte of a 4-bit element. -/
def Copy.mask (c : Copy) (n : Nat) : Byte :=
  if c.xf ≤ 1 ∧ n < lyCount c.dst ∧ fmtBits (lyFmt c.dst) = 4 then (if lyHigh c.dst n then 0xF0 else 0x0F) else 0xFF

/-- The bytes at the addresses of some items. -/
def itemBytes (is : List (W64 × Nat)) : List W64 := (is.map fun i => (List.range i.2).map fun j => i.1 + BitVec.ofNat 64 j).foldr (· ++ ·) []

/-- The bytes that unit `n` is to write. -/
def Copy.emits (c : Copy) (n : Nat) (bs : List Byte) : List CopyByte :=
  ((itemBytes (c.writes n)).zip bs).map fun e => { unit := n, addr := e.1, mask := c.mask n, val := e.2 }

/-- The copy after unit `n` has been moved, with the bytes it read: a lower walk index of the same destination element is written no more, and a unit
below one that was moved is not written at all (R221). -/
def Copy.afterUnit (c : Copy) (n : Nat) (bs : List Byte) : Copy :=
  let v := c.value n bs
  { c with
    moved := put c.moved n 1
    codes := if c.xf ≤ 1 then c.codes else put c.codes n (BitVec.ofNat 33 (2 ^ 32 + codeOf (lyFmt c.src) false bs))
    flags := c.flags ||| v.2
    out := (c.out.filter fun e => !(decide (e.unit < n) && c.sameElem e.unit n)) ++ if c.superseded n then [] else c.emits n v.1 }

/-- The bytes that unit `n` of an fcopy.from brought. -/
def Copy.brought (c : Copy) (n : Nat) : Option (List Byte) :=
  (c.remote.bind Remote.bytes).map fun bs =>
    let e := fmtBytes (lyFmt c.src)
    if n < lyCount c.src then (bs.drop (e * n)).take e else (bs.drop (e * lyCount c.src + 2 * (n - lyCount c.src))).take 2

/-- What an fcopy.to sends for unit `n`. -/
def Copy.sends (c : Copy) (g o : Nat) (asid : BitVec 8) (flow : W64) (n : Nat) (bs : List Byte) : Message :=
  let a := ((plainUnit c.dst n).map Prod.fst).headD 0
  if n < lyCount c.src ∧ fmtBits (lyFmt c.src) = 4 then
    .fabricNibble flow g o asid a (lyHigh c.dst n) (codeOf (lyFmt c.src) (lyHigh c.src n) bs)
  else .fabricWrite flow g o asid a bs

/-- Whether no byte that the copy is still to write lies in a place that it is to read (R221). Where the elements of the two sides differ in size, a source
element of which narrower destination elements have overwritten a part is read as it then stands, old and new bytes together (log 36). -/
def State.settledAt (s : State) (g : Gang) (c : Copy) (is : List (W64 × Nat)) : Bool :=
  is.all fun i => c.out.all fun e => !overlap (s.copyPlace g c i.1) i.2 (s.copyPlace g c e.addr) 1

/-- Whether a copy may send over its flow: on an ordered one, every copy to another module that an engine started earlier on it has sent all it has
(R369). -/
def State.flowTurn (s : State) (c : Copy) : Bool :=
  match c.remote with
  | some r => r.inward || !(s.flows.any fun f => decide (f.handle = r.flow) && f.ordered) || s.gangs.all fun g => g.copies.all fun o => match o.body with
    | .copy d => match d.remote with
      | some q => q.inward || decide (q.flow ≠ r.flow) || decide (d.stage = .queued) || decide (d.stage = .landed) || d.fail.isSome || decide (c.start ≤ d.start)
      | none => true
    | _ => true
  | none => true

/-- Whether unit `n` of a copy may move now. -/
def State.mayMove (s : State) (g : Gang) (o : Nat) (c : Copy) (n : Nat) : Bool :=
  decide (look c.moved n = 0) && (c.hasSource || (c.brought n).isSome) && s.itemsFree g o c (c.localReads n) && s.itemsFree g o c (c.localWrites n) &&
  ((c.localReads n).all fun i => s.lineRoom (s.cuOf g) (s.copyPlace g c i.1)) &&
  s.settledAt g c (c.localReads n) && s.flowTurn c

/-- Moves unit `n` of a copy: it is read, and what it gives is to be written, or leaves over the fabric; the beats that are over with it are counted. -/
def State.moveUnit (s : State) (g : Gang) (o : Nat) (c : Copy) (n : Nat) : State :=
  let bs := if c.hasSource then s.readItems g c (c.localReads n) else (c.brought n).getD []
  let d := if c.hasDest then c.afterUnit n bs else { c with moved := put c.moved n 1 }
  let s1 := (c.localReads n).foldl (fun (t : State) i => t.touch (s.cuOf g) (s.copyPlace g c i.1)) s
  let s2 := (s1.onCopy g.id o fun _ => d).onCu (s.cuOf g) fun u => { u with conflicts := BitVec.ofNat 32 (min 0xFFFFFFFF (u.conflicts.toNat + d.conflicts n)) }
  match c.remote with
  | some r => if r.inward || c.shadowed n then s2 else s2.send (c.sends g.id o (s.asidOf g) r.flow n bs)
  | none => s2

/-- Whether a byte of a copy may be written now. -/
def State.mayWrite (s : State) (g : Gang) (c : Copy) (e : CopyByte) : Bool :=
  let p := s.copyPlace g c e.addr
  s.accessible p 1 && s.lineSound (s.cuOf g) p && s.lineRoom (s.cuOf g) p && s.roomFor (s.unlogged [p])

/-- Writes byte `j` of those that a copy is still to write, in the issuing CU's view, with its undo record (R221, R358). -/
def State.writeByte (s : State) (g : Gang) (o : Nat) (c : Copy) (j : Nat) (e : CopyByte) : State :=
  let p := s.copyPlace g c e.addr
  let old := (s.viewBytes (s.cuOf g) p 1).headD 0
  ((s.logLines (s.unlogged [p])).storeView (s.cuOf g) p [(old &&& ~~~e.mask) ||| (e.val &&& e.mask)]).onCopy g.id o fun c => { c with out := c.out.eraseIdx j }

/-- Moves the next unit of a copy or writes the next byte of it, chosen by `start` among those that may go. -/
def State.stepCopy (s : State) (g o start : Nat) : Option State :=
  match s.op? g o with
  | some (x, y) => match y.body with
    | .copy c =>
      let may := fun (n : Nat) => if n < c.units then s.mayMove x o c n else ((c.out[n - c.units]?).map (s.mayWrite x c)).getD false
      if c.stage = .moving ∧ c.fail = none then
        (firstFrom (c.units + c.out.length) start may).bind fun n =>
          if n < c.units then some (s.moveUnit x o c n) else (c.out[n - c.units]?).map (s.writeByte x o c (n - c.units))
      else none
    | _ => none
  | none => none

/-- A copy that finds the undo log full tells the runtime once (R350, R358). -/
def State.copyLogFull (s : State) (g o : Nat) : Option State :=
  match s.op? g o with
  | some (x, y) => match y.body with
    | .copy c =>
      let full := c.out.find? fun e => !s.roomFor (s.unlogged [s.copyPlace x c e.addr])
      if c.stage ≠ .moving ∨ c.fail ≠ none ∨ x.crashed = true ∨ (s.requests.any fun r => decide (r.what = .copyLog g o)) = true then none
      else full.map fun e => s.copyRequest x o 2 0 e.addr
    | _ => none
  | none => none

/-! ## Landing, follow-on, completion (R221, R222, R225, R227) -/

/-- Whether the last byte of a copy has landed, or it has failed. -/
def Copy.mayLand (c : Copy) : Bool :=
  decide (c.stage ≠ .landed) && (c.fail.isSome || (decide (c.stage = .moving) && decide (c.out = []) && (List.range c.units).all fun n => decide (look c.moved n ≠ 0)))

/-- COPY_DATA_LANDED (R221, R227): a carousel slot lands unless the copy failed, and waiting takes go on. -/
def execCopyDataLanded (g o : Nat) (s : State) : Result :=
  match s.op? g o with
  | none => .fault .notEnabled
  | some (x, y) => match y.body with
    | .copy c =>
      if c.mayLand then
        let s1 := s.onCopy g o fun c => { c with stage := .landed }
        if c.fail.isSome then .next s1
        else
          match c.car, c.carSlot with
          | some k, some j => .next ((s1.onCarousel x.team k fun r => Carousel.count r.nslot { r with landed := put r.landed j 1 }).releaseTakes x.team k)
          | _, _ => .next s1
      else .fault .notEnabled
    | _ => .fault .notEnabled

/-- Whether the follow-on of a copy is due: the data landed, and the matrix unit has room (R225, R234). -/
def State.followDue (s : State) (g : Gang) (c : Copy) : Bool :=
  decide (c.stage = .landed) && c.follow.isSome && c.fail.isNone && c.followOp.isNone && s.matrixRoom (s.cuOf g)

/-- The engine issues the follow-on of a copy, an mloadb of the captured slot on the copy's destination; its cause becomes the copy's
fault (R225, R238). -/
def State.followOn (s : State) (g o : Nat) : Option State :=
  match s.op? g o with
  | some (x, y) => match y.body with
    | .copy c =>
      if !s.followDue x c then none
      else
        let t := s.teamOf x
        let slot := c.follow.getD (0, 0)
        let failed := fun (e : Nat × W64) => s.onCopy g o fun c => { c with fail := some (BitVec.ofNat 8 e.1, e.2) }
        match loadbCause t slot.1 slot.2 c.dst with
        | some e => some (failed e)
        | none =>
          if (isSB (lyFmt c.dst) && !x.matrixWritten s.serial) || !s.scratchFree x s.serial (headSpan c.dst).1 (headSpan c.dst).2 then none
          else match firstCorrupt c.dst (loadbHeads t c.dst) with
            | some a => some (failed (SELECTOR_CORRUPT, a))
            | none =>
              let m : Matrix := { kind := .mloadb, slot := slot.2, layout := c.dst, lvt0 := c.lvt0, lvt1 := c.lvt1, heads := loadbHeads t c.dst }
              let op : Op := { id := s.serial, flag := none, pc := y.pc, clause := y.clause, body := .matrix m }
              some (((s.bump).onTeam t.id fun t => t.loadRecord slot.2).onGang g fun h =>
                { h.mapCopy o (fun c => { c with followOp := some s.serial }) with ops := (h.mapCopy o fun c => { c with followOp := some s.serial }).ops ++ [op] })
    | _ => none
  | none => none

/-- Whether a copy may complete by itself: it failed, or its data and its follow-on are done; an fcopy.to that has not failed waits for its
acknowledgement (R221, R225, R231). -/
def Copy.mayComplete (c : Copy) (g : Gang) : Bool :=
  decide (c.stage = .landed) &&
  (c.fail.isSome ||
    ((match c.remote with
        | some r => r.inward
        | none => true) &&
     (c.follow.isNone || ((c.followOp.map fun f => (g.op? f).isNone).getD false))))

/-- What a completed copy reports (R222, R224). -/
def Copy.report (c : Copy) (o : Op) : CopyReport :=
  ⟨o.id, c.flags.setWidth 64, c.fail.map fun e => (e.1, o.pc, e.2)⟩

/-- The gang after a copy has completed: flags merged, the report with its batch, the flag fallen. -/
def Gang.copyDone (g : Gang) (o : Op) (c : Copy) : Gang :=
  let g1 := (g.merge c.flags).complete o
  match c.batch with
  | none => { g1 with loose := g1.loose ++ [c.report o] }
  | some b => { g1 with batches := g1.batches.map fun e => if e.1 = b then (e.1, e.2 ++ [c.report o]) else e }

/-- COPY_COMPLETE (R221, R222, R225). -/
def execCopyComplete (g o : Nat) (s : State) : Result :=
  match s.op? g o with
  | none => .fault .notEnabled
  | some (x, y) => match y.body with
    | .copy c => if c.mayComplete x then .next (s.setGang (x.copyDone y c)) else .fault .notEnabled
    | _ => .fault .notEnabled

/-- FCOPY_ACK (R231, R369): the destination module has performed every byte, and the fcopy.to completes. -/
def execFcopyAck (g o : Nat) (s : State) : Result :=
  match s.op? g o with
  | none => .fault .notEnabled
  | some (x, y) => match y.body with
    | .copy c => match c.remote with
      | some r =>
        if !r.inward && decide (c.stage = .landed) && c.fail.isNone then .next (s.setGang (x.copyDone y c)) else .fault .notEnabled
      | none => .fault .notEnabled
    | _ => .fault .notEnabled

/-- The remote module refuses an fcopy, or UET gives it up: the copy fails with PAGE_PROTECTION at the remote address (R231, R365). -/
def State.refuseCopy (s : State) (g o : Nat) : Result :=
  match s.op? g o with
  | none => .fault .notEnabled
  | some (_, y) => match y.body with
    | .copy c => match c.remote with
      | some r =>
        if c.fail.isNone then
          .next (s.onCopy g o fun c => { c with fail := some (BitVec.ofNat 8 PAGE_PROTECTION, lyBase (if r.inward then c.src else c.dst)) })
        else .fault .notEnabled
      | none => .fault .notEnabled
    | _ => .fault .notEnabled

/-- The bytes that an fcopy.from asked for arrive (R231). -/
def State.bringCopy (s : State) (g o : Nat) (bs : List Byte) : State :=
  s.onCopy g o fun c => { c with remote := c.remote.map fun r => { r with bytes := some bs } }

end Sys2Proof.Machine
end

