-- ==== Sys2Proof/Machine/Digest.lean ====
section
/-!
DEFINITION. The digest and the signature of code loading (R372): SHA-384 of a byte string (FIPS 180-4) and the verification of an ECDSA signature on the
curve P-384 (FIPS 186-5, SP 800-186).
-/
namespace Sys2Proof.Machine

/-! ## SHA-384 -/

/-- A 64-bit word rotated right. -/
def rotr (n x : Nat) : Nat := (x >>> n) ||| (x <<< (64 - n) % 2 ^ 64)

/-- The round constants: the first 64 bits of the fractional parts of the cube roots of the first eighty primes. -/
def shaConstants : List Nat :=
  [0x428A2F98D728AE22, 0x7137449123EF65CD, 0xB5C0FBCFEC4D3B2F, 0xE9B5DBA58189DBBC, 0x3956C25BF348B538, 0x59F111F1B605D019, 0x923F82A4AF194F9B, 0xAB1C5ED5DA6D8118,
    0xD807AA98A3030242, 0x12835B0145706FBE, 0x243185BE4EE4B28C, 0x550C7DC3D5FFB4E2, 0x72BE5D74F27B896F, 0x80DEB1FE3B1696B1, 0x9BDC06A725C71235, 0xC19BF174CF692694] ++
  [0xE49B69C19EF14AD2, 0xEFBE4786384F25E3, 0x0FC19DC68B8CD5B5, 0x240CA1CC77AC9C65, 0x2DE92C6F592B0275, 0x4A7484AA6EA6E483, 0x5CB0A9DCBD41FBD4, 0x76F988DA831153B5,
    0x983E5152EE66DFAB, 0xA831C66D2DB43210, 0xB00327C898FB213F, 0xBF597FC7BEEF0EE4, 0xC6E00BF33DA88FC2, 0xD5A79147930AA725, 0x06CA6351E003826F, 0x142929670A0E6E70] ++
  [0x27B70A8546D22FFC, 0x2E1B21385C26C926, 0x4D2C6DFC5AC42AED, 0x53380D139D95B3DF, 0x650A73548BAF63DE, 0x766A0ABB3C77B2A8, 0x81C2C92E47EDAEE6, 0x92722C851482353B,
    0xA2BFE8A14CF10364, 0xA81A664BBC423001, 0xC24B8B70D0F89791, 0xC76C51A30654BE30, 0xD192E819D6EF5218, 0xD69906245565A910, 0xF40E35855771202A, 0x106AA07032BBD1B8] ++
  [0x19A4C116B8D2D0C8, 0x1E376C085141AB53, 0x2748774CDF8EEB99, 0x34B0BCB5E19B48A8, 0x391C0CB3C5C95A63, 0x4ED8AA4AE3418ACB, 0x5B9CCA4F7763E373, 0x682E6FF3D6B2B8A3,
    0x748F82EE5DEFB2FC, 0x78A5636F43172F60, 0x84C87814A1F0AB72, 0x8CC702081A6439EC, 0x90BEFFFA23631E28, 0xA4506CEBDE82BDE9, 0xBEF9A3F7B2C67915, 0xC67178F2E372532B] ++
  [0xCA273ECEEA26619C, 0xD186B8C721C0C207, 0xEADA7DD6CDE0EB1E, 0xF57D4F7FEE6ED178, 0x06F067AA72176FBA, 0x0A637DC5A2C898A6, 0x113F9804BEF90DAE, 0x1B710B35131C471B,
    0x28DB77F523047D84, 0x32CAAB7B40C72493, 0x3C9EBE0A15C9BEBC, 0x431D67C49C100D4C, 0x4CC5D4BECB3E42B6, 0x597F299CFC657E2A, 0x5FCB6FAB3AD6FAEC, 0x6C44198C4A475817]

/-- The working variables, and the hash value between blocks. -/
structure Sha where
  a : Nat
  b : Nat
  c : Nat
  d : Nat
  e : Nat
  f : Nat
  g : Nat
  h : Nat

/-- The initial hash value of SHA-384. -/
def shaStart : Sha :=
  ⟨0xCBBB9D5DC1059ED8, 0x629A292A367CD507, 0x9159015A3070DD17, 0x152FECD8F70E5939,
    0x67332667FFC00B31, 0x8EB44A8768581511, 0xDB0C2E0D64F98FA7, 0x47B5481DBEFA4FA4⟩

/-- One round with the constant `k` and the schedule word `w`. -/
def Sha.round (s : Sha) (k w : Nat) : Sha :=
  let ch := (s.e &&& s.f) ^^^ ((2 ^ 64 - 1 - s.e) &&& s.g)
  let maj := (s.a &&& s.b) ^^^ (s.a &&& s.c) ^^^ (s.b &&& s.c)
  let t := s.h + (rotr 14 s.e ^^^ rotr 18 s.e ^^^ rotr 41 s.e) + ch + k + w
  ⟨(t + (rotr 28 s.a ^^^ rotr 34 s.a ^^^ rotr 39 s.a) + maj) % 2 ^ 64, s.a, s.b, s.c, (s.d + t) % 2 ^ 64, s.e, s.f, s.g⟩

/-- The schedule word that follows sixteen others. -/
def shaNext (w : List Nat) : Nat :=
  let x := w.getD 14 0
  let y := w.getD 1 0
  ((rotr 19 x ^^^ rotr 61 x ^^^ x >>> 6) + w.getD 9 0 + (rotr 1 y ^^^ rotr 8 y ^^^ y >>> 7) + w.headD 0) % 2 ^ 64

/-- The rounds of some constants; `w` holds the next sixteen schedule words. -/
def shaRounds : List Nat → List Nat → Sha → Sha
  | [], _, s => s
  | k :: r, w, s => shaRounds r (w.drop 1 ++ [shaNext w]) (s.round k (w.headD 0))

/-- A number from bytes, the most significant first. -/
def bigNat (bs : List Byte) : Nat := bs.foldl (fun n b => 256 * n + b.toNat) 0

/-- The hash value after a block of 128 bytes. -/
def Sha.block (s : Sha) (bs : List Byte) : Sha :=
  let t := shaRounds shaConstants ((List.range 16).map fun i => bigNat ((bs.drop (8 * i)).take 8)) s
  let sum := fun (x y : Nat) => (x + y) % 2 ^ 64
  ⟨sum s.a t.a, sum s.b t.b, sum s.c t.c, sum s.d t.d, sum s.e t.e, sum s.f t.f, sum s.g t.g, sum s.h t.h⟩

/-- A number as `n` bytes, the most significant first. -/
def bigBytes (n v : Nat) : List Byte := (leBytes n v).reverse

/-- A message with its padding: a one, zeros, and the length in bits in the last 16 bytes of a block. -/
def shaPadded (m : List Byte) : List Byte := m ++ 0x80 :: List.replicate ((239 - m.length % 128) % 128) 0 ++ bigBytes 16 (8 * m.length)

/-- The hash value after the first `n` blocks. -/
def shaBlocks (m : List Byte) : Nat → Sha
  | 0 => shaStart
  | n + 1 => (shaBlocks m n).block ((m.drop (128 * n)).take 128)

/-- SHA-384 of a byte string. -/
def sha384 (m : List Byte) : BitVec 384 :=
  let p := shaPadded m
  let s := shaBlocks p (p.length / 128)
  BitVec.ofNat 384 ([s.a, s.b, s.c, s.d, s.e, s.f].foldl (fun n x => 2 ^ 64 * n + x) 0)

/-! ## ECDSA on P-384 -/

/-- The field of the curve. -/
def p384 : Nat := 2 ^ 384 - 2 ^ 128 - 2 ^ 96 + 2 ^ 32 - 1

/-- The order of the base point. -/
def p384Order : Nat := 0xFFFFFFFFFFFFFFFFFFFFFFFFFFFFFFFFFFFFFFFFFFFFFFFFC7634D81F4372DDF581A0DB248B0A77AECEC196ACCC52973

/-- The constant of the curve y² = x³ − 3x + b. -/
def p384B : Nat := 0xB3312FA7E23EE7E4988E056BE3F82D19181D9C6EFE8141120314088F5013875AC656398D8A2ED19D2A85C8EDD3EC2AEF

/-- A point in Jacobian coordinates: x / z² and y / z³; z = 0 is the point at infinity. -/
structure Jacobian where
  x : Nat
  y : Nat
  z : Nat

/-- The base point. -/
def p384Base : Jacobian :=
  ⟨0xAA87CA22BE8B05378EB1C71EF320AD746E1D3B628BA79B9859F741E082542A385502F25DBF55296C3A545E3872760AB7,
    0x3617DE4A96262C6F5D9E98BF9292DC29F8F41DBD289A147CE9DA3113B5F0B8C00A60B1CE1D7E819D7A431D7C90EA0E5F, 1⟩

/-- `x` − `y` in the field, for `y` below `p384`. -/
def subP (x y : Nat) : Nat := (x + (p384 - y)) % p384

/-- Twice a point. -/
def Jacobian.double (q : Jacobian) : Jacobian :=
  let zz := q.z * q.z % p384
  let yy := q.y * q.y % p384
  let xyy := q.x * yy % p384
  let m := 3 * (subP q.x zz * (q.x + zz)) % p384
  let x := subP (m * m) (8 * xyy % p384)
  ⟨x, subP (m * subP (4 * xyy) x) (8 * (yy * yy) % p384), 2 * (q.y * q.z) % p384⟩

/-- The sum of two points. -/
def Jacobian.add (q r : Jacobian) : Jacobian :=
  if q.z = 0 then r
  else if r.z = 0 then q
  else
    let zq := q.z * q.z % p384
    let zr := r.z * r.z % p384
    let u := q.x * zr % p384
    let v := q.y * (r.z * zr % p384) % p384
    let h := subP (r.x * zq) u
    let k := subP (r.y * (q.z * zq % p384)) v
    if h = 0 then (if k = 0 then q.double else ⟨1, 1, 0⟩)
    else
      let hh := h * h % p384
      let hhh := h * hh % p384
      let w := u * hh % p384
      let x := subP (subP (k * k) hhh) (2 * w % p384)
      ⟨x, subP (k * subP w x) (v * hhh % p384), q.z * r.z % p384 * h % p384⟩

/-- The same point, with its coordinates computed. -/
def Jacobian.force (q : Jacobian) (k : Jacobian → Jacobian) : Jacobian :=
  match q.x, q.y, q.z with
  | 0, y, z => k ⟨0, y, z⟩
  | x + 1, 0, z => k ⟨x + 1, 0, z⟩
  | x + 1, y + 1, 0 => k ⟨x + 1, y + 1, 0⟩
  | x + 1, y + 1, z + 1 => k ⟨x + 1, y + 1, z + 1⟩

/-- `u` · base + `v` · `q`, for the lowest `n` bits of `u` and `v`, added to `acc` · 2^`n`. -/
def p384Sum (u v : Nat) (q : Jacobian) : Nat → Jacobian → Jacobian
  | 0, acc => acc
  | n + 1, acc =>
    let d := acc.double
    let d1 := if u.testBit n then d.add p384Base else d
    (if v.testBit n then d1.add q else d1).force fun r => p384Sum u v q n r

/-- `x` to the power of the lowest `n` bits of `e`, times `acc` to the power 2^`n`, modulo `m`. -/
def powMod (m x e : Nat) : Nat → Nat → Nat
  | 0, acc => acc
  | n + 1, acc =>
    match (if e.testBit n then acc * acc % m * x else acc * acc) % m with
    | 0 => 0
    | y + 1 => powMod m x e n (y + 1)

/-- Whether a signature (r in the upper half, s in the lower) over a message verifies under a public key (x in the upper half, y in the lower), with SHA-384
as the digest. -/
def ecdsaVerifies (key : BitVec 768) (m : List Byte) (sig : BitVec 768) : Bool :=
  let x := fld key 767 384
  let y := fld key 383 0
  let r := fld sig 767 384
  let s := fld sig 383 0
  let onCurve := decide (x < p384) && decide (y < p384) && decide (y * y % p384 = (x * x % p384 * x + (p384 - 3) * x + p384B) % p384)
  let w := powMod p384Order s (p384Order - 2) 384 1
  let q := p384Sum ((sha384 m).toNat * w % p384Order) (r * w % p384Order) ⟨x, y, 1⟩ 384 ⟨1, 1, 0⟩
  let i := powMod p384 q.z (p384 - 2) 384 1
  onCurve && decide (0 < r) && decide (r < p384Order) && decide (0 < s) && decide (s < p384Order) && decide (q.z ≠ 0) &&
  decide (q.x * (i * i % p384) % p384 % p384Order = r)

end Sys2Proof.Machine
end

