-- ==== Sys2Proof/Machine/Embed.lean ====
section
/-!
DEFINITION. The capacity tier's buffers and embedding pooling: table descriptors, bag lists, embcfg and embag (R321-R333).
-/
namespace Sys2Proof.Machine

/-! ## Descriptors (R323, R324) -/

def dscBase (d : BitVec 256) : Nat := fld d 55 0
def dscRows (d : BitVec 256) : Nat := fld d 95 64
def dscCols (d : BitVec 256) : Nat := fld d 106 96
def dscFmt (d : BitVec 256) : Nat := fld d 114 112
def dscStride (d : BitVec 256) : Nat := fld d 183 128

/-- Columns of a slice, and the bytes of an element. -/
def dscSlice (d : BitVec 256) : Nat := dscCols d / 16
def dscSize (d : BitVec 256) : Nat := match dscFmt d with
  | 0 => 4
  | 1 => 2
  | 2 => 2
  | _ => 1

/-- Whether a descriptor is legal (R326). -/
def dscLegal (d : BitVec 256) : Bool :=
  decide (fld d 255 184 = 0) && decide (fld d 127 115 = 0) && decide (fld d 111 107 = 0) && decide (fld d 63 56 = 0) && decide (dscFmt d ≤ 3) &&
  decide (16 ≤ dscCols d) && decide (dscCols d ≤ 1024) && decide (dscCols d % 16 = 0) && decide (dscRows d ≠ 0) &&
  decide (dscBase d % 65536 = 0) && decide (dscStride d % 65536 = 0) && decide (dscRows d * dscSlice d * dscSize d ≤ dscStride d)

/-- The virtual address of element (r, c) of a table (R324). -/
def dscElem (d : BitVec 256) (r c : Nat) : Nat :=
  dscBase d + c / dscSlice d * dscStride d + (r * dscSlice d + c % dscSlice d) * dscSize d

/-- embcfg (R326). -/
def execEmbcfg (a : BitVec 7) (t : BitVec 4) (s : State) : Result :=
  issue { size := 4, ops := [.sca a.toNat 1] } s fun x =>
    let off := x.g.sreg a.toNat
    x.scratchRecord off fun v =>
      if dscLegal v then x.doneIn (x.s.onTeam x.g.team fun u => { u with descs := put u.descs t.toNat v }) x.g
      else x.raise ILLEGAL_ENCODING x.lanes off

/-! ## The bag list (R327) -/

/-- NB and MODE of a header, where it is legal. -/
def bagHeader (h : W64) : Option (Nat × Nat) :=
  if fld h 63 19 ≠ 0 ∨ fld h 15 9 ≠ 0 ∨ fld h 17 16 = 3 ∨ (h.getLsbD 18 ≠ decide (fld h 17 16 = 1)) ∨ fld h 8 0 = 0 ∨ 256 < fld h 8 0 then none
  else some (fld h 8 0, fld h 17 16)

/-- Whether offsets are legal: OFF[0] = 0, never falling, at most 4,096 indices in a bag. -/
def offsLegal (os : List Nat) : Bool :=
  decide (os.headD 1 = 0) && (os.zip os.tail).all fun p => decide (p.1 ≤ p.2) && decide (p.2 ≤ p.1 + 4096)

/-- The scratch offsets of the index array and of the weight array of a list at `l` with `nb` bags and `n` indices. -/
def idxBase (l nb : Nat) : Nat := l + 8 + 4 * (nb + 1)
def wtBase (l nb n : Nat) : Nat := idxBase l nb + 4 * n

/-- How many indices a command pools. -/
def Embag.total (e : Embag) : Nat := e.offs.getD e.nb 0

/-- One past the last byte of the bag list. -/
def Embag.listEnd (e : Embag) : Nat := wtBase e.list e.nb e.total + if e.mode = 1 then 4 * e.total else 0

/-! ## embag at issue (R328) -/

/-- The outstanding embags of a die. -/
def State.embagsOn (s : State) (die : Nat) : Nat :=
  (((s.gangs.filter fun g => decide (dieOf (s.cuOf g) = die)).map fun g => (g.ops.filter fun o => match o.body with
    | .embag _ => true
    | _ => false).length)).foldl (· + ·) 0

/-- The last checks of an embag, those of its regions, and its issue. -/
def Issue.embag (x : Issue) (z : Nat) (e : Embag) : Result :=
  let idx := idxBase e.list e.nb
  let wt := wtBase e.list e.nb e.total
  if z < idx + 4 * e.total then x.raise SCRATCH_RANGE x.lanes (BitVec.ofNat 64 idx)
  else if z < e.listEnd then x.raise SCRATCH_RANGE x.lanes (BitVec.ofNat 64 wt)
  else if z < e.out + 4 * e.nb * (dscCols e.desc + 1) then x.raise SCRATCH_RANGE x.lanes (BitVec.ofNat 64 e.out)
  else if 32 ≤ x.s.embagsOn (dieOf (x.s.cuOf x.g)) then x.stall .embagQueue
  else x.trackIn x.s x.g x.slotA (.embag e)

/-- embag (R328). -/
def execEmbag (b a : BitVec 7) (t : BitVec 4) (s : State) : Result :=
  issue { size := 4, ops := [.sca b.toNat 1, .sca a.toNat 1] } s fun x =>
    let u := x.s.teamOf x.g
    let d := look u.descs t.toNat
    let l := x.g.sreg a.toNat
    let out := x.g.sreg b.toNat
    if dscCols d = 0 then x.raise ILLEGAL_ENCODING x.lanes (t.setWidth 64)
    else if l.toNat % 8 ≠ 0 then x.raise ALIGNMENT x.lanes l
    else if out.toNat % 4 ≠ 0 then x.raise ALIGNMENT x.lanes out
    else if u.scratchZ < l.toNat + 8 then x.raise SCRATCH_RANGE x.lanes l
    else x.whenRead (.scratch u.id l.toNat) 8 <| match bagHeader (read64 u.scratch l.toNat) with
      | none => x.raise ILLEGAL_ENCODING x.lanes l
      | some (nb, mode) =>
        let idx := idxBase l.toNat nb
        if u.scratchZ < idx then x.raise SCRATCH_RANGE x.lanes (BitVec.ofNat 64 idx)
        else x.whenRead (.scratch u.id l.toNat) (idx - l.toNat) <|
          let offs := (List.range (nb + 1)).map fun i => (read32 u.scratch (l.toNat + 8 + 4 * i)).toNat
          if !offsLegal offs then x.raise ILLEGAL_ENCODING x.lanes l
          else x.embag u.scratchZ { desc := d, list := l.toNat, out := out.toNat, nb := nb, mode := mode, offs := offs }

/-! ## The buffers' work (R329-R332) -/

/-- The buffer that holds a physical address of the tier (R321). -/
def bufferOf (pa : Nat) : Nat := (pa - 0x100000000000) / 2 ^ 38

/-- The index at a position of the list, as the buffers have read it or as scratch holds it. -/
def Embag.index (e : Embag) (t : Team) (p : Nat) : Nat :=
  if look e.idx p ≠ 0 then (look e.idx p).toNat % 2 ^ 32 else (read32 t.scratch (idxBase e.list e.nb + 4 * p)).toNat

/-- The weight at a position of the list. -/
def Embag.weight (e : Embag) (t : Team) (p : Nat) : W32 :=
  if look e.wts p ≠ 0 then (look e.wts p).setWidth 32 else read32 t.scratch (wtBase e.list e.nb e.total + 4 * p)

/-- The index and the weight at a position are read, once for all columns (R332). -/
def Embag.capture (e : Embag) (t : Team) (p : Nat) : Embag :=
  let held := fun (v : Nat) => (BitVec.ofNat 33 (2 ^ 32 + v))
  { e with idx := put e.idx p (held (e.index t p)), wts := if e.mode = 1 then put e.wts p (held (e.weight t p).toNat) else e.wts }

/-- The positions of a bag in the list. -/
def Embag.span (e : Embag) (b : Nat) : List Nat :=
  (List.range (e.offs.getD (b + 1) 0 - e.offs.getD b 0)).map fun i => e.offs.getD b 0 + i

/-- Whether an index of a bag names no row (R329). -/
def Embag.skips (e : Embag) (t : Team) (b : Nat) : Bool := (e.span b).any fun p => decide (dscRows e.desc ≤ e.index t p)

/-- What a buffer finds on the way to an element. -/
inductive TableRead where
  | wait
  | absent (va : Nat)
  | bad
  | ok (pa : Nat)
  deriving DecidableEq, Repr

/-- The translation of element (r, c) of a table. -/
def State.tableXlate (s : State) (g : Gang) (e : Embag) (r c : Nat) : Xlate := s.engineTranslate (s.asidOf g) (dscElem e.desc r c % 2 ^ 56) .read

/-- Where the buffer of column `c` reads element (r, c), R331. -/
def State.tableAt (s : State) (g : Gang) (e : Embag) (r c : Nat) : TableRead :=
  let va := dscElem e.desc r c % 2 ^ 56
  match s.tableXlate g e r c with
  | .wait => .wait
  | .fault => .absent va
  | .protection => .bad
  | .ok pa _ _ => if inTier pa (dscSize e.desc) && decide (bufferOf pa = c / dscSlice e.desc) then .ok pa else .bad

/-- An element's value as f32, with its flags (R329). -/
def Embag.widen (e : Embag) (code : Nat) : W32 × BitVec 8 :=
  let as_ := fun (f : Fmt) => let r := convert 0 (.flt f) (.flt f32) .rne false code; (BitVec.ofNat 32 r.1, r.2)
  match dscFmt e.desc with
  | 0 => (BitVec.ofNat 32 code, 0)
  | 1 => as_ f16
  | 2 => as_ bf16
  | _ => as_ e4m3

/-- One term of an accumulation: the element's code and its weight (R329). -/
def Embag.addTerm (e : Embag) (acc : W32 × BitVec 8) (code : Nat) (wt : W32) : W32 × BitVec 8 :=
  let x := e.widen code
  let r := match e.mode with
    | 0 => addF32 .rne acc.1 x.1
    | 1 => fmaF32 .rne wt x.1 acc.1
    | _ => minMaxF32 true acc.1 x.1
  (r.1, acc.2 ||| x.2 ||| r.2)

/-- What the accumulators start from (R329). -/
def Embag.start (e : Embag) : W32 := if e.mode = 2 then 0xFF800000 else 0

/-- The lines of capacity pages that a CU holds. -/
def Cu.tierLines (c : Cu) : List Line := c.lines.filter fun l => inTier (64 * l.line) 64

/-- A CU writes back its dirty lines of capacity pages (R332). -/
def State.writeBackTier (s : State) (cu : Nat) : State := (s.cu cu).tierLines.foldl (fun s l => s.writeBackLine cu l.line) s

/-- How many words a command writes: the outputs, then the statuses (R330). -/
def Embag.words (e : Embag) : Nat := e.nb * (dscCols e.desc + 1)

/-- The bag of the `i`-th word. -/
def Embag.bagOf (e : Embag) (i : Nat) : Nat := if i < e.nb * dscCols e.desc then i / dscCols e.desc else i - e.nb * dscCols e.desc

/-- Changes the embag of an operation. -/
def State.onEmbag (s : State) (g o : Nat) (f : Embag → Embag) : State := s.onGang g fun h => h.mapOp o fun x => match x.body with
  | .embag e => { x with body := .embag (f e) }
  | _ => x

/-- Where output word `i` stands: the next position of its bag and the accumulator (R329). -/
def Embag.run (e : Embag) (i : Nat) : Nat × W32 := entry (e.offs.getD (e.bagOf i) 0, e.start) e.runs i

/-- Whether word `i` may go on now: its operation is supplied (R183), the bag list is read in order (R332), and a status comes after the bag's
outputs. -/
def State.mayPool (s : State) (g : Gang) (o : Op) (e : Embag) (i : Nat) : Bool :=
  let d := dscCols e.desc
  let ready := s.ready (s.cuOf g) o.id
  g.supplied o && decide (look e.parts i = 0) && ready (.scratch g.team e.list) (e.listEnd - e.list) && ready (.scratch g.team (e.out + 4 * i)) 4 &&
  ((s.cu (s.cuOf g)).tierLines.all s.lineFree) &&
  if i < e.nb * d then
    e.refused.contains (i / d) || decide (e.offs.getD (i / d + 1) 0 ≤ (e.run i).1) ||
    match s.tableAt g e (e.index (s.teamOf g) (e.run i).1) (i % d) with
    | .wait => false
    | .ok pa => ready (.phys pa) (dscSize e.desc)
    | _ => true
  else (List.range d).all fun c => decide (look e.parts ((i - e.nb * d) * d + c) ≠ 0)

/-- Writes the `i`-th word of a command's output. -/
def State.poolWord (s : State) (g : Gang) (o : Nat) (e : Embag) (i : Nat) (v : W32 × BitVec 8) : State :=
  s.onEmbag g.id o (fun e => { e with parts := put e.parts i 1, flags := e.flags ||| v.2 }) |>.onTeam g.team fun t =>
    { t with scratch := storeNat t.scratch (e.out + 4 * i) 4 v.1.toNat }

/-- A bag of a command could not be read: its outputs are written anew, and its status is 2 (R331). -/
def Embag.refuse (e : Embag) (b : Nat) : Embag :=
  let d := dscCols e.desc
  { e with refused := b :: e.refused, waiting := none, parts := outside e.parts (b * d) (b * d + d) }

/-- A page of bag `b` is not present: the command waits for the runtime; in system mode the gang stops (R331, R348, R350). -/
def State.bagAbsent (s : State) (g : Gang) (o b va : Nat) : Option State :=
  let die := dieOf (s.cuOf g)
  if s.system g then
    if g.crashed then none
    else some ((s.onGang g.id fun h => { h with crashed := true }).send (.systemFault die (BitVec.ofNat 8 PAGE_NOT_PRESENT)))
  else
    some ((s.onEmbag g.id o fun e => { e with waiting := some (b, s.freshTag) }).request die 1 PAGE_NOT_PRESENT (s.handle g) (BitVec.ofNat 64 va)
      (.bag g.id o b))

/-- The status of a bag with the flags that go with it: 2 where it was refused, 1 where an index named no row (R329, R331). -/
def Embag.status (e : Embag) (t : Team) (b : Nat) : W32 × BitVec 8 :=
  let subst := if e.skips t b then SUBST else 0
  if e.refused.contains b then (2, INVALID ||| subst ||| entry 0 e.bagFlags b) else (if e.skips t b then 1 else 0, entry 0 e.bagFlags b ||| subst)

/-- An output word takes the term at its next position `p`, where the element stands at `pa` (R329); an index that names no row is passed over. -/
def State.poolTerm (s : State) (g : Gang) (e : Embag) (i p pa : Nat) : Embag :=
  let t := s.teamOf g
  let b := e.bagOf i
  let acc := (e.run i).2
  let r := if dscRows e.desc ≤ e.index t p then (acc, 0) else e.addTerm (acc, 0) (readNat s.phys pa (dscSize e.desc)) (e.weight t p)
  { e.capture t p with runs := setEntry e.runs i (p + 1, r.1), bagFlags := setEntry e.bagFlags b (entry 0 e.bagFlags b ||| r.2) }

/-- Does the next piece of the `i`-th word of a command: one term, or the word itself after the last (R329-R331). -/
def State.poolOne (s : State) (g : Gang) (o : Nat) (e : Embag) (i : Nat) : Option State :=
  let d := dscCols e.desc
  let b := e.bagOf i
  let t := s.teamOf g
  let p := (e.run i).1
  if e.nb * d ≤ i then some (s.poolWord g o e i (e.status t b))
  else if e.refused.contains b then some (s.poolWord g o e i (0x7FC00000, 0))
  else if e.offs.getD (b + 1) 0 ≤ p then some (s.poolWord g o e i ((e.run i).2, 0))
  else if dscRows e.desc ≤ e.index t p then some (s.onEmbag g.id o fun e => s.poolTerm g e i p 0)
  else
    let s1 := s.engineUsed .read (s.tableXlate g e (e.index t p) (i % d))
    match s.tableAt g e (e.index t p) (i % d) with
    | .wait => none
    | .absent va => s.bagAbsent g o b va
    | .bad => some (s1.onEmbag g.id o fun e => e.refuse b)
    | .ok pa =>
      let s2 := s1.writeBackTier (s.cuOf g)
      some (s2.onEmbag g.id o fun e => s2.poolTerm g e i p pa)

/-- Does the next piece of an embag, chosen by `start` among those that may be done; none while it waits for a page. -/
def State.stepEmbag (s : State) (g o start : Nat) : Option State :=
  match s.op? g o with
  | some (x, y) => match y.body with
    | .embag e =>
      if e.waiting.isSome then none
      else match ((List.range e.words).map fun i => (start + i) % e.words).find? fun i => s.mayPool x y e i with
        | some i => s.poolOne x o e i
        | none => none
    | _ => none
  | none => none

/-- EMBAG_COMPLETE (R329, R332): every word is written; the flags are merged, and the flag falls. -/
def execEmbagComplete (g o : Nat) (s : State) : Result :=
  match s.op? g o with
  | none => .fault .notEnabled
  | some (x, y) => match y.body with
    | .embag e =>
      if (List.range e.words).all fun i => decide (look e.parts i ≠ 0) then .next (s.setGang ((x.merge e.flags).complete y)) else .fault .notEnabled
    | _ => .fault .notEnabled

end Sys2Proof.Machine
end

