-- ==== Sys2Proof/Machine/Graph.lean ====
section
/-!
DEFINITION. The graph store: views and commits (R255-R261), property words (R262), records and reclaim (R263-R265), the gph forms with cursors
(R266-R273) and the gsys forms (R274-R278).
-/
namespace Sys2Proof.Machine

/-! ## Edges and views (R255, R257, R259) -/

/-- NONE (R253). -/
def noVertex : W32 := 0xFFFFFFFF

/-- The key of the edge u→v. -/
def edgeKey (u v : Nat) : Nat := u * 2 ^ 32 + v

/-- Whether an edge is present. -/
def Edges.has (e : Edges) (u v : Nat) : Bool := decide (look e (edgeKey u v) ≠ 0)

/-- An edge's entry: bit 32 and its weight. -/
def edgeEntry (w : W32) : BitVec 33 := BitVec.ofNat 33 (2 ^ 32 + w.toNat)

/-- The edges after an intent (R259). -/
def Edges.apply (e : Edges) : Intent → Edges
  | .put u v w => put e (edgeKey u v) (edgeEntry w)
  | .remove u v => put e (edgeKey u v) 0
  | .set u v w => if Edges.has e u v then put e (edgeKey u v) (edgeEntry w) else e

/-- The intents of a commit. -/
def Commit.plain (c : Commit) : List Intent := c.intents.map Version.intent

/-- The committed edges of a graph up to generation `n`. -/
def Graph.upTo (g : Graph) (n : Nat) : Edges :=
  ((g.history.filter fun c => decide (c.gen ≤ n)).map Commit.plain).foldl (fun e is => is.foldl Edges.apply e) g.base

/-- The mutations of a CU that its view generation `n` does not hold, in issue order (R257). -/
def Graph.own (g : Graph) (cu n : Nat) : List Intent :=
  ((g.history.filter fun c => decide (c.cu = cu) && decide (n < c.gen)).map Commit.plain).foldr (· ++ ·) [] ++
  (g.tentative.filter fun t => decide (t.1 = cu)).map Prod.snd

/-- The edges as a CU at view generation `n` reads them (R257). -/
def Graph.view (g : Graph) (cu n : Nat) : Edges := (g.own cu n).foldl Edges.apply (g.upTo n)

/-- The entries of an out-list or an in-list: neighbours in ascending order with their weights (R255). -/
def Edges.list (e : Edges) (inList : Bool) (u : Nat) : List (W32 × W32) :=
  if inList then (e.filter fun x => decide (x.1 % 2 ^ 32 = u)).map fun x => (BitVec.ofNat 32 (x.1 / 2 ^ 32), x.2.setWidth 32)
  else (between e (u * 2 ^ 32) ((u + 1) * 2 ^ 32)).map fun x => (BitVec.ofNat 32 (x.1 % 2 ^ 32), x.2.setWidth 32)

/-! ## Graphs and handles (R252) -/

/-- The graph of a handle. -/
def GraphStore.find (s : GraphStore) (h : W64) : Option Graph := s.graphs.find? fun g => decide (g.handle = h)

/-- The live graph of a handle in an address space. -/
def State.liveGraph (s : State) (asid : BitVec 8) (h : W64) : Option Graph := (s.graph.find h).bind fun g => if g.live ∧ g.asid = asid then some g else none

/-- Changes the graph of a handle. -/
def State.onGraph (s : State) (h : W64) (f : Graph → Graph) : State :=
  { s with graph := { s.graph with graphs := s.graph.graphs.map fun g => if g.handle = h then f g else g } }

/-- The pins that cursors of resident and saved gangs hold (R273). -/
def State.heldPins (s : State) : List Nat :=
  let gs := s.gangs ++ (s.saved.map Saved.gangs).foldr (· ++ ·) []
  (gs.map fun g => (g.threads.map fun t => t.cursors.map fun c => c.2.pin).foldr (· ++ ·) []).foldr (· ++ ·) []

/-- The pins held on a graph. -/
def State.pinsOf (s : State) (h : W64) : List Pin :=
  let held := s.heldPins
  s.graph.pins.filter fun p => decide (p.handle = h) && held.contains p.id

/-! ## Records of a pool (R263-R265) -/

/-- Whether a graph still holds its records: it is live, or a pin is held on it (R276). -/
def State.holdsRecords (s : State) (g : Graph) : Bool := g.live || decide (s.pinsOf g.handle ≠ [])

/-- The graphs of a pool that hold records. -/
def State.poolGraphs (s : State) (asid : BitVec 8) (n : Nat) : List Graph :=
  s.graph.graphs.filter fun g => decide (g.asid = asid) && decide (g.pool = n) && s.holdsRecords g

/-- The committed intents of a graph that are not folded away. -/
def Graph.kept (g : Graph) : List Version := (g.history.map Commit.intents).foldr (· ++ ·) []

/-- Whether an intent's version record in an out-list, or with `inList` in an in-list, is held. -/
def Version.held (inList : Bool) (v : Version) : Bool := if inList then v.inn else v.out

/-- How many of some puts, applied one after another, find their edge absent (R263). -/
def newPuts : List Intent → Edges → Nat
  | [], _ => 0
  | i :: r, e =>
    (match i with
      | .put u v _ => if Edges.has e u v then 0 else 1
      | _ => 0) + newPuts r (e.apply i)

/-- Edge slots in use in the lists of one direction: one for each entry of the oldest version that is held, and one for each put since then of an
edge that was absent (R263, R264). -/
def Graph.slotsIn (g : Graph) (inList : Bool) : Nat :=
  let old := ((g.kept.filter fun v => !v.held inList).map Version.intent).foldl Edges.apply g.base
  old.length + newPuts ((g.kept.filter (Version.held inList)).map Version.intent) old

/-- Edge slots in use. -/
def Graph.slotsUsed (g : Graph) : Nat := g.slotsIn false + g.slotsIn true

/-- Edge slots that tentative puts will use at their commits: two for each that finds its edge absent in what has committed by then (R263). R265 names no
reservation for a put that found its edge present and whose edge another CU's removal takes away before its own commit: the put takes its slots all
the same, and the pool may pass its total (log 37). -/
def Graph.slotsDue (g : Graph) : Nat :=
  2 * newPuts (g.tentative.map Prod.snd) ((g.kept.map Version.intent).foldl Edges.apply g.base)

/-- Version records in use: those held, and two for each tentative intent (R263). -/
def Graph.versUsed (g : Graph) : Nat :=
  (g.kept.filter (Version.held false)).length + (g.kept.filter (Version.held true)).length + 2 * g.tentative.length

/-- What an outstanding operation of an address space has reserved in a pool: slots, versions, vertices (R265). -/
def Op.reserved (o : Op) (hs : List W64) (pool : Nat) : Nat × Nat × Nat :=
  match o.body with
  | .graph k h _ ls =>
    let n := (ls.filter fun l => !l.done).length
    if !hs.contains h then (0, 0, 0)
    else match k with
      | .gadde => (2 * n, 2 * n, 0)
      | .grme => (0, 2 * n, 0)
      | .gsetw => (0, 2 * n, 0)
      | _ => (0, 0, 0)
  | .gsys (.gnew vn p) _ => if p = pool then (0, 0, vn) else (0, 0, 0)
  | _ => (0, 0, 0)

/-- What the outstanding operations of an address space have reserved in a pool. -/
def State.reservedIn (s : State) (asid : BitVec 8) (pool : Nat) : Nat × Nat × Nat :=
  let hs := (s.poolGraphs asid pool).map Graph.handle
  let os := ((s.gangs.filter fun g => decide (s.asidOf g = asid)).map Gang.ops).foldr (· ++ ·) []
  os.foldl (fun a o => let r := o.reserved hs pool; (a.1 + r.1, a.2.1 + r.2.1, a.2.2 + r.2.2)) (0, 0, 0)

/-- The pool an address space holds under a number. -/
def State.pool? (s : State) (asid : BitVec 8) (n : Nat) : Option Pool := s.graph.pools.find? fun p => decide (p.asid = asid) && decide (p.num = n)

/-- Whether a pool can reserve so many slots, versions and vertices more (R265). -/
def State.poolRoom (s : State) (asid : BitVec 8) (n slots vers verts : Nat) : Bool :=
  match s.pool? asid n with
  | none => false
  | some p =>
    let gs := s.poolGraphs asid n
    let r := s.reservedIn asid n
    let sum := fun (f : Graph → Nat) => (gs.map f).foldl (· + ·) 0
    decide (sum Graph.slotsUsed + sum Graph.slotsDue + r.1 + slots ≤ p.slots) && decide (sum Graph.versUsed + r.2.1 + vers ≤ p.vers) &&
    decide (sum Graph.vn + r.2.2 + verts ≤ p.verts)

/-- A word that cannot reserve its records stalls, and the runtime is told (R265, R350). -/
def Issue.wantRecords (x : Issue) (addr : W64) : Result :=
  x.stallIn (x.s.request (dieOf (x.s.cuOf x.g)) 2 GRAPH_CAPACITY (x.s.handle x.g) addr (.room x.g.id addr)) (.capacity x.s.freshTag)

/-! ## The gph forms at issue (R266-R272) -/

/-- GRAPH_HANDLE unless sr.gcur is a live handle of the address space (R252). -/
def Issue.withGraph (x : Issue) (k : Graph → Result) : Result :=
  match x.s.liveGraph (x.s.asidOf x.g) x.g.gcur with
  | none => x.raise GRAPH_HANDLE x.lanes x.g.gcur
  | some g => k g

/-- A lane of a graph operation with the registers it reads at issue. -/
def Issue.graphLane (x : Issue) (a b d : Nat) (l : Nat) : GraphLane :=
  { lane := l, a := x.g.vreg l a, b := x.g.vreg l b, d := x.g.vreg l d, d2 := x.g.vreg l (d + 1), pin := 0, steps := [] }

/-- Issues a graph operation on slot A (R267). -/
def Issue.graphOp (x : Issue) (s : State) (g : Gang) (k : GraphKind) (h : W64) (dst : Nat) (ls : List GraphLane) : Result :=
  if x.g.acquiring then x.stall .acquire else x.trackIn s g x.slotA (.graph k h dst ls)

/-- A read or store of the current graph. -/
def graphWord (k : GraphKind) (sig : Sig) (a b d : Nat) (s : State) : Result :=
  issue sig s fun x => x.withGraph fun g => x.graphOp x.s x.g k g.handle d ((lanesOf x.lanes).map (x.graphLane a b d))

/-- A mutation: it reserves its records for all lanes first (R265, R268). -/
def mutateWord (k : GraphKind) (slots : Nat) (a b d : BitVec 7) (s : State) : Result :=
  issue { size := 4, ops := [.vec b.toNat 1, .vec a.toNat 1, .vec d.toNat 1] } s fun x => x.withGraph fun g =>
    let n := laneCount x.lanes
    if !x.s.poolRoom g.asid g.pool (slots * n) (2 * n) 0 then x.wantRecords g.handle
    else x.graphOp x.s x.g k g.handle d.toNat ((lanesOf x.lanes).map (x.graphLane a.toNat b.toNat d.toNat))

/-- gadde (R268). -/
def execGadde (b a d : BitVec 7) (s : State) : Result := mutateWord .gadde 2 a b d s
/-- grme (R268). -/
def execGrme (b a d : BitVec 7) (s : State) : Result := mutateWord .grme 0 a b d s
/-- gsetw (R268). -/
def execGsetw (b a d : BitVec 7) (s : State) : Result := mutateWord .gsetw 0 a b d s
/-- gdeg.out (R269). -/
def execGdegOut (a d : BitVec 7) (s : State) : Result :=
  graphWord (.gdeg false) { size := 4, ops := [.vec a.toNat 1, .vec d.toNat 1] } a.toNat a.toNat d.toNat s
/-- gdeg.in (R269). -/
def execGdegIn (a d : BitVec 7) (s : State) : Result :=
  graphWord (.gdeg true) { size := 4, ops := [.vec a.toNat 1, .vec d.toNat 1] } a.toNat a.toNat d.toNat s
/-- gld.out (R269). -/
def execGldOut (b a d : BitVec 7) (s : State) : Result :=
  graphWord (.gld false) { size := 4, ops := [.vec b.toNat 1, .vec a.toNat 1, .vec d.toNat 2] } a.toNat b.toNat d.toNat s
/-- gld.in (R269). -/
def execGldIn (b a d : BitVec 7) (s : State) : Result :=
  graphWord (.gld true) { size := 4, ops := [.vec b.toNat 1, .vec a.toNat 1, .vec d.toNat 2] } a.toNat b.toNat d.toNat s
/-- gfind.out (R269). -/
def execGfindOut (b a d : BitVec 7) (s : State) : Result :=
  graphWord (.gfind false) { size := 4, ops := [.vec b.toNat 1, .vec a.toNat 1, .vec d.toNat 1] } a.toNat b.toNat d.toNat s
/-- gfind.in (R269). -/
def execGfindIn (b a d : BitVec 7) (s : State) : Result :=
  graphWord (.gfind true) { size := 4, ops := [.vec b.toNat 1, .vec a.toNat 1, .vec d.toNat 1] } a.toNat b.toNat d.toNat s
/-- gvld (R270). -/
def execGvld (a d : BitVec 7) (s : State) : Result :=
  graphWord .gvld { size := 4, ops := [.vec a.toNat 1, .vec d.toNat 2] } a.toNat a.toNat d.toNat s
/-- gvst (R270). -/
def execGvst (a d : BitVec 7) (s : State) : Result :=
  graphWord .gvst { size := 4, ops := [.vec a.toNat 1, .vec d.toNat 2] } a.toNat a.toNat d.toNat s

/-! ## Cursors (R271-R273) -/

/-- The open cursor `n` of a lane. -/
def Gang.cursor? (g : Gang) (l n : Nat) : Option Cursor := entry? (g.thread l).cursors n

/-- Changes cursor `n` of the lanes of `s`; none closes it. -/
def Gang.setCursor (g : Gang) (s : Lanes) (n : Nat) (f : Nat → Option Cursor) : Gang :=
  g.mapLanes s fun l t => { t with cursors := match f l with
    | some c => setEntry t.cursors n c
    | none => t.cursors.filter fun e => decide (e.1 ≠ n) }

/-- Opens cursor N in every lane, with a pin that the copen takes when it is performed (R271). -/
def copenWord (inList : Bool) (c : BitVec 3) (a d : BitVec 7) (s : State) : Result :=
  issue { size := 4, ops := [.vec a.toNat 1, .vec d.toNat 1] } s fun x => x.withGraph fun g =>
    x.checks [(CURSOR_STATE, lanesWhere x.lanes fun l => (x.g.cursor? l c.toNat).isSome, fun _ => c.setWidth 64)] <|
    let pin := fun l => x.s.serial + 1 + l
    let pins := (lanesOf x.lanes).map fun l => { id := pin l, handle := g.handle, inList := inList, vertex := (x.g.vreg l a.toNat).toNat : Pin }
    let ls := (lanesOf x.lanes).map fun l => { x.graphLane a.toNat a.toNat d.toNat l with pin := pin l }
    x.graphOp { x.s with serial := x.s.serial + 65, graph := { x.s.graph with pins := x.s.graph.pins ++ pins } }
      (x.g.setCursor x.lanes c.toNat fun l => some ⟨pin l, []⟩) (.copen inList) g.handle d.toNat ls

/-- copen.out (R271). -/
def execCopenOut (c : BitVec 3) (a d : BitVec 7) (s : State) : Result := copenWord false c a d s
/-- copen.in (R271). -/
def execCopenIn (c : BitVec 3) (a d : BitVec 7) (s : State) : Result := copenWord true c a d s

/-- The lanes in which cursor N is closed. -/
def Issue.closed (x : Issue) (c : BitVec 3) : Lanes := lanesWhere x.lanes fun l => (x.g.cursor? l c.toNat).isNone

/-- A form on an open cursor (R272): `step` moves RANK at issue. -/
def cursorWord (k : GraphKind) (sig : Sig) (c : BitVec 3) (a d : Nat) (step : Nat → Issue → List CursorStep) (s : State) : Result :=
  issue sig s fun x =>
    x.checks [(CURSOR_STATE, x.closed c, fun _ => c.setWidth 64)] <|
    let cur := fun l => (x.g.cursor? l c.toNat).getD ⟨0, []⟩
    let ls := (lanesOf x.lanes).map fun l => { x.graphLane a a d l with pin := (cur l).pin, steps := (cur l).steps }
    x.graphOp x.s (x.g.setCursor x.lanes c.toNat fun l => some { cur l with steps := (cur l).steps ++ step l x }) k 0 d ls

/-- cnext (R272). -/
def execCnext (c : BitVec 3) (d : BitVec 7) (s : State) : Result :=
  cursorWord .cnext { size := 4, ops := [.vec d.toNat 2] } c 0 d.toNat (fun _ _ => [.next]) s
/-- cseek (R272). -/
def execCseek (c : BitVec 3) (a : BitVec 7) (s : State) : Result :=
  cursorWord .cseek { size := 4, ops := [.vec a.toNat 1] } c a.toNat 0 (fun l x => [.seek (x.g.vreg l a.toNat).toNat]) s
/-- crank (R272). -/
def execCrank (c : BitVec 3) (d : BitVec 7) (s : State) : Result :=
  cursorWord .crank { size := 4, ops := [.vec d.toNat 1] } c 0 d.toNat (fun _ _ => []) s

/-- cclose (R272): on a closed cursor it has no effect. -/
def execCclose (c : BitVec 3) (s : State) : Result :=
  issue { size := 4, ops := [] } s fun x =>
    x.graphOp x.s (x.g.setCursor x.lanes c.toNat fun _ => none) .cclose 0 0 ((lanesOf x.lanes).map (x.graphLane 0 0 0))

/-- RANK after some steps on a list of `deg` entries (R272). -/
def rankAfter (deg : Nat) (steps : List CursorStep) : Nat :=
  steps.foldl (fun r t => match t with
    | .next => min (r + 1) deg
    | .seek n => min n deg) 0

/-! ## The gsys forms at issue (R274-R278) -/

/-- gnew (R275). -/
def execGnew (b a d : BitVec 7) (s : State) : Result :=
  issue { size := 4, ops := [.sca b.toNat 1, .sca a.toNat 1, .sca d.toNat 1] } s fun x =>
    let n := x.g.sreg b.toNat
    let vn := x.g.sreg a.toNat
    let asid := x.s.asidOf x.g
    if 255 < n.toNat ∨ (x.s.pool? asid n.toNat).isNone then x.raise GRAPH_HANDLE x.lanes n
    else if vn = 0 ∨ 0xFFFFFFFE < vn.toNat then x.raise GRAPH_HANDLE x.lanes vn
    else if !x.s.poolRoom asid n.toNat 0 0 vn.toNat then x.wantRecords n
    else x.trackIn x.s x.g x.slotA (.gsys (.gnew vn.toNat n.toNat) d.toNat)

/-- Whether a gfree of a handle is outstanding. -/
def State.freeing (s : State) (h : W64) : Bool := s.gangs.any fun g => g.ops.any fun o => decide (o.body = .gsys (.gfree h) 0)

/-- gfree (R276): while another gfree of the handle is outstanding it stalls in place, after which the handle is not live (log 37). -/
def execGfree (a : BitVec 7) (s : State) : Result :=
  issue { size := 4, ops := [.sca a.toNat 1] } s fun x =>
    let h := x.g.sreg a.toNat
    if (x.s.liveGraph (x.s.asidOf x.g) h).isNone then x.raise GRAPH_HANDLE x.lanes h
    else if x.s.freeing h then x.stall (.freeing h)
    else x.trackIn x.s x.g x.slotA (.gsys (.gfree h) 0)

/-- gsel: sr.gcur := Sc[A] (R277). -/
def execGsel (a : BitVec 7) (s : State) : Result :=
  issue { size := 4, ops := [.sca a.toNat 1] } s fun x => x.done { x.g with gcur := x.g.sreg a.toNat }

/-- gstat (R278). -/
def execGstat (a d : BitVec 7) (s : State) : Result :=
  issue { size := 4, ops := [.sca a.toNat 1, .sca d.toNat 1] } s fun x => x.withGraph fun g =>
    x.trackIn x.s x.g x.slotA (.gsys (.gstat g.handle (x.g.sreg a.toNat)) d.toNat)

/-! ## Performing a graph operation (R257, R261, R267-R272) -/

/-- The graph that an operation acts on; one that is gone has no vertices. -/
def State.graphOf (s : State) (h : W64) : Graph := (s.graph.find h).getD { handle := h, asid := 0, pool := 0, vn := 0, live := false }

/-- A lane of a mutation: its status, and the state with its intent recorded (R268). -/
def State.mutateLane (s : State) (cu : Nat) (k : GraphKind) (h : W64) (l : GraphLane) : State × W32 :=
  let g := s.graphOf h
  let u := l.a.toNat
  let v := l.b.toNat
  let here := Edges.has (g.view cu (s.cu cu).view) u v
  let note := fun (i : Intent) => s.onGraph h fun g => { g with tentative := g.tentative ++ [(cu, i)] }
  if g.vn ≤ u ∨ g.vn ≤ v then (s, 3)
  else match k with
    | .gadde => (note (.put u v l.d), if here then 1 else 0)
    | .grme => if here then (note (.remove u v), 0) else (s, 2)
    | _ => if here then (note (.set u v l.d), 0) else (s, 2)

/-- The list a lane reads, in the CU's view. -/
def State.graphList (s : State) (cu : Nat) (h : W64) (inList : Bool) (u : Nat) : List (W32 × W32) :=
  let g := s.graphOf h
  if g.vn ≤ u then [] else (g.view cu (s.cu cu).view).list inList u

/-- The pin numbered `p`. -/
def State.pin? (s : State) (p : Nat) : Option Pin := s.graph.pins.find? fun x => decide (x.id = p)

/-- The list of a pin. -/
def State.pinList (s : State) (p : Nat) : List (W32 × W32) := ((s.pin? p).bind Pin.list).getD []

/-- Performs one lane: the state after it and the values for D, D+1. -/
def State.graphLane (s : State) (cu : Nat) (k : GraphKind) (h : W64) (l : GraphLane) : State × List W32 :=
  match k with
  | .gdeg i => (s, [BitVec.ofNat 32 (s.graphList cu h i l.a.toNat).length])
  | .gld i => let e := (s.graphList cu h i l.a.toNat).getD l.b.toNat (noVertex, 0); (s, [e.1, e.2])
  | .gfind i =>
    let ls := s.graphList cu h i l.a.toNat
    (s, [if ls.any fun e => decide (e.1 = l.b) then BitVec.ofNat 32 ((ls.map Prod.fst).idxOf l.b) else noVertex])
  | .gvld => let p := look (s.graphOf h).props l.a.toNat; (s, [p.setWidth 32, p.extractLsb' 32 32])
  | .gvst =>
    (if (s.graphOf h).vn ≤ l.a.toNat then s else s.onGraph h fun g => { g with props := put g.props l.a.toNat (l.d2 ++ l.d) }, [])
  | .copen i =>
    let ls := s.graphList cu h i l.a.toNat
    ({ s with graph := { s.graph with pins := s.graph.pins.map fun p =>
        if p.id = l.pin then { p with gen := (s.cu cu).view, list := some ls } else p } }, [BitVec.ofNat 32 ls.length])
  | .cnext =>
    let ls := s.pinList l.pin
    let e := ls.getD (rankAfter ls.length l.steps) (noVertex, 0)
    (s, [e.1, e.2])
  | .crank => (s, [BitVec.ofNat 32 (rankAfter (s.pinList l.pin).length l.steps)])
  | .cseek => (s, [])
  | .cclose => (s, [])
  | k => let r := s.mutateLane cu k h l; (r.1, [r.2])

/-- The vertices at which a lane takes effect. -/
def GraphLane.vertices (l : GraphLane) : GraphKind → List W32
  | .gadde => [l.a, l.b]
  | .grme => [l.a, l.b]
  | .gsetw => [l.a, l.b]
  | .gdeg _ => [l.a]
  | .gld _ => [l.a]
  | .gfind _ => [l.a]
  | .gvld => [l.a]
  | .gvst => [l.a]
  | .copen _ => [l.a]
  | _ => []

/-- The graph and the vertices of an operation that is not performed yet. -/
def Op.graphTouch (o : Op) : Option (W64 × List W32) :=
  match o.body with
  | .graph k h _ ls => if o.performed then none else some (h, (ls.map fun l => l.vertices k).foldr (· ++ ·) [])
  | _ => none

/-- Whether a graph operation may be performed: the loads that may have supplied it have completed, every earlier one of the CU at a common vertex has
been performed, the pins it reads are taken, and its graph has no error (R183, R257, R271, R357). -/
def State.mayGraph (s : State) (g : Gang) (o : Op) : Bool :=
  match o.graphTouch, o.body with
  | some t, .graph k h _ ls =>
    g.supplied o && !(s.graphOf h).bad && (ls.all fun l => ((s.pin? l.pin).map fun p => !(s.graphOf p.handle).bad).getD true) &&
    (s.gangs.all fun h => decide (s.cuOf h ≠ s.cuOf g) || h.ops.all fun p => decide (o.id ≤ p.id) || match p.graphTouch with
      | some u => decide (u.1 ≠ t.1) || t.2.all fun v => !u.2.contains v
      | none => true) &&
    (ls.all fun l => match k with
      | .cnext => ((s.pin? l.pin).bind Pin.list).isSome
      | .crank => ((s.pin? l.pin).bind Pin.list).isSome
      | .cseek => ((s.pin? l.pin).bind Pin.list).isSome
      | _ => true)
  | _, _ => false

/-- Performs the lanes of a graph operation in ascending order; their results are to land (R261, R131). -/
def State.performGraph (s : State) (g : Gang) (o : Op) : State :=
  match o.body with
  | .graph k h dst ls =>
    let r := ls.foldl (fun (a : State × List Landing) l =>
      let x := a.1.graphLane (s.cuOf g) k h l
      (x.1, a.2 ++ (x.2.zip (List.range 2)).map fun v => ⟨l.lane, dst + v.2, v.1⟩)) (s, [])
    r.1.onGang g.id fun x => x.mapOp o.id fun p => { p with land := p.land ++ r.2, body := .graph k h dst (ls.map fun l => { l with done := true }) }
  | _ => s

/-- The value of a gstat item (R278). -/
def State.graphStat (s : State) (cu : Nat) (h : W64) (item : Nat) : W64 :=
  let g := s.graphOf h
  let gs := s.poolGraphs g.asid g.pool
  let sum := fun (f : Graph → Nat) => BitVec.ofNat 64 ((gs.map f).foldl (· + ·) 0)
  let all := fun (f : Pool → Nat) => BitVec.ofNat 64 (((s.pool? g.asid g.pool).map f).getD 0)
  match item with
  | 0 => BitVec.ofNat 64 g.vn
  | 1 => BitVec.ofNat 64 (g.upTo s.graph.gen).length
  | 2 => sum Graph.slotsUsed
  | 3 => all Pool.slots
  | 4 => sum Graph.versUsed
  | 5 => all Pool.vers
  | 6 => sum Graph.vn
  | 7 => all Pool.verts
  | 8 => BitVec.ofNat 64 (s.pinsOf h).length
  | 9 => BitVec.ofNat 64 (s.cu cu).view
  | 10 => BitVec.ofNat 64 s.graph.gen
  | _ => 0xFFFFFFFFFFFFFFFF

/-- Whether an operation of the module still names a graph: a gfree waits for it (R276). -/
def State.graphBusy (s : State) (h : W64) : Bool :=
  s.gangs.any fun g => g.ops.any fun o => match o.body with
    | .graph _ h' _ ls => decide (h' = h) && ls.any fun l => !l.done
    | .gsys (.gstat h' _) _ => decide (h' = h)
    | _ => false

/-- Writes the scalar result of a gsys operation and completes it. -/
def State.gsysDone (s : State) (g : Nat) (o : Op) (dst : Nat) (v : Option W64) : State :=
  s.onGang g fun h => ((match v with
    | some w => h.setSreg dst w
    | none => h)).complete o

/-- Pins that no cursor and no operation names are gone. -/
def State.prunePins (s : State) : State :=
  let held := s.heldPins
  let used := (s.gangs.map fun g => (g.ops.map fun o => match o.body with
    | .graph _ _ _ ls => ls.map GraphLane.pin
    | _ => []).foldr (· ++ ·) []).foldr (· ++ ·) []
  { s with graph := { s.graph with pins := s.graph.pins.filter fun p => held.contains p.id || used.contains p.id } }

/-- Performs a gsys operation, and completes it: gnew makes a graph, gfree ends one that no other operation names, gstat reads an item (R275, R276, R278). -/
def State.gsysPerform (s : State) (g : Nat) (x : Gang) (y : Op) (k : GsysKind) (dst : Nat) : Result :=
  match k with
  | .gnew vn p =>
    let n := nextName s.named Config.handleMask
    let h := BitVec.ofNat 64 n ^^^ Config.handleMask
    let fresh : Graph := { handle := h, asid := s.asidOf x, pool := p, vn := vn }
    .next (({ s with named := n + 1, graph := { s.graph with graphs := s.graph.graphs ++ [fresh] } } : State).gsysDone g y dst (some h))
  | .gfree h =>
    if s.graphBusy h then .fault .notEnabled
    else .next ((s.onGraph h fun g => { g with live := false, tentative := [] }).gsysDone g y dst none)
  | .gstat h item =>
    if (s.graphOf h).bad then .fault .notEnabled
    else .next (s.gsysDone g y dst (some (s.graphStat (s.cuOf x) h item.toNat)))

/-- GRAPH_OP_COMPLETE (R267, R275, R276, R278): the operation is performed, if it has not been, and its results are written. -/
def execGraphOpComplete (g o : Nat) (s : State) : Result :=
  match s.op? g o with
  | none => .fault .notEnabled
  | some (x, y) => match y.body with
    | .graph _ _ _ _ =>
      let s1 := if y.performed then s else s.performGraph x y
      if y.performed || s.mayGraph x y then
        match s1.op? g o with
        | some (_, z) => .next ((s1.onGang g fun h => h.complete z).prunePins)
        | none => .fault .notEnabled
      else .fault .notEnabled
    | .gsys k dst => if x.supplied y then s.gsysPerform g x y k dst else .fault .notEnabled
    | _ => .fault .notEnabled

/-! ## Reclaim (R264, R276) -/

/-- The vertex whose out-list, or with `inList` in-list, an intent changes. -/
def Intent.vertex (inList : Bool) : Intent → Nat
  | .put u v _ => if inList then v else u
  | .remove u v => if inList then v else u
  | .set u v _ => if inList then v else u

/-- A version record of a graph: its commit, the number of its intent there, and its direction. -/
structure VersionAt where
  commit : Commit
  index  : Nat
  inList : Bool
  vertex : Nat

/-- The version records of a commit that are held. -/
def Commit.records (c : Commit) : List VersionAt :=
  ((c.intents.zip (List.range c.intents.length)).map fun v =>
    [false, true].filterMap fun d => if v.1.held d then some ⟨c, v.2, d, v.1.intent.vertex d⟩ else none).foldr (· ++ ·) []

/-- The version records of a graph that are held, oldest first. -/
def Graph.records (g : Graph) : List VersionAt := (g.history.map Commit.records).foldr (· ++ ·) []

/-- Whether no pin needs a version record, and every CU that holds a gang of the address space has reached its generation (R264). -/
def State.unneeded (s : State) (g : Graph) (r : VersionAt) : Bool :=
  (s.gangs.all fun x => decide (s.asidOf x ≠ g.asid) || decide (r.commit.gen ≤ (s.cu (s.cuOf x)).view)) &&
  (s.pinsOf g.handle).all fun p => (decide (r.commit.gen ≤ p.gen) && p.list.isSome) || decide (p.inList ≠ r.inList) || decide (p.vertex ≠ r.vertex)

/-- The reclaimable version records of a graph: those that nothing needs, the oldest of each list (R264). -/
def State.reclaimable (s : State) (g : Graph) : List VersionAt :=
  ((g.records.zip (List.range g.records.length)).filter fun r => s.unneeded g r.1 &&
    (g.records.take r.2).all fun q => decide (q.inList ≠ r.1.inList) || decide (q.vertex ≠ r.1.vertex)).map Prod.fst

/-- A version record is free. -/
def Commit.release (c : Commit) (r : VersionAt) : Commit :=
  if c.gen = r.commit.gen then
    { c with intents := mapFrom (fun n (v : Version) =>
        if n = r.index then (if r.inList then { v with inn := false } else { v with out := false }) else v) 0 c.intents }
  else c

/-- Intents without version records become part of the oldest version. -/
def Graph.fold (g : Graph) : Graph :=
  { g with
    base := ((g.kept.filter fun v => !v.out && !v.inn).map Version.intent).foldl Edges.apply g.base
    history := (g.history.map fun c => { c with intents := c.intents.filter fun v => v.out || v.inn }).filter fun c => decide (c.intents ≠ []) }

/-- VERSION_RECLAIM (R264, R276): a reclaimable version record of a graph is freed, whichever the device takes (log 37); or the records of a freed
graph that no pin holds. -/
def execVersionReclaim (gr : Nat) (s : State) : Result :=
  match s.graph.graphs[gr]? with
  | none => .fault .notEnabled
  | some g =>
    if !s.holdsRecords g && !s.graphBusy g.handle then
      .next { s with graph := { s.graph with graphs := s.graph.graphs.filter fun x => decide (x.handle ≠ g.handle) } }
    else match (s.reclaimable g)[Config.choice s.tick % (s.reclaimable g).length]? with
      | none => .fault .notEnabled
      | some r =>
        .next (({ s with tick := s.tick + 1 } : State).onGraph g.handle fun g =>
          Graph.fold { g with history := g.history.map fun (c : Commit) => c.release r })

end Sys2Proof.Machine
end

