-- ==== Sys2Proof/Machine/Slots.lean ====
section
/-!
DEFINITION. Refining slots as they lie in common memory: the header (R304), subscriptions, pending and running re-fires (R303, R314), mirrors (R312),
and the settle test (R316).
-/
namespace Sys2Proof.Machine

/-! ## The header (R304) -/

/-- The header of the slot at a common offset. -/
def State.header (s : State) (off : Nat) : BitVec 512 := BitVec.ofNat 512 (readNat s.common off 64)

def hdrVer (h : BitVec 512) : Nat := fld h 31 0
def hdrFin (h : BitVec 512) : Bool := h.getLsbD 32
def hdrKey (h : BitVec 512) : Nat := fld h 35 33
def hdrTsz (h : BitVec 512) : Nat := fld h 46 40
def hdrNpend (h : BitVec 512) : Nat := fld h 85 75
def hdrNrun (h : BitVec 512) : Nat := fld h 127 96

/-- The version word FIN·2^32 + VER (R306). -/
def versionWord (h : BitVec 512) : W64 := BitVec.ofNat 64 (fld h 32 0)

/-- Whether a header is settled: final, with no re-fire pending or running (R316). -/
def settled (h : BitVec 512) : Bool := hdrFin h && decide (hdrNpend h = 0) && decide (hdrNrun h = 0)

/-- A gang whose settle waits on the slot at `off` have met their test. -/
def Gang.meetSettle (g : Gang) (off : Nat) : Gang :=
  { g with ops := g.ops.map fun o => match o.body with
      | .rsettle x m => if x = off then { o with body := .rsettle x true } else { o with body := .rsettle x m }
      | _ => o }

/-- Stores a header; every settle wait on the slot is tested (R316). -/
def State.setHeader (s : State) (off : Nat) (h : BitVec 512) : State :=
  let s1 := { s with common := storeNat s.common off 64 h.toNat }
  if settled h then { s1 with gangs := s1.gangs.map fun g => g.meetSettle off } else s1

/-! ## Live slots and their subscriptions (R303, R313) -/

/-- The live slot at a common offset. -/
def State.slot? (s : State) (off : Nat) : Option Slot := s.slots.find? fun x => decide (x.off = off)

/-- Changes field [hi:lo] of a live slot's header by `f`. -/
def State.onHeader (s : State) (off hi lo : Nat) (f : Nat → Nat) : State :=
  if (s.slot? off).isSome then s.setHeader off (setFld (s.header off) hi lo (f (fld (s.header off) hi lo))) else s

/-- Changes the live slot at a common offset. -/
def State.onSlot (s : State) (off : Nat) (f : Slot → Slot) : State := { s with slots := s.slots.map fun x => if x.off = off then f x else x }

/-- Changes subscription `id` of a slot. -/
def State.onSub (s : State) (off id : Nat) (f : Sub → Sub) : State :=
  s.onSlot off fun x => { x with subs := x.subs.map fun u => if u.id = id then f u else u }

/-- Whether the slot that a re-fire names is still live: its granule has not been revoked since (R303). -/
def State.hasSlot (s : State) (x : Refire) : Bool := (s.slot? x.off).any fun y => decide (y.id = x.slot)

/-- Changes the header of the slot that a re-fire names, if that slot is live: a later slot at its offset is another one. -/
def State.onRefire (s : State) (x : Refire) (hi lo : Nat) (f : Nat → Nat) : State := if s.hasSlot x then s.onHeader x.off hi lo f else s

/-- A pending re-fire ends: it is dispatched or discarded (R313, R314). -/
def State.unpend (s : State) (x : Refire) : State :=
  (if s.hasSlot x then s.onSub x.off x.sub fun u => { u with pending := false } else s).onRefire x 85 75 fun n => n - 1

/-- A re-fire of a slot starts to run, and later retires (R314). -/
def State.refireRuns (s : State) (x : Refire) : State := s.onRefire x 127 96 fun n => n + 1
def State.refireRetires (s : State) (x : Refire) : State := s.onRefire x 127 96 fun n => n - 1

/-- The version that a re-fire carries when it is dispatched: the latest of its slot (R314). That of a slot whose granule has been revoked is open: a free
value (log 38). -/
def State.refireVersion (s : State) (x : Refire) : W32 := if s.hasSlot x then BitVec.ofNat 32 (hdrVer (s.header x.off)) else Config.goneVersion s.serial

end Sys2Proof.Machine
end

