-- ==== Sys2Proof/Machine/Puppeteer.lean ====
section
/-!
DEFINITION. The Puppeteer: level counters (R283-R285), launches and their completion (R281, R282, R284, R367, R368), deques (R290, R291),
cancels (R295), seeds (R375), reservations, placement and dispatch (R287-R292), and retirement (R285).
-/
namespace Sys2Proof.Machine

/-! ## Level counters (R283) -/

/-- The common offset of a launch packet's level table. -/
def pktTable (p : BitVec 512) : Nat := pktLtg p * 65536
/-- The counters of a table: job, phase and chain. -/
def jobCounter (t : Nat) : Nat := t
def phaseCounter (t p : Nat) : Nat := t + 8 + 8 * p
def chainCounter (t c : Nat) : Nat := t + 32768 + 8 * c

/-- The counters on which a launch is counted, its own excepted. -/
def levelsOf (p : BitVec 512) : List Nat :=
  [chainCounter (pktTable p) (pktChain p).toNat, phaseCounter (pktTable p) (pktPhase p).toNat, jobCounter (pktTable p)]

/-- COUNT and CX of the counter at a common offset. -/
def State.count (s : State) (off : Nat) : Nat := fld (read64 s.common off) 47 0
def State.cx (s : State) (off : Nat) : Bool := (read64 s.common off).getLsbD 63

/-- A gang whose level waits on the counter at `off` have met their test. -/
def Gang.meetLevel (g : Gang) (off : Nat) : Gang :=
  { g with ops := g.ops.map fun o => match o.body with
      | .lvwait x m => if x = off then { o with body := .lvwait x true } else { o with body := .lvwait x m }
      | _ => o }

/-- Writes a counter; every level wait on it is tested (R301). -/
def State.setCounter (s : State) (off : Nat) (cx : Bool) (n : Nat) : State :=
  let s1 := { s with common := storeNat s.common off 8 ((if cx then 2 ^ 63 else 0) + n) }
  if n = 0 then { s1 with gangs := s1.gangs.map fun g => g.meetLevel off } else s1

/-- An increment: one from 0 clears CX with `clear` (R284). -/
def State.countUp (s : State) (clear : Bool) (off : Nat) : State :=
  let n := s.count off
  s.setCounter off (s.cx off && !(clear && decide (n = 0))) (if n = 2 ^ 48 - 1 then n else n + 1)

/-- A decrement: one that finds 0 has no effect (R284). -/
def State.countDown (s : State) (off : Nat) : State := if s.count off = 0 then s else s.setCounter off (s.cx off) (s.count off - 1)

/-! ## Launches -/

/-- The launch of an id that has not completed. -/
def State.launch? (s : State) (id : W32) : Option Launch := s.launches.find? fun l => decide (l.origin.id = id)

/-- Changes the launch of an id. -/
def State.onLaunch (s : State) (id : W32) (f : Launch → Launch) : State :=
  { s with launches := s.launches.map fun l => if l.origin.id = id then f l else l }

/-- The parent of a launch, for one that a gang made. -/
def Launch.parent (l : Launch) : Option W32 :=
  match l.submitter with
  | .gang _ _ p => some p
  | .host _ _ => none

/-- Changes the entries of every queue. -/
def State.onEntries (s : State) (f : List Entry → List Entry) : State := { s with queues := s.queues.map fun q => { q with entries := f q.entries } }

/-- The completion record of a host's packet, held until the phase ends (R368). -/
def State.complete (s : State) (b : Submitter) (p : BitVec 512) (cause : BitVec 8) (id : W32) (status : Nat) : State :=
  match b with
  | .host _ tag => { s with held := s.held ++ [Completion.mk (pktJob p) (pktPhase p) cause id tag (BitVec.ofNat 8 status)] }
  | .gang _ _ _ => s

/-- A launch is complete: its levels and its parent fall by one, which may complete the parent (R284). `fuel` bounds the ancestors. -/
def State.finish : Nat → Launch → State → State
  | 0, _, s => s
  | fuel + 1, l, s =>
    let s0 := { s with launches := s.launches.filter fun x => decide (x.origin.id ≠ l.origin.id)
                       reserved := s.reserved.filter fun r => decide (r.1 ≠ Waiter.launch l.origin.id) }
    let s1 := s0.onEntries fun es => es.filter fun e => decide (e.launch ≠ some l.origin.id)
    let s2 := (levelsOf l.origin.packet).foldl State.countDown s1
    let s3 := s2.complete l.submitter l.origin.packet l.seedCause l.origin.id (if l.cancelled then 2 else 0)
    match l.parent.bind s3.launch? with
    | none => s3
    | some p =>
      let off := pktCounter p.origin.packet
      if s3.count off = 1 then State.finish fuel p (s3.countDown off) else s3.countDown off

/-- One unit of a launch is complete: its counter falls by one, and at 0 the launch is complete (R284). -/
def State.unitDone (s : State) (o : Origin) : State :=
  let off := pktCounter o.packet
  let s1 := s.countDown off
  if s.count off = 1 then
    match s.launch? o.id with
    | some l => State.finish (s.launches.length + 1) l s1
    | none => s1
  else s1

/-! ## Packet checks (R282) -/

/-- The reserved fields of a packet. -/
def pktReserved : List (Nat × Nat) :=
  [(511, 504), (447, 413), (383, 368), (351, 348), (335, 332), (319, 282), (255, 237), (127, 120), (63, 50), (31, 31), (15, 15)]

/-- Whether a field holds exactly one bit. -/
def oneBit (n : Nat) : Bool := ((List.range 20).filter fun i => n.testBit i).length = 1

/-- Step 1: reserved fields and values. -/
def pktShaped (p : BitVec 512) : Bool :=
  (pktReserved.all fun f => decide (fld p f.1 f.2 = 0)) && decide (pktKind p ≤ 1) && decide (fld p 14 13 ≠ 3) && decide (fld p 23 20 ≠ 15) &&
  decide (pktPhase p ≠ 4095) && decide (pktPrio p ≤ 23) && decide (fld p 30 24 ≤ 64) && decide (pktMacros p ≤ 8) && decide (pktBarriers p ≤ 16) &&
  decide (pktCarousels p ≤ 16) && decide (pktGroup p ≤ 8) && decide (pktDies p ≠ 0) && decide (pktClusters p ≠ 0) &&
  (!pktOne p || (oneBit (pktDies p) && oneBit (pktClusters p) && decide (pktGroup p ≤ 1))) &&
  (decide (pktGroup p ≤ 1) || decide (pktCount p % pktGroup p = 0)) &&
  (decide (pktKind p = 0) || (decide (pktGangs p = 1) && decide (pktGroup p = 0)))

/-- Step 2: alignment. -/
def pktAligned (p : BitVec 512) : Bool :=
  !(pktCode p).getLsbD 0 && !(pktTvec p).getLsbD 0 && decide (pktCounter p % 8 = 0) && (decide (pktKind p = 0) || decide ((pktArg p).toNat % 32 = 0))

/-- Step 3: the counter and the level table lie in counter granules of the address space, and a job in progress keeps its table (R283). -/
def State.pktCounted (s : State) (p : BitVec 512) (asid : BitVec 8) : Bool :=
  decide (s.grantAt asid (pktCounter p) = some .counter) && decide (s.grantAt asid (pktTable p) = some .counter) &&
  s.launches.all fun l => decide (pktJob l.origin.packet ≠ pktJob p) || decide (s.count (jobCounter (pktTable l.origin.packet)) = 0) ||
    decide (pktTable l.origin.packet = pktTable p)

/-- The cause of an invalid packet (R282). -/
def State.packetCause (s : State) (p : BitVec 512) (asid : BitVec 8) : Option Nat :=
  if !pktShaped p then some ILLEGAL_ENCODING
  else if !pktAligned p then some ALIGNMENT
  else if !s.pktCounted p asid then some PAGE_PROTECTION
  else none

/-! ## Records and deques (R290, R291) -/

def recCode (r : BitVec 256) : BitVec 56 := BitVec.ofNat 56 (fld r 55 0)
def recPrio (r : BitVec 256) : Nat := fld r 60 56
def recFrame (r : BitVec 256) : W64 := BitVec.ofNat 64 (fld r 127 64)
def recJca (r : BitVec 256) : W64 := BitVec.ofNat 64 (fld r 191 128)
def recLaunch (r : BitVec 256) : W32 := BitVec.ofNat 32 (fld r 223 192)
def recChain (r : BitVec 256) : BitVec 12 := BitVec.ofNat 12 (fld r 235 224)

/-- The cause that a record's fields raise: a reserved bit, then an odd CODE (R297). -/
def recCause (r : BitVec 256) : Option Nat :=
  if fld r 255 236 ≠ 0 ∨ fld r 63 61 ≠ 0 then some ILLEGAL_ENCODING else if r.getLsbD 0 then some ALIGNMENT else none

/-- A record with LAUNCH, CHAIN and a clamped PRIO (R290, R319). -/
def recFor (r : BitVec 256) (id : W32) (chain : BitVec 12) (prio : Nat) : BitVec 256 :=
  setFld (setFld (setFld r 223 192 id.toNat) 235 224 chain.toNat) 60 56 (min (recPrio r) prio)

/-- The records of a CU's deque at one level, bottom first. -/
def Cu.level (c : Cu) (p : Nat) : List Record := entry [] c.deque p

/-- Every record of a CU's deque. -/
def Cu.records (c : Cu) : List Record := (c.deque.map Prod.snd).foldr (· ++ ·) []

/-- How many of them are in SRAM, and how many are spilled (R291). -/
def Cu.inSram (c : Cu) : Nat := (c.records.filter fun r => !r.spilled).length
def Cu.inHbm (c : Cu) : Nat := (c.records.filter Record.spilled).length

/-- Whether the SRAM and the spill region of a deque hold `n` records more. -/
def Cu.spillRoom (c : Cu) (n : Nat) : Bool := decide (c.records.length + n ≤ 4096 + c.spillMax)

/-- Whether a deque can take `n` records more now: it has no error, and nothing has to spill into a region that is absent (R291, R357). -/
def Cu.dequeRoom (c : Cu) (n : Nat) : Bool := !c.badDeque && c.spillRoom n && (!c.spillAbsent || decide (c.inSram + n ≤ 4096))

/-- Whether a push of `n` records must spill into a region that is absent (R291, R350). -/
def Cu.spillsAway (c : Cu) (n : Nat) : Bool := !c.badDeque && c.spillRoom n && c.spillAbsent && decide (4096 < c.inSram + n)

/-- The address that the next spilled record goes to (R291; log 39). -/
def Cu.spillAddr (c : Cu) : W64 := c.spillBase + BitVec.ofNat 64 (32 * c.inHbm)

/-- Marks the oldest record of a level that is not spilled: the one nearest the top. -/
def spillTop : List Record → List Record
  | [] => []
  | r :: rs => if rs.any fun x => !x.spilled then r :: spillTop rs else { r with spilled := true } :: rs

/-- Spills one record of the lowest level that holds one in SRAM. -/
def Cu.spill (c : Cu) : Cu :=
  match c.deque.find? fun l => l.2.any fun r => !r.spilled with
  | some l => { c with deque := setEntry c.deque l.1 (spillTop l.2) }
  | none => c

/-- Puts a record at the bottom of its level (R291). -/
def Cu.push (c : Cu) (r : Record) : Cu :=
  let c1 := { c with deque := setEntry c.deque (recPrio r.words) (r :: c.level (recPrio r.words)) }
  if 4096 < c1.inSram then c1.spill else c1

/-- A deque that holds more than 4,096 records in SRAM spills what is too much (R13, R291). -/
def Cu.fitSram (c : Cu) : Cu := iterate Cu.spill (c.inSram - 4096) c

/-- Whether the chain, the phase or the job of a table has been cancelled and has not reached 0 since (R295). -/
def State.cancelOn (s : State) (table : Nat) (chain : BitVec 12) (p : BitVec 512) : Bool :=
  [chainCounter table chain.toNat, phaseCounter table (pktPhase p).toNat, jobCounter table].any fun off => s.cx off && decide (s.count off ≠ 0)

/-- Whether a cancel discards a record now (R295, R314). -/
def State.discards (s : State) (r : Record) : Bool :=
  s.cancelOn (pktTable r.origin.packet) (recChain r.words) r.origin.packet || ((s.launch? r.origin.id).map Launch.cancelled).getD false

/-- Pushes a spawned record or a continuation, which is counted on its launch; a cancelled one is discarded (R284, R295). -/
def State.pushCounted (s : State) (cu : Nat) (r : Record) : State :=
  if s.discards r then s else (s.onCu cu fun c => c.push r).countUp false (pktCounter r.origin.packet)

/-- DEQUE_REFILL (R291): a spilled record returns to SRAM. -/
def execDequeRefill (cu : Nat) (s : State) : Result :=
  let c := s.cu cu
  if c.inSram < 4096 ∧ 0 < c.inHbm ∧ c.spillAbsent = false ∧ c.badDeque = false then
    match (c.deque.reverse).find? fun l => l.2.any Record.spilled with
    | none => .fault .notEnabled
    | some l => .next (s.onCu cu fun c => { c with deque := setEntry c.deque l.1 (refill l.2) })
  else .fault .notEnabled
where
  /-- The first spilled record of a level from the bottom is spilled no longer. -/
  refill : List Record → List Record
    | [] => []
    | r :: rs => if r.spilled then { r with spilled := false } :: rs else r :: refill rs

/-! ## Cancel (R295, R300) -/

/-- A cancel's level: 0 launch, 1 chain, 2 phase, 3 job, with the id and the job. -/
structure Level where
  kind : Nat
  id   : Nat
  job  : BitVec 16

/-- Whether a launch packet, with the chain of what is asked, lies at a level other than a launch. -/
def Level.covers (v : Level) (p : BitVec 512) (chain : BitVec 12) : Bool :=
  decide (pktJob p = v.job) &&
  match v.kind with
  | 1 => decide (chain.toNat = v.id)
  | 2 => decide ((pktPhase p).toNat = v.id)
  | 3 => true
  | _ => false

/-- The launches of a level and their descendants (R295). -/
def State.family (s : State) (v : Level) : List W32 :=
  let first := (s.launches.filter fun l =>
    v.covers l.origin.packet (pktChain l.origin.packet) || (decide (v.kind = 0) && decide (l.origin.id.toNat = v.id) && decide (pktJob l.origin.packet = v.job))).map
      fun l => l.origin.id
  iterate (fun ids => ids ++ (s.launches.filter fun l => (l.parent.map ids.contains).getD false && !ids.contains l.origin.id).map fun l => l.origin.id)
    s.launches.length first

/-- The counter of a level, if the level exists (R300). -/
def State.levelCounter (s : State) (v : Level) (table : Option Nat) : Option Nat :=
  match v.kind with
  | 0 => ((s.launches.find? fun l => decide (l.origin.id.toNat = v.id) && decide (pktJob l.origin.packet = v.job))).map fun l => pktCounter l.origin.packet
  | 1 => if v.id < 4096 then table.map fun t => chainCounter t v.id else none
  | 2 => if v.id < 4095 then table.map fun t => phaseCounter t v.id else none
  | _ => if v.id = v.job.toNat then table.map jobCounter else none

/-- A record of a deque is gone, counted as completed (R295). -/
def State.recordGone (s : State) (r : Record) : State :=
  match r.refire with
  | none => s.unitDone r.origin
  | some x => (s.unpend x).countDown (chainCounter (pktTable r.origin.packet) (recChain r.words).toNat)

/-- The units of a launch that have not been placed are gone, counted as completed, and a seed of it waits for the runtime no longer (R295). -/
def State.dropUnplaced (s : State) (l : Launch) : State :=
  let left := if pktKind l.origin.packet = 0 then pktCount l.origin.packet - l.nextTeam else pktCount l.origin.packet - l.nextSeed
  let s1 := s.onLaunch l.origin.id fun l =>
    { l with cancelled := true, nextTeam := pktCount l.origin.packet, nextSeed := pktCount l.origin.packet, seedWait := none }
  let s2 : State := { s1 with
    reserved := s1.reserved.filter fun r => decide (r.1 ≠ Waiter.launch l.origin.id)
    requests := s1.requests.filter fun r => decide (r.what ≠ .seed l.origin.id) }
  let s3 := s2.onEntries fun es => es.filter fun e => decide (e.launch ≠ some l.origin.id)
  iterate (fun s => s.unitDone l.origin) left s3

/-- The launch operation of a gang completes with an id (R299). -/
def State.launchOpDone (s : State) (g o : Nat) (id : W32) : State :=
  s.onGang g fun h => match h.op? o with
    | some y => match y.body with
      | .launch _ _ dst _ => (h.setSreg dst (id.setWidth 64)).complete y
      | _ => h
    | none => h

/-- Changes the phases of an id. -/
def State.onPhase (s : State) (job : BitVec 16) (p : BitVec 12) (f : Phase → Phase) : State :=
  { s with phases := s.phases.map fun x => if x.job = job ∧ x.phase = p then f x else x }

/-- A host's packet that became no launch, with its record: it stays with its phase in progress, by the queue that held it, so that a rollback submits it
again and it then gives its one record (R359, R368). -/
def State.spent (s : State) (q : Option Nat) (e : Entry) (cause : BitVec 8) (status : Nat) : State :=
  (s.complete e.submitter e.packet cause 0 status).onPhase (pktJob e.packet) (pktPhase e.packet) fun p => { p with packets := p.packets ++ [(q, e)] }

/-- A QPUT packet that no queue takes is discarded with its record (R366). -/
def State.qputRefused (s : State) (e : Entry) : State := s.spent none e (BitVec.ofNat 8 ADDRESS_WINDOW) 1

/-- A packet that waits in a queue is gone before its acceptance (R295): a host's gives a record, and a gang's operation completes. -/
def State.entryGone (s : State) (q : Nat) (e : Entry) : State :=
  match e.submitter with
  | .host _ _ => s.spent (some q) e 0 2
  | .gang g o _ => s.launchOpDone g o 0

/-- A cancel of a level, with the level table in which it is looked up (R295, R300, R315). -/
def State.cancel (s : State) (v : Level) (table : Option Nat) : State :=
  match s.levelCounter v table with
  | none => s
  | some off =>
    if s.count off = 0 then s
    else
      let s0 := s.setCounter off true (s.count off)
      let ids := s0.family v
      let hitEntry := fun (e : Entry) => decide (e.launch = none) && (v.covers e.packet (pktChain e.packet) || match e.submitter with
        | .gang _ _ p => ids.contains p
        | .host _ _ => false)
      let hitTeam := fun (t : Team) => ids.contains t.origin.id || v.covers t.origin.packet t.chain
      let hitRec := fun (r : Record) => ids.contains r.origin.id || v.covers r.origin.packet (recChain r.words)
      let teams := (s0.teams.filter hitTeam).map Team.id
      let mark := fun (g : Gang) => if teams.contains g.team then { g with cancelled := true } else g
      let gone := (s0.queues.map fun q => (q.entries.filter hitEntry).map fun e => (q.num, e)).foldr (· ++ ·) []
      let recs := (s0.cus.map fun c => c.2.records.filter hitRec).foldr (· ++ ·) []
      let lost := fun (u : Saved) (g : Gang) => u.teams.any fun t => decide (t.id = g.team) && hitTeam t
      let markSaved := fun (u : Saved) => { u with gangs := u.gangs.map fun g => if lost u g then { g with cancelled := true } else g }
      let empty := fun (c : Cu) => { c with deque := c.deque.map fun l => (l.1, l.2.filter fun r => !hitRec r) }
      let s1 : State := { s0 with
        gangs := s0.gangs.map mark
        saved := s0.saved.map markSaved
        cus := s0.cus.map fun c => (c.1, empty c.2) }
      let s2 := s1.onEntries fun es => es.filter fun e => !hitEntry e
      let s3 := gone.foldl (fun s e => s.entryGone e.1 e.2) s2
      let s4 := ids.foldl (fun s i => match s.launch? i with
        | some l => s.dropUnplaced l
        | none => s) s3
      recs.foldl State.recordGone s4

/-! ## Acceptance (R283, R284, R299, R367) -/

/-- The queue of a number, if it is configured (R286). -/
def State.queue? (s : State) (n : Nat) : Option Queue := s.queues.find? fun q => decide (q.num = n)

/-- Changes the queue of a number. -/
def State.onQueue (s : State) (n : Nat) (f : Queue → Queue) : State := { s with queues := s.queues.map fun q => if q.num = n then f q else q }

/-- What the hardware keeps of the start of a phase (R358). -/
def State.snapshot (s : State) : PhaseStart :=
  { common := s.common, slots := s.slots, mirrors := s.mirrors, graph := s.graph, deques := s.cus.map fun c => (c.1, c.2.deque), held := s.held }

/-- A phase of a job is in progress from its first packet, or its PHASE command, on (R358, R359, R366); its first packet names its address space. The
runtime's own launches belong to no phase in progress. -/
def State.openPhase (s : State) (job : BitVec 16) (phase : BitVec 12) (asid : BitVec 8) : State :=
  if s.phases.any fun p => decide (p.job = job) && decide (p.phase = phase) then
    s.onPhase job phase fun p => if p.asid = 0 then { p with asid := asid } else p
  else { s with phases := s.phases ++ [{ job := job, phase := phase, asid := asid, start := s.snapshot }] }

/-- A host's packet is accepted in its phase, as launch `id`. -/
def State.enterPhase (s : State) (q : Nat) (e : Entry) (id : W32) : State :=
  match e.submitter with
  | .gang _ _ _ => s
  | .host _ _ =>
    if e.asid = 0 then s
    else (s.openPhase (pktJob e.packet) (pktPhase e.packet) e.asid).onPhase (pktJob e.packet) (pktPhase e.packet) fun p =>
      { p with packets := p.packets ++ [(some q, { e with launch := some id })] }

/-- The first entry that is not accepted becomes launch `id`. -/
def markFirst (id : W32) : List Entry → List Entry
  | [] => []
  | x :: xs => if x.launch = none then { x with launch := some id } :: xs else x :: markFirst id xs

/-- The first entry that is not accepted is gone. -/
def dropFirst : List Entry → List Entry
  | [] => []
  | x :: xs => if x.launch = none then xs else x :: dropFirst xs

/-- A fresh launch of no units is complete, and one of a cancelled level loses all its units (R284, R295). -/
def State.settleLaunch (s : State) (id : W32) (drop : Bool) : State :=
  match s.launch? id with
  | none => s
  | some l =>
    let l1 := { l with cancelled := drop }
    if pktCount l.origin.packet = 0 then State.finish (s.launches.length + 1) l1 s
    else if drop then s.dropUnplaced l1
    else s

/-- Accepts a valid packet of a queue (R284): its counters are set, and it has its id. A launch of a cancelled level is discarded, and one
of COUNT 0 is complete at once. -/
def State.accept (s : State) (q : Nat) (e : Entry) : State :=
  let n := nextName s.named Config.launchMask
  let id : W32 := BitVec.ofNat 32 n ^^^ Config.launchMask
  let l : Launch := { origin := { id := id, asid := e.asid, packet := e.packet }, submitter := e.submitter }
  let bad := s.cancelOn (pktTable e.packet) (pktChain e.packet) e.packet || ((l.parent.bind s.launch?).map Launch.cancelled).getD false
  let s1 := (s.enterPhase q e id).onQueue q fun x => { x with entries := markFirst id x.entries }
  let s2 := ({ s1 with named := n + 1, launches := s1.launches ++ [l] }).setCounter (pktCounter e.packet) false (pktCount e.packet)
  let s3 := (levelsOf e.packet).foldl (fun s off => s.countUp true off) s2
  let s4 := match l.parent.bind s3.launch? with
    | some p => s3.countUp false (pktCounter p.origin.packet)
    | none => s3
  let s5 := match e.submitter with
    | .gang g o _ => s4.launchOpDone g o id
    | .host _ _ => s4
  s5.settleLaunch id bad

/-- LAUNCH_ACCEPT (R282, R284, R299, R367): the first packet of a queue that is not accepted is validated and accepted, or discarded. -/
def execLaunchAccept (q : Nat) (s : State) : Result :=
  match (s.queue? q).bind fun x => x.entries.find? fun e => decide (e.launch = none) with
  | none => .fault .notEnabled
  | some e =>
    match s.packetCause e.packet e.asid with
    | none => .next (s.accept q e)
    | some c =>
      let s1 := s.onQueue q fun x => { x with entries := dropFirst x.entries }
      .next (match e.submitter with
        | .host _ _ => s1.spent (some q) e (BitVec.ofNat 8 c) 1
        | .gang g o _ => s1.launchOpDone g o 0)

/-! ## Which CUs, and room on them (R88, R159, R195, R232, R281, R318) -/

/-- Whether a packet allows a CU (R281). -/
def pktAllows (p : BitVec 512) (cu : Nat) : Bool :=
  (pktDies p).testBit (cu / 144) && (pktClusters p).testBit (cu / 8 % 18) && (!pktOne p || decide (cu % 8 = pktCu p))

/-- The CUs that a packet allows, in ascending number. -/
def pktCus (p : BitVec 512) : List Nat := (List.range 576).filter (pktAllows p)

/-- What a team takes of a CU: its gangs as width and vector registers, scratch, macros, barriers and carousels. -/
structure Shape where
  gangs   : List (Nat × Nat)
  scratch : Nat
  macros  : Nat
  bars    : Nat
  cars    : Nat

/-- The shape a packet asks for. -/
def pktShape (p : BitVec 512) : Shape :=
  ⟨List.replicate (pktGangs p) (pktWidth p, pktVregs p), pktScratch p, pktMacros p, pktBarriers p, pktCarousels p⟩

/-- How many macros a team keeps from its CU's pool. -/
def Team.macrosKept (t : Team) : Nat := (t.macros.filter fun m => !m.2.returned).length

/-- The shape of a team with its gangs. -/
def Team.shape (t : Team) (gs : List Gang) : Shape := ⟨gs.map fun g => (g.width, g.vcount), t.scratchZ, t.macrosKept, t.barCount, t.carCount⟩

/-- The quadrants a gang of a width may cover. -/
def quadSets (w : Nat) : List (BitVec 4) := if w = 16 then [1, 2, 4, 8] else if w = 32 then [3, 12] else [15]

/-- Places gangs in quadrants, first fit (R88): `use` is what the registers of each quadrant hold already. -/
def placeGangs (use : List Nat) : List (Nat × Nat) → Option (List (BitVec 4))
  | [] => some []
  | (w, v) :: r =>
    match (quadSets w).find? fun q => (List.range 4).all fun i => !q.getLsbD i || decide (use.getD i 0 + v ≤ 2048) with
    | none => none
    | some q => (placeGangs ((List.range 4).map fun i => if q.getLsbD i then use.getD i 0 + v else use.getD i 0) r).map fun qs => q :: qs

/-- The gangs on a CU, and the teams that have gangs there. -/
def State.gangsOn (s : State) (cu : Nat) : List Gang := s.gangs.filter fun g => decide (s.cuOf g = cu)
def State.teamsOn (s : State) (cu : Nat) : List Team := s.teams.filter fun t => decide (t.cu = cu) && s.gangs.any fun g => decide (g.team = t.id)

/-- The scratch in use on a CU; that of a cluster group's team is in use until the group ends (R166). -/
def State.usedScratch (s : State) (cu : Nat) : Nat := ((s.teams.filter fun t => decide (t.cu = cu)).map Team.scratchZ).foldl (· + ·) 0

/-- The free scratch of a CU. -/
def State.freeScratch (s : State) (cu : Nat) : Nat := 262144 - s.usedScratch cu

/-- The priority of a waiting party. -/
def State.waiterPrio (s : State) : Waiter → Nat
  | .launch id => ((s.launch? id).map fun l => pktPrio l.origin.packet).getD 0
  | .restore a => ((s.saved.find? fun u => decide (u.area = a)).map fun u => (u.gangs.map fun g => g.prio.toNat).foldl max 0).getD 0

/-- Whether a reservation of another party keeps work of a priority off a CU (R288). -/
def State.heldBack (s : State) (cu prio : Nat) (who : Option Waiter) : Bool :=
  s.reserved.any fun r => decide (r.2 = cu) && decide (some r.1 ≠ who) && decide (prio ≤ s.waiterPrio r.1)

/-- The quadrants for the gangs of a shape on a CU that has room for it (R88, R288). -/
def State.fit (s : State) (cu : Nat) (h : Shape) (prio : Nat) (who : Option Waiter) : Option (List (BitVec 4)) :=
  let ts := s.teamsOn cu
  let sum := fun (f : Team → Nat) => (ts.map f).foldl (· + ·) 0
  let gs := s.gangsOn cu
  if s.heldBack cu prio who || decide (64 < gs.length + h.gangs.length) || decide (262144 < s.usedScratch cu + h.scratch) ||
      decide (8 < sum Team.macrosKept + h.macros) || decide (16 < sum Team.barCount + h.bars) || decide (16 < sum Team.carCount + h.cars) then none
  else placeGangs ((List.range 4).map fun i => ((gs.filter fun g => g.quads.getLsbD i).map Gang.vcount).foldl (· + ·) 0) h.gangs

/-- The CUs on which a unit of shapes would be placed by a decision for CU `cu`: that CU alone, or one CU for each shape in its cluster, `cu` the
lowest of them (R161, R287). -/
def State.unitAt (s : State) (cu : Nat) (hs : List Shape) (prio : Nat) (who : Option Waiter) (allows : Nat → Bool) : Option (List Nat) :=
  let free := ((List.range 8).map fun i => clusterOf cu * 8 + i).filter allows
  let pick := hs.foldl (fun (a : Option (List Nat)) h => a.bind fun got =>
    (free.find? fun c => !got.contains c && (s.fit c h prio who).isSome).map fun c => got ++ [c]) (some [])
  match hs with
  | [h] => if allows cu && (s.fit cu h prio who).isSome then some [cu] else none
  | _ => pick.bind fun got => if got.foldl min 576 = cu then some got else none

/-! ## Starting gangs (R89, R92, R260, R289) -/

/-- The lowest free gang slot of a CU (R344). -/
def State.freeSlot (s : State) (cu : Nat) : Nat := ((List.range 64).find? fun n => (s.gangsOn cu).all fun g => decide (g.gslot ≠ n)).getD 63

/-- A gang goes onto its CU: the view generation starts anew on an empty CU, and its start is an acquire at mod scope (R260, R289). Its
team is in the state already. -/
def State.settleIn (s : State) (cu : Nat) (g : Gang) : State :=
  let s1 := if s.gangsOn cu = [] then s.advanceView cu else s
  ({ s1 with gangs := s1.gangs ++ [{ g with gslot := s.freeSlot cu }] }).acquireActs cu 4

/-- A gang at its entry point, in lanes `live` (R89, R136, R289). -/
def freshGang (id team idx width v : Nat) (quads : BitVec 4) (prio : Nat) (pc : W64) (tvec : BitVec 56) (live : Nat) : Gang :=
  { id := id, team := team, index := BitVec.ofNat 4 idx, width := width, vcount := v, quads := quads, prio := BitVec.ofNat 5 prio, tvec := tvec
    threads := (List.range width).map fun l => { pc := pc, status := if l < live then .ready else .exited } }

/-- A team as a packet shapes it (R159, R195, R226, R232). -/
def freshTeam (id cu : Nat) (o : Origin) : Team :=
  { id := id, origin := o, cu := cu, chain := pktChain o.packet, scratchZ := pktScratch o.packet, barCount := pktBarriers o.packet
    carCount := pktCarousels o.packet, asked := pktMacros o.packet, macros := (List.range (pktMacros o.packet)).map fun j => (j, {}) }

/-- Places team `idx` of a launch on a CU, as rank `rank` of group `grp` (R287, R289). -/
def State.placeTeam (s : State) (l : Launch) (cu idx : Nat) (grp : Option Nat) (rank : Nat) (quads : List (BitVec 4)) : State :=
  let p := l.origin.packet
  let t : Team := { freshTeam s.serial cu l.origin with index := idx, group := grp, groupSize := pktGroup p, rank := rank }
  let s1 := { s with teams := s.teams ++ [t], serial := s.serial + 1 }
  (quads.zip (List.range quads.length)).foldl (fun s q =>
    let g := freshGang s.serial t.id q.2 (pktWidth p) (pktVregs p) q.1 (pktPrio p) (pktCode p) (pktTvec p) (pktWidth p)
    (s.bump).settleIn cu ((g.setSreg 1 (pktArg p)).setSreg 2 (BitVec.ofNat 64 (pktCount p)))) s1

/-- Places the next unit of the launch at the head of a queue: its next team, or its next cluster group (R161, R286, R287). -/
def State.placeUnit (s : State) (q : Nat) (l : Launch) (cus : List Nat) : State :=
  let p := l.origin.packet
  let who := some (Waiter.launch l.origin.id)
  let grp := if pktGroup p = 0 then none else some s.serial
  let s0 := if pktGroup p = 0 then s else s.bump
  let s1 := (cus.zip (List.range cus.length)).foldl (fun t c =>
    match s.fit c.1 (pktShape p) (pktPrio p) who with
    | some qs => t.placeTeam l c.1 (l.nextTeam + c.2) grp c.2 qs
    | none => t) s0
  let s2 := s1.onLaunch l.origin.id fun l => { l with nextTeam := l.nextTeam + cus.length }
  let s3 := { s2 with served := setEntry s2.served (pktPrio p) q, reserved := s2.reserved.filter fun r => decide (r.1 ≠ Waiter.launch l.origin.id) }
  if pktCount p ≤ l.nextTeam + cus.length then s3.onEntries fun es => es.filter fun e => decide (e.launch ≠ some l.origin.id) else s3

/-! ## Restores (R354) -/

/-- The condition operations of every gang are tested again (R134). -/
def State.retest (s : State) : State :=
  { s with gangs := s.gangs.map fun g => { g with ops := g.ops.map fun o => match o.body with
      | .lvwait off m => { o with body := .lvwait off (m || decide (s.count off = 0)) }
      | .rsettle off m => { o with body := .rsettle off (m || settled (s.header off)) }
      | _ => o } }

/-- The gangs of a team of a saved unit. -/
def Saved.gangsOf (u : Saved) (t : Team) : List Gang := u.gangs.filter fun g => decide (g.team = t.id)

/-- The teams of a saved unit in the order of their ranks. -/
def Saved.ranked (u : Saved) : List Team := sortBy Team.rank u.teams

/-- The shapes of the teams of a saved unit, in the order of their ranks. -/
def Saved.shapes (u : Saved) : List Shape := u.ranked.map fun t => t.shape (u.gangsOf t)

/-- Places a saved unit again (R354). Copies held with it go back to their engine, which may then hold more than the 64 that R214 lets be issued (log 41). -/
def State.placeSaved (s : State) (u : Saved) (cus : List Nat) : State :=
  let who := some (Waiter.restore u.area)
  let prio := s.waiterPrio (.restore u.area)
  let s1 := (u.ranked.zip cus).foldl (fun t e =>
    let gs := u.gangsOf e.1
    match s.fit e.2 (e.1.shape gs) prio who with
    | none => t
    | some qs => (gs.zip qs).foldl (fun t g => t.settleIn e.2 { g.1 with
          quads := g.2, saving := false, shown := g.1.shown.filter fun x => !([8, 9, 10].contains x.1) })
        { t with teams := t.teams ++ [{ e.1 with cu := e.2 }] }) s
  let s2 : State := { s1 with
    saved := s1.saved.filter fun x => decide (x.area ≠ u.area), restores := s1.restores.filter fun a => decide (a ≠ u.area)
    reserved := s1.reserved.filter fun r => decide (r.1 ≠ Waiter.restore u.area) }
  s2.retest

/-! ## Decisions (R287, R288, R292) -/

/-- What a task gang takes of a CU: the allotment of its launch for one gang, whatever number of gangs the launch's teams have (R318). -/
def taskShape (p : BitVec 512) : Shape := { pktShape p with gangs := [(pktWidth p, pktVregs p)] }

/-- Whether a record may run on a CU that has room for its task gang (R290, R318). -/
def State.mayRun (s : State) (cu : Nat) (r : Record) : Bool :=
  pktAllows r.origin.packet cu && (s.fit cu (taskShape r.origin.packet) (recPrio r.words) none).isSome

/-- The levels, from the highest. -/
def levels : List Nat := (List.range 24).reverse

/-- The records of a level that may be taken: none of a deque with an uncorrectable error (R357). -/
def Cu.soundLevel (c : Cu) (p : Nat) : List Record := if c.badDeque then [] else c.level p

/-- The highest priority at which a deque holds a record that may run on a CU (R292). -/
def State.topLevel (s : State) (cu : Nat) : Option Nat := levels.find? fun p => s.cus.any fun c => (c.2.soundLevel p).any (s.mayRun cu)

/-- The CUs in the order of the steal search of CU `c` (R292). -/
def stealOrder (c : Nat) : List Nat :=
  let from_ := fun (lo n : Nat) => (List.range n).map fun i => lo + (c - lo + 1 + i) % n
  let cl := (from_ (c / 8 * 8) 8).filter fun x => decide (x ≠ c)
  let di := (from_ (c / 144 * 144) 144).filter fun x => decide (x / 8 ≠ c / 8)
  cl ++ di ++ (from_ 0 576).filter fun x => decide (x / 144 ≠ c / 144)

/-- The source of a dispatch, and the records of its level from the end that it takes them from (R292). -/
def State.source (s : State) (cu p : Nat) : Option (Nat × List Record) :=
  if ((s.cu cu).soundLevel p).any (s.mayRun cu) then some (cu, (s.cu cu).level p)
  else ((stealOrder cu).find? fun c => ((s.cu c).soundLevel p).any (s.mayRun cu)).map fun c => (c, ((s.cu c).level p).reverse)

/-- The records of a pack, by their places in the scanned line: the first that may run, then those that match it among 64 (R292). -/
def State.pack (s : State) (cu : Nat) (line : List Record) : List (Record × Nat) :=
  let numbered := line.zip (List.range line.length)
  match numbered.find? fun e => s.mayRun cu e.1 with
  | none => []
  | some f =>
    let same := fun (y : Record) => decide (recCode y.words = recCode f.1.words) && decide (recLaunch y.words = recLaunch f.1.words) &&
      decide (recChain y.words = recChain f.1.words)
    f :: (((numbered.take 64).filter fun e => decide (e.2 ≠ f.2) && same e.1).take (pktWidth f.1.origin.packet - 1))

/-- The entry registers of a lane of a task gang (R289). -/
def Gang.enterLane (g : Gang) (l : Nat) (r : Record) (ver : W32) : Gang :=
  let s := lane l
  let w := fun (g : Gang) (n : Nat) (v : W32) => g.setVreg s n fun _ => v
  w (w (w (w (w (w g 0 ((recFrame r.words).setWidth 32)) 1 ((recFrame r.words).extractLsb' 32 32)) 2 ver) 3 (BitVec.ofNat 32 l))
    4 ((recJca r.words).setWidth 32)) 5 ((recJca r.words).extractLsb' 32 32)

/-- The version a record's lane receives (R289, R314). -/
def State.laneVersion (s : State) (r : Record) : W32 := (r.refire.map s.refireVersion).getD 0

/-- A re-fire that is dispatched runs, and is pending no longer (R314): it counts as running before it stops being pending, so that no settle test
finds the slot settled in between (R316). -/
def State.startRefire (s : State) (r : Record) : State :=
  match r.refire with
  | some x => (s.refireRuns x).unpend x
  | none => s

/-- Starts one task gang on a CU with a pack (R289, R292, R318). -/
def State.startTask (s : State) (cu p : Nat) (quads : BitVec 4) (pack : List Record) : State :=
  match pack with
  | [] => s
  | f :: _ =>
    let o := f.origin
    let t : Team := { freshTeam s.serial cu o with isTask := true, chain := recChain f.words }
    let g := freshGang (s.serial + 1) t.id 0 (pktWidth o.packet) (pktVregs o.packet) quads p ((recCode f.words).setWidth 64) (pktTvec o.packet) pack.length
    let g1 := (pack.zip (List.range pack.length)).foldl (fun (g : Gang) e => g.enterLane e.2 e.1 (s.laneVersion e.1)) (g.setSreg 1 (pktArg o.packet))
    let g2 := { g1 with packed := pack.map fun r => ⟨r.refire, chainCounter (pktTable r.origin.packet) (recChain r.words).toNat⟩ }
    (pack.foldl State.startRefire { s with teams := s.teams ++ [t], serial := s.serial + 2 }).settleIn cu g2

/-- Dispatch(C) at level `p` (R292). -/
def State.dispatch (s : State) (cu p : Nat) : State :=
  match s.source cu p with
  | none => s
  | some src =>
    let pk := s.pack cu src.2
    match pk with
    | [] => s
    | f :: _ =>
      match s.fit cu (taskShape f.1.origin.packet) p none with
      | none => s
      | some qs =>
        let gone := pk.map Prod.snd
        let left := ((src.2.zip (List.range src.2.length)).filter fun e => !gone.contains e.2).map Prod.fst
        let line := if src.1 = cu then left else left.reverse
        (s.onCu src.1 fun c => { c with deque := setEntry c.deque p line }).startTask cu p (qs.headD 0) (pk.map Prod.fst)

/-- What a placement decision may place on a CU. -/
inductive Pick where
  | restore (area : W64) (cus : List Nat)
  | records
  | team (q : Nat) (id : W32) (cus : List Nat)
  deriving DecidableEq, Repr

/-- The launch at the head of a queue (R286). -/
def State.headLaunch (s : State) (q : Queue) : Option Launch := (q.entries.head?.bind Entry.launch).bind s.launch?

/-- The candidates for a CU, each with its priority and its rank at equal priority, smallest first (R287). -/
def State.candidates (s : State) (cu : Nat) : List (Nat × Nat × Pick) :=
  let rs := (s.restores.zip (List.range s.restores.length)).filterMap fun a => (s.saved.find? fun u => decide (u.area = a.1)).bind fun u =>
    let prio := s.waiterPrio (.restore a.1)
    (s.unitAt cu u.shapes prio (some (.restore a.1)) fun _ => true).map fun cus => (prio, a.2, Pick.restore a.1 cus)
  let ds := match s.topLevel cu with
    | some p => [(p, 100000, Pick.records)]
    | none => []
  let qs := s.queues.filterMap fun q => (s.headLaunch q).bind fun l =>
    let p := l.origin.packet
    if pktKind p ≠ 0 ∨ pktCount p ≤ l.nextTeam then none
    else (s.unitAt cu (List.replicate (max 1 (pktGroup p)) (pktShape p)) (pktPrio p) (some (.launch l.origin.id)) (pktAllows p)).map fun cus =>
      (pktPrio p, 200000 + (q.num + 255 - entry 255 s.served (pktPrio p)) % 256, Pick.team q.num l.origin.id cus)
  rs ++ ds ++ qs

/-- The candidate that a decision takes (R287). -/
def bestPick : List (Nat × Nat × Pick) → Option (Nat × Nat × Pick)
  | [] => none
  | c :: r => match bestPick r with
    | none => some c
    | some d => if d.1 < c.1 ∨ (d.1 = c.1 ∧ c.2.1 ≤ d.2.1) then some c else some d

/-- The waiting parties that cannot be placed anywhere and hold no reservation, with the CUs they may use (R288). Of several, the restores come first, in the
order in which they were asked for, and then the queues in the order of their configuration (log 32). -/
def State.unplaced (s : State) : List (Waiter × List Nat) :=
  let free := fun (w : Waiter) => s.reserved.all fun r => decide (r.1 ≠ w)
  let rs := s.restores.filterMap fun a => (s.saved.find? fun u => decide (u.area = a)).bind fun u =>
    if free (.restore a) && (List.range 576).all fun c => (s.unitAt c u.shapes (s.waiterPrio (.restore a)) (some (.restore a)) fun _ => true).isNone
    then some (Waiter.restore a, List.range 576) else none
  let qs := s.queues.filterMap fun q => (s.headLaunch q).bind fun l =>
    let p := l.origin.packet
    if pktKind p = 0 ∧ l.nextTeam < pktCount p ∧ free (.launch l.origin.id) ∧
        (pktCus p).all (fun c => (s.unitAt c (List.replicate (max 1 (pktGroup p)) (pktShape p)) (pktPrio p) (some (.launch l.origin.id)) (pktAllows p)).isNone)
    then some (Waiter.launch l.origin.id, pktCus p) else none
  rs ++ qs

/-- The CU with the most free scratch among some, the lowest number on a tie. -/
def State.roomiest (s : State) : List Nat → Option Nat
  | [] => none
  | c :: r => match s.roomiest r with
    | none => some c
    | some d => if s.freeScratch c < s.freeScratch d then some d else some c

/-- The next reservation to be made (R288). -/
def State.nextReservation (s : State) : Option (Waiter × Nat) :=
  s.unplaced.findSome? fun w => (s.roomiest (w.2.filter fun c => s.reserved.all fun r => decide (r.2 ≠ c))).map fun c => (w.1, c)

/-- The decision that is due: the lowest CU that has a candidate, once every reservation is made (R287, R288). -/
def State.decision (s : State) : Option (Nat × Nat × Pick) :=
  if s.nextReservation.isSome then none
  else (List.range 576).findSome? fun c => (bestPick (s.candidates c)).map fun b => (c, b.1, b.2.2)

/-- PLACEMENT_DECISION (R287, R289, R354): a restore or a team is placed. -/
def execPlacementDecision (cu : Nat) (s : State) : Result :=
  match s.decision with
  | some (c, _, .restore a cus) =>
    if c = cu then match s.saved.find? fun u => decide (u.area = a) with
      | some u => .next (s.placeSaved u cus)
      | none => .fault .notEnabled
    else .fault .notEnabled
  | some (c, _, .team q id cus) =>
    if c = cu then match s.launch? id with
      | some l => .next (s.placeUnit q l cus)
      | none => .fault .notEnabled
    else .fault .notEnabled
  | _ => .fault .notEnabled

/-- DISPATCH (R289, R292): a pack of records starts as one task gang. -/
def execDispatch (cu : Nat) (s : State) : Result :=
  match s.decision with
  | some (c, p, .records) => if c = cu then .next (s.dispatch cu p) else .fault .notEnabled
  | _ => .fault .notEnabled

/-! ## Seeds (R319, R375) -/

/-- A seed of a launch is discarded, counted as completed; the first cause is kept for its completion record (R368, R375). -/
def State.discardSeed (s : State) (l : Launch) (cause : Nat) : State :=
  (s.onLaunch l.origin.id fun l => { l with seedCause := if l.seedCause = 0 then BitVec.ofNat 8 cause else l.seedCause }).unitDone l.origin

/-- The next seed of a launch waits for the runtime under a fresh TAG: it cannot be read, or its push must spill into a region that is absent (R350, R375). The
record goes to the die of the CU that the seed is bound for. -/
def State.seedWaits (s : State) (id : W32) (cu : Nat) (addr : W64) : State :=
  (s.onLaunch id fun l => { l with seedWait := some s.freshTag }).request (dieOf cu) 1 PAGE_NOT_PRESENT noHandle addr (.seed id)

/-- The next seed of the task launch at the head of a queue is read and pushed, where nothing makes it wait (R291, R375). -/
def State.seed (s : State) (q : Nat) : Option State :=
  match (s.queue? q).bind s.headLaunch with
  | none => none
  | some l =>
    let p := l.origin.packet
    if pktKind p = 0 ∨ l.seedWait.isSome ∨ pktCount p ≤ l.nextSeed then none
    else
      let cus := pktCus p
      let cu := cus.getD (l.nextSeed % cus.length) 0
      let va := pktArg p + BitVec.ofNat 64 (32 * l.nextSeed)
      let taken := s.onLaunch l.origin.id fun l => { l with nextSeed := l.nextSeed + 1 }
      let done := fun (s : State) => if l.nextSeed + 1 = pktCount p then s.onEntries fun es => es.filter fun e => decide (e.launch ≠ some l.origin.id) else s
      let x := s.engineTranslate l.origin.asid va.toNat .read
      match x with
      | .wait => none
      | .fault => some (s.seedWaits l.origin.id cu va)
      | .protection => some (done (taken.discardSeed l PAGE_PROTECTION))
      | .ok pa _ _ =>
        if !s.accessible (.phys pa) 32 then none
        else
          let w := read256 s.phys pa
          let t := taken.engineUsed .read x
          match recCause w with
          | some c => some (done (t.discardSeed l c))
          | none =>
            let r : Record := { words := recFor w l.origin.id (pktChain p) (pktPrio p), origin := l.origin }
            if t.discards r then some (done (t.unitDone l.origin))
            else if (s.cu cu).spillsAway 1 then some ((s.engineUsed .read x).seedWaits l.origin.id cu (s.cu cu).spillAddr)
            else if (s.cu cu).dequeRoom 1 then some (done (t.onCu cu fun c => c.push r))
            else none

/-- The answer to a seed's page fault: the launch reads it again, or discards it (R375). -/
def State.answerSeed (s : State) (id : W32) (ok : Bool) : State :=
  match s.launch? id with
  | none => s
  | some l =>
    let s1 := s.onLaunch id fun l => { l with seedWait := none }
    if ok then s1
    else
      let s2 := (s1.onLaunch id fun l => { l with nextSeed := l.nextSeed + 1 }).discardSeed l PAGE_NOT_PRESENT
      if l.nextSeed + 1 = pktCount l.origin.packet then s2.onEntries fun es => es.filter fun e => decide (e.launch ≠ some id) else s2

/-! ## Retirement (R88, R135, R284, R285, R314) -/

/-- A copy that waits in the engine for a carousel slot, or is held back behind one (R134, R214). -/
def State.heldCopy (s : State) (g : Gang) (o : Op) : Bool :=
  match o.body with
  | .copy c => decide (c.stage = .queued) &&
    match g.ops.find? fun p => match p.body with
      | .copy d => decide (d.stage = .queued)
      | _ => false with
    | some p => match p.body with
      | .copy d => (d.car.map fun k => decide ((((entry? (s.teamOf g).carousels k).map Carousel.free).getD 0) = 0)).getD false
      | _ => false
    | none => false
  | _ => false

/-- The condition operations of R134. -/
def Op.isCondition (o : Op) : Bool := match o.body with
  | .cwait _ _ _ => true
  | .lvwait _ _ => true
  | .rsettle _ _ => true
  | .halt => true
  | _ => false

/-- Whether an operation does not hold up its gang's retirement: an untracked condition operation (log 29). -/
def Op.droppable (o : Op) : Bool := o.isCondition && o.flag.isNone

/-- Whether a reduction of a gang is on its way to its home. -/
def State.reducing (s : State) (g : Gang) : Bool := s.reds.any fun r => r.sources.any fun x => decide (x.2.1 = g.id)

/-- Whether a gang may retire: its threads have exited, its operations are done, its reductions are at their homes, and its CU can write back
(R88, R135, R190, R285). -/
def State.mayRetire (s : State) (g : Gang) : Bool :=
  (g.threads.all fun t => decide (t.status = .exited)) && g.ops.all Op.droppable && decide (g.flight = none) && !s.reducing g && s.flushable (s.cuOf g)

/-- The counters fall by what a task gang packed (R284, R314). -/
def State.unpack (s : State) (o : Origin) (p : Packed) : State :=
  match p.refire with
  | some x => (s.refireRetires x).countDown p.chainCtr
  | none => s.unitDone o

/-- A gang is gone from its CU; the team goes with its last gang, and a cluster group with the last gang of all its teams (R161). -/
def State.gangGone (s : State) (g : Gang) : State :=
  let gs := s.gangs.filter fun x => decide (x.id ≠ g.id)
  let t := s.teamOf g
  let alive := fun (x : Team) => gs.any fun y => decide (y.team = x.id)
  let groupAlive := s.teams.any fun x => decide (x.group = t.group) && alive x
  { s with gangs := gs, teams := s.teams.filter fun x =>
      if t.group.isSome ∧ x.group = t.group then groupAlive else decide (x.id ≠ t.id) || alive x }

/-- GANG_RETIREMENT (R284, R285): the CU's dirty lines are written back, the gang's resources are free, and the counters fall. -/
def execGangRetirement (g : Nat) (s : State) : Result :=
  match s.gang? g with
  | none => .fault .notEnabled
  | some x =>
    if s.mayRetire x then
      let t := s.teamOf x
      let s1 := (s.writeBack t.cu).gangGone x
      let s2 := if t.isTask then x.packed.foldl (fun s p => s.unpack t.origin p) s1
        else if s1.gangs.any fun y => decide (y.team = t.id) then s1
        else s1.unitDone t.origin
      .next s2
    else .fault .notEnabled

end Sys2Proof.Machine
end

