-- ==== Sys2Proof/Machine/Task.lean ====
section
/-!
DEFINITION. The task instructions (R296-R302): spawns, join counters, launches from a gang, cancels, level waits and setprio.
-/
namespace Sys2Proof.Machine

/-! ## Spawns (R297) -/

/-- A record from its parts, with sr.launch and sr.chain of a gang (R297). -/
def State.recordOf (s : State) (g : Gang) (code frame jca : W64) (prio : Nat) : BitVec 256 :=
  let r := setFld (setFld (setFld (setFld (0 : BitVec 256) 55 0 code.toNat) 60 56 prio) 127 64 frame.toNat) 191 128 jca.toNat
  recFor r (s.launchOf g) (s.chainOf g) (pktPrio (s.teamOf g).origin.packet)

/-- How many records the outstanding spawns of a CU have still to push. -/
def State.spawning (s : State) (cu : Nat) : Nat :=
  (((s.gangs.filter fun g => decide (s.cuOf g = cu)).map fun g => (g.ops.map fun o => match o.body with
    | .spawn rs => rs.length
    | _ => 0).foldl (· + ·) 0)).foldl (· + ·) 0

/-- Issues a spawn of some records, which stalls in place while the deque's spill region has no room for them (R291). -/
def Issue.spawn (x : Issue) (rs : List (BitVec 256)) : Result :=
  let cu := x.s.cuOf x.g
  if !(x.s.cu cu).spillRoom (x.s.spawning cu + rs.length) then x.stall .spillFull
  else x.trackIn x.s x.g x.slotA (.spawn rs)

/-- spawn.v: one record for each lane, from seven registers (R297). -/
def execSpawnV (a : BitVec 7) (s : State) : Result :=
  issue { size := 4, ops := [.vec a.toNat 7] } s fun x =>
    let v := fun (l i : Nat) => x.g.vreg l (a.toNat + i)
    let code := fun l => x.g.vpair l a.toNat
    x.checks [(ILLEGAL_ENCODING, lanesWhere x.lanes fun l => decide (fld (v l 1) 31 24 ≠ 0) || decide (fld (v l 6) 31 5 ≠ 0), fun _ => 0),
      (ALIGNMENT, lanesWhere x.lanes fun l => (code l).getLsbD 0, code)] <|
    x.spawn ((lanesOf x.lanes).map fun l =>
      x.s.recordOf x.g (code l) (x.g.vpair l (a.toNat + 2)) (x.g.vpair l (a.toNat + 4)) (v l 6).toNat)

/-- spawn.s: one record, from three scalars (R297). -/
def execSpawnS (a : BitVec 7) (s : State) : Result :=
  issue { size := 4, ops := [.sca a.toNat 3] } s fun x =>
    let c := x.g.sreg a.toNat
    if fld c 63 61 ≠ 0 then x.raise ILLEGAL_ENCODING x.lanes 0
    else if c.getLsbD 0 then x.raise ALIGNMENT x.lanes (pcOf c)
    else x.spawn [x.s.recordOf x.g (pcOf c) (x.g.sreg (a.toNat + 1)) (x.g.sreg (a.toNat + 2)) (fld c 60 56)]

/-- A spawn is performed, as a release at mod scope, once the gang's earlier accesses are and the deque has room: its records go onto
the deque in lane order (R297). -/
def State.spawnPerform (s : State) (g o : Nat) : Option State :=
  match s.op? g o with
  | some (x, y) => match y.body with
    | .spawn rs =>
      let cu := s.cuOf x
      let origin := (s.teamOf x).origin
      if s.mayRelease x o 4 && x.supplied y && (s.cu cu).dequeRoom rs.length then
        some ((rs.foldl (fun (t : State) r => t.pushCounted cu { words := r, origin := origin }) (s.releaseActs cu 4)).onGang g fun h => h.complete y)
      else none
    | _ => none
  | none => none

/-! ## Join counters (R298) -/

/-- jcadd: the checks of an 8-byte atomic, outside scratch (R204, R298). -/
def execJcadd (b a d : BitVec 7) (s : State) : Result :=
  issue { size := 4, ops := [.vec b.toNat 1, .vec a.toNat 2, .vec d.toNat 1] } s fun x =>
    let addr := fun l => x.g.vpair l a.toNat
    let target := fun l => match x.s.window x.g (addr l) with
      | some (.scratch _ _ _) => none
      | t => t
    x.access .modify 8 addr target fun ls t =>
      Issue.trackIn { x with s := t } t x.g x.slotA (.mem .jcadd ((ls.map fun e => laneAccesses x.g e 8 [b.toNat] [d.toNat]).foldr (· ++ ·) []))

/-- The four words of the continuation record of a join counter, each with what its address names and its translation. -/
def State.recordWalks (s : State) (g : Gang) (a : W64) : List (Option Target × Xlate) :=
  [8, 16, 24, 32].map fun n =>
    let t := s.window g (a + BitVec.ofNat 64 n)
    (t, match t with
      | some u => s.targetXlate g .read u
      | none => .protection)

/-- The place of a word of the record, none where the gang may not read it. -/
def walkPlace : Option Target × Xlate → Option Place
  | (some t, .ok pa _ _) => some (placeOf pa t)
  | _ => none

/-- The launch under which a continuation is pushed: one of the gang's address space that has not completed, where the record passes the
checks of R297 (R298). -/
def State.heir (s : State) (g : Gang) (r : BitVec 256) : Option Launch :=
  match recCause r with
  | some _ => none
  | none => (s.launch? (recLaunch r)).bind fun l => if l.origin.asid = s.asidOf g then some l else none

/-- A join counter has reached 0: its continuation is pushed, and the lane receives 1, or is invalid, and it receives 2. None where the push must
wait. -/
def State.joined (s : State) (g : Gang) (a : W64) : Option (State × W32) :=
  let ws := s.recordWalks g a
  if ws.any fun w => decide (w.2 = .wait) then none
  else
    let t := ws.foldl (fun (t : State) w => t.translated (s.cuOf g) (s.asidOf g) .read w.1 w.2) s
    match ws.mapM walkPlace with
    | none => some (t, 2)
    | some ps =>
      if !ps.all fun p => s.accessible p 8 then none
      else
        let r := BitVec.ofNat 256 (leNat ((ps.map fun p => s.homeBytes p 8).foldr (· ++ ·) []))
        match s.heir g r with
        | none => some (t, 2)
        | some l =>
          if (s.cu (s.cuOf g)).dequeRoom 1 then
            some (t.pushCounted (s.cuOf g) { words := recFor r (recLaunch r) (recChain r) (pktPrio l.origin.packet), origin := l.origin }, 1)
          else none

/-- One lane of a jcadd at its home. -/
def State.joinOne (s : State) (g : Gang) (a : Access) : Option (State × Landing) :=
  let v := ((a.values.getD []).getD 0 0).signExtend 64
  let t := s.rmw (s.cuOf g) a.place 8 fun m => (BitVec.ofNat 64 m + v).toNat
  let land := fun (w : W32) => ⟨a.lane, a.dst.headD 0, w⟩
  if leNat (t.homeBytes a.place 8) = 0 then (t.joined g a.addr).map fun r => (r.1, land r.2) else some (t, land 0)

/-- Every lane of a jcadd in ascending order, where none must wait. -/
def State.joinAll (g : Gang) : List Access → State → Option (State × List Landing)
  | [], s => some (s, [])
  | a :: r, s => match s.joinOne g a with
    | none => none
    | some x => (State.joinAll g r x.1).map fun y => (y.1, x.2 :: y.2)

/-- Whether a jcadd may be performed, but for the pushes it makes: it is a release at mod scope (R298). -/
def State.joinReady (s : State) (x : Gang) (y : Op) (accs : List Access) : Bool :=
  s.mayRelease x y.id 4 && x.supplied y && accs.all fun a => a.values.isSome && s.ready (s.cuOf x) y.id a.place 8

/-- Performs a jcadd, unless a push of it must wait. -/
def State.join (s : State) (x : Gang) (accs : List Access) : Option (State × List Landing) := State.joinAll x accs (s.releaseActs (s.cuOf x) 4)

/-- JCADD_PERFORM (R298): a release at mod scope, then the adds at their homes with the pushes they make, and the results. -/
def execJcaddPerform (g o : Nat) (s : State) : Result :=
  match s.op? g o with
  | none => .fault .notEnabled
  | some (x, y) => match y.body with
    | .mem .jcadd accs =>
      if s.joinReady x y accs then
        match s.join x accs with
        | some r => .next (r.1.onGang g fun h => h.complete { y with land := r.2 })
        | none => .fault .notEnabled
      else .fault .notEnabled
    | _ => .fault .notEnabled

/-! ## Launches (R299) -/

/-- How many launches of the gangs still have to join a queue. -/
def State.launching (s : State) (q : Nat) : Nat :=
  (s.gangs.map fun g => (g.ops.filter fun o => match o.body with
    | .launch _ n _ queued => decide (n = q) && !queued
    | _ => false).length).foldl (· + ·) 0

/-- The packet that a gang's launch submits: JOB, PHASE and LTG are the issuer's. -/
def State.ownPacket (s : State) (g : Gang) (p : BitVec 512) : BitVec 512 :=
  setFld (setFld (setFld p 367 352 (s.jobOf g).toNat) 347 336 (s.phaseOf g).toNat) 236 224 (pktLtg (s.teamOf g).origin.packet)

/-- Whether device code of a gang's address space may use a queue. -/
def State.mayUse (s : State) (g : Gang) (q : W64) : Option Queue :=
  (s.queue? q.toNat).bind fun x => if q.toNat ≤ 255 ∧ x.hostOwned = false ∧ x.asid = s.asidOf g then some x else none

/-- launch: the checks in their order, then an operation that joins the queue once the release is performed (R299). -/
def execLaunch (b a d : BitVec 7) (s : State) : Result :=
  issue { size := 4, ops := [.sca b.toNat 1, .sca a.toNat 1, .sca d.toNat 1] } s fun x =>
    let t := x.s.teamOf x.g
    let off := x.g.sreg a.toNat
    let q := x.g.sreg b.toNat
    if off.toNat % 8 ≠ 0 then x.raise ALIGNMENT x.lanes off
    else if t.scratchZ < off.toNat + 64 then x.raise SCRATCH_RANGE x.lanes off
    else match x.s.mayUse x.g q with
      | none => x.raise ADDRESS_WINDOW x.lanes q
      | some k =>
        x.whenRead (.scratch t.id off.toNat) 64 <|
        let p := x.s.ownPacket x.g (BitVec.ofNat 512 (readNat t.scratch off.toNat 64))
        if pktPrio p = 23 ∧ x.s.system x.g = false then x.raise PRIVILEGE x.lanes off
        else match x.s.packetCause p (x.s.asidOf x.g) with
          | some c => x.raise c x.lanes off
          | none =>
            if k.depth ≤ k.entries.length + x.s.launching k.num then x.stall (.queueFull k.num)
            else x.trackIn x.s x.g x.slotA (.launch p k.num d.toNat false)

/-- A launch joins its queue, as a release at mod scope, once the gang's earlier accesses are performed (R299). -/
def State.launchEnqueue (s : State) (g o : Nat) : Option State :=
  match s.op? g o with
  | some (x, y) => match y.body with
    | .launch p q dst false =>
      if s.mayRelease x o 4 && x.supplied y then
        let e : Entry := { packet := p, asid := s.asidOf x, submitter := .gang g o (s.teamOf x).origin.id }
        some (((s.releaseActs (s.cuOf x) 4).onGang g fun h => h.mapOp o fun z => { z with body := .launch p q dst true }).onQueue q fun k =>
          { k with entries := k.entries ++ [e] })
      else none
    | _ => none
  | none => none

/-! ## Cancels, level waits and priority (R300-R302) -/

/-- cancel.k: it completes at issue; the gang itself may be of the level (R295, R300). It is performed only when every load that may have supplied it has
completed, until when it stalls in place (R183; log 54). -/
def cancelWord (kind : Nat) (a : BitVec 7) (s : State) : Result :=
  issue { size := 4, ops := [.sca a.toNat 1] } s fun x =>
    if x.g.suppliers ≠ [] then x.stall .supply
    else .next ((x.s.setGang (x.g.advance x.f x.size).settle).cancel ⟨kind, (x.g.sreg a.toNat).toNat, x.s.jobOf x.g⟩
      (some (pktTable (x.s.teamOf x.g).origin.packet)))

/-- cancel.launch (R300). -/
def execCancelLaunch (a : BitVec 7) (s : State) : Result := cancelWord 0 a s
/-- cancel.chain (R300). -/
def execCancelChain (a : BitVec 7) (s : State) : Result := cancelWord 1 a s
/-- cancel.phase (R300). -/
def execCancelPhase (a : BitVec 7) (s : State) : Result := cancelWord 2 a s
/-- cancel.job (R300). -/
def execCancelJob (a : BitVec 7) (s : State) : Result := cancelWord 3 a s

/-- lvwait (R301). -/
def execLvwait (a : BitVec 7) (s : State) : Result :=
  issue { size := 4, ops := [.sca a.toNat 1] } s fun x =>
    let v := x.g.sreg a.toNat
    if fld v 63 29 ≠ 0xFA * 2 ^ 27 then x.raise ADDRESS_WINDOW x.lanes v
    else if v.toNat % 8 ≠ 0 then x.raise ALIGNMENT x.lanes v
    else if x.s.grantAt (x.s.asidOf x.g) (fld v 28 0) ≠ some .counter then x.raise PAGE_PROTECTION x.lanes v
    else x.trackIn x.s x.g x.slotA (.lvwait (fld v 28 0) (decide (x.s.count (fld v 28 0) = 0)))

/-- LVWAIT_COMPLETE (R301): a test has found COUNT = 0; an acquire at mod scope. -/
def execLvwaitComplete (g o : Nat) (s : State) : Result :=
  match s.op? g o with
  | none => .fault .notEnabled
  | some (x, y) => match y.body with
    | .lvwait off met =>
      if met || decide (s.count off = 0) then .next ((s.acquireActs (s.cuOf x) 4).onGang g fun h => h.complete y) else .fault .notEnabled
    | _ => .fault .notEnabled

/-- setprio: sr.prio := min(u64(Sc[A]), the launch's PRIO) (R302). -/
def execSetprio (a : BitVec 7) (s : State) : Result :=
  issue { size := 4, ops := [.sca a.toNat 1] } s fun x =>
    x.done { x.g with prio := BitVec.ofNat 5 (min (x.g.sreg a.toNat).toNat (pktPrio (x.s.teamOf x.g).origin.packet)) }

end Sys2Proof.Machine
end

