-- ==== Sys2Proof/Machine/Refine.lean ====
section
/-!
DEFINITION. The refining slots: the ref words (R306-R316), mirrors (R312), subscriptions with their re-fires and cancels (R313-R315), and the
order in which operations are performed at a slot's home (R317).
-/
namespace Sys2Proof.Machine

/-! ## The checks of a ref word (R307) -/

/-- Whether the gang has an outstanding ref operation on the slot at a common offset. -/
def Gang.onSlot (g : Gang) (off : Nat) : Bool := g.ops.any fun o => match o.body with
  | .ref _ n => decide (n = off)
  | _ => false

/-- The checks of the slot address; the home answers the last of them after the gang's earlier operations on the slot. `live` asks for a live
slot. -/
def Issue.withSlot (x : Issue) (a : W64) (live : Bool) (k : Nat → Result) : Result :=
  let off := fld a 28 0
  if fld a 63 29 ≠ 0xFA * 2 ^ 27 then x.raise ADDRESS_WINDOW x.lanes a
  else if off % 64 ≠ 0 then x.raise ALIGNMENT x.lanes a
  else if x.s.grantAt (x.s.asidOf x.g) off ≠ some .slot then x.raise PAGE_PROTECTION x.lanes a
  else if x.g.acquiring then x.stall .acquire
  else if x.g.onSlot off then x.stall (.slot off)
  else if live && (x.s.slot? off).isNone then x.raise PAGE_PROTECTION x.lanes a
  else k off

/-- Issues a ref operation on slot A (R306). -/
def Issue.ref (x : Issue) (k : RefKind) (off : Nat) : Result := x.trackIn x.s x.g x.slotA (.ref k off)

/-- The tile size of the slot at a common offset. -/
def State.tileSize (s : State) (off : Nat) : Nat := 64 * hdrTsz (s.header off)

/-- The checks of the scratch offset of a tile: ALIGNMENT, then SCRATCH_RANGE (R309, R311). -/
def Issue.withTile (x : Issue) (b : W64) (off : Nat) (k : Result) : Result :=
  if b.toNat % 8 ≠ 0 then x.raise ALIGNMENT x.lanes b
  else if (x.s.teamOf x.g).scratchZ < b.toNat + x.s.tileSize off then x.raise SCRATCH_RANGE x.lanes b
  else k

/-- How many publishes to a slot are outstanding. -/
def State.publishing (s : State) (off : Nat) : Nat :=
  (s.gangs.map fun g => (g.ops.filter fun o => match o.body with
    | .ref (.rpub _ _ _ _) n => decide (n = off)
    | _ => false).length).foldl (· + ·) 0

/-- Whether the outstanding publishes to an open slot may leave no version for one more, though one is left now: its home cannot answer the
VERSION_OVERFLOW check yet (R307, R309). -/
def State.lastVersion (s : State) (off : Nat) : Bool :=
  let h := s.header off
  !hdrFin h && decide (hdrVer h < 0xFFFFFFFF) && decide (0xFFFFFFFF ≤ hdrVer h + s.publishing off)

/-- rpub and rpubk (R309, R310). -/
def publishWord (keyed : Bool) (b a : BitVec 7) (c : BitVec 3) (s : State) : Result :=
  issue { size := 4, ops := [.sca b.toNat 1, .sca a.toNat 1, .le c.toNat 4] } s fun x =>
    let v := x.g.sreg a.toNat
    let t := x.g.sreg b.toNat
    x.withSlot v true fun off => x.withTile t off <|
      let h := x.s.header off
      if !hdrFin h && decide (hdrVer h = 0xFFFFFFFF) then x.raise VERSION_OVERFLOW x.lanes v
      else if x.s.lastVersion off then x.stall (.version off)
      else x.ref (.rpub keyed c.toNat t.toNat a.toNat) off

/-- rpub (R309). -/
def execRpub (b a : BitVec 7) (c : BitVec 3) (s : State) : Result := publishWord false b a c s
/-- rpubk (R309). -/
def execRpubk (b a : BitVec 7) (c : BitVec 3) (s : State) : Result := publishWord true b a c s

/-- rread (R311). -/
def execRread (b a : BitVec 7) (c : BitVec 3) (s : State) : Result :=
  issue { size := 4, ops := [.sca b.toNat 1, .sca a.toNat 1, .le c.toNat 4] } s fun x =>
    let t := x.g.sreg b.toNat
    x.withSlot (x.g.sreg a.toNat) true fun off => x.withTile t off (x.ref (.rread c.toNat t.toNat a.toNat) off)

/-- rver (R311). -/
def execRver (a d : BitVec 7) (s : State) : Result :=
  issue { size := 4, ops := [.sca a.toNat 1, .sca d.toNat 1] } s fun x =>
    x.withSlot (x.g.sreg a.toNat) true fun off => x.ref (.rver d.toNat) off

/-- The record of four scalars, low word first. -/
def Gang.recordAt (g : Gang) (b : Nat) : BitVec 256 := g.sreg (b + 3) ++ g.sreg (b + 2) ++ g.sreg (b + 1) ++ g.sreg b

/-- rsub (R313): the record's checks, LAUNCH and the clamp of PRIO. -/
def subscribeWord (cancel : Bool) (b a : BitVec 7) (s : State) : Result :=
  issue { size := 4, ops := [.sca b.toNat 4, .sca a.toNat 1] } s fun x =>
    x.withSlot (x.g.sreg a.toNat) true fun off =>
      let r := x.g.recordAt b.toNat
      match recCause r with
      | some c => x.raise c x.lanes (if c = ALIGNMENT then (recCode r).setWidth 64 else 0)
      | none =>
        x.ref (.rsub cancel (recFor r (x.s.launchOf x.g) (recChain r) (pktPrio (x.s.teamOf x.g).origin.packet)) a.toNat) off

/-- rsub:mode=rerun (R313). -/
def execRsubRerun (b a : BitVec 7) (s : State) : Result := subscribeWord false b a s
/-- rsub:mode=cancel (R313). -/
def execRsubCancel (b a : BitVec 7) (s : State) : Result := subscribeWord true b a s

/-- runsub (R313). -/
def execRunsub (b a : BitVec 7) (s : State) : Result :=
  issue { size := 4, ops := [.sca b.toNat 1, .sca a.toNat 1] } s fun x =>
    x.withSlot (x.g.sreg a.toNat) true fun off => x.ref (.runsub (x.g.sreg b.toNat)) off

/-- rstop (R316). -/
def execRstop (a : BitVec 7) (s : State) : Result :=
  issue { size := 4, ops := [.sca a.toNat 1] } s fun x => x.withSlot (x.g.sreg a.toNat) true fun off => x.ref .rstop off

/-- rsettle (R316). -/
def execRsettle (a : BitVec 7) (s : State) : Result :=
  issue { size := 4, ops := [.sca a.toNat 1] } s fun x => x.withSlot (x.g.sreg a.toNat) true fun off =>
    x.trackIn x.s x.g x.slotA (.rsettle off (settled (x.s.header off)))

/-- Whether a span of common memory overlaps a live slot that starts elsewhere, or one that an outstanding rinit makes (R308). -/
def State.slotInWay (s : State) (off len : Nat) : Bool :=
  let hit := fun (o n : Nat) => decide (o ≠ off) && decide (o < off + len) && decide (off < o + n)
  (s.slots.any fun x => hit x.off (64 + s.tileSize x.off)) || s.gangs.any fun g => g.ops.any fun o => match o.body with
    | .ref (.rinit _ t) n => hit n (64 + t)
    | _ => false

/-- rinit (R308). -/
def execRinit (b a : BitVec 7) (k : BitVec 3) (s : State) : Result :=
  issue { size := 4, ops := [.sca b.toNat 1, .sca a.toNat 1, .le k.toNat 6] } s fun x =>
    let v := x.g.sreg a.toNat
    let t := x.g.sreg b.toNat
    x.withSlot v false fun off =>
      if t.toNat % 64 ≠ 0 ∨ t.toNat < 64 ∨ 4096 < t.toNat then x.raise ILLEGAL_ENCODING x.lanes t
      else if 65536 < off % 65536 + 64 + t.toNat ∨ x.s.slotInWay off (64 + t.toNat) = true then x.raise PAGE_PROTECTION x.lanes v
      else x.ref (.rinit k.toNat t.toNat) off

/-! ## Mirrors (R312) -/

/-- The first 64 bytes of a slot's tile. -/
def State.tile64 (s : State) (off : Nat) : BitVec 512 := BitVec.ofNat 512 (readNat s.common (off + 64) 64)

/-- Writes a slot's state into every mirror entry it has. -/
def State.mirror (s : State) (off : Nat) : State :=
  { s with mirrors := s.mirrors.map fun m =>
      if m.off = off then { m with version := versionWord (s.header off), tile := s.tile64 off, valid := true, bad := false } else m }

/-- Marks every entry of a slot invalid. -/
def State.unmirror (s : State) (off : Nat) : State := { s with mirrors := s.mirrors.map fun m => if m.off = off then { m with valid := false } else m }

/-- The valid entry of a slot in a cluster. -/
def State.mirror? (s : State) (cluster off : Nat) : Option Mirror :=
  s.mirrors.find? fun m => decide (m.cluster = cluster) && decide (m.off = off) && m.valid

/-- Whether the mirror entry that serves a gang's reads of a slot, if there is one, has no uncorrectable error (R357). -/
def State.mirrorSound (s : State) (g : Gang) (off : Nat) : Bool := ((s.mirror? (clusterOf (s.cuOf g)) off).map fun m => !m.bad).getD true

/-- A subscription from a cluster gives the slot an entry there, if it has none and one is free. -/
def State.allotMirror (s : State) (cluster off : Nat) : State :=
  let here := s.mirrors.filter fun m => decide (m.cluster = cluster)
  if here.any (fun m => decide (m.off = off)) || decide (64 ≤ here.length) then s
  else { s with mirrors := s.mirrors ++ [⟨cluster, off, versionWord (s.header off), s.tile64 off, true, false⟩] }

/-- The entry of a slot in a cluster is freed with the last subscription made from there. -/
def State.freeMirror (s : State) (cluster off : Nat) : State :=
  if (s.slot? off).any fun x => x.subs.any fun u => decide (clusterOf u.home = cluster) then s
  else { s with mirrors := s.mirrors.filter fun m => !(decide (m.cluster = cluster) && decide (m.off = off)) }

/-! ## Subscriptions (R313-R315) -/

/-- What a re-fire of a subscription of a slot names. -/
def Slot.refire (x : Slot) (u : Sub) : Refire := ⟨x.off, x.id, u.id⟩

/-- The pending re-fire of a subscription leaves its deque, counted as completed in its chain (R284). -/
def State.dropRefire (s : State) (x : Slot) (u : Sub) : State :=
  if u.pending then
    let away := fun (c : Cu) => { c with deque := c.deque.map fun l => (l.1, l.2.filter fun r => decide (r.refire ≠ some (x.refire u))) }
    let s1 : State := { s with cus := s.cus.map fun c => (c.1, away c.2) }
    s1.countDown (chainCounter (pktTable u.origin.packet) (recChain u.words).toNat)
  else s

/-- Discards the pending re-fire of a subscription of a slot (R313). -/
def State.discardRefire (s : State) (x : Slot) (u : Sub) : State := if u.pending then (s.dropRefire x u).unpend (x.refire u) else s

/-- Removes a subscription from a slot (R313). -/
def State.unsubscribe (s : State) (x : Slot) (u : Sub) : State :=
  (((s.discardRefire x u).onSlot x.off fun x => { x with subs := x.subs.filter fun v => decide (v.id ≠ u.id) }).onHeader x.off 74 64 fun n => n - 1).freeMirror
    (clusterOf u.home) x.off

/-- The lowest id that no subscription of a slot holds. -/
def Slot.freeId (x : Slot) : Nat := (((List.range 1024).map (· + 1)).find? fun i => x.subs.all fun u => decide (u.id ≠ i)).getD 0

/-- Whether a subscription gets a re-fire at a new version: a rerun one, no watch, without a pending re-fire (R313, R314). -/
def Sub.fires (u : Sub) : Bool := !u.cancel && !u.pending && decide (recCode u.words ≠ 0)

/-- The record of a re-fire. -/
def Slot.record (x : Slot) (u : Sub) : Record := { words := u.words, origin := u.origin, refire := some (x.refire u) }

/-- Makes the re-fire of one subscription (R314). -/
def State.refireOne (x : Slot) (s : State) (u : Sub) : State :=
  let r := x.record u
  if s.discards r then s
  else ((((s.onCu u.home fun c => c.push r).countUp true (chainCounter (pktTable u.origin.packet) (recChain u.words).toNat)).onSub x.off u.id fun u =>
    { u with pending := true }).onHeader x.off 85 75 fun n => n + 1)

/-- The pushes that the re-fires of a new version make: each home CU with their number. -/
def State.refirePushes (s : State) (x : Slot) : List (Nat × Nat) :=
  let us := x.subs.filter fun u => u.fires && !s.discards (x.record u)
  us.map fun u => (u.home, (us.filter fun v => decide (v.home = u.home)).length)

/-- A cancel subscription fires: it is removed, and its chain is cancelled if the chain is live (R315). -/
def State.cancelOne (x : Slot) (s : State) (u : Sub) : State :=
  (s.unsubscribe x u).cancel ⟨1, (recChain u.words).toNat, pktJob u.origin.packet⟩ (some (pktTable u.origin.packet))

/-- Whether a cancel subscription fires at a version: it is no watch, and the version is past its base (R313, R315). -/
def Sub.cancels (u : Sub) (ver : Nat) : Bool := u.cancel && decide (recCode u.words ≠ 0) && decide (u.base.toNat < ver)

/-- What a new version makes: re-fires, then the cancels (R309). -/
def State.fireSubs (s : State) (off : Nat) : State :=
  match s.slot? off with
  | none => s
  | some x =>
    let ver := hdrVer (s.header off)
    let s1 := (x.subs.filter Sub.fires).foldl (State.refireOne x) s
    (x.subs.filter fun u => u.cancels ver).foldl (State.cancelOne x) s1

/-! ## Performing at the home (R309, R311, R316, R317) -/

/-- Beats of R309: whether the new first word `n` beats the current first word `c`. -/
def beats (key : Nat) (n c : W32) : Bool :=
  let nan := fun (v : W32) => decide (fld v 30 23 = 255) && decide (fld v 22 0 ≠ 0)
  /- The f32 order as the order of numbers; both zeros are 0. -/
  let num := fun (v : W32) => if v.getLsbD 31 then -((fld v 30 0 : Nat) : Int) else ((fld v 30 0 : Nat) : Int)
  match key with
  | 0 => true
  | 1 => n.slt c
  | 2 => n.ult c
  | 3 => !nan n && (nan c || decide (num n < num c))
  | 4 => c.slt n
  | 5 => c.ult n
  | _ => !nan n && (nan c || decide (num c < num n))

/-- The bytes of the team's scratch that a tile takes: those of the slot's tile that the allotment holds. -/
def State.tileSpan (s : State) (g : Gang) (off tile : Nat) : Nat := min (s.tileSize off) ((s.teamOf g).scratchZ - tile)

/-- The bytes that a publish has read of its tile. -/
def State.published (s : State) (g : Gang) (off tile : Nat) : List Byte := bytesAt (s.teamOf g).scratch tile (s.tileSpan g off tile)

/-- Whether the current tile of a slot turns a publish away (R309). -/
def State.outdone (s : State) (g : Gang) (keyed : Bool) (off tile : Nat) : Bool :=
  let h := s.header off
  keyed && decide (hdrVer h ≠ 0) && !beats (hdrKey h) (BitVec.ofNat 32 (leNat ((s.published g off tile).take 4))) (read32 s.common (off + 64))

/-- A publish at its home: the state and the status (R309). -/
def State.publish (s : State) (g : Gang) (keyed : Bool) (scope off tile : Nat) : State × W64 :=
  let h := s.header off
  let t := s.published g off tile
  if hdrFin h then (s, 0xFFFFFFFFFFFFFFFF)
  else if s.outdone g keyed off tile then (s, 0)
  else
    let ver := min (hdrVer h + 1) 0xFFFFFFFF
    let s1 := { s with common := storeBytes s.common (off + 64) t }
    let s2 := s1.setHeader off (setFld (setFld h 31 0 ver) 39 37 scope)
    let s3 := if scope = 2 ∨ scope = 3 then s2.mirror off else s2.unmirror off
    (s3.fireSubs off, BitVec.ofNat 64 ver)

/-- What a read of a slot gives: the version word and the tile, from the cluster's mirror where that may serve it (R311). -/
def State.readSlot (s : State) (cu off : Nat) : W64 × List Byte :=
  match s.mirror? (clusterOf cu) off with
  | some m => if s.tileSize off = 64 then (m.version, leBytes 64 m.tile.toNat) else (versionWord (s.header off), bytesAt s.common (off + 64) (s.tileSize off))
  | none => (versionWord (s.header off), bytesAt s.common (off + 64) (s.tileSize off))

/-- The version word as rver reads it (R311). -/
def State.readVersion (s : State) (cu off : Nat) : W64 :=
  match s.mirror? (clusterOf cu) off with
  | some m => m.version
  | none => versionWord (s.header off)

/-- A subscription is recorded (R313): the state and the id, or 0. -/
def State.subscribe (s : State) (g : Gang) (cancel : Bool) (rec : BitVec 256) (off : Nat) : State × W64 :=
  match s.slot? off with
  | none => (s, 0)
  | some x =>
    if hdrFin (s.header off) || decide (1024 ≤ x.subs.length) then (s, 0)
    else
      let id := x.freeId
      let u : Sub := { id := id, cancel := cancel, words := rec, origin := (s.teamOf g).origin, home := s.cuOf g, base := BitVec.ofNat 32 (hdrVer (s.header off)) }
      (((s.onSlot off fun x => { x with subs := x.subs ++ [u] }).onHeader off 74 64 fun n => n + 1).allotMirror (clusterOf (s.cuOf g)) off, BitVec.ofNat 64 id)

/-- rinit at its home (R308): the pending re-fires of the old slot are discarded with it, in one change. A slot that is live keeps its number, since its running
re-fires go on counting in it. -/
def State.initSlot (s : State) (off key size : Nat) : State :=
  let was := s.slot? off
  let s1 := match was with
    | some x => x.subs.foldl (fun (s : State) u => s.dropRefire x u) s
    | none => s.bump
  let run := if was.isSome then hdrNrun (s1.header off) else 0
  let h := setFld (setFld (setFld (setFld (0 : BitVec 512) 127 96 run) 46 40 (size / 64)) 36 36 1) 35 33 key
  let s2 : State := { s1 with
    common := storeNat s1.common (off + 64) size 0
    mirrors := s1.mirrors.filter fun m => decide (m.off ≠ off)
    slots := (s1.slots.filter fun x => decide (x.off ≠ off)) ++ [{ off := off, id := (was.map Slot.id).getD s.serial }] }
  s2.setHeader off h

/-- rstop at its home (R316). -/
def State.stopSlot (s : State) (off : Nat) : State :=
  if hdrFin (s.header off) then s else (s.setHeader off (setFld (s.header off) 32 32 1)).mirror off

/-- Whether the CU may move `n` bytes of the team's scratch for operation `o` now. -/
def State.tileFree (s : State) (g : Gang) (o tile n : Nat) : Bool :=
  s.ready (s.cuOf g) o (.scratch g.team tile) n

/-- The pushes that a ref operation makes when it is performed: those of a publish that makes a version (R314). -/
def State.refPushes (s : State) (g : Gang) (k : RefKind) (off : Nat) : List (Nat × Nat) :=
  match k with
  | .rpub keyed _ tile _ => if hdrFin (s.header off) || s.outdone g keyed off tile then [] else ((s.slot? off).map s.refirePushes).getD []
  | _ => []

/-- Whether a ref operation may be performed now, but for the pushes that it makes; like every engine command it waits for the loads that supply it (R140,
R183). -/
def State.refReady (s : State) (g : Gang) (o : Op) (k : RefKind) (off : Nat) : Bool :=
  (g.ops.all fun p => decide (o.id ≤ p.id) || match p.body with
    | .ref _ n => decide (n ≠ off)
    | _ => true) &&
  s.accessible (.common off) (64 + s.tileSize off) && g.supplied o &&
  match k with
  | .rpub _ scope tile _ =>
    s.mayRelease g o.id scope && s.tileFree g o.id tile (s.tileSize off)
  | .rread _ tile _ => s.tileFree g o.id tile (s.tileSize off) && s.mirrorSound g off
  | .rver _ => s.mirrorSound g off
  | _ => true

/-- Whether a ref operation may be performed now. -/
def State.mayRef (s : State) (g : Gang) (o : Op) (k : RefKind) (off : Nat) : Bool :=
  s.refReady g o k off && (s.refPushes g k off).all fun p => (s.cu p.1).dequeRoom p.2

/-- The state after a ref operation has been performed at its home, with the scalar it writes. -/
def State.refDone (s : State) (g : Gang) (k : RefKind) (off : Nat) : State × Option (Nat × W64) :=
  let cu := s.cuOf g
  match k with
  | .rpub keyed scope tile a =>
    let r := (s.releaseActs cu scope).publish g keyed scope off tile
    (r.1, some (a, r.2))
  | .rread scope tile a =>
    let r := s.readSlot cu off
    let bs := r.2.take (s.tileSpan g off tile)
    ((s.onTeam g.team fun t => { t with scratch := storeBytes t.scratch tile bs }).acquireActs cu scope, some (a, r.1))
  | .rver d => (s, some (d, s.readVersion cu off))
  | .rsub cancel rec a =>
    let r := s.subscribe g cancel rec off
    (r.1, some (a, r.2))
  | .runsub id => (match (s.slot? off).bind fun x => (x.subs.find? fun u => decide (u.id = id.toNat)).map fun u => (x, u) with
    | some e => s.unsubscribe e.1 e.2
    | none => s, none)
  | .rstop => (s.stopSlot off, none)
  | .rinit key size => (s.initSlot off key size, none)

/-- REF_OP_PERFORM (R317): a refinement operation is performed at its slot's home, and completes. -/
def execRefOpPerform (g o : Nat) (s : State) : Result :=
  match s.op? g o with
  | none => .fault .notEnabled
  | some (x, y) => match y.body with
    | .ref k off =>
      if s.mayRef x y k off then
        let r := s.refDone x k off
        .next (r.1.onGang g fun h => (match r.2 with
          | some w => h.setSreg w.1 w.2
          | none => h).complete y)
      else .fault .notEnabled
    | _ => .fault .notEnabled

/-- RSETTLE_COMPLETE (R316): a test has found the slot settled; an acquire at mod scope. -/
def execRsettleComplete (g o : Nat) (s : State) : Result :=
  match s.op? g o with
  | none => .fault .notEnabled
  | some (x, y) => match y.body with
    | .rsettle off met =>
      if met || settled (s.header off) then .next ((s.acquireActs (s.cuOf x) 4).onGang g fun h => h.complete y) else .fault .notEnabled
    | _ => .fault .notEnabled

/-! ## Pushes that find no room (R291, R350) -/

/-- The pushes that an operation of a gang is due to make: each CU with how many records. A jcadd is due to make those that it would
make with a deque that has room. -/
def State.duePushes (s : State) (g : Gang) (y : Op) : List (Nat × Nat) :=
  let cu := s.cuOf g
  match y.body with
  | .spawn rs => if s.mayRelease g y.id 4 && g.supplied y then [(cu, rs.length)] else []
  | .mem .jcadd accs =>
    let wide := fun (c : Cu) => { c with spillMax := 2 ^ 64, spillAbsent := false, badDeque := false }
    if s.joinReady g y accs && (s.join g accs).isNone then
      match (s.onCu cu wide).join g accs with
      | some r => [(cu, (r.1.cu cu).records.length - (s.cu cu).records.length)]
      | none => []
    else []
  | .ref k off => if s.refReady g y k off then s.refPushes g k off else []
  | _ => []

/-- Whether an issued instruction of a gang cannot make its push because a spill region is exhausted: the gang issues no word meanwhile, like one whose word
stalls in place (R127, R291; log 39). -/
def State.pushStalls (s : State) (g : Gang) : Bool := g.ops.any fun y => (s.duePushes g y).any fun p => !(s.cu p.1).spillRoom p.2

/-- A push of a gang that must spill into an absent region asks the runtime once; the record goes to the die of the CU whose deque spills (R291, R350). -/
def State.spillFault (s : State) (g o : Nat) : Option State :=
  (s.op? g o).bind fun p => ((s.duePushes p.1 p.2).find? fun e => (s.cu e.1).spillsAway e.2).bind fun e =>
    if (s.requests.any fun r => decide (r.what = .spill g)) || p.1.crashed then none
    else if s.system p.1 then some ((s.onGang g fun h => { h with crashed := true }).send (.systemFault (dieOf e.1) (BitVec.ofNat 8 PAGE_NOT_PRESENT)))
    else some (s.request (dieOf e.1) 1 PAGE_NOT_PRESENT (s.handle p.1) (s.cu e.1).spillAddr (.spill g))

end Sys2Proof.Machine
end

