-- ==== Sys2Proof/Machine/Recovery.lean ====
section
/-!
DEFINITION. What the requests of the path do: units by handle (R344, R345), resume and refuse (R350), kill (R356), pre-emption and restore
(R351-R354), phase rollback (R358, R359), and what a cancel does at a clause boundary (R295).
-/
namespace Sys2Proof.Machine

/-! ## Units by handle (R344, R161) -/

/-- Whether a handle names a team, one of whose gangs is `gs`. -/
def handleNames (h : W64) (t : Team) (gs : List Gang) : Bool := gs.any fun g => decide (g.team = t.id) && decide (handleOf t g = h)

/-- The teams of the unit that a handle names: its whole cluster group, its team, or its task gang's team. -/
def unitOf (h : W64) (ts : List Team) (gs : List Gang) : List Team :=
  match ts.find? fun t => handleNames h t gs with
  | none => []
  | some t => if t.group.isSome then ts.filter fun x => decide (x.group = t.group) else [t]

/-- The gangs of some teams. -/
def State.gangsIn (s : State) (ts : List Nat) : List Gang := s.gangs.filter fun g => ts.contains g.team

/-! ## Kill (R356) and the end of a cancelled sub-group (R295) -/

/-- A gang issues nothing more: every lane has exited, whatever it waited for. -/
def Gang.die (g : Gang) : Gang :=
  { g.exitLanes g.lanes with killed := true, flight := none, stall := none, suspended := none, halt := .no, saving := false, withheld := [], crashed := false }

/-- The requests of gangs that are stopped name nothing any more, those of their engines excepted. -/
def State.dropWaits (s : State) (gs : List Nat) : State :=
  { s with requests := s.requests.filter fun r => match r.what with
      | .word g _ _ => !gs.contains g
      | .room g _ => !gs.contains g
      | _ => true }

/-- Kills the gangs of some teams. -/
def State.killTeams (s : State) (ts : List Nat) : State :=
  let gs := (s.gangsIn ts).map Gang.id
  let s1 : State := { s with
    gangs := s.gangs.map fun g => if ts.contains g.team then g.die else g
    savings := s.savings.filter fun v => v.teams.all fun t => !ts.contains t }
  (s1.dropWaits gs).prunePins

/-- A saved unit that is killed is gone, each of its teams counted as retired. Where copies were recorded with it, which always complete (R214), it is placed
once more with every lane ended, so that they complete before it retires (log 41). -/
def State.killSaved (s : State) (u : Saved) : State :=
  if u.gangs.any fun g => decide (g.copies ≠ []) then
    ({ s with
        saved := s.saved.map fun v => if v.area = u.area then { v with gangs := v.gangs.map Gang.die } else v
        restores := if s.restores.contains u.area then s.restores else s.restores ++ [u.area] } : State).prunePins
  else
  let s1 : State := { s with
    saved := s.saved.filter fun v => decide (v.area ≠ u.area), restores := s.restores.filter fun a => decide (a ≠ u.area)
    reserved := s.reserved.filter fun r => decide (r.1 ≠ Waiter.restore u.area) }
  (u.teams.foldl (fun (s : State) t =>
    if t.isTask then ((u.gangs.filter fun g => decide (g.team = t.id)).map Gang.packed).foldl (fun s ps => ps.foldl (fun s p => s.unpack t.origin p) s) s
    else s.unitDone t.origin) s1).prunePins

/-- The kill that a handle asks for: at once, even of a halted, saving or saved unit (R20, R353, R356). -/
def State.kill (s : State) (h : W64) : State :=
  match unitOf h s.teams s.gangs with
  | [] => match s.saved.find? fun u => decide (unitOf h u.teams u.gangs ≠ []) with
    | some u => s.killSaved u
    | none => s
  | ts => s.killTeams (ts.map Team.id)

/-- The lanes of a cancelled gang that stand at a clause boundary, blocked, or held: they end as if by exit (R295). -/
def Gang.ending (g : Gang) : Lanes :=
  if g.cancelled then
    lanesWhere g.lanes fun l =>
      !((g.flight.map fun f => f.lanes.getLsbD l).getD false) &&
      match (g.thread l).status with
      | .ready => decide ((g.thread l).place = none)
      | .blocked _ => true
      | .held => true
      | _ => false
  else 0

/-- Ends the lanes of a cancelled gang that stand where a cancel stops them; a fetch that suspends it there is forgotten. -/
def State.cancelExit (s : State) (g : Nat) : Option State :=
  (s.gang? g).bind fun x =>
    if x.ending = 0 then none
    else
      let atHeader := decide (x.flight = none)
      let s1 := s.setGang ({ x.exitLanes x.ending with suspended := if atHeader then none else x.suspended }).settle
      some ((if atHeader then s1.dropWaits [g] else s1).prunePins)

/-! ## Resume and refuse (R350) -/

/-- The request of a TAG. -/
def State.tag? (s : State) (t : W32) : Option TagReq := s.requests.find? fun r => decide (r.tag = t)

/-- A request is answered. -/
def State.answered (s : State) (t : W32) : State := { s with requests := s.requests.filter fun r => decide (r.tag ≠ t) }

/-- A copy that waited for the undo log tries again: in its check pass, or where it moves (R358). -/
def Copy.tryLog (c : Copy) : Copy := if c.stage = .moving then c else { c with stage := .checking none }

/-- A gang has stalled in place for as long as a free value says (R22, R342; log 6). -/
def Gang.waitedFor (g : Gang) (tick : Nat) : Gang := { g with stalls := g.stalls + BitVec.ofNat 64 (Config.idle tick) }

/-- A gang is suspended no longer; where a body word waited, that was a stall in place (R127, R342). -/
def State.unsuspend (s : State) (g : Nat) : State :=
  ({ s with tick := s.tick + 1 }).onGang g fun h => { (if h.flight.isSome then h.waitedFor s.tick else h) with suspended := none }

/-- sret.resume: the request goes ahead. A stalled word retries when its stall is seen to have ended. -/
def State.resume (s : State) (t : W32) : State :=
  match s.tag? t with
  | none => s
  | some r =>
    let s1 := s.answered t
    match r.what with
    | .word g _ _ => s1.unsuspend g
    | .copy g o => s1.onCopy g o fun c => { c with stage := .checking none }
    | .copyLog g o => s1.onCopy g o Copy.tryLog
    | .bag g o _ => s1.onEmbag g o fun e => { e with waiting := none }
    | .seed l => s1.answerSeed l true
    | .command c => { s1 with commands := s1.commands.filter fun e => decide (e.1 ≠ c) }
    | _ => s1

/-- The refusal of a suspended word, whose `size` is known, or of a fetch: PAGE_NOT_PRESENT in its faulting lanes. Both returns from a refused fetch go
to the word; `tret:at=next` passes over a word that was fetched (R59, R350). -/
def State.refuseWord (s : State) (g : Gang) (t : Lanes) (addr : W64) (size : Option Nat) : State :=
  match g.flight with
  | none =>
    let l := g.thread (lowestLane t)
    s.trap g { lanes := t, pc := l.pc, place := none } PAGE_NOT_PRESENT t addr false 0
  | some f => s.trap g f PAGE_NOT_PRESENT t addr size.isSome (size.getD 0)

/-- The refusal of a graph reservation: GRAPH_CAPACITY at the word. A word that waits for the undo log tries again. -/
def State.refuseRoom (s : State) (g : Gang) (addr : W64) : State :=
  match g.stall, g.flight with
  | some (.capacity _), some f => ({ s with tick := s.tick + 1 }).trap { g.waitedFor s.tick with stall := none } f GRAPH_CAPACITY f.lanes addr true 4
  | _, _ => s

/-- sret.refuse: the request's cause is delivered, or its engine fails. -/
def State.refuse (s : State) (t : W32) : State :=
  match s.tag? t with
  | none => s
  | some r =>
    let s1 := s.answered t
    match r.what with
    | .word g ls n => match (s1.unsuspend g).gang? g with
      | some x => (s1.unsuspend g).refuseWord x ls r.addr n
      | none => s1
    | .room g a => match s1.gang? g with
      | some x => s1.refuseRoom x a
      | none => s1
    | .copy g o => s1.onCopy g o fun c => { c with stage := .checking none, fail := some (BitVec.ofNat 8 PAGE_NOT_PRESENT, r.addr) }
    | .copyLog g o => s1.onCopy g o Copy.tryLog
    | .bag g o b => s1.onEmbag g o fun e => e.refuse b
    | .spill g => match s1.gang? g with
      | some x => s1.killTeams [x.team]
      | none => s1
    | .seed l => s1.answerSeed l false
    | .command c => { s1 with commands := s1.commands.map fun e => if e.1 = c then (e.1, e.2.1, true) else e }
    | .engineLog => s1

/-! ## Pre-emption (R351-R353) -/

/-- The bytes of a save area (R352). -/
def Gang.areaBytes (g : Gang) : Nat := 4 * g.width * (g.vcount + 8) + 256 * g.width + 2048 + 128 * g.width
def Team.areaBytes (t : Team) : Nat := t.scratchZ + 33280 * t.macrosKept + 1024
def areaSize (ts : List Team) (gs : List Gang) : Nat := 4096 + (ts.map Team.areaBytes).foldl (· + ·) 0 + (gs.map Gang.areaBytes).foldl (· + ·) 0

/-- sret.save: the unit of a handle is asked to stop. A request for an area that is not a free one of HBM does nothing (log 11). -/
def State.save (s : State) (h area : W64) : State :=
  match unitOf h s.teams s.gangs with
  | [] => s
  | t :: ts =>
    let ids := (t :: ts).map Team.id
    let busy := s.savings.any fun v => decide (v.area = area) || v.teams.any fun i => ids.contains i
    if busy || (s.saved.any fun u => decide (u.area = area)) || decide (area.toNat % 4096 ≠ 0) ||
        !inHbm area.toNat (areaSize (t :: ts) (s.gangsIn ids)) then s
    else
      { s with
        gangs := s.gangs.map fun g => if ids.contains g.team then { g with saving := true } else g
        savings := s.savings ++ [{ area := area, die := dieOf t.cu, teams := ids, handle := h }] }

/-- Whether a gang has drained for a save: it stands at resumable points, among them the body word at which a debug step or a watch left a halted gang,
and only condition operations and held copies are left (R134, R351). -/
def State.drained (s : State) (g : Gang) : Bool :=
  (decide (g.flight = none) || decide (g.halt = .halted)) && g.suspended.isNone && g.stall.isNone &&
  (g.ops.all fun o => o.isCondition || s.heldCopy g o) && !s.reducing g

/-- The gang with the threads of its flight where they stand: a halted gang in mid-body is saved with them at their body word (R134). -/
def Gang.grounded (g : Gang) : Gang :=
  match g.flight with
  | none => g
  | some f => { g.mapLanes f.lanes (fun _ t => { t with pc := f.pc, place := f.place, status := .ready }) with flight := none }

/-- Whether a stack that holds part of an area waits for a retrain or runs one (R355). -/
def State.areaRetrains (s : State) (area size : Nat) : Bool :=
  s.hbmStacks.any fun e => decide (e.2 ≠ .idle) && (List.range ((size + 63) / 64)).any fun i => decide (Config.stackOf (area / 64 + i) = e.1)

/-- What the device writes into an area (log 11). -/
def areaContent (tick area size : Nat) : List Byte := (List.range size).map fun i => Config.areaByte tick (area + i)

/-- SAVE_STREAM (R351): the release at mod scope, the state into the area, the resources free, and the SAVED record. -/
def execSaveStream (area : W64) (s : State) : Result :=
  match s.savings.find? fun v => decide (v.area = area) with
  | none => .fault .notEnabled
  | some v =>
    let ts := s.teams.filter fun t => v.teams.contains t.id
    let gs := s.gangsIn v.teams
    let size := areaSize ts gs
    if gs.all s.drained && (ts.all fun t => s.flushable t.cu) && !s.areaRetrains area.toNat size then
      let s1 := ts.foldl (fun (s : State) t => s.releaseActs t.cu 4) s
      let s2 : State := { s1 with
        phys := storeBytes s1.phys area.toNat (areaContent s1.tick area.toNat size)
        tick := s1.tick + 1
        gangs := s1.gangs.filter fun g => !v.teams.contains g.team
        teams := s1.teams.filter fun t => !v.teams.contains t.id
        savings := s1.savings.filter fun x => decide (x.area ≠ area)
        saved := s1.saved ++ [{ area := area, teams := s1.teams.filter fun t => v.teams.contains t.id, gangs := (s1.gangsIn v.teams).map Gang.grounded }] }
      .next (s2.record v.die 3 0 0 v.handle area)
    else .fault .notEnabled

/-- DEADLINE_OVERRUN (R353): a save passes the deadline of sr.pdead, and goes on. -/
def execDeadlineOverrun (area : W64) (s : State) : Result :=
  match s.savings.find? fun v => decide (v.area = area) with
  | none => .fault .notEnabled
  | some v =>
    if (s.die v.die).pdead ≠ 0 ∧ v.overrun = false then
      let late := fun (x : Saving) => if x.area = area then { x with overrun := true } else x
      .next (({ s with savings := s.savings.map late }).record v.die 4 0 0 v.handle area)
    else .fault .notEnabled

/-- sret.restore: the unit of an area waits to be placed (R354). -/
def State.restore (s : State) (area : W64) : State :=
  if (s.saved.any fun u => decide (u.area = area)) && !s.restores.contains area then { s with restores := s.restores ++ [area] } else s

/-! ## Phase rollback (R358, R359) -/

/-- Whether a packet belongs to a phase. -/
def Phase.owns (p : Phase) (x : BitVec 512) : Bool := decide (pktJob x = p.job) && decide (pktPhase x = p.phase)

/-- The next state of an outcome, if it is one. -/
def nextState : Result → Option State
  | .next s => some s
  | _ => none

/-- Whether an operation is a command to an engine. -/
def Op.isEngine (o : Op) : Bool :=
  match o.body with
  | .copy _ => true
  | .matrix _ => true
  | .embag _ => true
  | _ => false

/-- What an engine may do next for a command. -/
def State.engineMoves (s : State) (g o : Nat) (b : OpBody) : List (Option State) :=
  match b with
  | .copy _ => [nextState (execCopyEngineStart g o s), s.recheckCopy g o, s.stepCopy g o 0, nextState (execCopyDataLanded g o s), s.followOn g o,
      nextState (execCopyComplete g o s)]
  | .matrix _ => [s.stepMatrix g o 0, nextState (execMatrixCommandComplete g o s)]
  | .embag _ => [s.stepEmbag g o 0, nextState (execEmbagComplete g o s)]
  | _ => []

/-- One step of the engines for the commands of some teams, where they need no answer of the runtime for it. -/
def State.engineStep (ts : List Nat) (s : State) : Option State :=
  (s.gangsIn ts).findSome? fun g => g.ops.findSome? fun o => (s.engineMoves g.id o.id o.body).findSome? fun t =>
    t.filter fun u => decide (u.requests.length = s.requests.length)

/-- Applies one undo record: the line's old bytes at its home; no CU keeps a copy, and an error there is gone. -/
def State.undoOne (s : State) (u : Undo) : State :=
  if u.common then
    { s with common := storeNat s.common (64 * u.line) 64 u.old.toNat, poisoned := s.poisoned.filter fun q => !overlap (.common (64 * u.line)) 64 q 1 }
  else
    { s with
      phys := storeNat s.phys (64 * u.line) 64 u.old.toNat
      poisoned := s.poisoned.filter fun q => !overlap (.phys (64 * u.line)) 64 q 1
      cus := s.cus.map fun c => (c.1, { c.2 with lines := c.2.lines.filter fun l => decide (l.line ≠ u.line) }) }

/-- Removes what the launches of a phase have: gangs with their operations, teams, saved areas, launches, waiting packets that gangs
submitted, the host's records since the phase began, and everything that waits for them. -/
def State.removePhase (s : State) (p : Phase) : State :=
  let mine := fun (o : Origin) => p.owns o.packet
  let ts := (s.teams.filter fun t => mine t.origin).map Team.id
  let gs := (s.gangsIn ts).map Gang.id
  let ids := (s.launches.filter fun l => mine l.origin).map fun l => l.origin.id
  let keepReq := fun (r : TagReq) => match r.what with
    | .word g _ _ => !gs.contains g
    | .room g _ => !gs.contains g
    | .copy g _ => !gs.contains g
    | .copyLog g _ => !gs.contains g
    | .bag g _ _ => !gs.contains g
    | .spill g => !gs.contains g
    | .seed l => !ids.contains l
    | _ => true
  let keepEntry := fun (e : Entry) => !p.owns e.packet || (decide (e.launch = none) && match e.submitter with
    | .host _ _ => true
    | .gang _ _ _ => false)
  { s with
    gangs := s.gangs.filter fun g => !gs.contains g.id
    teams := s.teams.filter fun t => !ts.contains t.id
    saved := s.saved.filter fun u => !u.teams.any fun t => mine t.origin
    savings := s.savings.filter fun v => !v.teams.any fun t => ts.contains t
    restores := s.restores.filter fun a => !s.saved.any fun u => decide (u.area = a) && u.teams.any fun t => mine t.origin
    reserved := s.reserved.filter fun r => match r.1 with
      | .launch i => !ids.contains i
      | .restore a => !s.saved.any fun u => decide (u.area = a) && u.teams.any fun t => mine t.origin
    launches := s.launches.filter fun l => !mine l.origin
    queues := s.queues.map fun q => { q with entries := q.entries.filter keepEntry }
    reds := s.reds.filter fun r => !r.sources.any fun x => gs.contains x.2.1
    requests := s.requests.filter keepReq
    held := let mine := fun (r : Completion) => decide (r.job = p.job) && decide (r.phase = p.phase)
      (s.held.filter fun r => !mine r) ++ p.start.held.filter mine }

/-- Restores the bytes of the counter and slot granules of an address space from the phase's start. -/
def State.restoreGranules (s : State) (p : Phase) : State :=
  (s.grants.filter fun g => decide (g.asid = p.asid) && decide (g.kind ≠ .data)).foldl (fun (s : State) g =>
    let lo := g.granule * 65536
    { s with common := (between p.start.common lo (lo + 65536)).foldl (fun m e => put m e.1 e.2) (outside s.common lo (lo + 65536)) }) s

/-- Whether a common offset lies in a slot granule of an address space. -/
def State.slotOf (s : State) (asid : BitVec 8) (off : Nat) : Bool := decide (s.grantAt asid off = some .slot)

/-- Restores slots, mirrors, graphs and deques of a phase's address space to the phase's start; a deque that then holds more than its SRAM spills. -/
def State.restoreStores (s : State) (p : Phase) : State :=
  let here := s.slotOf p.asid
  let others := s.graph.graphs.filter fun g => decide (g.asid ≠ p.asid)
  let gen := (others.map fun g => (g.history.map Commit.gen).foldl max 0).foldl max p.start.graph.gen
  let deque := fun (n : Nat) (c : Cu) =>
    let old := entry [] p.start.deques n
    let keep := fun (r : Record) => decide (r.origin.asid ≠ p.asid)
    let start := fun (r : Record) => decide (r.origin.asid = p.asid)
    let rest := c.deque.map fun l => (l.1, l.2.filter keep)
    old.foldl (fun d l => setEntry d l.1 (l.2.filter start ++ entry [] d l.1)) rest
  { s with
    slots := (s.slots.filter fun x => !here x.off) ++ p.start.slots.filter fun x => here x.off
    mirrors := (s.mirrors.filter fun m => !here m.off) ++ p.start.mirrors.filter fun m => here m.off
    graph := { s.graph with graphs := others ++ p.start.graph.graphs.filter (fun g => decide (g.asid = p.asid)), gen := gen }
    cus := s.cus.map fun c => (c.1, Cu.fitSram { c.2 with deque := deque c.1 c.2, view := min c.2.view gen, badDeque := false }) }

/-- The host's packets of a phase join their queues again, in the order of their acceptance; one that no queue took gives its record again. -/
def State.requeue (s : State) (p : Phase) : State :=
  let untaken := (p.packets.filter fun x => x.1.isNone).map Prod.snd
  untaken.foldl State.qputRefused <| (s.queues.map Queue.num).foldl (fun (s : State) n => s.onQueue n fun q =>
    { q with entries := (q.entries.filter fun e => decide (e.launch ≠ none)) ++
        ((p.packets.filter fun x => decide (x.1 = some n)).map fun x => { x.2 with launch := none }) ++ q.entries.filter fun e => decide (e.launch = none) })
    (s.onPhase p.job p.phase fun x => { x with packets := [] })

/-- Whether the undo log has been lost: an uncorrectable error lies in its records (R359). -/
def State.logLost (s : State) : Bool := s.poisoned.any fun q => overlap (.phys (s.logAt 0)) (128 * s.undo.length) q 1

/-- The completion record of a host's packet whose job has failed (R359, R368). -/
def Entry.failure (e : Entry) : Option Completion :=
  match e.submitter with
  | .host _ tag => some ⟨pktJob e.packet, pktPhase e.packet, BitVec.ofNat 8 UNCORRECTABLE, e.launch.getD 0, tag, 3⟩
  | .gang _ _ _ => none

/-- The job of a phase fails: its host's packets are enqueued no more, and each gives its record; those of the job that still wait in queues are gone
with them (R359, R368; log 53). -/
def State.failJob (s : State) (p : Phase) : State :=
  let waits := fun (e : Entry) => decide (e.launch = none) && decide (pktJob e.packet = p.job)
  let late := (s.queues.map fun q => q.entries.filter waits).flatten
  { (s.onEntries fun es => es.filter fun e => !waits e).onPhase p.job p.phase fun x => { x with packets := [] } with
    held := s.held ++ (p.packets.map Prod.snd).filterMap Entry.failure ++ late.filterMap Entry.failure }

/-- Lines with an error that memory holds are dropped from the caches (R357). -/
def State.dropBad (s : State) : State :=
  { s with cus := s.cus.map fun c => (c.1, { c.2 with
      lines := c.2.lines.filter fun l => !l.bad || decide (l.dirty ≠ 0)
      icode := c.2.icode.filter fun e => !c.2.badCode.contains e.1, badCode := [] }) }

/-- What is in progress in a phase ends: its gangs issue nothing more, the commands that they have issued to engines complete as far as nothing but time
holds them, and the phase's launches are removed with all they have (R359). -/
def State.endPhase (s : State) (p : Phase) : State :=
  let ts := (s.teams.filter fun t => p.owns t.origin.packet).map Team.id
  let alone := fun (g : Gang) => if ts.contains g.team then { g with ops := (g.ops.filter Op.isEngine).map fun o => { o with after := [] } } else g
  let s1 := s.killTeams ts
  let s2 : State := { s1 with gangs := s1.gangs.map alone }
  (exhaust (State.engineStep ts) (2 ^ 64) s2).removePhase p

/-- Rollback of every phase in progress on the module (R359); the ROLLED record goes to a die's ring. The stores are restored from the latest phase
back, so that they stand as at the start of the earliest one; a boundary that waits for other modules waits for them anew (R370, R371). -/
def State.rollback (s : State) (die : Nat) : State :=
  let ps := s.phases.filter fun p => decide (p.asid ≠ 0)
  let s1 := ps.foldl State.endPhase s
  let s2 : State := if s1.logLost then s1 else s1.undo.reverse.foldl State.undoOne s1
  let s3 := ps.reverse.foldl (fun (s : State) p => (s.restoreGranules p).restoreStores p) { s2 with undo := [] }
  let s4 := ps.foldl (if s1.logLost then State.failJob else State.requeue) s3
  let s5 : State := { s4.dropBad with phases := s4.phases.map fun p => { p with peersReady := false } }
  s5.prunePins.record die 7 0 0 noHandle 0

end Sys2Proof.Machine
end

