-- ==== Sys2Proof/Machine/Scalar.lean ====
section
/-!
DEFINITION. The scalar instructions (R105-R108), the moves between the files, and the special registers as they are read and written (R92-R94,
R109, R340, R72, R73).
-/
namespace Sys2Proof.Machine

/-- A scalar instruction with two sources: Sc[D] := r a b (R105). -/
def scalar2 (b a d : BitVec 7) (s : State) (r : W64 → W64 → W64) : Result :=
  issue { size := 4, ops := [.sca b.toNat 1, .sca a.toNat 1, .sca d.toNat 1] } s fun x =>
    x.done (x.g.setSreg d.toNat (r (x.g.sreg a.toNat) (x.g.sreg b.toNat)))

/-- A scalar immediate form: Sc[n] := r (old Sc[n]) (R107). -/
def scalarImm (n : BitVec 6) (s : State) (r : W64 → W64) : Result :=
  issue { size := 4, ops := [.sca n.toNat 1] } s fun x => x.done (x.g.setSreg n.toNat (r (x.g.sreg n.toNat)))

/-- A scalar compare: 1 when the condition holds, else 0 (R108). -/
def scalarCmp (b a d : BitVec 7) (s : State) (c : W64 → W64 → Bool) : Result := scalar2 b a d s fun a b => if c a b then 1 else 0

/-! ## sop (R105) -/

/-- sadd: R105. -/
def execSadd (b a d : BitVec 7) (s : State) : Result :=
  scalar2 b a d s fun a b => a + b

/-- ssub: R105. -/
def execSsub (b a d : BitVec 7) (s : State) : Result :=
  scalar2 b a d s fun a b => a - b

/-- smul: R105. -/
def execSmul (b a d : BitVec 7) (s : State) : Result :=
  scalar2 b a d s fun a b => a * b

/-- smulhiI64: R105. -/
def execSmulhiI64 (b a d : BitVec 7) (s : State) : Result :=
  scalar2 b a d s fun a b => (a.signExtend 128 * b.signExtend 128).extractLsb' 64 64

/-- sand: R105. -/
def execSand (b a d : BitVec 7) (s : State) : Result :=
  scalar2 b a d s fun a b => a &&& b

/-- sor: R105. -/
def execSor (b a d : BitVec 7) (s : State) : Result :=
  scalar2 b a d s fun a b => a ||| b

/-- sxor: R105. -/
def execSxor (b a d : BitVec 7) (s : State) : Result :=
  scalar2 b a d s fun a b => a ^^^ b

/-- sshl: R105. -/
def execSshl (b a d : BitVec 7) (s : State) : Result :=
  scalar2 b a d s fun a b => a <<< (b.toNat % 64)

/-- sshr: R105. -/
def execSshr (b a d : BitVec 7) (s : State) : Result :=
  scalar2 b a d s fun a b => a >>> (b.toNat % 64)

/-- ssar: R105. -/
def execSsar (b a d : BitVec 7) (s : State) : Result :=
  scalar2 b a d s fun a b => a.sshiftRight (b.toNat % 64)

/-- sminI64: R105. -/
def execSminI64 (b a d : BitVec 7) (s : State) : Result :=
  scalar2 b a d s fun a b => if b.slt a then b else a

/-- smaxI64: R105. -/
def execSmaxI64 (b a d : BitVec 7) (s : State) : Result :=
  scalar2 b a d s fun a b => if a.slt b then b else a

/-- sminN64: R105. -/
def execSminN64 (b a d : BitVec 7) (s : State) : Result :=
  scalar2 b a d s fun a b => if b.ult a then b else a

/-- smaxN64: R105. -/
def execSmaxN64 (b a d : BitVec 7) (s : State) : Result :=
  scalar2 b a d s fun a b => if a.ult b then b else a

/-- sdivN64: R105. -/
def execSdivN64 (b a d : BitVec 7) (s : State) : Result :=
  scalar2 b a d s fun a b => if b = 0 then -1 else a / b

/-- sremN64: R105. -/
def execSremN64 (b a d : BitVec 7) (s : State) : Result :=
  scalar2 b a d s fun a b => if b = 0 then a else a % b

/-! ## Immediates (R106, R107) and compares (R108) -/

/-- saddi: imm11 is sign-extended (R106). -/
def execSaddi (i : BitVec 11) (a d : BitVec 7) (s : State) : Result :=
  issue { size := 4, ops := [.sca a.toNat 1, .sca d.toNat 1] } s fun x =>
    x.done (x.g.setSreg d.toNat (x.g.sreg a.toNat + i.signExtend 64))

/-- sli: s := sext64(imm18) (R107). -/
def execSli (i : BitVec 18) (n : BitVec 6) (s : State) : Result :=
  scalarImm n s fun _ => i.signExtend 64

/-- sliu: s[63:14] := imm18 sign-extended, s[13:0] is kept (R107). -/
def execSliu (i : BitVec 18) (n : BitVec 6) (s : State) : Result :=
  scalarImm n s fun v => i.signExtend 50 ++ v.setWidth 14

/-- slih: s[63:32] := imm14 sign-extended, s[31:0] is kept (R107). -/
def execSlih (i : BitVec 14) (n : BitVec 6) (s : State) : Result :=
  scalarImm n s fun v => i.signExtend 32 ++ v.setWidth 32

/-- slihu: s[63:46] := imm18, s[45:0] is kept (R107). -/
def execSlihu (i : BitVec 18) (n : BitVec 6) (s : State) : Result :=
  scalarImm n s fun v => i ++ v.setWidth 46

/-- scmpEq: R108. -/
def execScmpEq (b a d : BitVec 7) (s : State) : Result :=
  scalarCmp b a d s fun a b => a == b

/-- scmpNe: R108. -/
def execScmpNe (b a d : BitVec 7) (s : State) : Result :=
  scalarCmp b a d s fun a b => a != b

/-- scmpLtI: R108. -/
def execScmpLtI (b a d : BitVec 7) (s : State) : Result :=
  scalarCmp b a d s fun a b => a.slt b

/-- scmpLeI: R108. -/
def execScmpLeI (b a d : BitVec 7) (s : State) : Result :=
  scalarCmp b a d s fun a b => a.sle b

/-- scmpGtI: R108. -/
def execScmpGtI (b a d : BitVec 7) (s : State) : Result :=
  scalarCmp b a d s fun a b => b.slt a

/-- scmpGeI: R108. -/
def execScmpGeI (b a d : BitVec 7) (s : State) : Result :=
  scalarCmp b a d s fun a b => b.sle a

/-- scmpLtN: R108. -/
def execScmpLtN (b a d : BitVec 7) (s : State) : Result :=
  scalarCmp b a d s fun a b => a.ult b

/-- scmpLeN: R108. -/
def execScmpLeN (b a d : BitVec 7) (s : State) : Result :=
  scalarCmp b a d s fun a b => a.ule b

/-- scmpGtN: R108. -/
def execScmpGtN (b a d : BitVec 7) (s : State) : Result :=
  scalarCmp b a d s fun a b => b.ult a

/-- scmpGeN: R108. -/
def execScmpGeN (b a d : BitVec 7) (s : State) : Result :=
  scalarCmp b a d s fun a b => b.ule a

/-! ## Special registers (R92, R340) -/

/-- What a read of sr.tcause, sr.tpc, sr.tmask or sr.taddr sees: the latest delivery to the lowest lane of the sub-group (R347). -/
def Gang.lastTrap (g : Gang) (f : Lanes) (r : Delivery → W64) : W64 :=
  match (g.thread (lowestLane f)).delivery with
  | some d => r d
  | none => 0

/-- A special register as lane `l` of the sub-group `f` reads it (R92, R93, R340). -/
def State.special (s : State) (g : Gang) (f : Lanes) (l n : Nat) : W64 :=
  let t := s.teamOf g
  let die := s.die (dieOf t.cu)
  match n with
  | 0 => g.showing (64 + l) (BitVec.ofNat 64 l)
  | 1 => g.showing 1 (BitVec.ofNat 64 g.width)
  | 2 => g.showing 2 (g.index.setWidth 64)
  | 3 => g.showing 3 (BitVec.ofNat 64 t.index)
  | 4 => (s.launchOf g).setWidth 64
  | 5 => (s.chainOf g).setWidth 64
  | 6 => (s.phaseOf g).setWidth 64
  | 7 => (s.jobOf g).setWidth 64
  | 8 => g.showing 8 (BitVec.ofNat 64 t.cu)
  | 9 => g.showing 9 (BitVec.ofNat 64 (clusterOf t.cu))
  | 10 => g.showing 10 (BitVec.ofNat 64 (dieOf t.cu))
  | 11 => g.showing 11 (BitVec.ofNat 64 t.rank)
  | 12 => g.fmode.setWidth 64
  | 13 => g.fstat.setWidth 64
  | 14 => g.cvsub.setWidth 64
  | 15 => g.lvt0
  | 16 => g.lvt1
  | 17 => g.gcur
  | 18 => g.prio.setWidth 64
  | 19 => g.lastTrap f fun d => d.cause.setWidth 64
  | 20 => g.lastTrap f fun d => pcOf d.pc
  | 21 => g.lastTrap f fun d => d.mask
  | 22 => g.lastTrap f fun d => d.addr
  | 23 => g.tvec.setWidth 64
  | 32 => g.showing 32 (t.origin.asid.setWidth 64)
  | 33 => s.ptbase
  | 34 => die.pdead.setWidth 64
  | 35 => g.dbsel.setWidth 64
  | 36 => BitVec.ofNat 64 (die.evring.toNat * 65536)
  | 37 => die.evtail
  | 38 => die.evhead
  | 39 => s.ulog
  | _ => 0

/-- Whether a value sets a bit that the special register does not have, or is no substitute at all (R72, R73, R340). -/
def reservedWrite (n : Nat) (v : W64) : Bool :=
  match n with
  | 12 => decide (fld v 63 3 ≠ 0)
  | 13 => decide (fld v 63 8 ≠ 0)
  | 14 => decide (fld v 63 32 ≠ 0) || decide (fld v 30 23 = 255)
  | 33 => decide (fld v 63 46 ≠ 0) || decide (fld v 10 0 ≠ 0)
  | 34 => decide (fld v 63 32 ≠ 0)
  | 35 => decide (fld v 63 7 ≠ 0)
  | 36 => decide (fld v 63 29 ≠ 0) || decide (fld v 15 0 ≠ 0)
  | 39 => decide (fld v 47 46 ≠ 0) || decide (fld v 15 0 ≠ 0)
  | _ => false

/-- The gang after a write of one of its own special registers; the others leave it (R92, R340). -/
def Gang.setSpecial (g : Gang) (n : Nat) (v : W64) : Gang :=
  match n with
  | 12 => { g with fmode := v.setWidth 3 }
  | 13 => { g with fstat := v.setWidth 8 }
  | 14 => { g with cvsub := v.setWidth 32 }
  | 15 => { g with lvt0 := v }
  | 16 => { g with lvt1 := v }
  | 17 => { g with gcur := v }
  | 23 => { g with tvec := v.setWidth 56 }
  | 35 => { g with dbsel := v.setWidth 7 }
  | _ => g

/-- The state after a write of a special register of a die or of the module; read-only and unassigned indices discard it (R92, R340, R344). -/
def State.setSpecial (s : State) (die n : Nat) (v : W64) : State :=
  match n with
  | 33 => { s with ptbase := v }
  | 34 => s.onDie die fun d => { d with pdead := v.setWidth 32 }
  | 36 => (s.onDie die fun d => { d with evring := BitVec.ofNat 13 (fld v 28 16), hasRing := true }).flushRing die
  | 38 => (s.onDie die fun d => { d with evhead := v }).flushRing die
  | 39 => { s with ulog := v }
  | _ => s

/-! ## Moves (R109) -/

/-- vbc: V[D][L] := Sc[B][31:0] (R109). -/
def execVbc (b d : BitVec 7) (s : State) : Result :=
  issue { size := 4, ops := [.sca b.toNat 1, .vec d.toNat 1] } s fun x =>
    x.done (x.g.setVreg x.lanes d.toNat fun _ => (x.g.sreg b.toNat).setWidth 32)

/-- vbch: V[D][L] := Sc[B][63:32] (R109). -/
def execVbch (b d : BitVec 7) (s : State) : Result :=
  issue { size := 4, ops := [.sca b.toNat 1, .vec d.toNat 1] } s fun x =>
    x.done (x.g.setVreg x.lanes d.toNat fun _ => (x.g.sreg b.toNat).extractLsb' 32 32)

/-- vget: Sc[D] := V[A][n] of any lane below the width, else 0 (R109). -/
def execVget (n : BitVec 6) (a d : BitVec 7) (s : State) : Result :=
  issue { size := 4, ops := [.vec a.toNat 1, .sca d.toNat 1] } s fun x =>
    x.done (x.g.setSreg d.toNat (if n.toNat < x.g.width then (x.g.peek n.toNat a.toNat).setWidth 64 else 0))

/-- vsr: bits [31:0] of a special register into each lane (R93). -/
def execVsr (a d : BitVec 7) (s : State) : Result :=
  issue { size := 4, ops := [.special a.toNat, .vec d.toNat 1], sys := systemIndex a.toNat } s fun x =>
    x.done (x.g.setVreg x.lanes d.toNat fun l => (x.s.special x.g x.lanes l a.toNat).setWidth 32)

/-- ssr: a special register into a scalar; sr.lane gives the lowest lane (R93). -/
def execSsr (a d : BitVec 7) (s : State) : Result :=
  issue { size := 4, ops := [.special a.toNat, .sca d.toNat 1], sys := systemIndex a.toNat } s fun x =>
    x.done (x.g.setSreg d.toNat (x.s.special x.g x.lanes (lowestLane x.lanes) a.toNat))

/-- wsr: writes a special register, after the checks of R94. -/
def execWsr (a d : BitVec 7) (s : State) : Result :=
  issue { size := 4, ops := [.sca a.toNat 1, .wspecial d.toNat], sys := systemIndex d.toNat } s fun x =>
    let v := x.g.sreg a.toNat
    if reservedWrite d.toNat v then x.raise ILLEGAL_ENCODING x.lanes 0
    else if d.toNat = 23 ∧ v.getLsbD 0 then x.raise ALIGNMENT x.lanes v
    else if d.toNat = 23 ∧ fld v 63 56 ≠ 0 then x.raise ADDRESS_WINDOW x.lanes v
    else x.doneIn (x.s.setSpecial (dieOf (x.s.cuOf x.g)) d.toNat v) (x.g.setSpecial d.toNat v)

end Sys2Proof.Machine
end

