-- ==== Sys2Proof/Machine/System.lean ====
section
/-!
DEFINITION. The sys word (R341-R345, R349): trap, brk, tret, the counters, fsclr, tlbinv, halt and sret; and the end of a stall in place
(R127).
-/
namespace Sys2Proof.Machine

/-! ## Traps and returns (R342, R349, R361) -/

/-- trap n: SOFTWARE_TRAP in every lane, with sr.taddr := n (R342). -/
def execTrap (n : BitVec 7) (s : State) : Result := issue { size := 4, ops := [] } s fun x => x.raise SOFTWARE_TRAP x.lanes (n.setWidth 64)

/-- brk: BREAKPOINT in every lane, under the routing of the watches; a gang that resumes past it goes on with the next word (R361). -/
def execBrk (s : State) : Result :=
  issue { size := 4, ops := [] } s fun x => if x.g.pastWatch then x.done x.g else x.breakpoint x.lanes 0

/-- A tret (R349): lanes without an unreturned delivery raise ILLEGAL_ENCODING; otherwise every lane returns. -/
def tretWord (next : Bool) (s : State) : Result :=
  issue { size := 4, ops := [] } s fun x =>
    let t := x.g.unreturned x.lanes
    if t = x.lanes then .next (x.s.setGang (((x.g.counted x.f).tret t next).settle)) else x.raise ILLEGAL_ENCODING (x.lanes &&& ~~~t) 0

/-- tret (R349). -/
def execTret (s : State) : Result := tretWord false s
/-- tret:at=next (R349). -/
def execTretNext (s : State) : Result := tretWord true s

/-! ## Counters (R342) -/

/-- A counter moved on by `n`. It stops at its greatest value, so that it never decreases (R342; log 6). -/
def later (c : W64) (n : Nat) : W64 := BitVec.ofNat 64 (min (2 ^ 64 - 1) (c.toNat + n))

/-- The cycle counter of a die moves on by some cycles, stretched ones among them while the die stretches (R22, R342; log 6). -/
def State.elapse (s : State) (die : Nat) : State :=
  let n := Config.cycles s.tick
  let late := fun (d : Die) => if d.stretching then min n (Config.idle s.tick) else 0
  ({ s with tick := s.tick + 1 }).onDie die fun d => { d with cycles := later d.cycles n, stretched := later d.stretched (late d) }

/-- rdcyc (R342). -/
def execRdcyc (d : BitVec 7) (s : State) : Result :=
  issue { size := 4, ops := [.sca d.toNat 1] } s fun x =>
    let die := dieOf (x.s.cuOf x.g)
    let t := x.s.elapse die
    x.doneIn t (x.g.setSreg d.toNat (t.die die).cycles)

/-- A performance counter as a gang reads it. -/
def State.counter (s : State) (g : Gang) (i : W64) : W64 :=
  let cu := s.cuOf g
  match i.toNat with
  | 0 => g.issues
  | 1 => g.words
  | 2 => g.laneOps
  | 3 => g.stalls
  | 4 => (s.cu cu).misses
  | 5 => (s.cu cu).walks
  | 6 => (s.die (dieOf cu)).stretched
  | _ => 0

/-- rdperf (R342). -/
def execRdperf (a d : BitVec 7) (s : State) : Result :=
  issue { size := 4, ops := [.sca a.toNat 1, .sca d.toNat 1] } s fun x =>
    let t := x.s.elapse (dieOf (x.s.cuOf x.g))
    x.doneIn t (x.g.setSreg d.toNat (t.counter x.g (x.g.sreg a.toNat)))

/-- fsclr: sr.fstat := 0 (R342). -/
def execFsclr (s : State) : Result := issue { size := 4, ops := [] } s fun x => x.done { x.g with fstat := 0 }

/-! ## tlbinv (R343) -/

/-- tlbinv: `inv` is the form, 4 more with ic = 1. -/
def tlbinvWord (inv : Nat) (b a : BitVec 7) (c : BitVec 1) (s : State) : Result :=
  issue { size := 4, ops := [.sca b.toNat 1, .sca a.toNat 1], sys := true } s fun x =>
    x.trackIn x.s x.g x.slotA (.tlbinv (inv + 4 * c.toNat) (x.g.sreg a.toNat) ((x.g.sreg b.toNat).setWidth 8))

/-- tlbinv:inv=page (R343). -/
def execTlbinvPage (b a : BitVec 7) (c : BitVec 1) (s : State) : Result := tlbinvWord 0 b a c s
/-- tlbinv:inv=asid (R343). -/
def execTlbinvAsid (b a : BitVec 7) (c : BitVec 1) (s : State) : Result := tlbinvWord 1 b a c s
/-- tlbinv:inv=all (R343). -/
def execTlbinvAll (b a : BitVec 7) (c : BitVec 1) (s : State) : Result := tlbinvWord 2 b a c s

/-- Whether a place is one of physical memory at which `f` holds of `n` bytes. -/
def physAt (f : Nat → Nat → Bool) (n : Nat) : Place → Bool
  | .phys a => f a n
  | _ => false

/-- Whether an operation has still to use translated global bytes of which `f` holds, given by address and number. -/
def Op.usesPages (f : Nat → Nat → Bool) (o : Op) : Bool :=
  match o.body with
  | .mem _ accs => accs.any fun a => !a.done && physAt f a.size a.place
  | .copy c => decide (c.stage = .moving) && c.fail.isNone && c.pages.any fun e => f e.2 65536
  | _ => false

/-- Whether a kept translation that `p` names leads to some of `n` bytes at a physical address. -/
def State.keptLeads (s : State) (p : Kept → Bool) (a n : Nat) : Bool :=
  s.cus.any fun c => c.2.kept.any fun k => p k && decide (k.frame < a + n) && decide (a < k.frame + k.size)

/-- Whether no operation has still to use a translation that is to go: one that operations before `o` found, or a kept one that `p` names, which later
operations may have used (R185, R343). -/
def State.pagesQuiet (s : State) (p : Kept → Bool) (o : Nat) : Bool :=
  (s.gangs.all fun g => g.ops.all fun q => !q.usesPages fun a n => decide (q.id < o) || s.keptLeads p a n) &&
  s.reds.all fun r => !physAt (fun a n => (r.sources.any fun x => decide (x.2.2 < o)) || s.keptLeads p a n) 4 r.place

/-- Whether every CU can write back its view cache now. -/
def State.allFlushable (s : State) : Bool := s.cus.all fun c => s.flushable c.1

/-- Every CU writes back its view cache, drops it, and drops the kept translations that `p` names; with `code` the instruction caches too (log 28). -/
def State.dropKept (s : State) (p : Kept → Bool) (code : Bool) : State :=
  let s1 := (s.cus.map Prod.fst).foldl State.writeBack s
  { s1 with cus := s1.cus.map fun c => (c.1, { c.2 with
      lines := [], kept := c.2.kept.filter (fun k => !p k)
      icode := if code then [] else c.2.icode, badCode := if code then [] else c.2.badCode }) }

/-- The kept translations that a tlbinv removes. -/
def invMatches (inv : Nat) (va : W64) (asid : BitVec 8) (k : Kept) : Bool :=
  match inv % 4 with
  | 0 => decide (k.asid = asid) && decide (k.va ≤ va.toNat % 2 ^ 56) && decide (va.toNat % 2 ^ 56 < k.va + k.size)
  | 1 => decide (k.asid = asid)
  | _ => true

/-- TLBINV_COMPLETE (R343): every CU drops the translations, once the accesses that hold them are over. -/
def execTlbinvComplete (g o : Nat) (s : State) : Result :=
  match s.op? g o with
  | none => .fault .notEnabled
  | some (_, y) => match y.body with
    | .tlbinv inv va asid =>
      if s.pagesQuiet (invMatches inv va asid) o && s.allFlushable then .next ((s.dropKept (invMatches inv va asid) (decide (4 ≤ inv))).onGang g fun h => h.complete y)
      else .fault .notEnabled
    | _ => .fault .notEnabled

/-! ## halt (R344) -/

/-- halt (R344). -/
def execHalt (s : State) : Result := issue { size := 4, ops := [], sys := true } s fun x => x.trackIn x.s x.g x.slotA .halt

/-- HALT_COMPLETE (R344): the die's ring holds a record that the runtime has not consumed. -/
def execHaltComplete (g o : Nat) (s : State) : Result :=
  s.onOp g o (fun x y => decide (y.body = .halt) && decide ((s.die (dieOf (s.cuOf x))).evtail ≠ (s.die (dieOf (s.cuOf x))).evhead)) fun _ y =>
    s.onGang g fun h => h.complete y

/-! ## sret (R345) -/

/-- An sret completes at issue; its request is served at once, after the words before it (R20, R345). -/
def sretWord (b a : BitVec 7) (s : State) (serve : State → Nat → W64 → W64 → State) : Result :=
  issue { size := 4, ops := [.sca b.toNat 1, .sca a.toNat 1], sys := true } s fun x =>
    .next (serve (x.s.setGang (x.g.advance x.f x.size).settle) (dieOf (x.s.cuOf x.g)) (x.g.sreg a.toNat) (x.g.sreg b.toNat))

/-- sret.resume (R345, R350). -/
def execSretResume (b a : BitVec 7) (s : State) : Result :=
  sretWord b a s fun t _ v _ => if fld v 63 32 = 0 then t.resume (v.setWidth 32) else t
/-- sret.refuse (R345, R350). -/
def execSretRefuse (b a : BitVec 7) (s : State) : Result :=
  sretWord b a s fun t _ v _ => if fld v 63 32 = 0 then t.refuse (v.setWidth 32) else t
/-- sret.kill (R345, R356). -/
def execSretKill (b a : BitVec 7) (s : State) : Result := sretWord b a s fun t _ h _ => t.kill h
/-- sret.save (R345, R351). -/
def execSretSave (b a : BitVec 7) (s : State) : Result := sretWord b a s fun t _ h area => t.save h area
/-- sret.restore (R345, R354). -/
def execSretRestore (b a : BitVec 7) (s : State) : Result := sretWord b a s fun t _ _ area => t.restore area
/-- sret.rollback (R345, R359). -/
def execSretRollback (b a : BitVec 7) (s : State) : Result := sretWord b a s fun t die _ _ => t.rollback die

/-! ## The end of a stall (R127) -/

/-- Whether what a stalled word waits for has come. -/
def State.stallOver (s : State) (g : Gang) : Stall → Bool
  | .flagFull f => decide (g.flag f < 63)
  | .copyQueue => s.copyRoom (s.cuOf g)
  | .matrixQueue => s.matrixRoom (s.cuOf g)
  | .embagQueue => decide (s.embagsOn (dieOf (s.cuOf g)) < 32)
  | .queueFull q => ((s.queue? q).map fun k => decide (k.entries.length + s.launching q < k.depth)).getD true
  | .spillFull => (s.cu (s.cuOf g)).spillRoom (s.spawning (s.cuOf g) + 1)
  | .sealed16 => decide (g.batches.length < 16)
  | .acquire => !g.acquiring
  | .earlier => s.earlierPerformed g s.serial
  | .earlierLoads => g.earlierRead s.serial
  | .flush => s.flushable (s.cuOf g)
  | .matrixTurn => g.matrixWritten s.serial
  | .freeing h => !s.freeing h
  | .overlap p n => s.ready (s.cuOf g) s.serial p n && s.lineRoom (s.cuOf g) p
  | .fcopies => g.earlierFcopies s.serial
  | .slot off => !g.onSlot off
  | .version off => !s.lastVersion off
  | .transit va => match s.window g va with
    | some (.global a) => match s.translate (s.cuOf g) (s.asidOf g) a .write with
      | .ok _ t _ => !t
      | _ => true
    | _ => true
  | .walk va k => match s.window g va with
    | some (.global a) => decide (s.translate (s.cuOf g) (s.asidOf g) a k ≠ .wait)
    | _ => true
  | .error => false
  | .supply => decide (g.suppliers = [])
  | .logFull t => (s.tag? t).isNone
  | .capacity t => (s.tag? t).isNone

/-- STALLED_WORD_RESUME (R127): the stall ends, and the word issues again. -/
def execStalledWordResume (g : Nat) (s : State) : Result :=
  match s.gang? g with
  | none => .fault .notEnabled
  | some x => match x.stall with
    | none => .fault .notEnabled
    | some t =>
      if s.stallOver x t then .next ({ s with tick := s.tick + 1 }.setGang { x.waitedFor s.tick with stall := none })
      else .fault .notEnabled

end Sys2Proof.Machine
end

