-- ==== Sys2Proof/Machine/Host.lean ====
section
/-!
DEFINITION. The host and the fabric: Svaphor commands (R366-R368), fabric flows as the destination serves them (R369), phase boundaries
(R370), and what UET drops or fails to deliver (R365).
-/
namespace Sys2Proof.Machine

/-! ## Spans of a job's memory -/

/-- What a walk over the bytes of a span finds. -/
inductive Span where
  | absent (va : W64)
  | bad
  /-- A page in transit, or a page-table entry that cannot be read now. -/
  | wait
  /-- The physical address of each byte. -/
  | ok (pas : List Nat)
  deriving DecidableEq, Repr

/-- Translates the `n` bytes from `va` on, lowest first, by walks alone. -/
def State.span (s : State) (asid : BitVec 8) (k : Kind) : W64 → Nat → Span
  | _, 0 => .ok []
  | va, n + 1 =>
    if fld va 63 56 ≠ 0 then .bad
    else match s.engineTranslate asid va.toNat k with
      | .wait => .wait
      | .fault => .absent va
      | .protection => .bad
      | .ok pa t _ =>
        if t && decide (k = .write) then .wait
        else match s.span asid k (va + 1) n with
          | .ok ps => .ok (pa :: ps)
          | x => x

/-- The bits of the walks that a span completes are set, up to the first byte that has no translation (R337). -/
def State.spanUsed (asid : BitVec 8) (k : Kind) : Nat → W64 → State → State
  | 0, _, s => s
  | n + 1, va, s => match s.engineTranslate asid va.toNat k with
    | .ok pa t new => State.spanUsed asid k n (va + 1) (s.engineUsed k (.ok pa t new))
    | _ => s

/-- Whether the bytes at some physical addresses may be accessed now. -/
def State.spanFree (s : State) (pas : List Nat) : Bool := pas.all fun a => s.accessible (.phys a) 1

/-- The undo records that a write of some bytes needs: what a fabric copy brings is always logged, since a phase of another module may bring it
(R358, R371; log 17). -/
def State.spanLines (s : State) (fabric : Bool) (pas : List Nat) : List (Bool × Nat) :=
  if fabric then s.logNeeds (pas.map Place.phys) else s.unlogged (pas.map Place.phys)

/-- Stores bytes at their homes, with the undo records of their lines (R358). -/
def State.storeSpan (s : State) (ls : List (Bool × Nat)) (pas : List Nat) (bs : List Byte) : State :=
  let s1 := s.logLines ls
  { s1 with phys := (pas.zip bs).foldl (fun m e => put m e.1 e.2) s1.phys }

/-! ## Svaphor commands (R366) -/

/-- The die of the port on which a connection arrives: connection `c` is taken to arrive on port `c` mod 8, and ports 2d and 2d+1 belong to die d
(R12). -/
def dieOfConn (c : Nat) : Nat := c % 8 / 2

/-- A command has ended with a status: 0 performed, 1 not. -/
def State.ended (s : State) (conn st : Nat) : State :=
  ({ s with commands := s.commands.filter fun e => decide (e.1 ≠ conn) }).send (.status conn st)

/-- A command waits for the runtime under a fresh TAG (R366). -/
def State.commandWaits (s : State) (conn kind cause : Nat) (va : W64) : State :=
  ({ s with commands := s.commands ++ [(conn, s.freshTag, false)] }).request (dieOfConn conn) kind cause noHandle va (.command conn)

/-- A command on a connection: it goes on when none of the connection waits, and ends when the runtime has refused it. -/
def State.command (s : State) (conn : Nat) (k : Result) : Result :=
  match s.commands.find? fun e => decide (e.1 = conn) with
  | some (_, _, false) => .fault .notEnabled
  | some (_, _, true) => .next (s.ended conn 1)
  | none => k

/-- QPUT (R366): the packet joins a host-owned queue, or is discarded with a record; a full queue makes it wait. -/
def execQput (conn : Nat) (q tag : W64) (packet : BitVec 512) (s : State) : Result :=
  let b := Submitter.host conn tag
  let refused := (s.qputRefused { packet := packet, asid := 0, submitter := b }).send (.status conn 0)
  match if q.toNat ≤ 255 then s.queue? q.toNat else none with
  | none => .next refused
  | some k =>
    if k.hostOwned = false then .next refused
    else if k.depth ≤ k.entries.length then .fault .notEnabled
    else .next ((s.onQueue k.num fun k => { k with entries := k.entries ++ [{ packet := packet, asid := k.asid, submitter := b }] }).send (.status conn 0))

/-- WRITE (R366): performed at its homes, or not at all. -/
def execWrite (conn : Nat) (asid : BitVec 8) (va : W64) (bytes : List Byte) (s : State) : Result :=
  s.command conn <|
    if asid = 0 then .next (s.ended conn 1)
    else
      let t := State.spanUsed asid .write bytes.length va s
      match s.span asid .write va bytes.length with
      | .bad => .next (t.ended conn 1)
      | .absent a => .next (t.commandWaits conn 1 PAGE_NOT_PRESENT a)
      | .wait => .fault .notEnabled
      | .ok pas =>
        if !s.spanFree pas then .fault .notEnabled
        else if !t.roomFor (t.spanLines false pas) then .next (t.commandWaits conn 2 0 va)
        else .next ((t.storeSpan (t.spanLines false pas) pas bytes).ended conn 0)

/-- READ (R366). -/
def execRead (conn : Nat) (asid : BitVec 8) (va : W64) (len : Nat) (s : State) : Result :=
  s.command conn <|
    if asid = 0 then .next (s.ended conn 1)
    else
      let t := State.spanUsed asid .read len va s
      match s.span asid .read va len with
      | .bad => .next (t.ended conn 1)
      | .absent a => .next (t.commandWaits conn 1 PAGE_NOT_PRESENT a)
      | .wait => .fault .notEnabled
      | .ok pas =>
        if !s.spanFree pas then .fault .notEnabled
        else .next ((t.ended conn 0).send (.bytes conn (pas.map fun a => look s.phys a)))

/-- A completion record as CREAD returns it (R368). -/
def Completion.word (r : Completion) : BitVec 256 :=
  BitVec.ofNat 256 (r.status.toNat + r.tag.toNat * 2 ^ 64 + r.launch.toNat * 2 ^ 128 + r.cause.toNat * 2 ^ 160 + r.phase.toNat * 2 ^ 168 +
    r.job.toNat * 2 ^ 192)

/-- CREAD (R366, R368): the released completion records of a job, oldest first. -/
def execCread (conn : Nat) (job : BitVec 16) (s : State) : Result :=
  .next (({ s with released := s.released.filter fun r => decide (r.job ≠ job) }).send
    (.completions conn ((s.released.filter fun (r : Completion) => decide (r.job = job)).map Completion.word)))

/-- PHASE (R366, R370): the host asks for the boundary of a phase; one in which nothing was launched is in progress from now on, and the reserved
phase 4,095 (R281) ends the command with status 1 (log 42). -/
def execPhase (conn : Nat) (job : BitVec 16) (p : BitVec 12) (s : State) : Result :=
  if p = 4095 then .next (s.send (.status conn 1))
  else .next (((s.openPhase job p 0).onPhase job p fun x => { x with asked := true }).send (.status conn 0))

/-! ## Phase boundaries (R180, R260, R358, R368, R370) -/

/-- Whether a gang has a fabric copy that is not complete, or a reduction on its way. -/
def State.sending (s : State) (g : Gang) : Bool := s.reducing g || g.ops.any fun o => match o.body with
  | .copy c => c.remote.isSome
  | _ => false

/-- Whether a phase has come to its end on this module: its counter is 0, nothing of it waits in a queue, and its fabric copies and reductions are at
their homes (R206, R370). -/
def State.phaseOver (s : State) (p : Phase) : Bool :=
  (p.packets.all fun e => e.2.launch.isNone || decide (s.count (phaseCounter (pktTable e.2.packet) p.phase.toNat) = 0)) &&
  (s.launches.all fun l => !p.owns l.origin.packet) && (s.queues.all fun q => q.entries.all fun e => !p.owns e.packet) &&
  s.gangs.all fun g => !p.owns (s.teamOf g).origin.packet || !s.sending g

/-- PHASE_BOUNDARY (R370): every CU publishes and commits, then acquires, so that every CU sees what was published (R178, R180); the log is emptied, and
the phase's records are released. -/
def execPhaseBoundary (job : BitVec 16) (p : BitVec 12) (s : State) : Result :=
  match s.phases.find? fun x => decide (x.job = job) && decide (x.phase = p) with
  | none => .fault .notEnabled
  | some x =>
    if x.asked && x.peersReady && s.phaseOver x && s.allFlushable then
      let cus := s.cus.map Prod.fst
      let s1 := cus.foldl (fun (s : State) c => s.releaseActs c 4) s
      let s2 := cus.foldl (fun (s : State) c => s.acquireActs c 4) s1
      let mine := fun (r : Completion) => decide (r.job = job) && decide (r.phase = p)
      .next { s2 with
        undo := []
        phases := s2.phases.filter fun y => !(decide (y.job = job) && decide (y.phase = p))
        released := s2.released ++ s2.held.filter mine, held := s2.held.filter fun r => !mine r }
    else .fault .notEnabled

/-! ## Fabric flows as the destination serves them (R231, R369) -/

/-- Whether a request over a flow may be served for an address space: that of the flow's job on this module. -/
def State.servesFlow (s : State) (flow : W64) (asid : BitVec 8) : Bool :=
  decide (asid ≠ 0) && s.flows.any fun f => decide (f.handle = flow) && decide (f.asid = asid)

/-- `n` arriving bytes are performed at their homes and acknowledged, or refused (log 48); `new` gives them from the old ones. -/
def State.fabricStore (s : State) (flow : W64) (asid : BitVec 8) (va : W64) (n : Nat) (new : List Byte → List Byte) : Result :=
  let t := State.spanUsed asid .write n va s
  if !s.servesFlow flow asid then .next (s.send (.fabricRefusal flow))
  else match s.span asid .write va n with
    | .bad => .next (t.send (.fabricRefusal flow))
    | .absent _ => .next (t.send (.fabricRefusal flow))
    | .wait => .fault .notEnabled
    | .ok pas =>
      let ls := t.spanLines true pas
      if !s.spanFree pas then .fault .notEnabled
      else if !t.roomFor ls then
        if s.requests.any fun r => decide (r.what = .engineLog) then .fault .notEnabled
        else .next (t.request 0 2 0 noHandle va .engineLog)
      else .next ((t.storeSpan ls pas (new (pas.map fun a => look t.phys a))).send (.fabricAck flow))

/-- FABRIC_WRITE_PERFORM (R369): arriving bytes are performed at their homes and acknowledged, or refused. -/
def execFabricWritePerform (flow : W64) (asid : BitVec 8) (va : W64) (bytes : List Byte) (s : State) : Result :=
  s.fabricStore flow asid va bytes.length fun _ => bytes

/-- One half of a byte with a new value. -/
def withNibble (high : Bool) (v : Nat) (b : Byte) : Byte :=
  if high then (b &&& 0x0F) ||| BitVec.ofNat 8 (16 * (v % 16)) else (b &&& 0xF0) ||| BitVec.ofNat 8 (v % 16)

/-- The element of 4 bits that an fcopy.to brings is performed at its home (R221, R369). -/
def State.fabricNibble (s : State) (flow : W64) (asid : BitVec 8) (va : W64) (high : Bool) (v : Nat) : Result :=
  s.fabricStore flow asid va 1 fun bs => bs.map (withNibble high v)

/-- FCOPY_FROM_REMOTE_READ (R369): each byte is read at its home, or the request is refused. -/
def execFcopyFromRemoteRead (flow : W64) (asid : BitVec 8) (va : W64) (len : Nat) (s : State) : Result :=
  if !s.servesFlow flow asid then .next (s.send (.fabricRefusal flow))
  else
    let t := State.spanUsed asid .read len va s
    match s.span asid .read va len with
    | .ok pas => if !s.spanFree pas then .fault .notEnabled else .next (t.send (.fabricData flow (pas.map fun a => look s.phys a)))
    | .wait => .fault .notEnabled
    | _ => .next (t.send (.fabricRefusal flow))

/-- UET_PACKET_DROP (R365): telemetry counts a packet of an unsupported kind. -/
def execUetPacketDrop (die : Nat) (s : State) : Result := .next (s.onDie die fun d => { d with dropped := d.dropped + 1 })

/-- DELIVERY_FAILURE (R365): a fabric copy fails with PAGE_PROTECTION, or a command ends with status 1. -/
def execDeliveryFailure (what : Undelivered) (s : State) : Result :=
  match what with
  | .copy g o => s.refuseCopy g o
  | .command conn => .next (s.send (.status conn 1))

end Sys2Proof.Machine
end

