-- ==== Sys2Proof/Machine/Debug.lean ====
section
/-!
DEFINITION. The management plane: debug requests (R156, R360, R361), code loading and attestation (R372), telemetry and power (R22, R373, R374),
retrains (R355), errors (R357), die reset (R344) and the restart of the device runtime (R348).
-/
namespace Sys2Proof.Machine

/-! ## Debug (R156, R360, R361) -/

/-- The gang that a handle and an index name. -/
def State.target? (s : State) (h : W64) (idx : Nat) : Option Gang := s.gangs.find? fun g => decide (s.handle g = h) && decide (g.index.toNat = idx)

/-- Changes the halt of a saved gang that a handle and an index name: it applies at restore (R20). -/
def State.onSaved (s : State) (h : W64) (idx : Nat) (f : Gang → Gang) : State :=
  let hit := fun (u : Saved) (g : Gang) => decide (g.index.toNat = idx) && u.teams.any fun t => decide (t.id = g.team) && decide (handleOf t g = h)
  let change := fun (u : Saved) => { u with gangs := u.gangs.map fun g => if hit u g then f g else g }
  { s with saved := s.saved.map change }

/-- DEBUG_HALT (R360): the gang stops at its next clause boundary. -/
def execDebugHalt (h : W64) (idx : Nat) (s : State) : Result :=
  match s.target? h idx with
  | some g => .next (s.setGang (if g.halt = .no then { g with halt := .asked } else g))
  | none => .next (s.onSaved h idx fun g => { g with halt := .halted })

/-- DEBUG_STEP (R156): a halted gang issues one word, or the step is reported as not taken. The issue itself takes the sub-group, and only one that
starts a clause is a clause issue for R139 (log 45). -/
def execDebugStep (h : W64) (idx : Nat) (s : State) : Result :=
  match s.target? h idx with
  | none => .next (s.send .notStepped)
  | some g =>
    if g.halt ≠ .halted ∨ g.stopped = true then .next (s.send .notStepped)
    else match g.flight with
      | some f =>
        if g.dbsel.getLsbD 6 && !f.lanes.getLsbD (fld g.dbsel 5 0) then .next (s.send .notStepped)
        else .next (s.setGang { g with halt := .stepping })
      | none => match s.stepGroup g with
        | none => .next (s.send .notStepped)
        | some _ => .next (s.setGang { g with halt := .stepping })

/-- DEBUG_RESUME (R360, R361): the gang goes on, once past its watch if asked. -/
def execDebugResume (h : W64) (idx : Nat) (past : Bool) (s : State) : Result :=
  match s.target? h idx with
  | some g => .next (s.setGang { g with halt := .no, pastWatch := past })
  | none => .next (s.onSaved h idx fun g => { g with halt := .no, pastWatch := past })

/-- Where a lane stands: at its flight's next word while it is in flight. -/
def Gang.pcAt (g : Gang) (l : Nat) : W64 :=
  match g.flight with
  | some f => if f.lanes.getLsbD l then f.pc else (g.thread l).pc
  | none => (g.thread l).pc

/-- A cursor register as the debugger reads it: RANK, DEG, the handle, the direction and the vertex, and bit 255 when it is open (R271; log 45). -/
def State.cursorWord (s : State) (c : Cursor) : BitVec 256 :=
  let p := (s.pin? c.pin).getD ⟨0, 0, false, 0, 0, none⟩
  let deg := (p.list.getD []).length
  BitVec.ofNat 256 (rankAfter deg c.steps + deg * 2 ^ 32 + p.handle.toNat * 2 ^ 64 + (if p.inList then 2 ^ 128 else 0) + p.vertex * 2 ^ 160 + 2 ^ 255)

/-- A carousel as the debugger reads it: its configuration as carcfg takes it, then HEAD, TAIL, FILLED and FREE in bytes from bit 64 on, and bit 255
(R214, R226; log 45). -/
def Carousel.word (k : Carousel) : BitVec 256 :=
  BitVec.ofNat 256 (k.base + k.sz * 2 ^ 24 + k.nslot * 2 ^ 32 + k.head * 2 ^ 64 + k.tail * 2 ^ 72 + k.filled * 2 ^ 80 + k.free * 2 ^ 88 + 2 ^ 255)

/-- A register of a halted gang, or a carousel of its team, as the debugger reads it (R214, R360). -/
def State.inspect (s : State) (g : Gang) : DebugReg → BitVec 256
  | .vector l c => (g.vreg l c).setWidth 256
  | .scalar n => (g.sreg n).setWidth 256
  | .mask n => (g.mreg n).setWidth 256
  | .flag n => BitVec.ofNat 256 (g.flag n)
  | .special n l => (s.special g (lane l) l n).setWidth 256
  | .layout n => look g.layouts n
  | .slot n => look g.slots n
  | .pc l => (g.pcAt l).setWidth 256
  | .cursor l n => ((entry? (g.thread l).cursors n).map s.cursorWord).getD 0
  | .carousel n => (((s.teamOf g).carousel? n).map Carousel.word).getD 0

/-- DEBUG_INSPECT (R360): the value goes to the management controller; a gang that is not halted gives none. -/
def execDebugInspect (h : W64) (idx : Nat) (what : DebugReg) (s : State) : Result :=
  match s.target? h idx with
  | some g => .next (if g.halt = .halted then s.send (.inspected what (s.inspect g what)) else s)
  | none => .next s

/-- A lane of a halted gang goes to a header position. -/
def Gang.movePc (g : Gang) (l : Nat) (pc : W64) : Gang :=
  if (g.thread l).status = .exited then g
  else
    let g1 := g.mapLanes (lane l) fun _ t => { t with pc := pc, place := none, status := .ready, entering := false, via := 0, clause := 0 }
    { g1 with flight := g1.flight.bind fun f => if f.lanes &&& ~~~lane l = 0 then none else some { f with lanes := f.lanes &&& ~~~lane l } }

/-- What the trap registers of a lane show that has had no delivery: nothing, and no tret can use it (R92, R349). -/
def noDelivery : Delivery :=
  { cause := 0, pc := 0, mask := 0, addr := 0, rePc := 0, reAt := none, nextPc := 0, nextAt := none, temps := [], clause := 0, unreturned := false, grp := none }

/-- A write of a trap register of a lane: it stands in the lane's latest delivery (R92, R347). -/
def Thread.setTrap (n : Nat) (v : W64) (t : Thread) : Thread :=
  let d := t.delivery.getD noDelivery
  { t with delivery := some (match n with
      | 19 => { d with cause := v.setWidth 8 }
      | 20 => { d with pc := pcOf v }
      | 21 => { d with mask := v }
      | _ => { d with addr := v }) }

/-- Whether a written cursor word names the list that a pin holds. -/
def Pin.named (p : Pin) (v : BitVec 256) : Bool :=
  decide (p.handle.toNat = fld v 127 64) && decide (p.inList = v.getLsbD 128) && decide (p.vertex = fld v 191 160)

/-- A write of cursor `n` of a lane (R271, R360; log 45): it closes; or it moves on the list that it holds to the RANK that the value gives; or it opens there
on the list that the value names, as the CU sees it now. A handle that names no live graph of the address space changes nothing. -/
def State.writeCursor (s : State) (g : Gang) (l n : Nat) (v : BitVec 256) : State :=
  let set := fun (s : State) (c : Option Cursor) => (s.setGang (g.setCursor (lane l) n fun _ => c)).prunePins
  let seek : CursorStep := .seek (fld v 31 0)
  let held := (g.cursor? l n).bind fun c => (s.pin? c.pin).bind fun p => if p.named v then some c else none
  let h := BitVec.ofNat 64 (fld v 127 64)
  if !v.getLsbD 255 then set s none
  else match held with
    | some c => set s (some { c with steps := c.steps ++ [seek] })
    | none =>
      if (s.liveGraph (s.asidOf g) h).isNone then s
      else
        let cu := s.cuOf g
        let u := fld v 191 160
        let pin : Pin :=
          { id := s.serial, handle := h, inList := v.getLsbD 128, vertex := u, gen := (s.cu cu).view, list := some (s.graphList cu h (v.getLsbD 128) u) }
        set ({ s with graph := { s.graph with pins := s.graph.pins ++ [pin] } } : State).bump (some ⟨s.serial, [seek]⟩)

/-- The special registers that programs only read and that nothing in the gang's own registers holds: what the gang is and where it runs (R92, R340). -/
def placeSpecials : List Nat := [0, 1, 2, 3, 4, 5, 6, 7, 8, 9, 10, 11, 32]

/-- How many values such a register can hold (R92, R340). -/
def placeBound : Nat → Nat
  | 1 => 65
  | 2 => 16
  | 5 | 6 => 2 ^ 12
  | 7 => 2 ^ 16
  | 8 => 576
  | 9 => 72
  | 10 => 4
  | 11 => 8
  | 32 => 2 ^ 8
  | _ => 2 ^ 32

/-- A write of a register of a halted gang (R360). Flags are never written. A register that names what the gang is and where it runs shows the value from then
on; the gang's team, its CU and its address space stay (R92, R339; log 45). -/
def State.debugSet (s : State) (g : Gang) (what : DebugReg) (v : BitVec 256) : State :=
  match what with
  | .vector l c => s.setGang (g.setVreg (lane l) c fun _ => v.setWidth 32)
  | .scalar n => s.setGang (g.setSreg n (v.setWidth 64))
  | .mask n => s.setGang (g.setMask n (v.setWidth 64))
  | .flag _ => s
  | .special n l =>
    if n = 18 then s.setGang { g with prio := v.setWidth 5 }
    else if placeSpecials.contains n then s.setGang { g with shown := setEntry g.shown (if n = 0 then 64 + l else n) (v.setWidth 64) }
    else if n = 37 then (s.onDie (dieOf (s.cuOf g)) fun d => { d with evtail := v.setWidth 64 }).flushRing (dieOf (s.cuOf g))
    else if 19 ≤ n ∧ n ≤ 22 then s.setGang (g.mapLanes (lane l) fun _ t => t.setTrap n (v.setWidth 64))
    else (s.setSpecial (dieOf (s.cuOf g)) n (v.setWidth 64)).setGang (g.setSpecial n (v.setWidth 64))
  | .layout n => s.setGang { g with layouts := put g.layouts n v }
  | .slot n => s.setGang { g with slots := put g.slots n v }
  | .pc l => s.setGang (g.movePc l (pcOf (v.setWidth 64)))
  | .cursor l n => s.writeCursor g l n v
  | .carousel _ => s

/-- Whether the debugger names a register that exists and can hold the value. -/
def Gang.takes (g : Gang) (what : DebugReg) (v : BitVec 256) : Bool :=
  match what with
  | .vector l c => decide (l < g.width) && (decide (c < g.vcount) || (decide (120 ≤ c) && decide (c < 128)))
  | .scalar n => decide (n < 64)
  | .mask n => decide (n < 12)
  | .flag _ => false
  | .special n l =>
    if n = 18 then decide (v.toNat < 24)
    else if n = 19 then decide (l < g.width) && decide (v.toNat < 2 ^ 8)
    else if n = 20 then decide (l < g.width) && decide (v.toNat < 2 ^ 56)
    else if n = 21 ∨ n = 22 then decide (l < g.width)
    else if n = 0 then decide (l < g.width) && decide (v.toNat < g.width)
    else if n = 1 then [16, 32, 64].contains v.toNat
    else if placeSpecials.contains n then decide (v.toNat < placeBound n)
    else Operand.ok (.wspecial n) && !reservedWrite n (v.setWidth 64) && (decide (n ≠ 23) || (!v.getLsbD 0 && decide (v.toNat < 2 ^ 56)))
  | .layout n => decide (n < 8) && lyLegal v
  | .slot n => decide (n < 4) && mcLegal v
  | .pc l => decide (l < g.width) && !v.getLsbD 0
  | .cursor l n => decide (l < g.width) && decide (n < 8)
  | .carousel _ => false

/-- DEBUG_WRITE (R360). -/
def execDebugWrite (h : W64) (idx : Nat) (what : DebugReg) (v : BitVec 256) (s : State) : Result :=
  match s.target? h idx with
  | some g => .next (if g.halt = .halted && g.takes what v then s.debugSet g what v else s)
  | none => .next s

/-- DEBUG_WATCH_SET (R361): one of the four watches of a die. -/
def execDebugWatchSet (die n : Nat) (w : Option Watch) (s : State) : Result :=
  .next (if n < 4 then s.onDie die fun d => { d with watches := match w with
    | some x => setEntry d.watches n x
    | none => d.watches.filter fun e => decide (e.1 ≠ n) } else s)

/-! ## Code loading (R19, R372) -/

/-- The addresses that reach every page of a span. -/
def pageSteps (va : W64) (len : Nat) : List Nat :=
  ((List.range (len / 65536 + 2)).map fun i => va.toNat + min (65536 * i) (len - 1)).filter fun _ => decide (0 < len)

/-- Changes bits of the entries that map a span: sets `on` and clears `off`. -/
def State.markPages (s : State) (asid : BitVec 8) (va : W64) (len : Nat) (on off : Byte) : State :=
  (pageSteps va len).foldl (fun (s : State) a => match s.walk asid a .read with
    | .page p => { s with phys := put s.phys p.entry ((look s.phys p.entry ||| on) &&& ~~~off) }
    | _ => s) s

/-- The kept translations of the pages of a span. -/
def spanMatches (asid : BitVec 8) (va : W64) (len : Nat) (k : Kept) : Bool :=
  decide (k.asid = asid) && decide (k.va < va.toNat + len) && decide (va.toNat < k.va + k.size)

/-- MEASUREMENT_READ (R19, R372): once the accesses that hold translations are over, the device runtime drops those of the segment's pages, clears
W on the pages and returns the bytes; a segment that is not mapped is reported. -/
def execMeasurementRead (_die : Nat) (asid : BitVec 8) (va : W64) (len : Nat) (s : State) : Result :=
  let s1 := s.dropKept (spanMatches asid va len) false
  match s1.span asid .read va len with
  | .ok pas =>
    let s2 := s1.markPages asid va len 0 0x02
    if s.pagesQuiet (spanMatches asid va len) s.serial && s.allFlushable && s2.spanFree pas then .next (s2.send (.measured (pas.map fun a => look s2.phys a))) else .fault .notEnabled
  | .wait => .fault .notEnabled
  | _ => .next (s.send (.loadRefused va))

/-- The bytes of a digest, most significant first (log 10). -/
def digestBytes (d : BitVec 384) : List Byte := bigBytes 48 d.toNat

/-- Whether a signature over a measurement and an address verifies under one of a job's public keys (R372); the signed bytes are those of the digest and of
the address, most significant first (log 10). -/
def State.signed (s : State) (job : BitVec 16) (m : BitVec 384) (va : W64) (sig : BitVec 768) : Bool :=
  (entry [] s.keys job.toNat).any fun k => ecdsaVerifies k (digestBytes m ++ bigBytes 8 va.toNat) sig

/-- MARK_EXECUTABLE (R372): the digest and the signature are checked, the attestation record is extended, and the pages are executable from now on;
a segment that fails a check is reported, and its pages stay as they are. -/
def execMarkExecutable (_die : Nat) (seg : Segment) (s : State) : Result :=
  let s1 := s.dropKept (spanMatches seg.asid seg.va seg.len) true
  match s1.span seg.asid .read seg.va seg.len with
  | .ok pas =>
    let m := sha384 (pas.map fun a => look s1.phys a)
    if !s1.spanFree pas then .fault .notEnabled
    else if m = seg.measurement && s.signed seg.job m seg.va seg.signature then
      if s.pagesQuiet (spanMatches seg.asid seg.va seg.len) s.serial && s.allFlushable then
        let s2 := s1.markPages seg.asid seg.va seg.len 0x04 0x02
        let old := entry 0 s2.attest seg.job.toNat
        .next { s2 with attest := setEntry s2.attest seg.job.toNat (sha384 (digestBytes old ++ digestBytes m)) }
      else .fault .notEnabled
    else .next (s.send (.loadRefused seg.va))
  | .wait => .fault .notEnabled
  | _ => .next (s.send (.loadRefused seg.va))

/-- SPDM_MEASUREMENT (R372): the attestation record of a job. -/
def execSpdmMeasurement (job : BitVec 16) (s : State) : Result := .next (s.send (.attestation (entry 0 s.attest job.toNat)))

/-! ## Telemetry, power and retrains (R22, R355, R373, R374) -/

/-- TELEMETRY_READ (R373): dropped packets, power, temperature, the cap, stretched cycles, then the number of each array that has had corrected errors,
with their count. -/
def execTelemetryRead (die : Nat) (s : State) : Result :=
  let d := s.die die
  .next (({ s with tick := s.tick + 1 }).send (.telemetry die
    ([d.dropped.toNat, Config.sensor s.tick die 0, Config.sensor s.tick die 1, d.cap, d.stretched.toNat] ++ (d.softErrors.map fun (e : Nat × BitVec 64) => [e.1, e.2.toNat]).flatten)))

/-- POWER_CAP_SET (R374): between 200 W and 440 W. -/
def execPowerCapSet (die watts : Nat) (s : State) : Result :=
  .next (if 200 ≤ watts ∧ watts ≤ 440 then s.onDie die fun d => { d with cap := watts } else s)

/-- A die stretches its cycles, or no longer does. -/
def stretch (on : Bool) (die : Nat) (s : State) : Result := .next (s.onDie die fun d => { d with stretching := on })

/-- DROOP_DETECTED (R22). -/
def execDroopDetected (die : Nat) (s : State) : Result := stretch true die s
/-- POWER_CAP_EXCEEDED (R374). -/
def execPowerCapExceeded (die : Nat) (s : State) : Result := stretch true die s
/-- STRETCH_END (R374). -/
def execStretchEnd (die : Nat) (s : State) : Result :=
  if (s.die die).stretching then stretch false die s else .fault .notEnabled

/-- What stack `h` is doing about a retrain. -/
def State.stack (s : State) (h : Nat) : Retrain := entry .idle s.hbmStacks h
def State.setStack (s : State) (h : Nat) (r : Retrain) : State := { s with hbmStacks := setEntry s.hbmStacks h r }

/-- RETRAIN_REQUEST (R355): a retrain of one of the eight stacks waits to run. -/
def execRetrainRequest (stack rate : Nat) (s : State) : Result :=
  .next (if stack < 8 ∧ s.stack stack = .idle then s.setStack stack (.waiting rate) else s)

/-- A waiting retrain starts. -/
def State.startRetrain (s : State) (h : Nat) : Option State :=
  match s.stack h with
  | .waiting r => some (s.setStack h (.running r))
  | _ => none

/-- RETRAIN_TIMEOUT (R355): a retrain that has waited 2 ms is refused and reported. -/
def execRetrainTimeout (stack : Nat) (s : State) : Result :=
  match s.stack stack with
  | .waiting _ => .next ((s.setStack stack .idle).send (.retrainRefused stack))
  | _ => .fault .notEnabled

/-- RETRAIN_END (R355). -/
def execRetrainEnd (stack : Nat) (s : State) : Result :=
  match s.stack stack with
  | .running _ => .next (s.setStack stack .idle)
  | _ => .fault .notEnabled

/-! ## Errors and resets (R344, R348, R357) -/

/-- CORRECTED_SOFT_ERROR (R357): telemetry counts it. -/
def execCorrectedSoftError (die arr : Nat) (s : State) : Result :=
  .next (s.onDie die fun d => { d with softErrors := put d.softErrors arr (look d.softErrors arr + 1) })

/-- A location as the ADDR of an ERROR record: a physical address, or an offset under its window. -/
def placeAddr : Place → W64
  | .phys a => BitVec.ofNat 64 a
  | .common o => BitVec.ofNat 64 (0xFA * 2 ^ 56 + o)
  | .scratch _ o => BitVec.ofNat 64 (0xF8 * 2 ^ 56 + o)

/-- The ADDR of an ERROR record (R357): of a byte of memory as above, of any other location as the device names it (log 53). -/
def errorAt : ErrorLoc → W64
  | .mem p => placeAddr p
  | loc => Config.errorAddr loc

/-- A location has an uncorrectable error from now on (R357). -/
def State.spoil (s : State) : ErrorLoc → State
  | .mem p => { s with poisoned := s.poisoned ++ [p] }
  | .register g l n => s.onGang g fun h => h.mapLanes (lane l) fun _ t => { t with bad := t.bad ++ [n] }
  | .scalar g n => s.onGang g fun h => if n = 0 then h else { h with badScalars := h.badScalars ++ [n] }
  | .mask g n => s.onGang g fun h => { h with badMasks := h.badMasks ++ [n] }
  | .line cu n => s.onLine cu n fun l => { l with bad := true }
  | .code cu n => s.onCu cu fun c => { c with badCode := c.badCode ++ [n] }
  | .teamMacro t n => s.onTeam t fun x => { x with macros := x.macros.map fun m => if m.1 = n then (m.1, { m.2 with bad := true }) else m }
  | .graph h => { s with graph := { s.graph with graphs := s.graph.graphs.map fun g => if g.handle = h then { g with bad := true } else g } }
  | .mirror c off => { s with mirrors := s.mirrors.map fun m => if m.cluster = c ∧ m.off = off then { m with bad := true } else m }
  | .deque cu => s.onCu cu fun c => { c with badDeque := true }

/-- UNCORRECTABLE_ERROR (R357): the ERROR record, and what would consume the location stalls. -/
def execUncorrectableError (die : Nat) (loc : ErrorLoc) (s : State) : Result :=
  .next ((s.spoil loc).record die 6 UNCORRECTABLE 0 noHandle (errorAt loc))

/-- DIE_RESET (R340, R342, R344, R361, R374): the die's registers are as at reset, its counter starts, and it has no ring; parties that wait to write a
record wait on. -/
def execDieReset (die : Nat) (s : State) : Result := .next (s.onDie die fun d => { pending := d.pending })

/-- A gang of the runtime starts again at its entry point. -/
def State.restartGang (s : State) (g : Gang) : Gang :=
  let p := (s.teamOf g).origin.packet
  { ((freshGang g.id g.team g.index.toNat g.width g.vcount g.quads (pktPrio p) (pktCode p) (pktTvec p) g.width).setSreg 1 (pktArg p)).setSreg 2
      (BitVec.ofNat 64 (pktCount p)) with gslot := g.gslot, packed := g.packed }

/-- DEVICE_RUNTIME_RESTART (R348): after a fault of a system-mode gang the runtime's teams on the die start again from their entry points, and every
phase in progress is rolled back. -/
def execDeviceRuntimeRestart (die : Nat) (s : State) : Result :=
  let mine := fun (g : Gang) => s.system g && decide (dieOf (s.cuOf g) = die)
  if s.gangs.any fun g => mine g && g.crashed then
    let ts := (s.gangs.filter mine).map Gang.team
    let again := fun (t : Team) => if ts.contains t.id then
      { freshTeam t.id t.cu t.origin with index := t.index, isTask := t.isTask, chain := t.chain, group := t.group, groupSize := t.groupSize, rank := t.rank } else t
    let s1 : State := { s with gangs := s.gangs.map fun g => if mine g then s.restartGang g else g, teams := s.teams.map again }
    .next ((s1.rollback die).prunePins)
  else .fault .notEnabled

end Sys2Proof.Machine
end

