-- ==== Sys2Proof/Machine/Integer.lean ====
section
/-!
DEFINITION. The vector integer instructions and their 16-bit forms (R46-R48, R95-R104). Each completes at issue, sets no flag and
raises nothing after IssueCheck.
-/
namespace Sys2Proof.Machine

/-! ## Shared forms -/

/-- A lane instruction with two vector sources: V[D][L] := r L a b (R91, R95). -/
def lanes2 (b a d : BitVec 7) (s : State) (r : Gang → Nat → W32 → W32 → W32) : Result :=
  issue { size := 4, ops := [.vec b.toNat 1, .vec a.toNat 1, .vec d.toNat 1] } s fun x =>
    x.done (x.g.setVreg x.lanes d.toNat fun l => r x.g l (x.g.vreg l a.toNat) (x.g.vreg l b.toNat))

/-- A lane instruction with one vector source: V[D][L] := r a. -/
def lanes1 (a d : BitVec 7) (s : State) (r : W32 → W32) : Result :=
  issue { size := 4, ops := [.vec a.toNat 1, .vec d.toNat 1] } s fun x =>
    x.done (x.g.setVreg x.lanes d.toNat fun l => r (x.g.vreg l a.toNat))

/-- What IssueCheck must know of a 16-bit word (R46). -/
def shortSig (i : BitVec 1) (b d : BitVec 5) : Sig :=
  { size := 2, ops := if i = 0 then [.vec d.toNat 1, .vec b.toNat 1] else [.vec d.toNat 1] }

/-- A 16-bit lane instruction: D is the destination and the first source, `src` gives the second (R47). -/
def lanesShort (i : BitVec 1) (b d : BitVec 5) (s : State) (src : Gang → BitVec 1 → BitVec 5 → Nat → W32) (r : W32 → W32 → W32) : Result :=
  issue (shortSig i b d) s fun x => x.done (x.g.setVreg x.lanes d.toNat fun l => r (x.g.vreg l d.toNat) (src x.g i b l))

/-- A compare of two vector registers into a mask: only the bits of the issuing lanes change (R102). -/
def lanesCmp (b a : BitVec 7) (m : BitVec 4) (s : State) (c : W32 → W32 → Bool) : Result :=
  issue { size := 4, ops := [.vec b.toNat 1, .vec a.toNat 1, .mask m.toNat] } s fun x =>
    x.done (x.g.setMaskLanes x.lanes m.toNat (lanesWhere x.lanes fun l => c (x.g.vreg l a.toNat) (x.g.vreg l b.toNat)))

/-! ## Results (R95, R98, R99) -/

/-- Bits [63:32] of the product of two signed 32-bit values. -/
def mulHiS (a b : W32) : W32 := (a.signExtend 64 * b.signExtend 64).extractLsb' 32 32
/-- Bits [63:32] of the product of two unsigned 32-bit values. -/
def mulHiU (a b : W32) : W32 := (a.setWidth 64 * b.setWidth 64).extractLsb' 32 32
def minS (a b : W32) : W32 := if b.slt a then b else a
def maxS (a b : W32) : W32 := if a.slt b then b else a
def minU (a b : W32) : W32 := if b.ult a then b else a
def maxU (a b : W32) : W32 := if a.ult b then b else a
/-- Shifts take their count from b AND 31. -/
def shl32 (a b : W32) : W32 := a <<< (b.toNat % 32)
def shr32 (a b : W32) : W32 := a >>> (b.toNat % 32)
def sar32 (a b : W32) : W32 := a.sshiftRight (b.toNat % 32)

/-- The count of 1 bits. -/
def popcount (a : W32) : W32 := BitVec.ofNat 32 ((List.range 32).filter fun i => a.getLsbD i).length
/-- The count of leading 0 bits from bit 31. -/
def leadingZeros (a : W32) : W32 := BitVec.ofNat 32 ((List.range 32).takeWhile fun i => !a.getLsbD (31 - i)).length
/-- The count of trailing 0 bits from bit 0. -/
def trailingZeros (a : W32) : W32 := BitVec.ofNat 32 ((List.range 32).takeWhile fun i => !a.getLsbD i).length
/-- Bit i of the result is bit 31 - i. -/
def bitReverse (a : W32) : W32 := a.reverse

/-- Bfe of R100: a field of `w1 + 1` bits from bit `p` of the extended value. -/
def extract (signed_ : Bool) (w1 p : Nat) (a : W32) : W32 :=
  let e : W64 := if signed_ then a.signExtend 64 else a.setWidth 64
  let f := e.extractLsb' p (w1 + 1)
  if signed_ then f.signExtend 32 else f.setWidth 32

/-- Bfi of R101: bits past 31 are dropped. -/
def insert (w1 p : Nat) (a d : W32) : W32 :=
  let mk : W32 := BitVec.ofNat 32 (2 ^ (w1 + 1) - 1) <<< p
  (d &&& ~~~mk) ||| ((a <<< p) &&& mk)

/-! ## The 16-bit forms (R47) -/

/-- mov: d := b, or the immediate (R47, R96). -/
def execMovShort (i : BitVec 1) (b d : BitVec 5) (s : State) : Result :=
  lanesShort i b d s Gang.shortSrc (fun _ b => b)

/-- add.i32, 16-bit (R47). -/
def execAddI32Short (i : BitVec 1) (b d : BitVec 5) (s : State) : Result :=
  lanesShort i b d s Gang.shortSrc (· + ·)

/-- sub.i32, 16-bit (R47). -/
def execSubI32Short (i : BitVec 1) (b d : BitVec 5) (s : State) : Result :=
  lanesShort i b d s Gang.shortSrc (· - ·)

/-- mul.i32, 16-bit (R47). -/
def execMulI32Short (i : BitVec 1) (b d : BitVec 5) (s : State) : Result :=
  lanesShort i b d s Gang.shortSrc (· * ·)

/-- and, 16-bit: the immediate is sign-extended (R47). -/
def execAndShort (i : BitVec 1) (b d : BitVec 5) (s : State) : Result :=
  lanesShort i b d s Gang.shortSrc (· &&& ·)

/-- or, 16-bit (R47). -/
def execOrShort (i : BitVec 1) (b d : BitVec 5) (s : State) : Result :=
  lanesShort i b d s Gang.shortSrc (· ||| ·)

/-- xor, 16-bit (R47). -/
def execXorShort (i : BitVec 1) (b d : BitVec 5) (s : State) : Result :=
  lanesShort i b d s Gang.shortSrc (· ^^^ ·)

/-- shl, 16-bit: the immediate is zero-extended (R47). -/
def execShlShort (i : BitVec 1) (b d : BitVec 5) (s : State) : Result :=
  lanesShort i b d s Gang.shortSrcZ shl32

/-- shr, 16-bit (R47). -/
def execShrShort (i : BitVec 1) (b d : BitVec 5) (s : State) : Result :=
  lanesShort i b d s Gang.shortSrcZ shr32

/-- sar, 16-bit (R47). -/
def execSarShort (i : BitVec 1) (b d : BitVec 5) (s : State) : Result :=
  lanesShort i b d s Gang.shortSrcZ sar32

/-- The 16-bit nop: no effect, one word of N (R48). -/
def execNop (s : State) : Result :=
  issue { size := 2, ops := [] } s fun x => x.done x.g

/-! ## iop (R95) -/

/-- addI32: R95. -/
def execAddI32 (b a d : BitVec 7) (s : State) : Result :=
  lanes2 b a d s fun _ _ a b => a + b

/-- subI32: R95. -/
def execSubI32 (b a d : BitVec 7) (s : State) : Result :=
  lanes2 b a d s fun _ _ a b => a - b

/-- mulI32: R95. -/
def execMulI32 (b a d : BitVec 7) (s : State) : Result :=
  lanes2 b a d s fun _ _ a b => a * b

/-- mulhiI32: R95. -/
def execMulhiI32 (b a d : BitVec 7) (s : State) : Result :=
  lanes2 b a d s fun _ _ a b => mulHiS a b

/-- mulhiN32: R95. -/
def execMulhiN32 (b a d : BitVec 7) (s : State) : Result :=
  lanes2 b a d s fun _ _ a b => mulHiU a b

/-- mad.i32: low32(a · b + d) (R95). -/
def execMadI32 (b a d : BitVec 7) (s : State) : Result :=
  lanes2 b a d s fun g l a b => a * b + g.vreg l d.toNat

/-- minI32: R95. -/
def execMinI32 (b a d : BitVec 7) (s : State) : Result :=
  lanes2 b a d s fun _ _ a b => minS a b

/-- maxI32: R95. -/
def execMaxI32 (b a d : BitVec 7) (s : State) : Result :=
  lanes2 b a d s fun _ _ a b => maxS a b

/-- minN32: R95. -/
def execMinN32 (b a d : BitVec 7) (s : State) : Result :=
  lanes2 b a d s fun _ _ a b => minU a b

/-- maxN32: R95. -/
def execMaxN32 (b a d : BitVec 7) (s : State) : Result :=
  lanes2 b a d s fun _ _ a b => maxU a b

/-- and: R95. -/
def execAnd (b a d : BitVec 7) (s : State) : Result :=
  lanes2 b a d s fun _ _ a b => a &&& b

/-- or: R95. -/
def execOr (b a d : BitVec 7) (s : State) : Result :=
  lanes2 b a d s fun _ _ a b => a ||| b

/-- xor: R95. -/
def execXor (b a d : BitVec 7) (s : State) : Result :=
  lanes2 b a d s fun _ _ a b => a ^^^ b

/-- shl: R95. -/
def execShl (b a d : BitVec 7) (s : State) : Result :=
  lanes2 b a d s fun _ _ a b => shl32 a b

/-- shr: R95. -/
def execShr (b a d : BitVec 7) (s : State) : Result :=
  lanes2 b a d s fun _ _ a b => shr32 a b

/-- sar: R95. -/
def execSar (b a d : BitVec 7) (s : State) : Result :=
  lanes2 b a d s fun _ _ a b => sar32 a b

/-! ## Immediates and shifts by an immediate (R97, R98) -/

/-- addi: imm11 is sign-extended (R97). -/
def execAddi (i : BitVec 11) (a d : BitVec 7) (s : State) : Result :=
  lanes1 a d s fun v => v + i.signExtend 32

/-- muli: imm11 is sign-extended (R97). -/
def execMuli (i : BitVec 11) (a d : BitVec 7) (s : State) : Result :=
  lanes1 a d s fun v => v * i.signExtend 32

/-- andi: imm11 is sign-extended (R97). -/
def execAndi (i : BitVec 11) (a d : BitVec 7) (s : State) : Result :=
  lanes1 a d s fun v => v &&& i.signExtend 32

/-- ori: imm11 is sign-extended (R97). -/
def execOri (i : BitVec 11) (a d : BitVec 7) (s : State) : Result :=
  lanes1 a d s fun v => v ||| i.signExtend 32

/-- xori: imm11 is sign-extended (R97). -/
def execXori (i : BitVec 11) (a d : BitVec 7) (s : State) : Result :=
  lanes1 a d s fun v => v ^^^ i.signExtend 32

/-- shiShl: R98. -/
def execShiShl (n : BitVec 5) (a d : BitVec 7) (s : State) : Result :=
  lanes1 a d s fun v => v <<< n.toNat

/-- shiShr: R98. -/
def execShiShr (n : BitVec 5) (a d : BitVec 7) (s : State) : Result :=
  lanes1 a d s fun v => v >>> n.toNat

/-- shiSar: R98. -/
def execShiSar (n : BitVec 5) (a d : BitVec 7) (s : State) : Result :=
  lanes1 a d s fun v => v.sshiftRight n.toNat

/-- rol: R98. -/
def execRol (n : BitVec 5) (a d : BitVec 7) (s : State) : Result :=
  lanes1 a d s fun v => v.rotateLeft n.toNat

/-! ## iun (R99) -/

/-- not: R99. -/
def execNot (a d : BitVec 7) (s : State) : Result :=
  lanes1 a d s fun v => ~~~v

/-- negI32: R99. -/
def execNegI32 (a d : BitVec 7) (s : State) : Result :=
  lanes1 a d s fun v => -v

/-- absI32: R99. -/
def execAbsI32 (a d : BitVec 7) (s : State) : Result :=
  lanes1 a d s fun v => if v.slt 0 then -v else v

/-- popc: R99. -/
def execPopc (a d : BitVec 7) (s : State) : Result :=
  lanes1 a d s fun v => popcount v

/-- clz: R99. -/
def execClz (a d : BitVec 7) (s : State) : Result :=
  lanes1 a d s fun v => leadingZeros v

/-- ctz: R99. -/
def execCtz (a d : BitVec 7) (s : State) : Result :=
  lanes1 a d s fun v => trailingZeros v

/-- brev: R99. -/
def execBrev (a d : BitVec 7) (s : State) : Result :=
  lanes1 a d s fun v => bitReverse v

/-- sxt8: R99. -/
def execSxt8 (a d : BitVec 7) (s : State) : Result :=
  lanes1 a d s fun v => (v.setWidth 8).signExtend 32

/-- sxt16: R99. -/
def execSxt16 (a d : BitVec 7) (s : State) : Result :=
  lanes1 a d s fun v => (v.setWidth 16).signExtend 32

/-- zxt8: R99. -/
def execZxt8 (a d : BitVec 7) (s : State) : Result :=
  lanes1 a d s fun v => (v.setWidth 8).setWidth 32

/-- zxt16: R99. -/
def execZxt16 (a d : BitVec 7) (s : State) : Result :=
  lanes1 a d s fun v => (v.setWidth 16).setWidth 32

/-! ## Bit fields (R100, R101) -/

/-- bfe.n: zero-extended (R100). -/
def execBfeN (w p : BitVec 5) (a d : BitVec 7) (s : State) : Result :=
  lanes1 a d s fun v => extract false w.toNat p.toNat v

/-- bfe.i: sign-extended (R100). -/
def execBfeI (w p : BitVec 5) (a d : BitVec 7) (s : State) : Result :=
  lanes1 a d s fun v => extract true w.toNat p.toNat v

/-- bfi: D is read and written (R101). -/
def execBfi (w p : BitVec 5) (a d : BitVec 7) (s : State) : Result :=
  issue { size := 4, ops := [.vec a.toNat 1, .vec d.toNat 1] } s fun x =>
    x.done (x.g.setVreg x.lanes d.toNat fun l => insert w.toNat p.toNat (x.g.vreg l a.toNat) (x.g.vreg l d.toNat))

/-! ## Compares, select, immediates (R102-R104) -/

/-- icmpEq: R102. -/
def execIcmpEq (b a : BitVec 7) (m : BitVec 4) (s : State) : Result :=
  lanesCmp b a m s fun a b => a == b

/-- icmpNe: R102. -/
def execIcmpNe (b a : BitVec 7) (m : BitVec 4) (s : State) : Result :=
  lanesCmp b a m s fun a b => a != b

/-- icmpLtI: R102. -/
def execIcmpLtI (b a : BitVec 7) (m : BitVec 4) (s : State) : Result :=
  lanesCmp b a m s fun a b => a.slt b

/-- icmpLeI: R102. -/
def execIcmpLeI (b a : BitVec 7) (m : BitVec 4) (s : State) : Result :=
  lanesCmp b a m s fun a b => a.sle b

/-- icmpGtI: R102. -/
def execIcmpGtI (b a : BitVec 7) (m : BitVec 4) (s : State) : Result :=
  lanesCmp b a m s fun a b => b.slt a

/-- icmpGeI: R102. -/
def execIcmpGeI (b a : BitVec 7) (m : BitVec 4) (s : State) : Result :=
  lanesCmp b a m s fun a b => b.sle a

/-- icmpLtN: R102. -/
def execIcmpLtN (b a : BitVec 7) (m : BitVec 4) (s : State) : Result :=
  lanesCmp b a m s fun a b => a.ult b

/-- icmpLeN: R102. -/
def execIcmpLeN (b a : BitVec 7) (m : BitVec 4) (s : State) : Result :=
  lanesCmp b a m s fun a b => a.ule b

/-- icmpGtN: R102. -/
def execIcmpGtN (b a : BitVec 7) (m : BitVec 4) (s : State) : Result :=
  lanesCmp b a m s fun a b => b.ult a

/-- icmpGeN: R102. -/
def execIcmpGeN (b a : BitVec 7) (m : BitVec 4) (s : State) : Result :=
  lanesCmp b a m s fun a b => b.ule a

/-- sel: V[A] where the mask bit is 1, V[B] elsewhere (R103). -/
def execSel (m : BitVec 4) (b a d : BitVec 7) (s : State) : Result :=
  issue { size := 4, ops := [.mask m.toNat, .vec b.toNat 1, .vec a.toNat 1, .vec d.toNat 1] } s fun x =>
    x.done (x.g.setVreg x.lanes d.toNat fun l => if (x.g.mreg m.toNat).getLsbD l then x.g.vreg l a.toNat else x.g.vreg l b.toNat)

/-- li: d := sext32(imm18) (R104). -/
def execLi (i : BitVec 18) (d : BitVec 7) (s : State) : Result :=
  issue { size := 4, ops := [.vec d.toNat 1] } s fun x => x.done (x.g.setVreg x.lanes d.toNat fun _ => i.signExtend 32)

/-- liu: d[31:14] := imm18, d[13:0] is kept (R104). -/
def execLiu (i : BitVec 18) (d : BitVec 7) (s : State) : Result :=
  issue { size := 4, ops := [.vec d.toNat 1] } s fun x =>
    x.done (x.g.setVreg x.lanes d.toNat fun l => i ++ (x.g.vreg l d.toNat).setWidth 14)

end Sys2Proof.Machine
end

