-- ==== Sys2Proof/Machine/Dispatch.lean ====
section
/-!
DEFINITION. What each instruction and each event does: one direct call of its meaning.
-/
namespace Sys2Proof.Machine

/-- Executes an instruction or an event. -/
def exec (i : Instr) (s : State) : Host.Outcome State Fault Refusal :=
  match i with
  | .clauseHeader b a w n => Sys2Proof.Machine.execClauseHeader b a w n s
  | .stalledWordResume g => Sys2Proof.Machine.execStalledWordResume g s
  | .movShort imm b d => Sys2Proof.Machine.execMovShort imm b d s
  | .addI32Short imm b d => Sys2Proof.Machine.execAddI32Short imm b d s
  | .subI32Short imm b d => Sys2Proof.Machine.execSubI32Short imm b d s
  | .mulI32Short imm b d => Sys2Proof.Machine.execMulI32Short imm b d s
  | .andShort imm b d => Sys2Proof.Machine.execAndShort imm b d s
  | .orShort imm b d => Sys2Proof.Machine.execOrShort imm b d s
  | .xorShort imm b d => Sys2Proof.Machine.execXorShort imm b d s
  | .shlShort imm b d => Sys2Proof.Machine.execShlShort imm b d s
  | .shrShort imm b d => Sys2Proof.Machine.execShrShort imm b d s
  | .sarShort imm b d => Sys2Proof.Machine.execSarShort imm b d s
  | .addF32Short imm b d => Sys2Proof.Machine.execAddF32Short imm b d s
  | .subF32Short imm b d => Sys2Proof.Machine.execSubF32Short imm b d s
  | .mulF32Short imm b d => Sys2Proof.Machine.execMulF32Short imm b d s
  | .minF32Short imm b d => Sys2Proof.Machine.execMinF32Short imm b d s
  | .maxF32Short imm b d => Sys2Proof.Machine.execMaxF32Short imm b d s
  | .nop => Sys2Proof.Machine.execNop s
  | .addI32 b a d => Sys2Proof.Machine.execAddI32 b a d s
  | .subI32 b a d => Sys2Proof.Machine.execSubI32 b a d s
  | .mulI32 b a d => Sys2Proof.Machine.execMulI32 b a d s
  | .mulhiI32 b a d => Sys2Proof.Machine.execMulhiI32 b a d s
  | .mulhiN32 b a d => Sys2Proof.Machine.execMulhiN32 b a d s
  | .madI32 b a d => Sys2Proof.Machine.execMadI32 b a d s
  | .minI32 b a d => Sys2Proof.Machine.execMinI32 b a d s
  | .maxI32 b a d => Sys2Proof.Machine.execMaxI32 b a d s
  | .minN32 b a d => Sys2Proof.Machine.execMinN32 b a d s
  | .maxN32 b a d => Sys2Proof.Machine.execMaxN32 b a d s
  | .and b a d => Sys2Proof.Machine.execAnd b a d s
  | .or b a d => Sys2Proof.Machine.execOr b a d s
  | .xor b a d => Sys2Proof.Machine.execXor b a d s
  | .shl b a d => Sys2Proof.Machine.execShl b a d s
  | .shr b a d => Sys2Proof.Machine.execShr b a d s
  | .sar b a d => Sys2Proof.Machine.execSar b a d s
  | .addi imm a d => Sys2Proof.Machine.execAddi imm a d s
  | .muli imm a d => Sys2Proof.Machine.execMuli imm a d s
  | .andi imm a d => Sys2Proof.Machine.execAndi imm a d s
  | .ori imm a d => Sys2Proof.Machine.execOri imm a d s
  | .xori imm a d => Sys2Proof.Machine.execXori imm a d s
  | .shiShl n a d => Sys2Proof.Machine.execShiShl n a d s
  | .shiShr n a d => Sys2Proof.Machine.execShiShr n a d s
  | .shiSar n a d => Sys2Proof.Machine.execShiSar n a d s
  | .rol n a d => Sys2Proof.Machine.execRol n a d s
  | .not a d => Sys2Proof.Machine.execNot a d s
  | .negI32 a d => Sys2Proof.Machine.execNegI32 a d s
  | .absI32 a d => Sys2Proof.Machine.execAbsI32 a d s
  | .popc a d => Sys2Proof.Machine.execPopc a d s
  | .clz a d => Sys2Proof.Machine.execClz a d s
  | .ctz a d => Sys2Proof.Machine.execCtz a d s
  | .brev a d => Sys2Proof.Machine.execBrev a d s
  | .sxt8 a d => Sys2Proof.Machine.execSxt8 a d s
  | .sxt16 a d => Sys2Proof.Machine.execSxt16 a d s
  | .zxt8 a d => Sys2Proof.Machine.execZxt8 a d s
  | .zxt16 a d => Sys2Proof.Machine.execZxt16 a d s
  | .bfeN w p a d => Sys2Proof.Machine.execBfeN w p a d s
  | .bfeI w p a d => Sys2Proof.Machine.execBfeI w p a d s
  | .bfi w p a d => Sys2Proof.Machine.execBfi w p a d s
  | .icmpEq b a m => Sys2Proof.Machine.execIcmpEq b a m s
  | .icmpNe b a m => Sys2Proof.Machine.execIcmpNe b a m s
  | .icmpLtI b a m => Sys2Proof.Machine.execIcmpLtI b a m s
  | .icmpLeI b a m => Sys2Proof.Machine.execIcmpLeI b a m s
  | .icmpGtI b a m => Sys2Proof.Machine.execIcmpGtI b a m s
  | .icmpGeI b a m => Sys2Proof.Machine.execIcmpGeI b a m s
  | .icmpLtN b a m => Sys2Proof.Machine.execIcmpLtN b a m s
  | .icmpLeN b a m => Sys2Proof.Machine.execIcmpLeN b a m s
  | .icmpGtN b a m => Sys2Proof.Machine.execIcmpGtN b a m s
  | .icmpGeN b a m => Sys2Proof.Machine.execIcmpGeN b a m s
  | .sel m b a d => Sys2Proof.Machine.execSel m b a d s
  | .li imm d => Sys2Proof.Machine.execLi imm d s
  | .liu imm d => Sys2Proof.Machine.execLiu imm d s
  | .addF32 b a d => Sys2Proof.Machine.execAddF32 b a d s
  | .subF32 b a d => Sys2Proof.Machine.execSubF32 b a d s
  | .mulF32 b a d => Sys2Proof.Machine.execMulF32 b a d s
  | .fmaF32 b a d => Sys2Proof.Machine.execFmaF32 b a d s
  | .fmsF32 b a d => Sys2Proof.Machine.execFmsF32 b a d s
  | .fnmaF32 b a d => Sys2Proof.Machine.execFnmaF32 b a d s
  | .minF32 b a d => Sys2Proof.Machine.execMinF32 b a d s
  | .maxF32 b a d => Sys2Proof.Machine.execMaxF32 b a d s
  | .copysignF32 b a d => Sys2Proof.Machine.execCopysignF32 b a d s
  | .scaleF32 b a d => Sys2Proof.Machine.execScaleF32 b a d s
  | .getexpF32 a d => Sys2Proof.Machine.execGetexpF32 a d s
  | .fcmpEq b a m => Sys2Proof.Machine.execFcmpEq b a m s
  | .fcmpNe b a m => Sys2Proof.Machine.execFcmpNe b a m s
  | .fcmpLt b a m => Sys2Proof.Machine.execFcmpLt b a m s
  | .fcmpLe b a m => Sys2Proof.Machine.execFcmpLe b a m s
  | .fcmpGt b a m => Sys2Proof.Machine.execFcmpGt b a m s
  | .fcmpGe b a m => Sys2Proof.Machine.execFcmpGe b a m s
  | .fcmpUno b a m => Sys2Proof.Machine.execFcmpUno b a m s
  | .fcmpOrd b a m => Sys2Proof.Machine.execFcmpOrd b a m s
  | .absF32 a d => Sys2Proof.Machine.execAbsF32 a d s
  | .negF32 a d => Sys2Proof.Machine.execNegF32 a d s
  | .rcpF32 a d => Sys2Proof.Machine.execRcpF32 a d s
  | .rsqF32 a d => Sys2Proof.Machine.execRsqF32 a d s
  | .sqrtF32 a d => Sys2Proof.Machine.execSqrtF32 a d s
  | .exp2F32 a d => Sys2Proof.Machine.execExp2F32 a d s
  | .log2F32 a d => Sys2Proof.Machine.execLog2F32 a d s
  | .sinF32 a d => Sys2Proof.Machine.execSinF32 a d s
  | .cosF32 a d => Sys2Proof.Machine.execCosF32 a d s
  | .floorF32 a d => Sys2Proof.Machine.execFloorF32 a d s
  | .ceilF32 a d => Sys2Proof.Machine.execCeilF32 a d s
  | .truncF32 a d => Sys2Proof.Machine.execTruncF32 a d s
  | .rintF32 a d => Sys2Proof.Machine.execRintF32 a d s
  | .fracF32 a d => Sys2Proof.Machine.execFracF32 a d s
  | .classF32 a d => Sys2Proof.Machine.execClassF32 a d s
  | .addF16x2 b a d => Sys2Proof.Machine.execAddF16x2 b a d s
  | .mulF16x2 b a d => Sys2Proof.Machine.execMulF16x2 b a d s
  | .fmaF16x2 b a d => Sys2Proof.Machine.execFmaF16x2 b a d s
  | .minF16x2 b a d => Sys2Proof.Machine.execMinF16x2 b a d s
  | .maxF16x2 b a d => Sys2Proof.Machine.execMaxF16x2 b a d s
  | .addBf16x2 b a d => Sys2Proof.Machine.execAddBf16x2 b a d s
  | .mulBf16x2 b a d => Sys2Proof.Machine.execMulBf16x2 b a d s
  | .fmaBf16x2 b a d => Sys2Proof.Machine.execFmaBf16x2 b a d s
  | .minBf16x2 b a d => Sys2Proof.Machine.execMinBf16x2 b a d s
  | .maxBf16x2 b a d => Sys2Proof.Machine.execMaxBf16x2 b a d s
  | .dot4I8 b a d => Sys2Proof.Machine.execDot4I8 b a d s
  | .dot4N8 b a d => Sys2Proof.Machine.execDot4N8 b a d s
  | .dot2F16 b a d => Sys2Proof.Machine.execDot2F16 b a d s
  | .dot2Bf16 b a d => Sys2Proof.Machine.execDot2Bf16 b a d s
  | .dot8I4 b a d => Sys2Proof.Machine.execDot8I4 b a d s
  | .cvt sl r u c t a d => Sys2Proof.Machine.execCvt sl r u c t a d s
  | .cvtpByte sl r t h l a d => Sys2Proof.Machine.execCvtpByte sl r t h l a d s
  | .cvtpF16 sl r h a d => Sys2Proof.Machine.execCvtpF16 sl r h a d s
  | .cvtpBf16 sl r h a d => Sys2Proof.Machine.execCvtpBf16 sl r h a d s
  | .sbdecSb4 b a d => Sys2Proof.Machine.execSbdecSb4 b a d s
  | .sbdecSb8 b a d => Sys2Proof.Machine.execSbdecSb8 b a d s
  | .shfl p b a d => Sys2Proof.Machine.execShfl p b a d s
  | .shflkUp p k a d => Sys2Proof.Machine.execShflkUp p k a d s
  | .shflkDn p k a d => Sys2Proof.Machine.execShflkDn p k a d s
  | .shflxXor p c a d => Sys2Proof.Machine.execShflxXor p c a d s
  | .shflxIdx p c a d => Sys2Proof.Machine.execShflxIdx p c a d s
  | .xredSumI32 p a d => Sys2Proof.Machine.execXredSumI32 p a d s
  | .xredMinI32 p a d => Sys2Proof.Machine.execXredMinI32 p a d s
  | .xredMaxI32 p a d => Sys2Proof.Machine.execXredMaxI32 p a d s
  | .xredSumF32 p a d => Sys2Proof.Machine.execXredSumF32 p a d s
  | .xredMinF32 p a d => Sys2Proof.Machine.execXredMinF32 p a d s
  | .xredMaxF32 p a d => Sys2Proof.Machine.execXredMaxF32 p a d s
  | .xredScanI32 p a d => Sys2Proof.Machine.execXredScanI32 p a d s
  | .xredScanF32 p a d => Sys2Proof.Machine.execXredScanF32 p a d s
  | .voteAny p a d => Sys2Proof.Machine.execVoteAny p a d s
  | .voteAll p a d => Sys2Proof.Machine.execVoteAll p a d s
  | .voteBallot p a d => Sys2Proof.Machine.execVoteBallot p a d s
  | .voteBallotMask p a m => Sys2Proof.Machine.execVoteBallotMask p a m s
  | .bra o m => Sys2Proof.Machine.execBra o m s
  | .braAny o m => Sys2Proof.Machine.execBraAny o m s
  | .braAll o m => Sys2Proof.Machine.execBraAll o m s
  | .braNone o m => Sys2Proof.Machine.execBraNone o m s
  | .braSet o m => Sys2Proof.Machine.execBraSet o m s
  | .braClr o m => Sys2Proof.Machine.execBraClr o m s
  | .jmp o => Sys2Proof.Machine.execJmp o s
  | .call o => Sys2Proof.Machine.execCall o s
  | .jmpS a => Sys2Proof.Machine.execJmpS a s
  | .callS a => Sys2Proof.Machine.execCallS a s
  | .ret => Sys2Proof.Machine.execRet s
  | .jmpV a => Sys2Proof.Machine.execJmpV a s
  | .jmpt sl a => Sys2Proof.Machine.execJmpt sl a s
  | .join m => Sys2Proof.Machine.execJoin m s
  | .leave m => Sys2Proof.Machine.execLeave m s
  | .wait m => Sys2Proof.Machine.execWait m s
  | .mset a m => Sys2Proof.Machine.execMset a m s
  | .mget a d => Sys2Proof.Machine.execMget a d s
  | .mand b a d => Sys2Proof.Machine.execMand b a d s
  | .mor b a d => Sys2Proof.Machine.execMor b a d s
  | .mxor b a d => Sys2Proof.Machine.execMxor b a d s
  | .mnot a d => Sys2Proof.Machine.execMnot a d s
  | .mcpy a d => Sys2Proof.Machine.execMcpy a d s
  | .mpop a d => Sys2Proof.Machine.execMpop a d s
  | .mfirst a d => Sys2Proof.Machine.execMfirst a d s
  | .mlive d => Sys2Proof.Machine.execMlive d s
  | .msub d => Sys2Proof.Machine.execMsub d s
  | .exit => Sys2Proof.Machine.execExit s
  | .yield => Sys2Proof.Machine.execYield s
  | .nop32 => Sys2Proof.Machine.execNop32 s
  | .sadd b a d => Sys2Proof.Machine.execSadd b a d s
  | .ssub b a d => Sys2Proof.Machine.execSsub b a d s
  | .smul b a d => Sys2Proof.Machine.execSmul b a d s
  | .smulhiI64 b a d => Sys2Proof.Machine.execSmulhiI64 b a d s
  | .sand b a d => Sys2Proof.Machine.execSand b a d s
  | .sor b a d => Sys2Proof.Machine.execSor b a d s
  | .sxor b a d => Sys2Proof.Machine.execSxor b a d s
  | .sshl b a d => Sys2Proof.Machine.execSshl b a d s
  | .sshr b a d => Sys2Proof.Machine.execSshr b a d s
  | .ssar b a d => Sys2Proof.Machine.execSsar b a d s
  | .sminI64 b a d => Sys2Proof.Machine.execSminI64 b a d s
  | .smaxI64 b a d => Sys2Proof.Machine.execSmaxI64 b a d s
  | .sminN64 b a d => Sys2Proof.Machine.execSminN64 b a d s
  | .smaxN64 b a d => Sys2Proof.Machine.execSmaxN64 b a d s
  | .sdivN64 b a d => Sys2Proof.Machine.execSdivN64 b a d s
  | .sremN64 b a d => Sys2Proof.Machine.execSremN64 b a d s
  | .saddi imm a d => Sys2Proof.Machine.execSaddi imm a d s
  | .sli imm sl => Sys2Proof.Machine.execSli imm sl s
  | .sliu imm sl => Sys2Proof.Machine.execSliu imm sl s
  | .slih imm sl => Sys2Proof.Machine.execSlih imm sl s
  | .slihu imm sl => Sys2Proof.Machine.execSlihu imm sl s
  | .scmpEq b a d => Sys2Proof.Machine.execScmpEq b a d s
  | .scmpNe b a d => Sys2Proof.Machine.execScmpNe b a d s
  | .scmpLtI b a d => Sys2Proof.Machine.execScmpLtI b a d s
  | .scmpLeI b a d => Sys2Proof.Machine.execScmpLeI b a d s
  | .scmpGtI b a d => Sys2Proof.Machine.execScmpGtI b a d s
  | .scmpGeI b a d => Sys2Proof.Machine.execScmpGeI b a d s
  | .scmpLtN b a d => Sys2Proof.Machine.execScmpLtN b a d s
  | .scmpLeN b a d => Sys2Proof.Machine.execScmpLeN b a d s
  | .scmpGtN b a d => Sys2Proof.Machine.execScmpGtN b a d s
  | .scmpGeN b a d => Sys2Proof.Machine.execScmpGeN b a d s
  | .vbc b d => Sys2Proof.Machine.execVbc b d s
  | .vbch b d => Sys2Proof.Machine.execVbch b d s
  | .vget n a d => Sys2Proof.Machine.execVget n a d s
  | .vsr a d => Sys2Proof.Machine.execVsr a d s
  | .ssr a d => Sys2Proof.Machine.execSsr a d s
  | .wsr a d => Sys2Proof.Machine.execWsr a d s
  | .ldg l t e sl a d => Sys2Proof.Machine.execLdg l t e sl a d s
  | .stg l t e sl a d => Sys2Proof.Machine.execStg l t e sl a d s
  | .lds l t e sl a d => Sys2Proof.Machine.execLds l t e sl a d s
  | .sts l t e sl a d => Sys2Proof.Machine.execSts l t e sl a d s
  | .ldc l t e sl a d => Sys2Proof.Machine.execLdc l t e sl a d s
  | .stc l t e sl a d => Sys2Proof.Machine.execStc l t e sl a d s
  | .ldx l t e sl a d => Sys2Proof.Machine.execLdx l t e sl a d s
  | .stx l t e sl a d => Sys2Proof.Machine.execStx l t e sl a d s
  | .memoryOpComplete g o => Sys2Proof.Machine.execMemoryOpComplete g o s
  | .ldAcq c e sl a d => Sys2Proof.Machine.execLdAcq c e sl a d s
  | .stRel c e sl a d => Sys2Proof.Machine.execStRel c e sl a d s
  | .fence sl => Sys2Proof.Machine.execFence sl s
  | .fenceAcq sl => Sys2Proof.Machine.execFenceAcq sl s
  | .fenceRel sl => Sys2Proof.Machine.execFenceRel sl s
  | .atomAddI32 e sl a d => Sys2Proof.Machine.execAtomAddI32 e sl a d s
  | .atomMinI32 e sl a d => Sys2Proof.Machine.execAtomMinI32 e sl a d s
  | .atomMaxI32 e sl a d => Sys2Proof.Machine.execAtomMaxI32 e sl a d s
  | .atomMinN32 e sl a d => Sys2Proof.Machine.execAtomMinN32 e sl a d s
  | .atomMaxN32 e sl a d => Sys2Proof.Machine.execAtomMaxN32 e sl a d s
  | .atomAnd e sl a d => Sys2Proof.Machine.execAtomAnd e sl a d s
  | .atomOr e sl a d => Sys2Proof.Machine.execAtomOr e sl a d s
  | .atomXor e sl a d => Sys2Proof.Machine.execAtomXor e sl a d s
  | .atomXchg e sl a d => Sys2Proof.Machine.execAtomXchg e sl a d s
  | .atomCas32 e sl a d => Sys2Proof.Machine.execAtomCas32 e sl a d s
  | .atomAddF32 e sl a d => Sys2Proof.Machine.execAtomAddF32 e sl a d s
  | .atomMinF32 e sl a d => Sys2Proof.Machine.execAtomMinF32 e sl a d s
  | .atomMaxF32 e sl a d => Sys2Proof.Machine.execAtomMaxF32 e sl a d s
  | .atomCas64 e sl a d => Sys2Proof.Machine.execAtomCas64 e sl a d s
  | .atomicPerform g o => Sys2Proof.Machine.execAtomicPerform g o s
  | .redAddI32 e sl a d => Sys2Proof.Machine.execRedAddI32 e sl a d s
  | .redMinI32 e sl a d => Sys2Proof.Machine.execRedMinI32 e sl a d s
  | .redMaxI32 e sl a d => Sys2Proof.Machine.execRedMaxI32 e sl a d s
  | .redMinN32 e sl a d => Sys2Proof.Machine.execRedMinN32 e sl a d s
  | .redMaxN32 e sl a d => Sys2Proof.Machine.execRedMaxN32 e sl a d s
  | .redAnd e sl a d => Sys2Proof.Machine.execRedAnd e sl a d s
  | .redOr e sl a d => Sys2Proof.Machine.execRedOr e sl a d s
  | .redXor e sl a d => Sys2Proof.Machine.execRedXor e sl a d s
  | .redAddF32 e sl a d => Sys2Proof.Machine.execRedAddF32 e sl a d s
  | .redMinF32 e sl a d => Sys2Proof.Machine.execRedMinF32 e sl a d s
  | .redMaxF32 e sl a d => Sys2Proof.Machine.execRedMaxF32 e sl a d s
  | .redAxpyF32 e sl a d => Sys2Proof.Machine.execRedAxpyF32 e sl a d s
  | .reductionApply r => Sys2Proof.Machine.execReductionApply r s
  | .rwlTryrd e sl a d => Sys2Proof.Machine.execRwlTryrd e sl a d s
  | .rwlTrywr e sl a d => Sys2Proof.Machine.execRwlTrywr e sl a d s
  | .rwlRelrd e sl a d => Sys2Proof.Machine.execRwlRelrd e sl a d s
  | .rwlRelwr e sl a d => Sys2Proof.Machine.execRwlRelwr e sl a d s
  | .rwlSetpref e sl a d => Sys2Proof.Machine.execRwlSetpref e sl a d s
  | .togen p a d => Sys2Proof.Machine.execTogen p a d s
  | .ofgen p a d => Sys2Proof.Machine.execOfgen p a d s
  | .isin p a m => Sys2Proof.Machine.execIsin p a m s
  | .barInit a n => Sys2Proof.Machine.execBarInit a n s
  | .barArrive a n => Sys2Proof.Machine.execBarArrive a n s
  | .barArrwait a n => Sys2Proof.Machine.execBarArrwait a n s
  | .barWait n => Sys2Proof.Machine.execBarWait n s
  | .barRarrive b a n => Sys2Proof.Machine.execBarRarrive b a n s
  | .barQuery a n => Sys2Proof.Machine.execBarQuery a n s
  | .copy x l c m f g h => Sys2Proof.Machine.execCopy x l c m f g h s
  | .sealBatch d => Sys2Proof.Machine.execSeal d s
  | .cwait a d => Sys2Proof.Machine.execCwait a d s
  | .lyset a r => Sys2Proof.Machine.execLyset a r s
  | .carcfg a c => Sys2Proof.Machine.execCarcfg a c s
  | .ctake b a c => Sys2Proof.Machine.execCtake b a c s
  | .cfree a c => Sys2Proof.Machine.execCfree a c s
  | .bccrd d => Sys2Proof.Machine.execBccrd d s
  | .fcopyTo sl l r g => Sys2Proof.Machine.execFcopyTo sl l r g s
  | .fcopyFrom sl l r g => Sys2Proof.Machine.execFcopyFrom sl l r g s
  | .copyEngineStart g o => Sys2Proof.Machine.execCopyEngineStart g o s
  | .copyDataLanded g o => Sys2Proof.Machine.execCopyDataLanded g o s
  | .copyComplete g o => Sys2Proof.Machine.execCopyComplete g o s
  | .cwaitComplete g o => Sys2Proof.Machine.execCwaitComplete g o s
  | .fcopyAck g o => Sys2Proof.Machine.execFcopyAck g o s
  | .fabricWritePerform flow asid va bytes => Sys2Proof.Machine.execFabricWritePerform flow asid va bytes s
  | .uetPacketDrop die => Sys2Proof.Machine.execUetPacketDrop die s
  | .msetSlot a sl => Sys2Proof.Machine.execMsetSlot a sl s
  | .mloadb l sl => Sys2Proof.Machine.execMloadb l sl s
  | .mmul sl => Sys2Proof.Machine.execMmul sl s
  | .scacc sl => Sys2Proof.Machine.execScacc sl s
  | .mrel a => Sys2Proof.Machine.execMrel a s
  | .mstat d => Sys2Proof.Machine.execMstat d s
  | .matrixCommandComplete g o => Sys2Proof.Machine.execMatrixCommandComplete g o s
  | .gadde b a d => Sys2Proof.Machine.execGadde b a d s
  | .grme b a d => Sys2Proof.Machine.execGrme b a d s
  | .gsetw b a d => Sys2Proof.Machine.execGsetw b a d s
  | .gdegOut a d => Sys2Proof.Machine.execGdegOut a d s
  | .gdegIn a d => Sys2Proof.Machine.execGdegIn a d s
  | .gldOut b a d => Sys2Proof.Machine.execGldOut b a d s
  | .gldIn b a d => Sys2Proof.Machine.execGldIn b a d s
  | .gfindOut b a d => Sys2Proof.Machine.execGfindOut b a d s
  | .gfindIn b a d => Sys2Proof.Machine.execGfindIn b a d s
  | .gvld a d => Sys2Proof.Machine.execGvld a d s
  | .gvst a d => Sys2Proof.Machine.execGvst a d s
  | .copenOut c a d => Sys2Proof.Machine.execCopenOut c a d s
  | .copenIn c a d => Sys2Proof.Machine.execCopenIn c a d s
  | .cnext c d => Sys2Proof.Machine.execCnext c d s
  | .cseek c a => Sys2Proof.Machine.execCseek c a s
  | .cclose c => Sys2Proof.Machine.execCclose c s
  | .crank c d => Sys2Proof.Machine.execCrank c d s
  | .graphOpComplete g o => Sys2Proof.Machine.execGraphOpComplete g o s
  | .versionReclaim gr => Sys2Proof.Machine.execVersionReclaim gr s
  | .gnew b a d => Sys2Proof.Machine.execGnew b a d s
  | .gfree a => Sys2Proof.Machine.execGfree a s
  | .gsel a => Sys2Proof.Machine.execGsel a s
  | .gstat a d => Sys2Proof.Machine.execGstat a d s
  | .spawnV a => Sys2Proof.Machine.execSpawnV a s
  | .spawnS a => Sys2Proof.Machine.execSpawnS a s
  | .dequeRefill cu => Sys2Proof.Machine.execDequeRefill cu s
  | .jcadd b a d => Sys2Proof.Machine.execJcadd b a d s
  | .jcaddPerform g o => Sys2Proof.Machine.execJcaddPerform g o s
  | .launch b a d => Sys2Proof.Machine.execLaunch b a d s
  | .cancelLaunch a => Sys2Proof.Machine.execCancelLaunch a s
  | .cancelChain a => Sys2Proof.Machine.execCancelChain a s
  | .cancelPhase a => Sys2Proof.Machine.execCancelPhase a s
  | .cancelJob a => Sys2Proof.Machine.execCancelJob a s
  | .lvwait a => Sys2Proof.Machine.execLvwait a s
  | .lvwaitComplete g o => Sys2Proof.Machine.execLvwaitComplete g o s
  | .setprio a => Sys2Proof.Machine.execSetprio a s
  | .launchAccept q => Sys2Proof.Machine.execLaunchAccept q s
  | .placementDecision cu => Sys2Proof.Machine.execPlacementDecision cu s
  | .dispatch cu => Sys2Proof.Machine.execDispatch cu s
  | .gangRetirement g => Sys2Proof.Machine.execGangRetirement g s
  | .rpub b a sl => Sys2Proof.Machine.execRpub b a sl s
  | .rpubk b a sl => Sys2Proof.Machine.execRpubk b a sl s
  | .rread b a sl => Sys2Proof.Machine.execRread b a sl s
  | .rver a d => Sys2Proof.Machine.execRver a d s
  | .rsubRerun b a => Sys2Proof.Machine.execRsubRerun b a s
  | .rsubCancel b a => Sys2Proof.Machine.execRsubCancel b a s
  | .runsub b a => Sys2Proof.Machine.execRunsub b a s
  | .rstop a => Sys2Proof.Machine.execRstop a s
  | .rsettle a => Sys2Proof.Machine.execRsettle a s
  | .rinit b a k => Sys2Proof.Machine.execRinit b a k s
  | .refOpPerform g o => Sys2Proof.Machine.execRefOpPerform g o s
  | .rsettleComplete g o => Sys2Proof.Machine.execRsettleComplete g o s
  | .embcfg a t => Sys2Proof.Machine.execEmbcfg a t s
  | .embag b a t => Sys2Proof.Machine.execEmbag b a t s
  | .embagComplete g o => Sys2Proof.Machine.execEmbagComplete g o s
  | .trap n => Sys2Proof.Machine.execTrap n s
  | .brk => Sys2Proof.Machine.execBrk s
  | .tret => Sys2Proof.Machine.execTret s
  | .tretNext => Sys2Proof.Machine.execTretNext s
  | .sretResume b a => Sys2Proof.Machine.execSretResume b a s
  | .sretRefuse b a => Sys2Proof.Machine.execSretRefuse b a s
  | .sretKill b a => Sys2Proof.Machine.execSretKill b a s
  | .sretSave b a => Sys2Proof.Machine.execSretSave b a s
  | .sretRestore b a => Sys2Proof.Machine.execSretRestore b a s
  | .sretRollback b a => Sys2Proof.Machine.execSretRollback b a s
  | .rdcyc d => Sys2Proof.Machine.execRdcyc d s
  | .rdperf a d => Sys2Proof.Machine.execRdperf a d s
  | .fsclr => Sys2Proof.Machine.execFsclr s
  | .tlbinvPage b a c => Sys2Proof.Machine.execTlbinvPage b a c s
  | .tlbinvAsid b a c => Sys2Proof.Machine.execTlbinvAsid b a c s
  | .tlbinvAll b a c => Sys2Proof.Machine.execTlbinvAll b a c s
  | .tlbinvComplete g o => Sys2Proof.Machine.execTlbinvComplete g o s
  | .halt => Sys2Proof.Machine.execHalt s
  | .haltComplete g o => Sys2Proof.Machine.execHaltComplete g o s
  | .pfetch e sl a t => Sys2Proof.Machine.execPfetch e sl a t s
  | .saveStream area => Sys2Proof.Machine.execSaveStream area s
  | .deadlineOverrun area => Sys2Proof.Machine.execDeadlineOverrun area s
  | .qput conn q tag packet => Sys2Proof.Machine.execQput conn q tag packet s
  | .write conn asid va bytes => Sys2Proof.Machine.execWrite conn asid va bytes s
  | .read conn asid va len => Sys2Proof.Machine.execRead conn asid va len s
  | .cread conn job => Sys2Proof.Machine.execCread conn job s
  | .phase conn job p => Sys2Proof.Machine.execPhase conn job p s
  | .phaseBoundary job p => Sys2Proof.Machine.execPhaseBoundary job p s
  | .debugHalt h idx => Sys2Proof.Machine.execDebugHalt h idx s
  | .debugStep h idx => Sys2Proof.Machine.execDebugStep h idx s
  | .debugResume h idx past => Sys2Proof.Machine.execDebugResume h idx past s
  | .debugInspect h idx what => Sys2Proof.Machine.execDebugInspect h idx what s
  | .debugWrite h idx what v => Sys2Proof.Machine.execDebugWrite h idx what v s
  | .debugWatchSet die n w => Sys2Proof.Machine.execDebugWatchSet die n w s
  | .measurementRead die asid va len => Sys2Proof.Machine.execMeasurementRead die asid va len s
  | .markExecutable die seg => Sys2Proof.Machine.execMarkExecutable die seg s
  | .spdmMeasurement job => Sys2Proof.Machine.execSpdmMeasurement job s
  | .telemetryRead die => Sys2Proof.Machine.execTelemetryRead die s
  | .powerCapSet die watts => Sys2Proof.Machine.execPowerCapSet die watts s
  | .retrainRequest stack rate => Sys2Proof.Machine.execRetrainRequest stack rate s
  | .retrainTimeout stack => Sys2Proof.Machine.execRetrainTimeout stack s
  | .droopDetected die => Sys2Proof.Machine.execDroopDetected die s
  | .powerCapExceeded die => Sys2Proof.Machine.execPowerCapExceeded die s
  | .correctedSoftError die arr => Sys2Proof.Machine.execCorrectedSoftError die arr s
  | .uncorrectableError die loc => Sys2Proof.Machine.execUncorrectableError die loc s
  | .dieReset die => Sys2Proof.Machine.execDieReset die s
  | .retrainEnd stack => Sys2Proof.Machine.execRetrainEnd stack s
  | .stretchEnd die => Sys2Proof.Machine.execStretchEnd die s
  | .deliveryFailure what => Sys2Proof.Machine.execDeliveryFailure what s
  | .fcopyFromRemoteRead flow asid va len => Sys2Proof.Machine.execFcopyFromRemoteRead flow asid va len s
  | .deviceRuntimeRestart die => Sys2Proof.Machine.execDeviceRuntimeRestart die s

end Sys2Proof.Machine
end

