-- ==== Sys2Proof/Machine/Own.lean ====
section
/-!
DEFINITION. What the module does of its own accord between instructions and events: accesses are performed, registers are read and
results land (R131, R171), engines move units, reductions merge (R206), caches give up lines (R178), seeds are pushed (R375), reservations are
made (R288), halts and cancels take hold (R295, R360). Each is one move, and any move that may be made may be the next one (log 4).
-/
namespace Sys2Proof.Machine

/-- The moves. `g` and `o` number a gang and an operation. -/
inductive Own where
  | perform (g o i : Nat)
  | grab (g o i n : Nat)
  | land (g o n : Nat)
  | landScalar (g o n : Nat)
  | spawn (g o : Nat)
  | enqueue (g o : Nat)
  | spillFault (g o : Nat)
  | check (g o : Nat)
  | unit (g o : Nat)
  | copyLog (g o : Nat)
  | follow (g o : Nat)
  | matrix (g o : Nat)
  | graph (g o : Nat)
  | pool (g o : Nat)
  | evict (cu line : Nat)
  | merge (a b i j : Nat)
  | mergeLanes (a i j : Nat)
  | seed (q : Nat)
  | reserve
  | take (g : Nat)
  | halted (g : Nat)
  | cancelExit (g : Nat)
  | ring (die : Nat)
  | retrain (stack : Nat)
  deriving DecidableEq, Repr

/-- `f`, where `p` holds. -/
def onlyIf {α : Type} (p : Bool) (x : α) : Option α := if p then some x else none

/-- Performs access `i` of an operation, where it may be performed. -/
def State.ownPerform (s : State) (g o i : Nat) : Option State :=
  match s.op? g o with
  | some (x, y) => match y.body with
    | .mem _ accs => (accs[i]?).bind fun a => onlyIf (s.mayPerformAll x y i a) (s.perform x y a)
    | _ => none
  | none => none

/-- Reads source register `n` of access `i`, where it has not been read and has no uncorrectable error (R131, R357). -/
def State.ownGrab (s : State) (g o i n : Nat) : Option State :=
  match s.op? g o with
  | some (x, y) => match y.body with
    | .mem _ accs => (accs[i]?).bind fun a => (a.data[n]?).bind fun p => onlyIf (p.val.isNone && x.sound a.lane p.reg) (s.setGang (x.grab o i n))
    | _ => none
  | none => none

/-- A free choice for a move, and the state that has made it (log 4). -/
def State.chosen (s : State) : State := { s with tick := s.tick + 1 }

/-- The reduction numbered `a` on its way. -/
def State.red? (s : State) (a : Nat) : Option Red := s.reds.find? fun r => decide (r.id = a)

/-- Operand `j` of one reduction merges into operand `i` of another, where they may (R206). -/
def State.ownMerge (s : State) (a b i j : Nat) : Option State :=
  (s.red? a).bind fun x => (s.red? b).bind fun y =>
    onlyIf (decide (a ≠ b) && mayMerge x y && decide (i < x.ds.length) && decide (j < y.ds.length)) (s.mergeReds x y i j)

/-- Two operands of one reduction merge, where they may (R206). -/
def State.ownMergeLanes (s : State) (a i j : Nat) : Option State :=
  (s.red? a).bind fun r => onlyIf (mayMerge r r && decide (i < j) && decide (j < r.ds.length)) (s.mergeWithin r i j)

/-- A CU gives up a line, where it may (R178, R357). -/
def State.ownEvict (s : State) (cu n : Nat) : Option State :=
  ((s.cu cu).line? n).bind fun l => onlyIf (s.lineFree l) (s.evict cu n)

/-- A gang that was asked to halt stands at a clause boundary (R360). -/
def State.ownHalted (s : State) (g : Nat) : Option State :=
  (s.gang? g).bind fun x => onlyIf (decide (x.halt = .asked) && decide (x.flight = none)) (s.setGang { x with halt := .halted })

/-- Makes a move, where it may be made. -/
def State.own (s : State) : Own → Option State
  | .perform g o i => s.ownPerform g o i
  | .grab g o i n => s.ownGrab g o i n
  | .land g o n => (s.op? g o).bind fun p => (p.2.land[n]?).bind fun x => onlyIf (p.1.mayLand p.2 x) (s.setGang (p.1.landOne p.2 x))
  | .landScalar g o n => (s.op? g o).bind fun p => (p.2.sland[n]?).map fun x => s.setGang (p.1.landScalar p.2 x)
  | .spawn g o => s.spawnPerform g o
  | .enqueue g o => s.launchEnqueue g o
  | .spillFault g o => s.spillFault g o
  | .check g o => s.recheckCopy g o
  | .unit g o => s.chosen.stepCopy g o (Config.choice s.tick)
  | .copyLog g o => s.copyLogFull g o
  | .follow g o => s.followOn g o
  | .matrix g o => s.chosen.stepMatrix g o (Config.choice s.tick)
  | .graph g o => (s.op? g o).bind fun p => onlyIf (s.mayGraph p.1 p.2) (s.performGraph p.1 p.2)
  | .pool g o => s.chosen.stepEmbag g o (Config.choice s.tick)
  | .evict cu n => s.ownEvict cu n
  | .merge a b i j => s.ownMerge a b i j
  | .mergeLanes a i j => s.ownMergeLanes a i j
  | .seed q => s.seed q
  | .reserve => s.nextReservation.map fun r => { s with reserved := s.reserved ++ [r] }
  | .take g => (s.gang? g).bind fun x => (s.takeDue x).map fun c => s.releaseTakes x.team c
  | .halted g => s.ownHalted g
  | .cancelExit g => s.cancelExit g
  | .ring d => onlyIf (decide ((s.die d).pending ≠ []) && (s.die d).ringRoom) (s.flushRing d)
  | .retrain h => s.startRetrain h

/-! ## The moves that a state names -/

/-- The moves that an operation's body names. -/
def Op.bodyMoves (o : Op) (g : Nat) : List Own :=
  match o.body with
  | .mem _ accs =>
    .spillFault g o.id :: ((List.range accs.length).map fun i =>
      .perform g o.id i :: (List.range ((accs[i]?.map fun a => a.data.length).getD 0)).map fun n => Own.grab g o.id i n).flatten
  | .graph _ _ _ _ => [.graph g o.id]
  | .copy _ => [.check g o.id, .unit g o.id, .copyLog g o.id, .follow g o.id]
  | .matrix _ => [.matrix g o.id]
  | .embag _ => [.pool g o.id]
  | .spawn _ => [.spawn g o.id, .spillFault g o.id]
  | .launch _ _ _ _ => [.enqueue g o.id]
  | .ref _ _ => [.spillFault g o.id]
  | _ => []

/-- The moves of an operation. -/
def Op.moves (o : Op) (g : Nat) : List Own :=
  o.bodyMoves g ++ ((List.range o.land.length).map fun n => Own.land g o.id n) ++ (List.range o.sland.length).map fun n => Own.landScalar g o.id n

/-- The moves of a gang. -/
def Gang.moves (g : Gang) : List Own := .take g.id :: .halted g.id :: .cancelExit g.id :: (g.ops.map fun o => o.moves g.id).flatten

/-- The moves of a CU. -/
def Cu.moves (c : Cu) (n : Nat) : List Own := c.lines.map fun l => Own.evict n l.line

/-- `f` of every number below `n` and every one below `m`. -/
def allPairs {α : Type} (n m : Nat) (f : Nat → Nat → α) : List α := ((List.range n).map fun i => (List.range m).map (f i)).flatten

/-- The moves of the reductions on their way: each operand with each other one. -/
def redMoves (rs : List Red) : List Own :=
  (rs.map fun a => (rs.map fun b => allPairs a.ds.length b.ds.length (Own.merge a.id b.id)).flatten ++
    allPairs a.ds.length a.ds.length (Own.mergeLanes a.id)).flatten

/-- Whether anything waits for a placement. -/
def State.placing (s : State) : Bool :=
  decide (s.restores ≠ []) || (s.queues.any fun q => decide (q.entries ≠ [])) || s.cus.any fun c => c.2.deque.any fun l => decide (l.2 ≠ [])

/-- Every move that the state names. -/
def State.moves (s : State) : List Own :=
  List.flatten [
    (s.gangs.map Gang.moves).flatten,
    (s.cus.map fun c => c.2.moves c.1).flatten,
    redMoves s.reds,
    s.queues.map fun q => Own.seed q.num,
    if s.placing then [.reserve] else [],
    s.dies.map fun d => Own.ring d.1,
    s.hbmStacks.map fun h => Own.retrain h.1]

end Sys2Proof.Machine
end

