-- ==== Sys2Proof/Machine/Inputs.lean ====
section
/-!
DEFINITION. What comes from outside the module, and the device runtime's choices for which the spec gives no instruction (log 5): each
input waits in the state's list until it is taken.
-/
noncomputable section
namespace Sys2Proof.Machine

/-- The row of the opcode table that takes an input, if one does. -/
def Input.instr : Input → Option Instr
  | .qput c q t p => some (.qput c q t p)
  | .write c a v bs => some (.write c a v bs)
  | .read c a v n => some (.read c a v n)
  | .cread c j => some (.cread c j)
  | .phase c j p => some (.phase c j p)
  | .fabricWrite f a v bs => some (.fabricWritePerform f a v bs)
  | .fabricRead f a v n => some (.fcopyFromRemoteRead f a v n)
  | .fcopyAck g o => some (.fcopyAck g o)
  | .undelivered w => some (.deliveryFailure w)
  | .packetDrop d => some (.uetPacketDrop d)
  | .debugHalt h i => some (.debugHalt h i)
  | .debugStep h i => some (.debugStep h i)
  | .debugResume h i p => some (.debugResume h i p)
  | .debugInspect h i w => some (.debugInspect h i w)
  | .debugWrite h i w v => some (.debugWrite h i w v)
  | .watch d n w => some (.debugWatchSet d n w)
  | .measure d a v n => some (.measurementRead d a v n)
  | .markExecutable d g => some (.markExecutable d g)
  | .spdm j => some (.spdmMeasurement j)
  | .telemetry d => some (.telemetryRead d)
  | .powerCap d w => some (.powerCapSet d w)
  | .retrain h r => some (.retrainRequest h r)
  | .droop d => some (.droopDetected d)
  | .overCap d => some (.powerCapExceeded d)
  | .softError d a => some (.correctedSoftError d a)
  | .hardError d p => some (.uncorrectableError d p)
  | .dieReset d => some (.dieReset d)
  | .restartRuntime d => some (.deviceRuntimeRestart d)
  | .fcopyData _ _ _ | .fcopyRefused _ _ | .fabricNibble _ _ _ _ _ | .peersReady _ _ | .session _ _ | .queueConfig _ | .grant _ | .revoke _ _
  | .poolConfig _ | .revokePool _ _ | .flowConfig _ | .spillConfig _ _ _ _ | .runtime _ _ | .jobStarts _ | .provision _ _ => none

/-- The channel in whose order an input is taken, if it has one: a connection, an ordered flow, or the management controller (R366, R369). -/
def State.channel (s : State) : Input → Option (Nat × Nat)
  | .qput c _ _ _ | .write c _ _ _ | .read c _ _ _ | .cread c _ | .phase c _ _ => some (0, c)
  | .fabricWrite f _ _ _ | .fabricRead f _ _ _ | .fabricNibble f _ _ _ _ => if s.flows.any fun x => decide (x.handle = f) && x.ordered then some (1, f.toNat) else none
  | .debugHalt _ _ | .debugStep _ _ | .debugResume _ _ _ | .debugInspect _ _ _ | .debugWrite _ _ _ _ | .watch _ _ _ | .session _ _ | .spdm _
  | .telemetry _ | .powerCap _ _ | .retrain _ _ | .measure _ _ _ _ | .markExecutable _ _ | .jobStarts _ | .provision _ _ => some (2, 0)
  | _ => none

/-! ## The runtime's choices without an instruction (R164, R231, R251, R286, R291, R303) -/

/-- Whether an operation still names a place of a common granule. -/
def Op.inGranule (o : Op) (n : Nat) : Bool :=
  match o.body with
  | .mem _ accs => accs.any fun a => match a.place with
    | .common off => decide (off / 65536 = n)
    | _ => false
  | .ref _ off => decide (off / 65536 = n)
  | .lvwait off _ => decide (off / 65536 = n)
  | .rsettle off _ => decide (off / 65536 = n)
  | .copy _ => true
  | _ => false

/-- A granule is granted where it is free; at most 128 of kind slot (R164, R303). -/
def State.grantGranule (s : State) (g : Grant) : Option State :=
  onlyIf (decide (g.granule < 8192) && (s.grants.all fun x => decide (x.granule ≠ g.granule)) &&
    (decide (g.kind ≠ .slot) || decide ((s.grants.filter fun x => decide (x.kind = .slot)).length < 128))) { s with grants := s.grants ++ [g] }

/-- A granule is revoked once no operation names it: its slots are live no longer (R303). -/
def State.revokeGranule (s : State) (asid : BitVec 8) (n : Nat) : Option State :=
  onlyIf (s.gangs.all fun g => g.ops.all fun o => !o.inGranule n)
    { s with
      grants := s.grants.filter fun x => !(decide (x.asid = asid) && decide (x.granule = n))
      slots := s.slots.filter fun x => decide (x.off / 65536 ≠ n), mirrors := s.mirrors.filter fun m => decide (m.off / 65536 ≠ n) }

/-- A queue is configured, or configured anew while it is empty (R286). -/
def State.configQueue (s : State) (q : Queue) : Option State :=
  onlyIf (!(q.hostOwned && decide (q.asid = 0)) && decide (q.num ≤ 255) && decide (1 ≤ q.depth) && decide (q.depth ≤ 4096) && s.queues.all fun x => decide (x.num ≠ q.num) || decide (x.entries = []))
    { s with queues := (s.queues.filter fun x => decide (x.num ≠ q.num)) ++ [{ q with entries := [] }] }

/-- A pool is granted or enlarged (R251, R265). -/
def State.configPool (s : State) (p : Pool) : Option State :=
  onlyIf (decide (p.num ≤ 255) && s.graph.pools.all fun x => decide (x.asid ≠ p.asid) || decide (x.num ≠ p.num) ||
      (decide (x.verts ≤ p.verts) && decide (x.slots ≤ p.slots) && decide (x.vers ≤ p.vers)))
    { s with graph := { s.graph with pools := (s.graph.pools.filter fun x => !(decide (x.asid = p.asid) && decide (x.num = p.num))) ++ [p] } }

/-- A pool that holds no graph is taken back. -/
def State.dropPool (s : State) (asid : BitVec 8) (n : Nat) : Option State :=
  onlyIf (s.graph.graphs.all fun g => decide (g.asid ≠ asid) || decide (g.pool ≠ n))
    { s with graph := { s.graph with pools := s.graph.pools.filter fun x => !(decide (x.asid = asid) && decide (x.num = n)) } }

/-- Boot places the device runtime on a die that has none: one team at priority 23, in address space 0, where its CU has room (R17; log 3). -/
def State.placeRuntime (s : State) (cu : Nat) (p : BitVec 512) : Option State :=
  if cu < 576 ∧ pktShaped p ∧ pktAligned p ∧ pktKind p = 0 ∧ pktPrio p = 23 ∧ pktCount p = 1 ∧ pktGroup p = 0 ∧
      (s.teams.all fun t => decide (t.origin.asid ≠ 0) || decide (dieOf t.cu ≠ dieOf cu)) then
    (s.fit cu (pktShape p) 23 none).map fun qs =>
      s.placeTeam { origin := { packet := p }, submitter := .gang 0 0 0 } cu 0 none 0 qs
  else none

/-- Takes an input that no row takes. -/
def State.configure (s : State) : Input → Option State
  | .fcopyData g o bs => some (s.bringCopy g o bs)
  | .fcopyRefused g o => nextState (s.refuseCopy g o)
  | .fabricNibble f a va high v => nextState (s.fabricNibble f a va high v)
  | .peersReady j p => some (s.onPhase j p fun x => { x with peersReady := true })
  | .session j on => some { s with sessions := (s.sessions.filter fun x => decide (x ≠ j)) ++ if on then [j] else [] }
  | .queueConfig q => s.configQueue q
  | .grant g => s.grantGranule g
  | .revoke a n => s.revokeGranule a n
  | .poolConfig p => s.configPool p
  | .revokePool a n => s.dropPool a n
  | .flowConfig f => some { s with flows := (s.flows.filter fun x => decide (x.handle ≠ f.handle)) ++ [f] }
  | .spillConfig c base n absent =>
    onlyIf (decide ((s.cu c).inHbm ≤ n)) (s.onCu c fun x => { x with spillBase := base, spillMax := n, spillAbsent := absent })
  | .runtime c p => s.placeRuntime c p
  | .jobStarts j => some { s with attest := s.attest.filter fun e => decide (e.1 ≠ j.toNat) }
  | .provision j ks => some { s with keys := setEntry s.keys j.toNat ks }
  | _ => none

/-- Whether input `n` is the next of its channel. -/
def State.inTurn (s : State) (n : Nat) (i : Input) : Bool :=
  (s.channel i).isNone || (s.inputs.take n).all fun j => decide (s.channel j ≠ s.channel i)

/-- Whether an input stays after it was tried: it asked the runtime for a page or for room, and will be tried again (R350, R366). -/
def Input.stays (i : Input) (s t : State) : Bool :=
  match i with
  | .write _ _ _ _ | .read _ _ _ _ | .fabricWrite _ _ _ _ | .fabricNibble _ _ _ _ _ => decide (s.requests.length < t.requests.length)
  | _ => false

/-- What an input does. -/
def State.serve (s : State) (i : Input) : Result :=
  match i.instr with
  | some r => exec r s
  | none => match s.configure i with
    | some t => .next t
    | none => .fault .notEnabled

/-- Input `n` is gone from the list, unless it stays. -/
def State.took (s : State) (n : Nat) (i : Input) (t : State) : State := if i.stays s t then t else { t with inputs := t.inputs.eraseIdx n }

/-- Takes input `n`, where it is in turn. -/
def State.takeInput (s : State) (n : Nat) : Result :=
  match s.inputs[n]? with
  | none => .fault .notEnabled
  | some i =>
    if s.inTurn n i then match s.serve i with
      | .next t => .next (s.took n i t)
      | r => r
    else .fault .notEnabled

end Sys2Proof.Machine
end
end

