-- ==== Sys2Proof/Machine/Errors.lean ====
section
/-!
DEFINITION. What a word consumes, and the words that would consume a register with an uncorrectable error (R357).
-/
namespace Sys2Proof.Machine

/-- Whether the last operand of a word's signature is a destination that the word replaces whole, so that it does not consume what stands there. A mask of which
only the bits of the issuing lanes change, an accumulator, and a register of which a part is kept are consumed. -/
def writesLast : Instr → Bool
  | .addI32 _ _ _ | .subI32 _ _ _ | .mulI32 _ _ _ | .mulhiI32 _ _ _ | .mulhiN32 _ _ _ | .minI32 _ _ _ | .maxI32 _ _ _ | .minN32 _ _ _ | .maxN32 _ _ _
    | .and _ _ _ | .or _ _ _ | .xor _ _ _ | .shl _ _ _ | .shr _ _ _ | .sar _ _ _ | .addi _ _ _ | .muli _ _ _ | .andi _ _ _ | .ori _ _ _ | .xori _ _ _
    | .shiShl _ _ _ | .shiShr _ _ _ | .shiSar _ _ _ | .rol _ _ _ | .not _ _ | .negI32 _ _ | .absI32 _ _ | .popc _ _ | .clz _ _ | .ctz _ _ | .brev _ _
    | .sxt8 _ _ | .sxt16 _ _ | .zxt8 _ _ | .zxt16 _ _ | .bfeN _ _ _ _ | .bfeI _ _ _ _ | .sel _ _ _ _ | .li _ _ | .liu _ _ | .addF32 _ _ _
    | .subF32 _ _ _ | .mulF32 _ _ _ | .minF32 _ _ _ | .maxF32 _ _ _ | .copysignF32 _ _ _ | .scaleF32 _ _ _ | .getexpF32 _ _ | .absF32 _ _
    | .negF32 _ _ | .rcpF32 _ _ | .rsqF32 _ _ | .sqrtF32 _ _ | .exp2F32 _ _ | .log2F32 _ _ | .sinF32 _ _ | .cosF32 _ _ | .floorF32 _ _ | .ceilF32 _ _
    | .truncF32 _ _ | .rintF32 _ _ | .fracF32 _ _ | .classF32 _ _ | .addF16x2 _ _ _ | .mulF16x2 _ _ _ | .minF16x2 _ _ _ | .maxF16x2 _ _ _
    | .addBf16x2 _ _ _ | .mulBf16x2 _ _ _ | .minBf16x2 _ _ _ | .maxBf16x2 _ _ _ | .cvt _ _ _ _ _ _ _ | .sbdecSb4 _ _ _ | .sbdecSb8 _ _ _
    | .shfl _ _ _ _ | .shflkUp _ _ _ _ | .shflkDn _ _ _ _ | .shflxXor _ _ _ _ | .shflxIdx _ _ _ _ | .xredSumI32 _ _ _ | .xredMinI32 _ _ _
    | .xredMaxI32 _ _ _ | .xredSumF32 _ _ _ | .xredMinF32 _ _ _ | .xredMaxF32 _ _ _ | .xredScanI32 _ _ _ | .xredScanF32 _ _ _ | .voteAny _ _ _
    | .voteAll _ _ _ | .voteBallot _ _ _ | .voteBallotMask _ _ _ | .mset _ _ | .mget _ _ | .mand _ _ _ | .mor _ _ _ | .mxor _ _ _ | .mnot _ _
    | .mcpy _ _ | .mpop _ _ | .mfirst _ _ | .mlive _ | .msub _ | .sadd _ _ _ | .ssub _ _ _ | .smul _ _ _ | .smulhiI64 _ _ _ | .sand _ _ _ | .sor _ _ _
    | .sxor _ _ _ | .sshl _ _ _ | .sshr _ _ _ | .ssar _ _ _ | .sminI64 _ _ _ | .smaxI64 _ _ _ | .sminN64 _ _ _ | .smaxN64 _ _ _ | .sdivN64 _ _ _
    | .sremN64 _ _ _ | .saddi _ _ _ | .sli _ _ | .sliu _ _ | .scmpEq _ _ _ | .scmpNe _ _ _ | .scmpLtI _ _ _ | .scmpLeI _ _ _ | .scmpGtI _ _ _
    | .scmpGeI _ _ _ | .scmpLtN _ _ _ | .scmpLeN _ _ _ | .scmpGtN _ _ _ | .scmpGeN _ _ _ | .vbc _ _ | .vbch _ _ | .vget _ _ _ | .vsr _ _ | .ssr _ _
    | .ldg _ _ _ _ _ _ | .lds _ _ _ _ _ _ | .ldc _ _ _ _ _ _ | .ldx _ _ _ _ _ _ | .ldAcq _ _ _ _ _ | .togen _ _ _ | .ofgen _ _ _ | .barQuery _ _
    | .sealBatch _ | .cwait _ _ | .bccrd _ | .mstat _ | .grme _ _ _ | .gdegOut _ _ | .gdegIn _ _ | .gldOut _ _ _ | .gldIn _ _ _ | .gfindOut _ _ _
    | .gfindIn _ _ _ | .gvld _ _ | .copenOut _ _ _ | .copenIn _ _ _ | .cnext _ _ | .crank _ _ | .gnew _ _ _ | .gstat _ _ | .jcadd _ _ _
    | .launch _ _ _ | .rver _ _ | .rdcyc _ | .rdperf _ _ => true
  | _ => false

/-- The scalars that a word reads beside the operands of its signature: the base of a memory address (R169), and s63 for ret (R147). -/
def implied : Instr → List Operand
  | .ldg _ _ _ sb _ _ | .stg _ _ _ sb _ _ | .lds _ _ _ sb _ _ | .sts _ _ _ sb _ _ | .ldc _ _ _ sb _ _ | .stc _ _ _ sb _ _ | .ldx _ _ _ sb _ _
    | .stx _ _ _ sb _ _ | .ldAcq _ _ sb _ _ | .stRel _ _ sb _ _ | .atomAddI32 _ sb _ _ | .atomMinI32 _ sb _ _ | .atomMaxI32 _ sb _ _
    | .atomMinN32 _ sb _ _ | .atomMaxN32 _ sb _ _ | .atomAnd _ sb _ _ | .atomOr _ sb _ _ | .atomXor _ sb _ _ | .atomXchg _ sb _ _
    | .atomCas32 _ sb _ _ | .atomAddF32 _ sb _ _ | .atomMinF32 _ sb _ _ | .atomMaxF32 _ sb _ _ | .atomCas64 _ sb _ _ | .redAddI32 _ sb _ _
    | .redMinI32 _ sb _ _ | .redMaxI32 _ sb _ _ | .redMinN32 _ sb _ _ | .redMaxN32 _ sb _ _ | .redAnd _ sb _ _ | .redOr _ sb _ _ | .redXor _ sb _ _
    | .redAddF32 _ sb _ _ | .redMinF32 _ sb _ _ | .redMaxF32 _ sb _ _ | .redAxpyF32 _ sb _ _ | .rwlTryrd _ sb _ _ | .rwlTrywr _ sb _ _
    | .rwlRelrd _ sb _ _ | .rwlRelwr _ sb _ _ | .rwlSetpref _ sb _ _ => [.sca sb.toNat 1]
  | .ret => [.sca 63 1]
  | _ => []

/-- The registers that a word consumes. -/
def consumed (i : Instr) : List Operand :=
  implied i ++ match i with
  | .movShort k b _ => if k = 0 then [.vec b.toNat 1] else []
  | .ctake _ a _ => [.sca a.toNat 1]
  | j => if writesLast j then j.sig.ops.dropLast else j.sig.ops

/-- The lanes whose vector registers a word of the sub-group `t` reads: vget reads one lane of its own (R109). -/
def readLanes (t : Lanes) : Instr → Lanes
  | .vget n _ _ => lane n.toNat
  | _ => t

/-- Whether an operand of the lanes `t` holds an uncorrectable error. -/
def Gang.inError (g : Gang) (t : Lanes) : Operand → Bool
  | .vec c n => (lanesOf t).any fun l => (List.range n).any fun k => !g.sound l (c + k)
  | .sca c n => g.badScalars.any fun k => decide (c ≤ k) && decide (k < c + n)
  | .mask c => g.badMasks.contains c
  | _ => false

/-- Whether a body word that passes IssueCheck would consume a register with an uncorrectable error (R357). -/
def State.errs (s : State) (g : Gang) (f : Flight) (i : Instr) : Bool :=
  match f.place with
  | none => false
  | some b =>
    i.wf && (!i.sig.last || decide (b.left = 1)) && (!i.sig.sys || s.system g) && !i.sig.ops.any (Operand.beyond g.vcount) &&
    (consumed i).any (g.inError (readLanes f.lanes i))

end Sys2Proof.Machine
end

