-- ==== Sys2Proof/Machine/Issue.lean ====
section
/-!
DEFINITION. A gang issues its next word: it is fetched, decoded and executed (R43, R44, R57, R126), or it is refused at its fetch; the fault of a failed
copy comes before it (R222); and a debug step ends after it (R156).
-/
noncomputable section
namespace Sys2Proof.Machine

/-- A debug step is over once a body word was issued; a header goes on to its first word, and a word that has not issued yet goes on waiting (R156). -/
def Gang.afterWord (atHeader : Bool) (g : Gang) : Gang :=
  if g.halt = .stepping ∧ !(g.stall.isSome || g.suspended.isSome || (atHeader && g.flight.isSome)) then { g with halt := .halted } else g

/-- Applies `f` to the next state. -/
def onNext (f : State → State) : Result → Result
  | .next s => .next (f s)
  | r => r

/-- Executes the word `w` of `size` bytes that gang `g` has fetched for its flight `f`; one that would consume a register in error stalls in place (R357). -/
def State.runWord (s : State) (g : Gang) (f : Flight) (w size : Nat) : Result :=
  match decode (leBytes size w) with
  | .ok (i, _) => if s.errs g f i then .next (s.setGang { g with stall := some .error }) else exec i s
  | .error _ => .next (s.badWord g f (decide (size = 4) && decide (w % 128 = 1)) size)

/-- Issues the next word of gang `g`, whose flight is `f`; it waits in place while its code cannot be read (R355, R357). -/
def State.issueFlight (s : State) (g : Gang) (f : Flight) : Result :=
  match if f.place = none then g.dueFault f.lanes else none with
  | some d => .next (s.copyTrap g f d.1 d.2)
  | none =>
    let cu := s.cuOf g
    match s.fetch cu (s.asidOf g) f.pc with
    | .wait => .fault .notEnabled
    | .fault va => .next ((s.fetchedTo cu (s.asidOf g) f.pc va).suspend g f f.lanes va none)
    | .protection va => .next ((s.fetchedTo cu (s.asidOf g) f.pc va).trap g f PAGE_PROTECTION f.lanes va false 0)
    | .word w size => (s.fetchedWord cu (s.asidOf g) f.pc size).runWord g f w size

/-- Issues the next word of the gang numbered `i`. -/
def State.issueWord (s : State) (i : Nat) : Result :=
  match s.gang? i with
  | none => .fault .noIssuer
  | some x =>
    let s1 := s.begin x
    match s1.gang? i with
    | none => .fault .noIssuer
    | some g => match g.flight with
      | none => .fault .noIssuer
      | some f => onNext (fun t => t.onGang i fun h => (x.undecided h).afterWord (decide (f.place = none))) (s1.issueFlight g f)

end Sys2Proof.Machine
end
end

