-- ==== Sys2Proof/Machine/Schedule.lean ====
section
/-!
DEFINITION. What may happen next: the rows of the opcode table that the module's own state calls for, the inputs, the words that gangs may
issue (R293), and the module's own moves. Where the spec gives no order among them, a free choice takes one (log 4).
-/
noncomputable section
namespace Sys2Proof.Machine

/-- The rows that the module starts by itself, each with what it names. -/
inductive Event where
  | resume (g : Nat)
  | memory (g o : Nat)
  | atomic (g o : Nat)
  | jcadd (g o : Nat)
  | copyStart (g o : Nat)
  | copyLanded (g o : Nat)
  | copyDone (g o : Nat)
  | cwait (g o : Nat)
  | matrix (g o : Nat)
  | graph (g o : Nat)
  | lvwait (g o : Nat)
  | ref (g o : Nat)
  | rsettle (g o : Nat)
  | embag (g o : Nat)
  | tlbinv (g o : Nat)
  | halt (g o : Nat)
  | reduction (r : Nat)
  | reclaim (n : Nat)
  | refill (cu : Nat)
  | accept (q : Nat)
  | place (cu : Nat)
  | dispatch (cu : Nat)
  | retire (g : Nat)
  | stream (area : W64)
  | overrun (area : W64)
  | boundary (job : BitVec 16) (p : BitVec 12)
  | timeout (stack : Nat)
  | trained (stack : Nat)
  | unstretch (die : Nat)
  deriving DecidableEq, Repr

/-- The row of an event. -/
def Event.instr : Event → Instr
  | .resume g => .stalledWordResume g
  | .memory g o => .memoryOpComplete g o
  | .atomic g o => .atomicPerform g o
  | .jcadd g o => .jcaddPerform g o
  | .copyStart g o => .copyEngineStart g o
  | .copyLanded g o => .copyDataLanded g o
  | .copyDone g o => .copyComplete g o
  | .cwait g o => .cwaitComplete g o
  | .matrix g o => .matrixCommandComplete g o
  | .graph g o => .graphOpComplete g o
  | .lvwait g o => .lvwaitComplete g o
  | .ref g o => .refOpPerform g o
  | .rsettle g o => .rsettleComplete g o
  | .embag g o => .embagComplete g o
  | .tlbinv g o => .tlbinvComplete g o
  | .halt g o => .haltComplete g o
  | .reduction r => .reductionApply r
  | .reclaim n => .versionReclaim n
  | .refill c => .dequeRefill c
  | .accept q => .launchAccept q
  | .place c => .placementDecision c
  | .dispatch c => .dispatch c
  | .retire g => .gangRetirement g
  | .stream a => .saveStream a
  | .overrun a => .deadlineOverrun a
  | .boundary j p => .phaseBoundary j p
  | .timeout h => .retrainTimeout h
  | .trained h => .retrainEnd h
  | .unstretch d => .stretchEnd d

/-- The events of an operation. -/
def Op.events (o : Op) (g : Nat) : List Event :=
  match o.body with
  | .mem (.atom _) _ | .mem (.rwl _) _ => [.atomic g o.id]
  | .mem .jcadd _ => [.jcadd g o.id]
  | .mem _ _ => [.memory g o.id]
  | .graph _ _ _ _ | .gsys _ _ => [.graph g o.id]
  | .copy _ => [.copyStart g o.id, .copyLanded g o.id, .copyDone g o.id]
  | .matrix _ => [.matrix g o.id]
  | .embag _ => [.embag g o.id]
  | .ref _ _ => [.ref g o.id]
  | .spawn _ | .launch _ _ _ _ => []
  | .cwait _ _ _ => [.cwait g o.id]
  | .lvwait _ _ => [.lvwait g o.id]
  | .rsettle _ _ => [.rsettle g o.id]
  | .halt => [.halt g o.id]
  | .tlbinv _ _ _ => [.tlbinv g o.id]

/-- The events of a gang. -/
def Gang.events (g : Gang) : List Event := .resume g.id :: .retire g.id :: (g.ops.map fun o => o.events g.id).flatten

/-- The placement or dispatch that is due (R287, R292). -/
def State.dueDecision (s : State) : List Event :=
  if s.placing then match s.decision with
    | some (c, _, .records) => [.dispatch c]
    | some (c, _, _) => [.place c]
    | none => []
  else []

/-- Every event that the state names. -/
def State.events (s : State) : List Event :=
  List.flatten [
    (s.gangs.map Gang.events).flatten,
    s.reds.map fun r => Event.reduction r.id,
    (List.range s.graph.graphs.length).map Event.reclaim,
    (s.cus.filter fun c => decide (0 < c.2.inHbm)).map fun c => Event.refill c.1,
    s.queues.map fun q => Event.accept q.num,
    s.dueDecision,
    s.savings.map fun v => Event.stream v.area,
    s.savings.map fun v => Event.overrun v.area,
    s.phases.map fun p => Event.boundary p.job p.phase,
    s.hbmStacks.map fun h => Event.timeout h.1,
    s.hbmStacks.map fun h => Event.trained h.1,
    s.dies.map fun d => Event.unstretch d.1]

/-- What a step may be. -/
inductive Action where
  | event (e : Event)
  | input (n : Nat)
  | issue (g : Nat)
  | own (m : Own)
  deriving DecidableEq, Repr

/-- Does an action. -/
def State.act (s : State) : Action → Result
  | .event e => exec e.instr s
  | .input n => s.takeInput n
  | .issue g => s.issueWord g
  | .own m => match s.own m with
    | some t => .next t
    | none => .fault .notEnabled

/-- Whether an outcome is a next state. -/
def isNext : Result → Bool
  | .next _ => true
  | _ => false

/-- Every action that may be the next one: those that the state names and that answer a next state. -/
def State.actions (s : State) : List Action :=
  (List.flatten [
    s.events.map Action.event,
    (List.range s.inputs.length).map Action.input,
    (s.gangs.filter fun g => s.mayIssue s.pushStalls g).map fun g => Action.issue g.id,
    s.moves.map Action.own]).filter fun a => isNext (s.act a)

/-- The next action, with the state that has chosen it: a free choice where there are several (log 4). -/
def State.pick (s : State) : Option (Action × State) :=
  match s.actions with
  | [] => none
  | [a] => some (a, s)
  | a :: b :: r => some ((a :: b :: r).getD (Config.choice s.tick % (r.length + 2)) a, s.chosen)

end Sys2Proof.Machine
end
end

