-- ==== Sys2Proof/Machine/Step.lean ====
section
/-!
DEFINITION. One step of the module: the next action that its state allows, chosen freely where there are several; a module in which nothing
can happen stays as it is until an input comes (log 4, log 5).
-/
noncomputable section
namespace Sys2Proof.Machine

/-- One step. -/
def step (s : State) : Host.Outcome State Fault Refusal :=
  match s.pick with
  | none => .next s
  | some (a, t) => t.act a

/-- The state with an instruction's bits stored where the next step fetches: a loaded gang stands at it (log 3). A header stands at a header
position, any other word at the end of a body. -/
def State.withFetchWord (s : State) (nbits w : Nat) : State := s.boot (decide (w % 2 ^ nbits % 128 = 1)) (tableBytes nbits w)

end Sys2Proof.Machine
end
end

