-- ==== Sys2Proof/Rules.lean ====
section
/-!
DEFINITION. The vocabulary of the statements: a word that a gang issues and that passes IssueCheck (R57), and what an
instruction leaves unchanged.
-/
namespace Sys2Proof.Machine

/-- Gang `g` of state `s` issues the word `i` for its sub-group `f`, at the place `b` of a body, and the word passes IssueCheck (R57): its codes are assigned
(R50-R55), it stands last where it must (R54), and the gang has the mode it needs (R56) and the vector registers it names (R87). -/
structure Issues (i : Instr) (s : State) (g : Gang) (f : Flight) (b : BodyAt) : Prop where
  focus : s.focus = some g.id
  gang : s.gang? g.id = some g
  flight : g.flight = some f
  place : f.place = some b
  ready : ∀ l, f.lanes.getLsbD l = true → (g.thread l).status = .ready
  codes : i.wf = true
  alone : i.sig.last = true → b.left = 1
  mode : i.sig.sys = true → s.system g = true
  allotted : ∀ o ∈ i.sig.ops, o.beyond g.vcount = false

/-- Gang `g` of state `s` stands at the header position `f` with the word `i` (R126). -/
structure IssuesHeader (s : State) (g : Gang) (f : Flight) : Prop where
  focus : s.focus = some g.id
  gang : s.gang? g.id = some g
  flight : g.flight = some f
  place : f.place = none

/-- An operand of the lanes `t` holds an uncorrectable error (R357). -/
def Erroneous (g : Gang) (t : Lanes) : Operand → Prop
  | .vec c n => ∃ l k, t.getLsbD l = true ∧ k < n ∧ g.sound l (c + k) = false
  | .sca c n => ∃ k ∈ g.badScalars, c ≤ k ∧ k < c + n
  | .mask c => c ∈ g.badMasks
  | _ => False

/-- Gang `g` stands at the word `i` in a body, and the word passes IssueCheck (R57) and would consume a register that holds an uncorrectable error (R357; what
a word consumes is log 53's). -/
def ConsumesError (i : Instr) (s : State) (g : Gang) (f : Flight) : Prop :=
  (∃ b, f.place = some b ∧ (i.sig.last = true → b.left = 1)) ∧ i.wf = true ∧ (i.sig.sys = true → s.system g = true) ∧
  (∀ o ∈ i.sig.ops, o.beyond g.vcount = false) ∧ ∃ o ∈ consumed i, Erroneous g (readLanes f.lanes i) o

/-- No lane of the gang is withheld, and none waits at a mask wait or a membership word, so that the end of an issue lets nothing else go on. -/
def Gang.quiet (g : Gang) : Prop := g.withheld = [] ∧ ∀ l, (g.thread l).gathers = false

/-- A thread goes on at the header position at `pc`. -/
def Thread.standsAt (t : Thread) (pc : W64) : Prop := t.status = .ready ∧ t.pc = pc ∧ t.place = none

/-- What an instruction may change in its gang, beside program counters, the states of threads and the counters of R342: vector registers by lane and
code, scalars, masks, sr.fstat, the outstanding operations, and the cursors and trap records of lanes. -/
structure Touch where
  vreg : Nat → Nat → Prop := fun _ _ => False
  sreg : Nat → Prop := fun _ => False
  mask : Nat → Prop := fun _ => False
  fstat : Prop := False
  ops : Prop := False
  lane : Nat → Prop := fun _ => False

/-- A gang without its threads, its register files, its flight, its counters of issued words and its operations: every special register of its own, the
command slots and layout records, barrier targets, batches and the rest. -/
def Gang.remainder (g : Gang) : Gang :=
  { g with threads := [], withheld := [], flight := none, sregs := [], masks := [], badScalars := [], badMasks := [], fstat := 0, words := 0, laneOps := 0, pastWatch := false, ops := [] }

/-- The frame of a gang: what `k` does not name is as before. Lanes that wait at a membership word or a mask wait may be let go by the same issue (R142,
R152), and then have that word's effect: what such a word can write is said only where no lane waits so. -/
structure GangFrame (k : Touch) (g h : Gang) : Prop where
  vregs : ∀ l n, (g.thread l).gathers = false → ¬k.vreg l n → h.vreg l n = g.vreg l n
  cursors : ∀ l, (g.thread l).gathers = false → ¬k.lane l → (h.thread l).cursors = (g.thread l).cursors
  traps : ∀ l, (g.thread l).gathers = false → ¬k.lane l → (h.thread l).delivery = (g.thread l).delivery
  sregs : (∀ l, (g.thread l).gathers = false) → ∀ n, ¬k.sreg n → h.sreg n = g.sreg n
  masks : (∀ l, (g.thread l).gathers = false) → ∀ n, ¬k.mask n → h.mreg n = g.mreg n
  fstat : (∀ l, (g.thread l).gathers = false) → ¬k.fstat → h.fstat = g.fstat
  ops : ¬k.ops → h.ops = g.ops
  remainder : h.remainder = g.remainder

/-- The frame of an instruction of gang `g` that writes nothing outside its gang: every byte of memory in every view, every other gang, every die, CU and
team, and every register of the module is as before. -/
structure Frame (k : Touch) (s t : State) (g : Gang) : Prop where
  bytes : ∀ cu p, t.viewBytes cu p 1 = s.viewBytes cu p 1
  homes : ∀ p, t.homeBytes p 1 = s.homeBytes p 1
  outside : { t with gangs := s.gangs } = s
  others : ∀ j, j ≠ g.id → t.gang? j = s.gang? j
  gang : ∃ h, t.gang? g.id = some h ∧ GangFrame k g h

/-- Every byte memory of the module, that of saved teams too, is in its canonical form. -/
structure State.MemoryForm (s : State) : Prop where
  phys : Memory.wf s.phys = true
  common : Memory.wf s.common = true
  scratch : ∀ t ∈ s.teams, Memory.wf t.scratch = true
  saved : ∀ u ∈ s.saved, ∀ t ∈ u.teams, Memory.wf t.scratch = true

end Sys2Proof.Machine
end

