-- ==== Sys2Proof/RuleTables.lean ====
section
/-!
DEFINITION. The results that the spec's tables give to the instructions, written as the tables write them, the integer ones in exact
arithmetic: what the statements hold the meanings against.
-/
namespace Sys2Proof.Machine

/-! ## The result tables -/

/-- Result(X, a, b, d) of R95. -/
def iopResult (x : Nat) (a b d : W32) : W32 :=
  match x with
  | 0 => BitVec.ofInt 32 (a.toInt + b.toInt)
  | 1 => BitVec.ofInt 32 (a.toInt - b.toInt)
  | 2 => BitVec.ofInt 32 (a.toInt * b.toInt)
  | 3 => BitVec.ofInt 32 (a.toInt * b.toInt / 2 ^ 32)
  | 4 => BitVec.ofNat 32 (a.toNat * b.toNat / 2 ^ 32)
  | 5 => BitVec.ofInt 32 (a.toInt * b.toInt + d.toInt)
  | 6 => if a.toInt ≤ b.toInt then a else b
  | 7 => if a.toInt ≤ b.toInt then b else a
  | 8 => if a.toNat ≤ b.toNat then a else b
  | 9 => if a.toNat ≤ b.toNat then b else a
  | 10 => a &&& b
  | 11 => a ||| b
  | 12 => a ^^^ b
  | 13 => BitVec.ofNat 32 (a.toNat * 2 ^ (b.toNat % 32))
  | 14 => BitVec.ofNat 32 (a.toNat / 2 ^ (b.toNat % 32))
  | _ => BitVec.ofInt 32 (a.toInt / 2 ^ (b.toNat % 32))

/-- The results of R105. -/
def sopResult (x : Nat) (a b : W64) : W64 :=
  match x with
  | 0 => BitVec.ofInt 64 (a.toInt + b.toInt)
  | 1 => BitVec.ofInt 64 (a.toInt - b.toInt)
  | 2 => BitVec.ofInt 64 (a.toInt * b.toInt)
  | 3 => BitVec.ofInt 64 (a.toInt * b.toInt / 2 ^ 64)
  | 4 => a &&& b
  | 5 => a ||| b
  | 6 => a ^^^ b
  | 7 => BitVec.ofNat 64 (a.toNat * 2 ^ (b.toNat % 64))
  | 8 => BitVec.ofNat 64 (a.toNat / 2 ^ (b.toNat % 64))
  | 9 => BitVec.ofInt 64 (a.toInt / 2 ^ (b.toNat % 64))
  | 10 => if a.toInt ≤ b.toInt then a else b
  | 11 => if a.toInt ≤ b.toInt then b else a
  | 12 => if a.toNat ≤ b.toNat then a else b
  | 13 => if a.toNat ≤ b.toNat then b else a
  | 14 => if b.toNat = 0 then BitVec.allOnes 64 else BitVec.ofNat 64 (a.toNat / b.toNat)
  | _ => if b.toNat = 0 then a else BitVec.ofNat 64 (a.toNat % b.toNat)

/-- Cond(X, a, b) of R102 and R108: the signed and the unsigned reading of the two operands. -/
def condition (x : Nat) (sa sb : Int) (ua ub : Nat) : Prop :=
  match x with
  | 0 => ua = ub
  | 1 => ua ≠ ub
  | 2 => sa < sb
  | 3 => sa ≤ sb
  | 4 => sb < sa
  | 5 => sb ≤ sa
  | 6 => ua < ub
  | 7 => ua ≤ ub
  | 8 => ub < ua
  | _ => ub ≤ ua

/-! ## Which instruction has which row -/

/-- The rows of R95: X, B, A, D. -/
def iopRow : Instr → Option (Nat × BitVec 7 × BitVec 7 × BitVec 7)
  | .addI32 b a d => some (0, b, a, d)
  | .subI32 b a d => some (1, b, a, d)
  | .mulI32 b a d => some (2, b, a, d)
  | .mulhiI32 b a d => some (3, b, a, d)
  | .mulhiN32 b a d => some (4, b, a, d)
  | .madI32 b a d => some (5, b, a, d)
  | .minI32 b a d => some (6, b, a, d)
  | .maxI32 b a d => some (7, b, a, d)
  | .minN32 b a d => some (8, b, a, d)
  | .maxN32 b a d => some (9, b, a, d)
  | .and b a d => some (10, b, a, d)
  | .or b a d => some (11, b, a, d)
  | .xor b a d => some (12, b, a, d)
  | .shl b a d => some (13, b, a, d)
  | .shr b a d => some (14, b, a, d)
  | .sar b a d => some (15, b, a, d)
  | _ => none

/-- The integer rows of R47: the X of iop, the bits I, B and D, and whether the immediate is zero-extended. -/
def shortRow : Instr → Option (Nat × BitVec 1 × BitVec 5 × BitVec 5 × Bool)
  | .addI32Short i b d => some (0, i, b, d, false)
  | .subI32Short i b d => some (1, i, b, d, false)
  | .mulI32Short i b d => some (2, i, b, d, false)
  | .andShort i b d => some (10, i, b, d, false)
  | .orShort i b d => some (11, i, b, d, false)
  | .xorShort i b d => some (12, i, b, d, false)
  | .shlShort i b d => some (13, i, b, d, true)
  | .shrShort i b d => some (14, i, b, d, true)
  | .sarShort i b d => some (15, i, b, d, true)
  | _ => none

/-- The second source of a 16-bit word (R46, R47). -/
def shortSecond (g : Gang) (i : BitVec 1) (b : BitVec 5) (zero : Bool) (l : Nat) : W32 :=
  if i = 0 then g.vreg l b.toNat else if zero then BitVec.ofNat 32 b.toNat else BitVec.ofInt 32 b.toInt

/-- The rows of R97: the X of iop that the form has, imm11, A and D. -/
def immRow : Instr → Option (Nat × BitVec 11 × BitVec 7 × BitVec 7)
  | .addi i a d => some (0, i, a, d)
  | .muli i a d => some (2, i, a, d)
  | .andi i a d => some (10, i, a, d)
  | .ori i a d => some (11, i, a, d)
  | .xori i a d => some (12, i, a, d)
  | _ => none

/-- The shifts of R98: the X of iop, or none for rol, the amount, A and D. -/
def shiftRow : Instr → Option (Option Nat × BitVec 5 × BitVec 7 × BitVec 7)
  | .shiShl n a d => some (some 13, n, a, d)
  | .shiShr n a d => some (some 14, n, a, d)
  | .shiSar n a d => some (some 15, n, a, d)
  | .rol n a d => some (none, n, a, d)
  | _ => none

/-- The result of R98. -/
def shiftResult (x : Option Nat) (n : Nat) (a : W32) : W32 :=
  match x with
  | some x => iopResult x a (BitVec.ofNat 32 n) 0
  | none => BitVec.ofNat 32 (a.toNat * 2 ^ n) ||| BitVec.ofNat 32 (a.toNat / 2 ^ (32 - n))

/-- What R99 says of the result `r` for the source `a`: A, D and the property. -/
def unaryRow : Instr → Option (BitVec 7 × BitVec 7 × (W32 → W32 → Prop))
  | .not a d => some (a, d, fun a r => ∀ i, i < 32 → r.getLsbD i = !a.getLsbD i)
  | .negI32 a d => some (a, d, fun a r => r = BitVec.ofInt 32 (0 - a.toInt))
  | .absI32 a d => some (a, d, fun a r => r = BitVec.ofNat 32 a.toInt.natAbs)
  | .popc a d => some (a, d, fun a r => r.toNat = ((List.range 32).map fun i => (a.getLsbD i).toNat).sum)
  | .clz a d => some (a, d, fun a r => r.toNat ≤ 32 ∧ (∀ i, i < r.toNat → a.getLsbD (31 - i) = false) ∧ (r.toNat < 32 → a.getLsbD (31 - r.toNat) = true))
  | .ctz a d => some (a, d, fun a r => r.toNat ≤ 32 ∧ (∀ i, i < r.toNat → a.getLsbD i = false) ∧ (r.toNat < 32 → a.getLsbD r.toNat = true))
  | .brev a d => some (a, d, fun a r => ∀ i, i < 32 → r.getLsbD i = a.getLsbD (31 - i))
  | .sxt8 a d => some (a, d, fun a r => r = BitVec.ofInt 32 ((a.toInt + 128) % 256 - 128))
  | .sxt16 a d => some (a, d, fun a r => r = BitVec.ofInt 32 ((a.toInt + 32768) % 65536 - 32768))
  | .zxt8 a d => some (a, d, fun a r => r.toNat = a.toNat % 256)
  | .zxt16 a d => some (a, d, fun a r => r.toNat = a.toNat % 65536)
  | _ => none

/-- Bfe of R100 as it is written there. -/
def bfeResult (sgn : Bool) (w p : Nat) (a : W32) : W32 :=
  let e : Nat := if sgn then (a.signExtend 64).toNat else a.toNat
  let f := e / 2 ^ p % 2 ^ w
  if sgn = true ∧ 2 ^ (w - 1) ≤ f then BitVec.ofInt 32 ((f : Int) - 2 ^ w) else BitVec.ofNat 32 f

/-- Bfi of R101 as it is written there. -/
def bfiResult (w p : Nat) (a d : W32) : W32 :=
  let mk := BitVec.ofNat 32 ((2 ^ w - 1) * 2 ^ p)
  (d &&& ~~~mk) ||| (BitVec.ofNat 32 (a.toNat * 2 ^ p) &&& mk)

/-- The rows of R102: X, B, A, M. -/
def icmpRow : Instr → Option (Nat × BitVec 7 × BitVec 7 × BitVec 4)
  | .icmpEq b a m => some (0, b, a, m)
  | .icmpNe b a m => some (1, b, a, m)
  | .icmpLtI b a m => some (2, b, a, m)
  | .icmpLeI b a m => some (3, b, a, m)
  | .icmpGtI b a m => some (4, b, a, m)
  | .icmpGeI b a m => some (5, b, a, m)
  | .icmpLtN b a m => some (6, b, a, m)
  | .icmpLeN b a m => some (7, b, a, m)
  | .icmpGtN b a m => some (8, b, a, m)
  | .icmpGeN b a m => some (9, b, a, m)
  | _ => none

/-- The rows of R105: X, B, A, D. -/
def sopRow : Instr → Option (Nat × BitVec 7 × BitVec 7 × BitVec 7)
  | .sadd b a d => some (0, b, a, d)
  | .ssub b a d => some (1, b, a, d)
  | .smul b a d => some (2, b, a, d)
  | .smulhiI64 b a d => some (3, b, a, d)
  | .sand b a d => some (4, b, a, d)
  | .sor b a d => some (5, b, a, d)
  | .sxor b a d => some (6, b, a, d)
  | .sshl b a d => some (7, b, a, d)
  | .sshr b a d => some (8, b, a, d)
  | .ssar b a d => some (9, b, a, d)
  | .sminI64 b a d => some (10, b, a, d)
  | .smaxI64 b a d => some (11, b, a, d)
  | .sminN64 b a d => some (12, b, a, d)
  | .smaxN64 b a d => some (13, b, a, d)
  | .sdivN64 b a d => some (14, b, a, d)
  | .sremN64 b a d => some (15, b, a, d)
  | _ => none

/-- The rows of R108: X, B, A, D. -/
def scmpRow : Instr → Option (Nat × BitVec 7 × BitVec 7 × BitVec 7)
  | .scmpEq b a d => some (0, b, a, d)
  | .scmpNe b a d => some (1, b, a, d)
  | .scmpLtI b a d => some (2, b, a, d)
  | .scmpLeI b a d => some (3, b, a, d)
  | .scmpGtI b a d => some (4, b, a, d)
  | .scmpGeI b a d => some (5, b, a, d)
  | .scmpLtN b a d => some (6, b, a, d)
  | .scmpLeN b a d => some (7, b, a, d)
  | .scmpGtN b a d => some (8, b, a, d)
  | .scmpGeN b a d => some (9, b, a, d)
  | _ => none

/-- What R100, R101, R103, R104 and R109 put into D, by lane. -/
def fieldRow : Instr → Option (BitVec 7 × (Gang → Nat → W32))
  | .bfeN w p a d => some (d, fun g l => bfeResult false (w.toNat + 1) p.toNat (g.vreg l a.toNat))
  | .bfeI w p a d => some (d, fun g l => bfeResult true (w.toNat + 1) p.toNat (g.vreg l a.toNat))
  | .bfi w p a d => some (d, fun g l => bfiResult (w.toNat + 1) p.toNat (g.vreg l a.toNat) (g.vreg l d.toNat))
  | .sel m b a d => some (d, fun g l => if (g.mreg m.toNat).getLsbD l = true then g.vreg l a.toNat else g.vreg l b.toNat)
  | .li i d => some (d, fun _ _ => BitVec.ofInt 32 i.toInt)
  | .liu i d => some (d, fun g l => BitVec.ofNat 32 (i.toNat * 2 ^ 14 + (g.vreg l d.toNat).toNat % 2 ^ 14))
  | .vbc b d => some (d, fun g _ => BitVec.ofNat 32 (g.sreg b.toNat).toNat)
  | .vbch b d => some (d, fun g _ => BitVec.ofNat 32 ((g.sreg b.toNat).toNat / 2 ^ 32))
  | _ => none

/-- V[n] of a lane as a word of another lane sees it: after the end of its clause a clause temporary gives a free value (R132; log 23). -/
def Gang.otherLane (g : Gang) (l n : Nat) : W32 :=
  if 120 ≤ n ∧ (g.thread l).clause = 0 then Config.deadTemp g.id g.issues.toNat (128 * l + n) else g.vreg l n

/-- What R106, R107, R109 and R144 put into a scalar. -/
def scalarRow : Instr → Option (Nat × (Gang → W64))
  | .saddi i a d => some (d.toNat, fun g => BitVec.ofInt 64 ((g.sreg a.toNat).toInt + i.toInt))
  | .sli i n => some (n.toNat, fun _ => BitVec.ofInt 64 i.toInt)
  | .sliu i n => some (n.toNat, fun g => BitVec.ofInt 64 (i.toInt * 2 ^ 14 + (g.sreg n.toNat).toNat % 2 ^ 14))
  | .slih i n => some (n.toNat, fun g => BitVec.ofInt 64 (i.toInt * 2 ^ 32 + (g.sreg n.toNat).toNat % 2 ^ 32))
  | .slihu i n => some (n.toNat, fun g => BitVec.ofNat 64 (i.toNat * 2 ^ 46 + (g.sreg n.toNat).toNat % 2 ^ 46))
  | .mget a d => some (d.toNat, fun g => g.mreg a.toNat)
  | .mpop a d => some (d.toNat, fun g => BitVec.ofNat 64 ((List.range 64).map fun l => ((g.mreg a.toNat).getLsbD l).toNat).sum)
  | .mfirst a d => some (d.toNat, fun g => BitVec.ofNat 64 (((List.range 64).find? fun l => (g.mreg a.toNat).getLsbD l).getD 64))
  | .vget n a d => some (d.toNat, fun g => if n.toNat < g.width then BitVec.ofNat 64 (g.otherLane n.toNat a.toNat).toNat else 0)
  | _ => none

/-! ## Floating point -/

/-- What the FP32, packed, dot-product and conversion instructions put into D, with the flags they merge, by lane (R47, R112-R125): the gang gives the
modes of sr.fmode and the other control values. -/
def floatRow : Instr → Option (Nat × (Gang → Nat → W32 × BitVec 8))
  | .addF32 b a d => some (d.toNat, fun g l => g.fadd (g.vreg l a.toNat) (g.vreg l b.toNat))
  | .subF32 b a d => some (d.toNat, fun g l => g.fsub (g.vreg l a.toNat) (g.vreg l b.toNat))
  | .mulF32 b a d => some (d.toNat, fun g l => g.fmul (g.vreg l a.toNat) (g.vreg l b.toNat))
  | .fmaF32 b a d => some (d.toNat, fun g l => g.ffma (g.vreg l a.toNat) (g.vreg l b.toNat) (g.vreg l d.toNat))
  | .fmsF32 b a d => some (d.toNat, fun g l => g.ffms (g.vreg l a.toNat) (g.vreg l b.toNat) (g.vreg l d.toNat))
  | .fnmaF32 b a d => some (d.toNat, fun g l => g.ffnma (g.vreg l a.toNat) (g.vreg l b.toNat) (g.vreg l d.toNat))
  | .minF32 b a d => some (d.toNat, fun g l => g.fminmax false (g.vreg l a.toNat) (g.vreg l b.toNat))
  | .maxF32 b a d => some (d.toNat, fun g l => g.fminmax true (g.vreg l a.toNat) (g.vreg l b.toNat))
  | .copysignF32 b a d => some (d.toNat, fun g l => g.copysign (g.vreg l a.toNat) (g.vreg l b.toNat))
  | .scaleF32 b a d => some (d.toNat, fun g l => g.fscale (g.vreg l a.toNat) (g.vreg l b.toNat))
  | .getexpF32 a d => some (d.toNat, fun g l => g.getexp (g.vreg l a.toNat))
  | .absF32 a d => some (d.toNat, fun g l => g.signOp (fun v => v &&& 0x7FFFFFFF) (g.vreg l a.toNat))
  | .negF32 a d => some (d.toNat, fun g l => g.signOp (fun v => v ^^^ 0x80000000) (g.vreg l a.toNat))
  | .rcpF32 a d => some (d.toNat, fun g l => g.faithfulOp 2 (fun n => (signedZero n, 0)) (fun n => (signedInf n, DIVZERO)) false rcpTerm (g.vreg l a.toNat))
  | .rsqF32 a d => some (d.toNat, fun g l => g.faithfulOp 3 (fun n => if n then (0x7FC00000, INVALID) else (0, 0)) (fun n => (signedInf n, DIVZERO)) true
      (fun _ m e => rsqTerm m e) (g.vreg l a.toNat))
  | .sqrtF32 a d => some (d.toNat, fun g l => g.fsqrt (g.vreg l a.toNat))
  | .exp2F32 a d => some (d.toNat, fun g l => g.faithfulOp 5 (fun n => (if n then 0 else 0x7F800000, 0)) (fun _ => (0x3F800000, 0)) false exp2Term
      (g.vreg l a.toNat))
  | .log2F32 a d => some (d.toNat, fun g l => g.faithfulOp 6 (fun n => if n then (0x7FC00000, INVALID) else (0x7F800000, 0))
      (fun _ => (0xFF800000, DIVZERO)) true (fun _ m e => log2Term m e) (g.vreg l a.toNat))
  | .sinF32 a d => some (d.toNat, fun g l => g.faithfulOp 7 (fun _ => (0x7FC00000, INVALID)) (fun n => (signedZero n, 0)) false (turnTerm false)
      (g.vreg l a.toNat))
  | .cosF32 a d => some (d.toNat, fun g l => g.faithfulOp 8 (fun _ => (0x7FC00000, INVALID)) (fun _ => (0x3F800000, 0)) false (turnTerm true)
      (g.vreg l a.toNat))
  | .floorF32 a d => some (d.toNat, fun g l => g.toIntegral .rdn false (g.vreg l a.toNat))
  | .ceilF32 a d => some (d.toNat, fun g l => g.toIntegral .rup false (g.vreg l a.toNat))
  | .truncF32 a d => some (d.toNat, fun g l => g.toIntegral .rz false (g.vreg l a.toNat))
  | .rintF32 a d => some (d.toNat, fun g l => g.toIntegral g.rm true (g.vreg l a.toNat))
  | .fracF32 a d => some (d.toNat, fun g l => g.frac (g.vreg l a.toNat))
  | .classF32 a d => some (d.toNat, fun g l => (g.fclass (g.vreg l a.toNat), 0))
  | .addF32Short i b d => some (d.toNat, fun g l => g.fadd (g.vreg l d.toNat) (shortFloat g i b l))
  | .subF32Short i b d => some (d.toNat, fun g l => g.fsub (g.vreg l d.toNat) (shortFloat g i b l))
  | .mulF32Short i b d => some (d.toNat, fun g l => g.fmul (g.vreg l d.toNat) (shortFloat g i b l))
  | .minF32Short i b d => some (d.toNat, fun g l => g.fminmax false (g.vreg l d.toNat) (shortFloat g i b l))
  | .maxF32Short i b d => some (d.toNat, fun g l => g.fminmax true (g.vreg l d.toNat) (shortFloat g i b l))
  | .addF16x2 b a d => some (d.toNat, fun g l => packed (fun a b _ => halfAdd f16 g.rm a b) (g.vreg l a.toNat) (g.vreg l b.toNat) (g.vreg l d.toNat))
  | .mulF16x2 b a d => some (d.toNat, fun g l => packed (fun a b _ => halfMul f16 g.rm a b) (g.vreg l a.toNat) (g.vreg l b.toNat) (g.vreg l d.toNat))
  | .fmaF16x2 b a d => some (d.toNat, fun g l => packed (fun a b d => halfFma f16 g.rm a b d) (g.vreg l a.toNat) (g.vreg l b.toNat) (g.vreg l d.toNat))
  | .minF16x2 b a d => some (d.toNat, fun g l => packed (fun a b _ => halfMinMax f16 false a b) (g.vreg l a.toNat) (g.vreg l b.toNat) (g.vreg l d.toNat))
  | .maxF16x2 b a d => some (d.toNat, fun g l => packed (fun a b _ => halfMinMax f16 true a b) (g.vreg l a.toNat) (g.vreg l b.toNat) (g.vreg l d.toNat))
  | .addBf16x2 b a d => some (d.toNat, fun g l => packed (fun a b _ => halfAdd bf16 g.rm a b) (g.vreg l a.toNat) (g.vreg l b.toNat) (g.vreg l d.toNat))
  | .mulBf16x2 b a d => some (d.toNat, fun g l => packed (fun a b _ => halfMul bf16 g.rm a b) (g.vreg l a.toNat) (g.vreg l b.toNat) (g.vreg l d.toNat))
  | .fmaBf16x2 b a d => some (d.toNat, fun g l => packed (fun a b d => halfFma bf16 g.rm a b d) (g.vreg l a.toNat) (g.vreg l b.toNat) (g.vreg l d.toNat))
  | .minBf16x2 b a d => some (d.toNat, fun g l => packed (fun a b _ => halfMinMax bf16 false a b) (g.vreg l a.toNat) (g.vreg l b.toNat) (g.vreg l d.toNat))
  | .maxBf16x2 b a d => some (d.toNat, fun g l => packed (fun a b _ => halfMinMax bf16 true a b) (g.vreg l a.toNat) (g.vreg l b.toNat) (g.vreg l d.toNat))
  | .dot4I8 b a d => some (d.toNat, fun g l => (dotSum true 8 4 (g.vreg l a.toNat) (g.vreg l b.toNat) (g.vreg l d.toNat), 0))
  | .dot4N8 b a d => some (d.toNat, fun g l => (dotSum false 8 4 (g.vreg l a.toNat) (g.vreg l b.toNat) (g.vreg l d.toNat), 0))
  | .dot8I4 b a d => some (d.toNat, fun g l => (dotSum true 4 8 (g.vreg l a.toNat) (g.vreg l b.toNat) (g.vreg l d.toNat), 0))
  | .dot2F16 b a d => some (d.toNat, fun g l => dotHalf f16 g.rm (g.vreg l a.toNat) (g.vreg l b.toNat) (g.vreg l d.toNat))
  | .dot2Bf16 b a d => some (d.toNat, fun g l => dotHalf bf16 g.rm (g.vreg l a.toNat) (g.vreg l b.toNat) (g.vreg l d.toNat))
  | .cvt t r u c e a d => some (d.toNat, fun g l => g.cvt (Elem.of (u ++ c).toNat) (Elem.of e.toNat) (Mode.of r.toNat) (decide (t = 1)) (g.vreg l a.toNat))
  | .cvtpByte t r e h k a d => some (d.toNat, fun g l => packOne g (byteTarget e.toNat) 8 (2 * h.toNat + k.toNat) t r (g.vreg l a.toNat) (g.vreg l d.toNat))
  | .cvtpF16 t r h a d => some (d.toNat, fun g l => packOne g (.flt f16) 16 h.toNat t r (g.vreg l a.toNat) (g.vreg l d.toNat))
  | .cvtpBf16 t r h a d => some (d.toNat, fun g l => packOne g (.flt bf16) 16 h.toNat t r (g.vreg l a.toNat) (g.vreg l d.toNat))
  | .sbdecSb4 b a d => some (d.toNat, fun g l => g.sbdec false (g.vreg l a.toNat) (g.vreg l b.toNat))
  | .sbdecSb8 b a d => some (d.toNat, fun g l => g.sbdec true (g.vreg l a.toNat) (g.vreg l b.toNat))
  | _ => none
where
  /-- The second source of a 16-bit float word: a register, or imm5 as an FP32 value (R47). -/
  shortFloat (g : Gang) (i : BitVec 1) (b : BitVec 5) (l : Nat) : W32 :=
    if i = 0 then g.vreg l b.toNat else (roundF32 .rne (decide (b.toInt < 0)) b.toInt.natAbs 0).1
  /-- Both halves by one operation (R120). -/
  packed (r : Nat → Nat → Nat → Nat × BitVec 8) (a b d : W32) : W32 × BitVec 8 :=
    (BitVec.ofNat 32 ((r (half a 0) (half b 0) (half d 0)).1 + 65536 * (r (half a 1) (half b 1) (half d 1)).1),
      (r (half a 0) (half b 0) (half d 0)).2 ||| (r (half a 1) (half b 1) (half d 1)).2)
  /-- d plus the exact sum of the products of `n` elements of `w` bits (R121). -/
  dotSum (sgn : Bool) (w n : Nat) (a b d : W32) : W32 :=
    BitVec.ofInt 32 (d.toInt + ((List.range n).map fun i =>
      let x := fld a (w * i + w - 1) (w * i)
      let y := fld b (w * i + w - 1) (w * i)
      if sgn then signed w x * signed w y else ((x * y : Nat) : Int)).sum)
  /-- One field of d replaced by the converted value (R124). -/
  packOne (g : Gang) (t : Elem) (w n : Nat) (sat : BitVec 1) (r : BitVec 2) (a d : W32) : W32 × BitVec 8 :=
    (packField w n d (convert g.cvsub (.flt f32) t (Mode.of r.toNat) (decide (sat = 1)) a.toNat).1,
      (convert g.cvsub (.flt f32) t (Mode.of r.toNat) (decide (sat = 1)) a.toNat).2)

/-- The rows of R115: B, A, M, whether only a signalling NaN sets INVALID, and the condition on the two values. -/
def fcmpRow : Instr → Option (BitVec 7 × BitVec 7 × BitVec 4 × Bool × (Val → Val → Bool))
  | .fcmpEq b a m => some (b, a, m, true, fun x y => x.eq y)
  | .fcmpNe b a m => some (b, a, m, true, fun x y => !x.eq y)
  | .fcmpLt b a m => some (b, a, m, false, fun x y => x.lt y)
  | .fcmpLe b a m => some (b, a, m, false, fun x y => x.lt y || x.eq y)
  | .fcmpGt b a m => some (b, a, m, false, fun x y => y.lt x)
  | .fcmpGe b a m => some (b, a, m, false, fun x y => y.lt x || x.eq y)
  | .fcmpUno b a m => some (b, a, m, true, fun x y => x.isNan || y.isNan)
  | .fcmpOrd b a m => some (b, a, m, true, fun x y => !(x.isNan || y.isNan))
  | _ => none

/-! ## Transfers -/

/-- Where a lane of the sub-group goes (R145-R147); whether the form is a call, which sets Sc[63]; and whether it is an indirect one, whose targets
are checked. -/
def transferRow : Instr → Option ((Gang → Flight → Nat → W64) × Bool × Bool)
  | .bra o _ => some (fun _ f _ => away f o, false, false)
  | .braAny o m => some (fun g f _ => if f.lanes &&& g.mreg m.toNat ≠ 0 then away f o else f.pc + 4, false, false)
  | .braAll o m => some (fun g f _ => if f.lanes &&& g.mreg m.toNat = f.lanes then away f o else f.pc + 4, false, false)
  | .braNone o m => some (fun g f _ => if f.lanes &&& g.mreg m.toNat = 0 then away f o else f.pc + 4, false, false)
  | .braSet o m => some (fun g f l => if (g.mreg m.toNat).getLsbD l then away f o else f.pc + 4, false, false)
  | .braClr o m => some (fun g f l => if (g.mreg m.toNat).getLsbD l then f.pc + 4 else away f o, false, false)
  | .jmp o => some (fun _ f _ => away f o, false, false)
  | .call o => some (fun _ f _ => away f o, true, false)
  | .jmpS a => some (fun g _ _ => g.sreg a.toNat, false, true)
  | .callS a => some (fun g _ _ => g.sreg a.toNat, true, true)
  | .ret => some (fun g _ _ => g.sreg 63, false, true)
  | .jmpV a => some (fun g _ l => BitVec.ofNat 64 ((g.vreg l a.toNat).toNat + 2 ^ 32 * (g.vreg l (a.toNat + 1)).toNat), false, true)
  | _ => none
where
  /-- PC + 2·sext(OFF) (R145, R146). -/
  away (f : Flight) (o : BitVec 18) : W64 := f.pc + BitVec.ofInt 64 (2 * o.toInt)

/-- What the whole writes of R144 put into a mask, and join and leave (R142): the mask and its value before the width cuts it. -/
def maskRow : Instr → Option (Nat × (Gang → Flight → Nat → Bool))
  | .mset a m => some (m.toNat, fun g _ l => (g.sreg a.toNat).getLsbD l)
  | .mand b a d => some (d.toNat, fun g _ l => (g.mreg a.toNat).getLsbD l && (g.mreg b.toNat).getLsbD l)
  | .mor b a d => some (d.toNat, fun g _ l => (g.mreg a.toNat).getLsbD l || (g.mreg b.toNat).getLsbD l)
  | .mxor b a d => some (d.toNat, fun g _ l => (g.mreg a.toNat).getLsbD l != (g.mreg b.toNat).getLsbD l)
  | .mnot a d => some (d.toNat, fun g _ l => !(g.mreg a.toNat).getLsbD l)
  | .mcpy a d => some (d.toNat, fun g _ l => (g.mreg a.toNat).getLsbD l)
  | .mlive d => some (d.toNat, fun g _ l => decide ((g.thread l).status ≠ .exited))
  | .msub d => some (d.toNat, fun _ f l => f.lanes.getLsbD l)
  | .join m => some (m.toNat, fun g f l => (g.mreg m.toNat).getLsbD l || f.lanes.getLsbD l)
  | .leave m => some (m.toNat, fun g f l => (g.mreg m.toNat).getLsbD l && !f.lanes.getLsbD l)
  | _ => none

/-! ## Exchanges between lanes -/

/-- The shuffles (R153): P, A, D and the source lane; a source outside the gang reads 0. -/
def shuffleRow : Instr → Option (BitVec 4 × BitVec 7 × BitVec 7 × (Gang → Nat → Int))
  | .shfl p b a d => some (p, a, d, fun g l => ((g.vreg l b.toNat).toNat : Int))
  | .shflkUp p k a d => some (p, a, d, fun _ l => (l : Int) - k.toNat)
  | .shflkDn p k a d => some (p, a, d, fun _ l => (l : Int) + k.toNat)
  | .shflxXor p c a d => some (p, a, d, fun _ l => ((l ^^^ c.toNat : Nat) : Int))
  | .shflxIdx p c a d => some (p, a, d, fun _ _ => (c.toNat : Int))
  | _ => none

/-- xred (R154): X, P, A, D. -/
def xredRow : Instr → Option (Nat × BitVec 4 × BitVec 7 × BitVec 7)
  | .xredSumI32 p a d => some (0, p, a, d)
  | .xredMinI32 p a d => some (1, p, a, d)
  | .xredMaxI32 p a d => some (2, p, a, d)
  | .xredSumF32 p a d => some (3, p, a, d)
  | .xredMinF32 p a d => some (4, p, a, d)
  | .xredMaxF32 p a d => some (5, p, a, d)
  | .xredScanI32 p a d => some (6, p, a, d)
  | .xredScanF32 p a d => some (7, p, a, d)
  | _ => none

/-- What R154 says of the integer result that member lane `l` receives, for the members `ms` in rising order. -/
def xredInt (x : Nat) (v : Nat → W32) (ms : List Nat) (l : Nat) (r : W32) : Prop :=
  match x with
  | 0 => r = BitVec.ofInt 32 (ms.map fun k => (v k).toInt).sum
  | 1 => (∀ k ∈ ms, r.toInt ≤ (v k).toInt) ∧ ∃ k ∈ ms, r = v k
  | 2 => (∀ k ∈ ms, (v k).toInt ≤ r.toInt) ∧ ∃ k ∈ ms, r = v k
  | 6 => r = BitVec.ofInt 32 ((ms.filter fun k => decide (k ≤ l)).map fun k => (v k).toInt).sum
  | _ => True

/-- vote into a scalar (R155): P, A, D and its value for the members and the true lanes among them. -/
def voteRow : Instr → Option (BitVec 4 × BitVec 7 × BitVec 7 × (Lanes → Lanes → W64))
  | .voteAny p a d => some (p, a, d, fun _ t => if t = 0 then 0 else 1)
  | .voteAll p a d => some (p, a, d, fun m t => if t = m then 1 else 0)
  | .voteBallot p a d => some (p, a, d, fun _ t => t)
  | _ => none

/-- The membership mask of a membership word and what its lanes wait for (R152). -/
def memberOf : Instr → Option (Nat × MemberKind)
  | .shfl p b a d => some (p.toNat, .shfl b.toNat a.toNat d.toNat)
  | .shflkUp p k a d => some (p.toNat, .shflk false k.toNat a.toNat d.toNat)
  | .shflkDn p k a d => some (p.toNat, .shflk true k.toNat a.toNat d.toNat)
  | .shflxXor p c a d => some (p.toNat, .shflx false c.toNat a.toNat d.toNat)
  | .shflxIdx p c a d => some (p.toNat, .shflx true c.toNat a.toNat d.toNat)
  | .xredSumI32 p a d => some (p.toNat, .xred 0 a.toNat d.toNat)
  | .xredMinI32 p a d => some (p.toNat, .xred 1 a.toNat d.toNat)
  | .xredMaxI32 p a d => some (p.toNat, .xred 2 a.toNat d.toNat)
  | .xredSumF32 p a d => some (p.toNat, .xred 3 a.toNat d.toNat)
  | .xredMinF32 p a d => some (p.toNat, .xred 4 a.toNat d.toNat)
  | .xredMaxF32 p a d => some (p.toNat, .xred 5 a.toNat d.toNat)
  | .xredScanI32 p a d => some (p.toNat, .xred 6 a.toNat d.toNat)
  | .xredScanF32 p a d => some (p.toNat, .xred 7 a.toNat d.toNat)
  | .voteAny p a d => some (p.toNat, .vote 0 a.toNat d.toNat)
  | .voteAll p a d => some (p.toNat, .vote 1 a.toNat d.toNat)
  | .voteBallot p a d => some (p.toNat, .vote 2 a.toNat d.toNat)
  | .voteBallotMask p a m => some (p.toNat, .vote 3 a.toNat m.toNat)
  | _ => none

/-- The read-only user registers of R92 as lane `l` of a sub-group reads them: what the gang is, where it runs, and the latest trap of the sub-group's
lowest lane (R12, R347). -/
def readOnlySpecial (s : State) (g : Gang) (f : Lanes) (l n : Nat) : Option Nat :=
  let t := s.teamOf g
  let p := t.origin.packet.toNat
  let trap := fun (v : Delivery → Nat) => some (((g.thread (lowestLane f)).delivery.map v).getD 0)
  match n with
  | 0 => some l
  | 1 => some g.width
  | 2 => some g.index.toNat
  | 3 => some t.index
  | 4 => some t.origin.id.toNat
  | 5 => some t.chain.toNat
  | 6 => some (p / 2 ^ 336 % 2 ^ 12)
  | 7 => some (p / 2 ^ 352 % 2 ^ 16)
  | 8 => some t.cu
  | 9 => some (t.cu / 8)
  | 10 => some (t.cu / 144)
  | 11 => some t.rank
  | 18 => some g.prio.toNat
  | 19 => trap fun d => d.cause.toNat
  | 20 => trap fun d => d.pc.toNat % 2 ^ 56
  | 21 => trap fun d => d.mask.toNat
  | 22 => trap fun d => d.addr.toNat
  | _ => none

/-- The words after which the sub-group simply goes on to the next word of its body. -/
def plainWord (i : Instr) : Bool :=
  (iopRow i).isSome || (shortRow i).isSome || (immRow i).isSome || (shiftRow i).isSome || (unaryRow i).isSome || (fieldRow i).isSome ||
  (icmpRow i).isSome || (sopRow i).isSome || (scmpRow i).isSome || (scalarRow i).isSome || (floatRow i).isSome || (fcmpRow i).isSome ||
  (maskRow i).isSome || match i with
    | .movShort _ _ _ | .vsr _ _ | .ssr _ _ | .nop | .nop32 | .fsclr | .pfetch _ _ _ _ => true
    | _ => false

/-- What a wsr must not write to the special register `n` (R68, R70, R72, R73, R340): a bit that its table does not give, or a NaN or an infinity as the substitute. -/
def ReservedBits (n : Nat) (v : W64) : Prop :=
  n = 12 ∧ 2 ^ 3 ≤ v.toNat ∨ n = 13 ∧ 2 ^ 8 ≤ v.toNat ∨ n = 14 ∧ (2 ^ 32 ≤ v.toNat ∨ v.toNat / 2 ^ 23 % 256 = 255) ∨
  n = 33 ∧ (2 ^ 46 ≤ v.toNat ∨ v.toNat % 2 ^ 11 ≠ 0) ∨ n = 34 ∧ 2 ^ 32 ≤ v.toNat ∨ n = 35 ∧ 2 ^ 7 ≤ v.toNat ∨
  n = 36 ∧ (2 ^ 29 ≤ v.toNat ∨ v.toNat % 2 ^ 16 ≠ 0) ∨ n = 39 ∧ (v.toNat / 2 ^ 46 % 4 ≠ 0 ∨ v.toNat % 2 ^ 16 ≠ 0)

end Sys2Proof.Machine
end

