-- ==== Sys2Proof/RuleFloat.lean ====
section
/-!
DEFINITION. Rounding, conversion and the special values as the spec's chapters on numbers and floating point write them, in exact integers: what the
statements hold the float results against (R62-R67, R69, R74, R111-R114, R117, R118, R120, R121).
-/
namespace Sys2Proof.Machine

/-! ## Codes (R62, R63) -/

/-- The unit of a format is 2^-u: its smallest subnormal. -/
def Fmt.u (f : Fmt) : Nat := (f.bias - 1 + f.mbits).toNat
/-- A code without its sign. -/
def Fmt.mag (f : Fmt) (c : Nat) : Nat := c % f.signBit
/-- The sign bit of a code. -/
def Fmt.minus (f : Fmt) (c : Nat) : Bool := decide (c / f.signBit % 2 = 1)
/-- The value of a finite code, in units. -/
def Fmt.units (f : Fmt) (c : Nat) : Int :=
  let e := f.mag c / 2 ^ f.mbits
  let m := c % 2 ^ f.mbits
  let v : Nat := if e = 0 then m else (m + 2 ^ f.mbits) * 2 ^ (e - 1)
  if f.minus c then -(v : Int) else v
def Fmt.nanCode (f : Fmt) (c : Nat) : Bool := match f.top with
  | .ieee => decide (f.infMag < f.mag c)
  | .oneNan => decide (f.mag c = f.signBit - 1)
  | .plain => false
def Fmt.snanCode (f : Fmt) (c : Nat) : Bool := decide (f.top = .ieee) && decide (f.infMag < f.mag c) && decide (c % 2 ^ f.mbits < 2 ^ (f.mbits - 1))
def Fmt.infCode (f : Fmt) (c : Nat) : Bool := decide (f.top = .ieee) && decide (f.mag c = f.infMag)
def Fmt.finite (f : Fmt) (c : Nat) : Prop := c < 2 * f.signBit ∧ f.mag c ≤ f.maxMag
/-- INVALID if a signalling NaN is among the operands. -/
def Fmt.reads (f : Fmt) (cs : List Nat) : BitVec 8 := if cs.any f.snanCode then INVALID else 0

/-! ## Round and Overflow (R64-R67) -/

/-- The neighbour of `n` among the multiples of `q` that the mode takes (R65). -/
def neighbour (mode : Mode) (n : Int) (q : Nat) : Int :=
  let lo := n / q * q
  if n = lo then n
  else match mode with
    | .rne => if 2 * (n - lo) < q then lo else if (q : Int) < 2 * (n - lo) then lo + q else if n / q % 2 = 0 then lo else lo + q
    | .rz => if 0 < n then lo else lo + q
    | .rdn => lo
    | .rup => lo + q

/-- `r` is n/2^s, not 0, on the grid that R66 gives it, in the same scale. -/
def Fmt.Grid (f : Fmt) (mode : Mode) (n : Int) (s : Nat) (r : Int) : Prop :=
  ∃ e : Nat, s - f.u + f.mbits ≤ e ∧ n.natAbs < 2 ^ (e + 1) ∧ (e = s - f.u + f.mbits ∨ 2 ^ e ≤ n.natAbs) ∧ r = neighbour mode n (2 ^ (e - f.mbits))

/-- The code `c` is the value `r` that n/2^s was rounded to, with the flags of R66. -/
def Fmt.Fits (f : Fmt) (n : Int) (s : Nat) (r : Int) (c : Nat) (fl : BitVec 8) : Prop :=
  f.finite c ∧ f.units c * 2 ^ (s - f.u) = r ∧ (f.minus c = true ↔ n < 0) ∧
  fl = (if r = n then 0 else INEXACT) ||| (if r ≠ n ∧ n.natAbs < 2 ^ (s - f.u + f.mbits) then UNDERFLOW else 0)

/-- The largest finite value of the format, in the scale 2^-s. -/
def Fmt.most (f : Fmt) (s : Nat) : Int := f.units f.maxMag * 2 ^ (s - f.u)

/-- n/2^s converted with saturation (R74); a zero keeps its sign. -/
def Fmt.Clamps (f : Fmt) (mode : Mode) (n : Int) (s : Nat) (neg : Bool) (c : Nat) (fl : BitVec 8) : Prop :=
  if n = 0 then c = f.signed neg 0 ∧ fl = 0
  else if f.most s < n.natAbs then c = f.signed (decide (n < 0)) f.maxMag ∧ fl = SATURATED ||| INEXACT
  else ∃ r, f.Grid mode n s r ∧ f.Fits n s r c fl

/-- Round(n/2^s) with Overflow (R66, R67); `neg` is the sign of a zero, and `sub` is sr.cvsub, for a format without infinities. -/
def Fmt.Rounds (f : Fmt) (mode : Mode) (sub : W32) (n : Int) (s : Nat) (neg : Bool) (c : Nat) (fl : BitVec 8) : Prop :=
  if n = 0 then c = f.signed neg 0 ∧ fl = 0
  else ∃ r, f.Grid mode n s r ∧
    if (r.natAbs : Int) ≤ f.most s then f.Fits n s r c fl
    else if mode = .rz ∨ mode = .rdn ∧ 0 < n ∨ mode = .rup ∧ n < 0 then c = f.signed (decide (n < 0)) f.maxMag ∧ fl = OVERFLOW ||| INEXACT
    else if f.top = .ieee then c = f.signed (decide (n < 0)) f.infMag ∧ fl = OVERFLOW ||| INEXACT
    else ∃ x, f.Clamps mode (f32.units sub.toNat * 2 ^ f.u) (149 + f.u) (f32.minus sub.toNat) c x ∧ fl = x ||| SUBST ||| OVERFLOW ||| INEXACT

/-! ## Convert (R74) -/

/-- An integer clamped into an integer format, with SATURATED where it is clamped, and `ix` where it is not. -/
def Clamped (sgn : Bool) (w : Nat) (v : Int) (ix : BitVec 8) (c : Nat) (fl : BitVec 8) : Prop :=
  let lo : Int := if sgn then -2 ^ (w - 1) else 0
  let hi : Int := if sgn then 2 ^ (w - 1) - 1 else 2 ^ w - 1
  c = ((max lo (min hi v)) % 2 ^ w).toNat ∧ fl = if lo ≤ v ∧ v ≤ hi then ix else SATURATED

/-- A finite f32 or other float value into an integer format: it always clamps. -/
def ToInt (mode : Mode) (sgn : Bool) (w : Nat) (n : Int) (s c : Nat) (fl : BitVec 8) : Prop :=
  let r := neighbour mode n (2 ^ s)
  Clamped sgn w (r / 2 ^ s) (if r = n then 0 else INEXACT) c fl

/-- Subst(T, mode): the finite value of sr.cvsub. -/
def Substitutes (sub : W32) (t : Elem) (mode : Mode) (c : Nat) (fl : BitVec 8) : Prop :=
  ∃ x, fl = x ||| SUBST ∧ match t with
    | .flt f => f.Clamps mode (f32.units sub.toNat * 2 ^ f.u) (149 + f.u) (f32.minus sub.toNat) c x
    | .int sgn w => ToInt mode sgn w (f32.units sub.toNat) 149 c x

/-- Convert(x, S, T, mode, sat) of a code `x`. -/
def Converts (sub : W32) (s t : Elem) (mode : Mode) (sat : Bool) (x c : Nat) (fl : BitVec 8) : Prop :=
  match s with
  | .int sgn w =>
    let v : Int := if sgn = true ∧ 2 ^ (w - 1) ≤ x then (x : Int) - 2 ^ w else x
    match t with
    | .int sg k => if sat then Clamped sg k v 0 c fl else c = (v % 2 ^ k).toNat ∧ fl = 0
    | .flt f => if sat then f.Clamps mode (v * 2 ^ f.u) f.u false c fl else f.Rounds mode sub (v * 2 ^ f.u) f.u false c fl
  | .flt g =>
    if g.nanCode x then
      match t with
      | .flt f => c = f.canonNan ∧ fl = g.reads [x]
      | .int _ _ => ∃ y, Substitutes sub t mode c y ∧ fl = y ||| g.reads [x]
    else if g.infCode x then
      match t with
      | .flt f => if f.top = .ieee then c = f.signed (g.minus x) f.infMag ∧ fl = 0 else Substitutes sub t mode c fl
      | .int _ _ => Substitutes sub t mode c fl
    else
      match t with
      | .flt f =>
        if sat then f.Clamps mode (g.units x * 2 ^ f.u) (g.u + f.u) (g.minus x) c fl
        else f.Rounds mode sub (g.units x * 2 ^ f.u) (g.u + f.u) (g.minus x) c fl
      | .int sgn w => ToInt mode sgn w (g.units x) g.u c fl

/-! ## FopArith (R113, R120) -/

/-- Forms X = 0-5 of R112 on the codes a, b and d of a format. The sign of a zero sum is read as in log 52. -/
def FopIs (f : Fmt) (x : Nat) (mode : Mode) (a b d r : Nat) (fl : BitVec 8) : Prop :=
  let product := decide (2 ≤ x)
  let cs := if 3 ≤ x then [a, b, d] else [a, b]
  let one := if product then xor (xor (f.minus a) (f.minus b)) (decide (x = 5)) else f.minus a
  let two := if product then xor (f.minus d) (decide (x = 4)) else xor (f.minus b) (decide (x = 1))
  let inf1 := f.infCode a || product && f.infCode b
  let inf2 := decide (x ≠ 2) && f.infCode (if product then d else b)
  if product && (f.infCode a && decide (f.mag b = 0) || f.infCode b && decide (f.mag a = 0)) then r = f.canonNan ∧ fl = INVALID
  else if cs.any f.nanCode then r = f.canonNan ∧ fl = f.reads cs
  else if inf1 && inf2 && one != two then r = f.canonNan ∧ fl = INVALID
  else if inf1 then r = f.signed one f.infMag ∧ fl = 0
  else if inf2 then r = f.signed two f.infMag ∧ fl = 0
  else
    let sgn : Bool → Int := fun n => if n then -1 else 1
    let n := if product then sgn (decide (x = 5)) * (f.units a * f.units b) + (if x = 2 then 0 else sgn (decide (x = 4)) * f.units d * 2 ^ f.u)
      else (f.units a + sgn (decide (x = 1)) * f.units b) * 2 ^ f.u
    f.Rounds mode 0 n (2 * f.u) (if x = 2 then one else decide (x = 3) && one && two || decide (mode = .rdn)) r fl

/-- InF32 of R111. -/
def flushed (ftz : Bool) (x : W32) : Nat := if ftz = true ∧ f32.mag x.toNat < 2 ^ 23 then x.toNat / 2 ^ 31 * 2 ^ 31 else x.toNat

/-- A result of the FP32 path (R111): `P` is what the result is before OutF32. -/
def Out (ftz : Bool) (P : Nat → BitVec 8 → Prop) (r : W32 × BitVec 8) : Prop :=
  ∃ c fl, P c fl ∧ if ftz = true ∧ 0 < f32.mag c ∧ f32.mag c < 2 ^ 23 then r = (BitVec.ofNat 32 (c / 2 ^ 31 * 2 ^ 31), fl ||| UNDERFLOW ||| INEXACT)
    else r = (BitVec.ofNat 32 c, fl)

/-- The rows of R112 with X = 0-5 and of R47: X and the three operands. -/
def fopRow : Instr → Option (Nat × (Gang → Nat → W32) × (Gang → Nat → W32) × (Gang → Nat → W32))
  | .addF32 b a d => some (0, fun g l => g.vreg l a.toNat, fun g l => g.vreg l b.toNat, fun g l => g.vreg l d.toNat)
  | .subF32 b a d => some (1, fun g l => g.vreg l a.toNat, fun g l => g.vreg l b.toNat, fun g l => g.vreg l d.toNat)
  | .mulF32 b a d => some (2, fun g l => g.vreg l a.toNat, fun g l => g.vreg l b.toNat, fun g l => g.vreg l d.toNat)
  | .fmaF32 b a d => some (3, fun g l => g.vreg l a.toNat, fun g l => g.vreg l b.toNat, fun g l => g.vreg l d.toNat)
  | .fmsF32 b a d => some (4, fun g l => g.vreg l a.toNat, fun g l => g.vreg l b.toNat, fun g l => g.vreg l d.toNat)
  | .fnmaF32 b a d => some (5, fun g l => g.vreg l a.toNat, fun g l => g.vreg l b.toNat, fun g l => g.vreg l d.toNat)
  | .addF32Short i b d => some (0, fun g l => g.vreg l d.toNat, fun g l => floatRow.shortFloat g i b l, fun _ _ => 0)
  | .subF32Short i b d => some (1, fun g l => g.vreg l d.toNat, fun g l => floatRow.shortFloat g i b l, fun _ _ => 0)
  | .mulF32Short i b d => some (2, fun g l => g.vreg l d.toNat, fun g l => floatRow.shortFloat g i b l, fun _ _ => 0)
  | _ => none

/-- The rows of R120 but min and max: the format, X of R112, A, B and D. -/
def hopRow : Instr → Option (Fmt × Nat × BitVec 7 × BitVec 7 × BitVec 7)
  | .addF16x2 b a d => some (f16, 0, a, b, d)
  | .mulF16x2 b a d => some (f16, 2, a, b, d)
  | .fmaF16x2 b a d => some (f16, 3, a, b, d)
  | .addBf16x2 b a d => some (bf16, 0, a, b, d)
  | .mulBf16x2 b a d => some (bf16, 2, a, b, d)
  | .fmaBf16x2 b a d => some (bf16, 3, a, b, d)
  | _ => none

/-- Half `h` of a register. -/
def halfOf (h : Nat) (v : W32) : Nat := v.toNat / 2 ^ (16 * h) % 2 ^ 16

/-! ## scale and the unary functions (R114, R117, R118) -/

/-- scale of R114 on an operand `a` that InF32 has read. -/
def ScaleIs (mode : Mode) (a : Nat) (k : Int) (c : Nat) (fl : BitVec 8) : Prop :=
  if f32.nanCode a then c = 0x7FC00000 ∧ fl = f32.reads [a]
  else if f32.infCode a || decide (f32.mag a = 0) then c = a ∧ fl = 0
  else f32.Rounds mode 0 (f32.units a * 2 ^ k.toNat) (149 + (-k).toNat) (f32.minus a) c fl

/-- The rows of R117 and of its table: the sub-code of R116 and A. -/
def unaryFloat : Instr → Option (Nat × BitVec 7)
  | .rcpF32 a _ => some (2, a)
  | .rsqF32 a _ => some (3, a)
  | .sqrtF32 a _ => some (4, a)
  | .exp2F32 a _ => some (5, a)
  | .log2F32 a _ => some (6, a)
  | .sinF32 a _ => some (7, a)
  | .cosF32 a _ => some (8, a)
  | _ => none

/-- The table of R117 for NaNs, zeros, infinities and finite negative operands; none where the rules above it apply. -/
def special117 (sub a : Nat) : Option (Nat × BitVec 8) :=
  let neg := f32.minus a
  let invalid : Option (Nat × BitVec 8) := some (0x7FC00000, INVALID)
  if f32.nanCode a then some (0x7FC00000, f32.reads [a])
  else if f32.mag a = 0 then match sub with
    | 2 | 3 => some (f32.signed neg 0x7F800000, DIVZERO)
    | 4 | 7 => some (a, 0)
    | 6 => some (0xFF800000, DIVZERO)
    | _ => some (0x3F800000, 0)
  else if f32.infCode a then match sub with
    | 2 => some (f32.signed neg 0, 0)
    | 3 => if neg then invalid else some (0, 0)
    | 4 | 6 => if neg then invalid else some (a, 0)
    | 5 => if neg then some (0, 0) else some (a, 0)
    | _ => invalid
  else if neg = true ∧ (sub = 3 ∨ sub = 4 ∨ sub = 6) then invalid
  else none

/-- The exact results of exp2, log2, sin and cos (R117) at a finite operand of `a` units of 2^-149: the sign and the units of the result. log2(1.0) is +0
(log 52). -/
def exact117 (sub : Nat) (neg : Bool) (a : Int) : Option (Bool × Int) :=
  let one : Int := 2 ^ 149
  match sub with
  | 5 => if a % one = 0 ∧ -149 ≤ a / one ∧ a / one ≤ 127 then some (false, 2 ^ (a / one + 149).toNat) else none
  | 6 => if 0 < a ∧ a = 2 ^ Nat.log2 a.toNat then some (decide (Nat.log2 a.toNat < 149), ((Nat.log2 a.toNat : Int) - 149) * one) else none
  | _ =>
    if 4 * a % one ≠ 0 then none
    else match (4 * a / one + (if sub = 8 then 1 else 0)) % 4 with
      | 1 => some (false, one)
      | 3 => some (true, -one)
      | _ => some (decide (sub = 7) && neg, 0)

/-- A faithful magnitude (R117): the exact one is at least n units of 2^-149 iff `le n`, and at most n units iff `ge n`. -/
structure FaithfulMag (le ge : Nat → Prop) (m : Nat) (fl : BitVec 8) : Prop where
  code : m ≤ 0x7F800000
  exact : (∃ k, k < 0x7F800000 ∧ le (f32.units k).toNat ∧ ge (f32.units k).toNat) → m < 0x7F800000 ∧ le (f32.units m).toNat ∧ ge (f32.units m).toNat ∧ fl = 0
  near : ¬(∃ k, k < 0x7F800000 ∧ le (f32.units k).toNat ∧ ge (f32.units k).toNat) → m < 0x7F800000 →
    ¬le (2 ^ 277) ∧
    (le (f32.units m).toNat ∧ (∀ k, k < 0x7F800000 → le (f32.units k).toNat → k ≤ m) ∨ ge (f32.units m).toNat ∧ ∀ k, k < 0x7F800000 → ge (f32.units k).toNat → m ≤ k) ∧
    (∀ i, fl.getLsbD i = (INEXACT.getLsbD i || UNDERFLOW.getLsbD i && fl.getLsbD i)) ∧ (fl &&& UNDERFLOW = UNDERFLOW ↔ ¬le (2 ^ 23))
  infinite : ¬(∃ k, k < 0x7F800000 ∧ le (f32.units k).toNat ∧ ge (f32.units k).toNat) → m = 0x7F800000 →
    (∀ k, k < 0x7F800000 → ¬ge (f32.units k).toNat) ∧ fl = OVERFLOW ||| INEXACT

/-- The correctly rounded square root of `a` units (R118): never subnormal, and never a tie. -/
def RootIs (mode : Mode) (a c : Nat) (fl : BitVec 8) : Prop :=
  let x := a * 2 ^ 149
  let v := fun (k : Nat) => (f32.units k).toNat
  c < 0x7F800000 ∧ fl = (if v c * v c = x then 0 else INEXACT) ∧
  match mode with
  | .rne => ∀ k, k < 0x7F800000 → k ≠ c → if k < c then (v k + v c) * (v k + v c) < 4 * x else 4 * x < (v k + v c) * (v k + v c)
  | .rup => x ≤ v c * v c ∧ ∀ k, k < 0x7F800000 → x ≤ v k * v k → c ≤ k
  | _ => v c * v c ≤ x ∧ ∀ k, k < 0x7F800000 → v k * v k ≤ x → k ≤ c

/-- What a function of R117 gives before OutF32, for an operand that InF32 has read. -/
def FunIs (sub : Nat) (mode : Mode) (a c : Nat) (fl : BitVec 8) : Prop :=
  match special117 sub a with
  | some p => c = p.1 ∧ fl = p.2
  | none =>
    let m := (f32.units a).natAbs
    match sub with
    | 2 => ∃ k, c = f32.signed (f32.minus a) k ∧ FaithfulMag (fun n => n * m ≤ 2 ^ 298) (fun n => 2 ^ 298 ≤ n * m) k fl
    | 3 => FaithfulMag (fun n => n * n * m ≤ 2 ^ 447) (fun n => 2 ^ 447 ≤ n * n * m) c fl
    | 4 => RootIs mode m c fl
    | _ => match exact117 sub (f32.minus a) (f32.units a) with
      | some (n, v) => f32.finite c ∧ f32.minus c = n ∧ f32.units c = v ∧ fl = 0
      | none => c < 2 ^ 32 ∧ f32.mag c ≤ 0x7F800000 ∧ fl &&& INEXACT = INEXACT ∧ (f32.mag c = 0x7F800000 ↔ fl &&& OVERFLOW = OVERFLOW) ∧
          (f32.mag c < 0x00800000 → fl &&& UNDERFLOW = UNDERFLOW) ∧ (fl &&& UNDERFLOW = UNDERFLOW → f32.mag c ≤ 0x00800000) ∧
          fl &&& ~~~(INEXACT ||| OVERFLOW ||| UNDERFLOW) = 0

/-- floor, ceil, trunc and rint (R118): the mode and whether INEXACT is set. -/
def integralRow (g : Gang) : Instr → Option (Mode × Bool × BitVec 7)
  | .floorF32 a _ => some (.rdn, false, a)
  | .ceilF32 a _ => some (.rup, false, a)
  | .truncF32 a _ => some (.rz, false, a)
  | .rintF32 a _ => some (g.rm, true, a)
  | _ => none

/-- What they give of an operand that InF32 has read. -/
def IntegralIs (mode : Mode) (ix : Bool) (a c : Nat) (fl : BitVec 8) : Prop :=
  if f32.nanCode a then c = 0x7FC00000 ∧ fl = f32.reads [a]
  else if f32.infCode a then c = a ∧ fl = 0
  else f32.finite c ∧ f32.units c = neighbour mode (f32.units a) (2 ^ 149) ∧ f32.minus c = f32.minus a ∧
    fl = if ix = true ∧ f32.units c ≠ f32.units a then INEXACT else 0

/-- Codes in the order of min and max: −0 below +0 (R114). -/
def Fmt.order (f : Fmt) (c : Nat) : Int := if f.minus c then -(f.mag c : Int) - 1 else f.mag c

/-- min or max of R114. -/
def MinMaxIs (f : Fmt) (isMax : Bool) (a b r : Nat) (fl : BitVec 8) : Prop :=
  fl = f.reads [a, b] ∧
  if f.nanCode a then (if f.nanCode b then r = f.canonNan else r = b)
  else if f.nanCode b then r = a
  else r = if f.order a ≤ f.order b then (if isMax then b else a) else if isMax then a else b

/-- The bit of R119 for a code. -/
def classBit (a : Nat) : Nat :=
  let n := f32.minus a
  if f32.snanCode a then 8 else if f32.nanCode a then 9 else if f32.infCode a then (if n then 0 else 7)
  else if f32.mag a = 0 then (if n then 3 else 4) else if f32.mag a < 2 ^ 23 then (if n then 2 else 5) else if n then 1 else 6

/-- copysign, getexp, abs, neg and frac (R114, R118): B, A, and what the result is of the two operands, the first one as InF32 has read it. -/
def plainFloat : Instr → Option (BitVec 7 × BitVec 7 × (Nat → Nat → Nat → BitVec 8 → Prop))
  | .copysignF32 b a _ => some (b, a, fun x y c fl =>
      if f32.nanCode x then c = 0x7FC00000 ∧ fl = f32.reads [x] else c = f32.signed (f32.minus y) (f32.mag x) ∧ fl = 0)
  | .getexpF32 a _ => some (a, a, fun x _ c fl =>
      if f32.nanCode x then c = 0x7FC00000 ∧ fl = f32.reads [x]
      else if f32.infCode x then c = 0x7F800000 ∧ fl = 0
      else if f32.mag x = 0 then c = 0xFF800000 ∧ fl = DIVZERO
      else f32.finite c ∧ f32.units c = ((Nat.log2 (f32.units x).natAbs : Int) - 149) * 2 ^ 149 ∧ (f32.minus c = true ↔ f32.units c < 0) ∧ fl = 0)
  | .absF32 a _ => some (a, a, fun x _ c fl => if f32.nanCode x then c = 0x7FC00000 ∧ fl = f32.reads [x] else c = f32.mag x ∧ fl = 0)
  | .negF32 a _ => some (a, a, fun x _ c fl => if f32.nanCode x then c = 0x7FC00000 ∧ fl = f32.reads [x] else c = f32.signed (!f32.minus x) (f32.mag x) ∧ fl = 0)
  | .fracF32 a _ => some (a, a, fun x _ c fl =>
      if f32.nanCode x then c = 0x7FC00000 ∧ fl = f32.reads [x]
      else if f32.infCode x then c = 0x7FC00000 ∧ fl = INVALID
      else f32.finite c ∧ f32.units c = f32.units x - neighbour .rz (f32.units x) (2 ^ 149) ∧ f32.minus c = f32.minus x ∧ fl = 0)
  | _ => none

/-- min and max on f32 (R47, R114): whether max, and the operands. -/
def minMaxRow : Instr → Option (Bool × (Gang → Nat → W32) × (Gang → Nat → W32))
  | .minF32 b a _ => some (false, fun g l => g.vreg l a.toNat, fun g l => g.vreg l b.toNat)
  | .maxF32 b a _ => some (true, fun g l => g.vreg l a.toNat, fun g l => g.vreg l b.toNat)
  | .minF32Short i b d => some (false, fun g l => g.vreg l d.toNat, fun g l => floatRow.shortFloat g i b l)
  | .maxF32Short i b d => some (true, fun g l => g.vreg l d.toNat, fun g l => floatRow.shortFloat g i b l)
  | _ => none

/-- min and max on halves (R120). -/
def hopMinMax : Instr → Option (Fmt × Bool × BitVec 7 × BitVec 7)
  | .minF16x2 b a _ => some (f16, false, a, b)
  | .maxF16x2 b a _ => some (f16, true, a, b)
  | .minBf16x2 b a _ => some (bf16, false, a, b)
  | .maxBf16x2 b a _ => some (bf16, true, a, b)
  | _ => none

/-! ## cvt and cvtp (R123, R124) -/

/-- A cvt: source and target format, mode, SAT and A. -/
def cvtRow : Instr → Option (Elem × Elem × Mode × Bool × BitVec 7)
  | .cvt t r u c e a _ => some (Elem.of (u ++ c).toNat, Elem.of e.toNat, Mode.of r.toNat, decide (t = 1), a)
  | _ => none

/-- A converted code in a register: i16 and i8 are sign-extended (R123). -/
def placed (t : Elem) (c : Nat) : W32 :=
  match t with
  | .int true w => BitVec.ofInt 32 (if 2 ^ (w - 1) ≤ c then (c : Int) - 2 ^ w else c)
  | _ => BitVec.ofNat 32 c

/-- A cvtp: the target, its width and place, mode, SAT, A and D (R124). -/
def cvtpRow : Instr → Option (Elem × Nat × Nat × Mode × Bool × BitVec 7 × BitVec 7)
  | .cvtpByte t r e h k a d => some (byteTarget e.toNat, 8, 2 * h.toNat + k.toNat, Mode.of r.toNat, decide (t = 1), a, d)
  | .cvtpF16 t r h a d => some (.flt f16, 16, h.toNat, Mode.of r.toNat, decide (t = 1), a, d)
  | .cvtpBf16 t r h a d => some (.flt bf16, 16, h.toNat, Mode.of r.toNat, decide (t = 1), a, d)
  | _ => none

/-! ## dot (R121) -/

/-- dot2 on the halves of a format: two products and an f32 addend in one rounding. -/
def DotIs (f : Fmt) (mode : Mode) (a b d : W32) (r : Nat) (fl : BitVec 8) : Prop :=
  let p := fun (h : Nat) => (halfOf h a, halfOf h b)
  let bad := fun (q : Nat × Nat) => f.infCode q.1 && decide (f.mag q.2 = 0) || f.infCode q.2 && decide (f.mag q.1 = 0)
  let nan := f32.nanCode d.toNat || [0, 1].any fun h => f.nanCode (p h).1 || f.nanCode (p h).2
  let snan := f32.snanCode d.toNat || [0, 1].any fun h => f.snanCode (p h).1 || f.snanCode (p h).2
  let sgn := fun (q : Nat × Nat) => xor (f.minus q.1) (f.minus q.2)
  let infs := (if f32.infCode d.toNat then [f32.minus d.toNat] else []) ++ (([p 0, p 1].filter fun q => f.infCode q.1 || f.infCode q.2).map sgn)
  let signs := [f32.minus d.toNat, sgn (p 0), sgn (p 1)]
  if bad (p 0) || bad (p 1) then r = 0x7FC00000 ∧ fl = INVALID
  else if nan then r = 0x7FC00000 ∧ fl = if snan then INVALID else 0
  else if true ∈ infs ∧ false ∈ infs then r = 0x7FC00000 ∧ fl = INVALID
  else if infs ≠ [] then r = f32.signed (infs.headD false) 0x7F800000 ∧ fl = 0
  else
    let x := f.units (p 0).1 * f.units (p 0).2
    let y := f.units (p 1).1 * f.units (p 1).2
    let zero := if x = 0 ∧ y = 0 ∧ f32.mag d.toNat = 0 then signs.all id || decide (mode = .rdn) && signs.any id else decide (mode = .rdn)
    f32.Rounds mode 0 ((x + y) * 2 ^ (298 - 2 * f.u) + f32.units d.toNat * 2 ^ 149) 298 zero r fl

/-! ## xred (R154) -/

/-- AddF32 of R154: FopArith of an add with subnormals kept; two zeros of one sign keep it (log 52). -/
def AddIs (mode : Mode) (p q r : W32) (fl : BitVec 8) : Prop :=
  let z := f32.mag p.toNat = 0 ∧ f32.mag q.toNat = 0
  (¬z → FopIs f32 0 mode p.toNat q.toNat 0 r.toNat fl) ∧
  (z → fl = 0 ∧ r = if p = q then p else if mode = .rdn then 0x80000000 else 0)

/-- The fixed tree over 2^k values: neighbours are added level by level, and every flag is kept. -/
def TreeSum (mode : Mode) : Nat → (Nat → W32) → W32 → BitVec 8 → Prop
  | 0, v, r, fl => r = v 0 ∧ fl = 0
  | k + 1, v, r, fl => ∃ (w : Nat → W32) (fs : Nat → BitVec 8) (up : BitVec 8),
      (∀ i, i < 2 ^ k → AddIs mode (v (2 * i)) (v (2 * i + 1)) (w i) (fs i)) ∧ TreeSum mode k w r up ∧
      ∀ b, fl.getLsbD b = true ↔ up.getLsbD b = true ∨ ∃ i, i < 2 ^ k ∧ (fs i).getLsbD b = true

/-- The doubling scan over `w` lanes with the distances that are listed. -/
def ScanSum (mode : Mode) (w : Nat) : List Nat → (Nat → W32) → (Nat → W32) → BitVec 8 → Prop
  | [], v, r, fl => (∀ l, l < w → r l = v l) ∧ fl = 0
  | d :: ds, v, r, fl => ∃ (u : Nat → W32) (fs : Nat → BitVec 8) (rest : BitVec 8),
      (∀ l, l < w → if d ≤ l then AddIs mode (v l) (v (l - d)) (u l) (fs l) else u l = v l ∧ fs l = 0) ∧ ScanSum mode w ds u r rest ∧
      ∀ b, fl.getLsbD b = true ↔ rest.getLsbD b = true ∨ ∃ l, l < w ∧ (fs l).getLsbD b = true

/-- The floating-point reductions and scans of R154 in a gang of `w` lanes, with the flags they merge; the integer forms merge none. -/
def XredFloat (x : Nat) (mode : Mode) (w : Nat) (v : Nat → W32) (m : Lanes) (out : Nat → W32) (fl : BitVec 8) : Prop :=
  let padded := fun l => if m.getLsbD l then v l else 0
  match x with
  | 3 => ∀ k, k ≤ 6 → w = 2 ^ k → ∃ r, TreeSum mode k padded r fl ∧ ∀ l, m.getLsbD l = true → out l = r
  | 4 | 5 =>
    (fl = if (List.range 64).any fun k => m.getLsbD k && f32.snanCode (v k).toNat then INVALID else 0) ∧
    ∀ l, m.getLsbD l = true →
      ((∀ k, m.getLsbD k = true → f32.nanCode (v k).toNat = true) → out l = 0x7FC00000) ∧
      (∀ k, m.getLsbD k = true → f32.nanCode (v k).toNat = false →
        (if x = 4 then f32.order (out l).toNat ≤ f32.order (v k).toNat else f32.order (v k).toNat ≤ f32.order (out l).toNat) ∧
        ∃ j, m.getLsbD j = true ∧ f32.nanCode (v j).toNat = false ∧ out l = v j)
  | 7 => ∃ r, ScanSum mode w ([1, 2, 4, 8, 16, 32].filter fun d => decide (d < w)) padded r fl ∧ ∀ l, m.getLsbD l = true → out l = r l
  | _ => fl = 0

/-- The dot2 forms: the format, B, A, D. -/
def dotRow : Instr → Option (Fmt × BitVec 7 × BitVec 7 × BitVec 7)
  | .dot2F16 b a d => some (f16, b, a, d)
  | .dot2Bf16 b a d => some (bf16, b, a, d)
  | _ => none

/-! ## Selector blocks (R76-R83) -/

/-- Entry `k` of the level table (R76). -/
def lvtEntry (lvt0 lvt1 : W64) (k : Nat) : Int :=
  let b := (if k < 8 then lvt0 else lvt1).toNat / 2 ^ (8 * (k % 8)) % 256
  if b < 128 then b else (b : Int) - 256

/-- D of a code under a selector (R79, R80): on a grid of 2^-4 for SB4, of 2^-6 for SB8; none for a reserved selector. -/
def sbUnder (sb8 : Bool) (lvt0 lvt1 : W64) (sel code : Nat) : Option Int :=
  match sb8, sel with
  | false, 0 => some (16 * if code < 8 then (code : Int) else code - 16)
  | false, 1 => some (8 * e2m1.units code)
  | false, 2 => some (lvtEntry lvt0 lvt1 code)
  | true, 0 => some (64 * if code < 128 then (code : Int) else code - 256)
  | true, 1 => some (e3m4.units code)
  | _, _ => none

/-- DecodeSB (R81) of an element of sub-block `j`: D, or none for CORRUPT. -/
def sbDigit (sb8 : Bool) (lvt0 lvt1 : W64) (head code j : Nat) : Option Int :=
  if head / 256 % 256 = 0 ∨ head / 256 % 256 = 255 then none else sbUnder sb8 lvt0 lvt1 (head / 4 ^ j % 4) code

/-- The header check of R82: E is a scale, and each of the four selectors is one of the format. -/
def sbSound (sb8 : Bool) (head : Nat) : Prop :=
  head / 256 % 256 ≠ 0 ∧ head / 256 % 256 ≠ 255 ∧ ∀ j, j < 4 → head / 4 ^ j % 4 < if sb8 then 2 else 3

/-- The f32 value of an SB element (R83). -/
def SbValueIs (sb8 : Bool) (d : Int) (head c : Nat) (fl : BitVec 8) : Prop :=
  f32.Rounds .rne 0 (d * 2 ^ (head / 256 % 256)) (if sb8 then 133 else 131) false c fl

/-- What the rules say of the result `r` of a float instruction in lane `l` of a gang. -/
structure FloatResult (i : Instr) (g : Gang) (l : Nat) (r : W32 × BitVec 8) : Prop where
  arith : ∀ x a b d, fopRow i = some (x, a, b, d) →
    Out g.ftz (FopIs f32 x g.rm (flushed g.ftz (a g l)) (flushed g.ftz (b g l)) (flushed g.ftz (d g l))) r
  minMax : ∀ m a b, minMaxRow i = some (m, a, b) → MinMaxIs f32 m (flushed g.ftz (a g l)) (flushed g.ftz (b g l)) r.1.toNat r.2
  scale : ∀ b a d, i = .scaleF32 b a d → Out g.ftz (ScaleIs g.rm (flushed g.ftz (g.vreg l a.toNat)) (g.vreg l b.toNat).toInt) r
  plain : ∀ b a p, plainFloat i = some (b, a, p) → Out g.ftz (p (flushed g.ftz (g.vreg l a.toNat)) (g.vreg l b.toNat).toNat) r
  unary : ∀ sub a, unaryFloat i = some (sub, a) → Out g.ftz (FunIs sub g.rm (flushed g.ftz (g.vreg l a.toNat))) r
  integral : ∀ m ix a, integralRow g i = some (m, ix, a) → IntegralIs m ix (flushed g.ftz (g.vreg l a.toNat)) r.1.toNat r.2
  class_ : ∀ a d, i = .classF32 a d → r = (BitVec.ofNat 32 (2 ^ classBit (flushed g.ftz (g.vreg l a.toNat))), 0)
  halves : ∀ f x a b d, hopRow i = some (f, x, a, b, d) → ∃ p q, r.2 = p ||| q ∧
    ∀ h, h < 2 → FopIs f x g.rm (halfOf h (g.vreg l a.toNat)) (halfOf h (g.vreg l b.toNat)) (halfOf h (g.vreg l d.toNat)) (halfOf h r.1) (if h = 0 then p else q)
  halfMinMax : ∀ f m a b, hopMinMax i = some (f, m, a, b) → ∃ p q, r.2 = p ||| q ∧
    ∀ h, h < 2 → MinMaxIs f m (halfOf h (g.vreg l a.toNat)) (halfOf h (g.vreg l b.toNat)) (halfOf h r.1) (if h = 0 then p else q)
  dot : ∀ f b a d, dotRow i = some (f, b, a, d) → DotIs f g.rm (g.vreg l a.toNat) (g.vreg l b.toNat) (g.vreg l d.toNat) r.1.toNat r.2
  cvt : ∀ s t m sat a, cvtRow i = some (s, t, m, sat, a) → i.wf = true → f32.finite g.cvsub.toNat →
    ∃ c, Converts g.cvsub s t m sat ((g.vreg l a.toNat).toNat % 2 ^ s.width) c r.2 ∧ r.1 = placed t c
  /-- The check of the header is per block, as R82 has it for every reader (log 52). -/
  sbdec : ∀ sb8 b a d, (i = .sbdecSb4 b a d ∧ sb8 = false ∨ i = .sbdecSb8 b a d ∧ sb8 = true) →
    let w := if sb8 then 8 else 4
    let h := (g.vreg l b.toNat).toNat
    (¬ sbSound sb8 (h % 2 ^ 16) → r = (0x7FC00000, SELECTOR)) ∧
    (sbSound sb8 (h % 2 ^ 16) → ∃ v,
      sbDigit sb8 g.lvt0 g.lvt1 (h % 2 ^ 16) ((g.vreg l a.toNat).toNat / 2 ^ (w * (h / 2 ^ 20 % (if sb8 then 4 else 8))) % 2 ^ w)
        (h / 2 ^ 16 % 4) = some v ∧
      SbValueIs sb8 v (h % 2 ^ 16) r.1.toNat r.2)
  cvtp : ∀ t w n m sat a d, cvtpRow i = some (t, w, n, m, sat, a, d) → i.wf = true → f32.finite g.cvsub.toNat →
    ∃ c, Converts g.cvsub (.flt f32) t m sat (g.vreg l a.toNat).toNat c r.2 ∧ c < 2 ^ w ∧
      ∀ k, k < 32 → r.1.getLsbD k = if w * n ≤ k ∧ k < w * n + w then c.testBit (k - w * n) else (g.vreg l d.toNat).getLsbD k

end Sys2Proof.Machine
end

