-- ==== Sys2Proof/RuleBlocks.lean ====
section
/-!
DEFINITION. The quantising copy, the alignment of a group and the sum of an output element as the spec's chapters on numbers and on the matrix macros
write them, in exact integers (R84, R85, R239, R240).
-/
namespace Sys2Proof.Machine

/-! ## QuantiseBlock (R84, R85) -/

/-- The levels of a candidate (R85) in units of 2^-6 of 2^(E−127), by code; the code of a negative zero is none. -/
def levelOf (sb8 : Bool) (lvt0 lvt1 : W64) (sel code : Nat) : Option Int :=
  if sel = 1 ∧ code = (if sb8 then 128 else 8) then none
  else if code < (if sb8 then 256 else 16) then (sbUnder sb8 lvt0 lvt1 sel code).map fun d => if sb8 then d else 4 * d
  else none

/-- Code `k` with level `v` is the nearest to y, an f32 (R85): by distance, then magnitude, then the sign of y, then the lower code. -/
def NearestIs (level : Nat → Option Int) (y k : Nat) (v : Int) : Prop :=
  let far := fun (x : Int) => (f32.units y - x * 2 ^ 143).natAbs
  level k = some v ∧ ∀ j x, level j = some x →
    far v < far x ∨ far v = far x ∧ (v.natAbs < x.natAbs ∨ v.natAbs = x.natAbs ∧ (if v = x then k ≤ j else (v < 0 ↔ f32.units y < 0)))

/-- The running score of a sub-block after `n` of its elements: y, the code with its level, d, d·d and s, each rounded to f32 (R84). -/
def ScoreIs (level : Nat → Option Int) (e : Nat) (x codes : Nat → Nat) : Nat → Nat → Prop
  | 0, s => s = 0
  | n + 1, s => ∃ (r y d q : Nat) (v : Int) (f1 f2 f3 f4 : BitVec 8), ScoreIs level e x codes n r ∧
      f32.Rounds .rne 0 (f32.units (x n) * 2 ^ 127) (149 + e) (f32.minus (x n)) y f1 ∧ NearestIs level y (codes n) v ∧
      f32.Rounds .rne 0 (f32.units y - v * 2 ^ 143) 149 false d f2 ∧
      f32.Rounds .rne 0 (f32.units d * f32.units d) 298 false q f3 ∧
      f32.Rounds .rne 0 (f32.units r + f32.units q) 149 false s f4

/-- QuantiseBlock of the 128 f32 codes `x`: the header, the codes of the elements, and the flags (R84). -/
def QuantIs (sb8 : Bool) (sub : W32) (lvt0 lvt1 : W64) (x : Nat → Nat) (head : Nat) (codes : Nat → Nat) (fl : BitVec 8) : Prop :=
  let odd := fun (i : Nat) => f32.nanCode (x i) || f32.infCode (x i)
  let z := fun (i : Nat) => if odd i then sub.toNat else x i
  let exceeds := fun (e i : Nat) => (if sb8 then 31 else 6) * 2 ^ (e + 149) < (f32.units (z i)).natAbs * 2 ^ 127
  let e := head / 256
  (1 ≤ e ∧ e ≤ 254 ∧ (∀ k, 1 ≤ k → k < e → ∃ i, i < 128 ∧ exceeds k i) ∧ (e < 254 → ∀ i, i < 128 → ¬exceeds e i)) ∧
  (∀ k, fl.getLsbD k = true ↔ (SUBST.getLsbD k = true ∧ ∃ i, i < 128 ∧ odd i = true) ∨ (SATURATED.getLsbD k = true ∧ ∃ i, i < 128 ∧ exceeds 254 i)) ∧
  ∀ j, j < 4 →
    let cands := if sb8 then 2 else 3
    let sel := head / 4 ^ j % 4
    let part := fun (f : Nat → Nat) (n : Nat) => f (32 * j + n)
    sel < cands ∧ ∃ score : Nat → Nat, ScoreIs (levelOf sb8 lvt0 lvt1 sel) e (part z) (part codes) 32 (score sel) ∧
      ∀ c, c < cands → (∃ k, ScoreIs (levelOf sb8 lvt0 lvt1 c) e (part z) k 32 (score c)) ∧
        (f32.units (score sel) < f32.units (score c) ∨ f32.units (score sel) = f32.units (score c) ∧ sel ≤ c)

/-! ## Align (R239) -/

/-- The formats that Align cuts to a common exponent, with their shift s. -/
def alignFmt : Nat → Option (Fmt × Nat)
  | 3 => some (f16, 4)
  | 4 => some (bf16, 7)
  | 5 => some (e4m3, 3)
  | 6 => some (e5m2, 4)
  | _ => none

/-- Align of a group of 32 codes in a format: q, G and the poisoned mark; the q of a poisoned group are not read. -/
def AlignIs (fmt : Nat) (x : Nat → Nat) (q : Nat → Int) (ge : Int) (poisoned : Bool) : Prop :=
  match alignFmt fmt with
  | some (f, s) =>
    let e := fun (c : Nat) => max (f.mag c / 2 ^ f.mbits) 1
    (poisoned = true ↔ ∃ i, i < 32 ∧ (f.nanCode (x i) || f.infCode (x i)) = true) ∧
    ∃ top, (∃ i, i < 32 ∧ top = e (x i)) ∧ (∀ i, i < 32 → e (x i) ≤ top) ∧ ge = (top : Int) - f.bias - f.mbits - s ∧
      (poisoned = false → ∀ i, i < 32 → q i = (if f.minus (x i) then -1 else 1) * (((f.units (x i)).natAbs * 2 ^ (s + 1) / 2 ^ top : Nat) : Int))
  | none =>
    let half := if fmt = 13 then 8 else 128
    poisoned = false ∧ ge = 0 ∧ ∀ i, i < 32 → q i = if x i < half then (x i : Int) else (x i : Int) - 2 * half

/-! ## OutElement (R240) -/

/-- Flush: a subnormal becomes a zero of its sign, with UNDERFLOW and INEXACT. -/
def FlushIs (r c : Nat) (fl : BitVec 8) : Prop :=
  if 0 < f32.mag r ∧ f32.mag r < 2 ^ 23 then c = f32.signed (f32.minus r) 0 ∧ fl = UNDERFLOW ||| INEXACT else c = r ∧ fl = 0

/-- One side of a group: its q, its exponent and its poisoned mark. -/
structure Side where
  q : Nat → Int
  g : Int
  poisoned : Bool

/-- acc + Σ qa·qb·2^(Ga+Gb) over the groups of a list in turn; a poisoned group ends it with a NaN. -/
def OutIs : Nat → List (Side × Side) → Nat → BitVec 8 → Prop
  | acc, [], r, fl => r = acc ∧ fl = 0
  | acc, (a, b) :: rest, r, fl =>
    if a.poisoned || b.poisoned then r = 0x7FC00000 ∧ fl = INVALID
    else
      let p := ((List.range 32).map fun i => a.q i * b.q i).sum
      let k := a.g + b.g
      ∃ (v w : Nat) (s : W32) (c : Nat) (f1 f2 f3 f4 up : BitVec 8),
        f32.Rounds .rne 0 (p * 2 ^ k.toNat) (-k).toNat false v f1 ∧ FlushIs v w f2 ∧ AddIs .rne (BitVec.ofNat 32 acc) (BitVec.ofNat 32 w) s f3 ∧
        FlushIs s.toNat c f4 ∧ OutIs c rest r up ∧ fl = f1 ||| f2 ||| f3 ||| f4 ||| up

end Sys2Proof.Machine
end

