-- ==== Sys2Proof/RuleOps.lean ====
section
/-!
DEFINITION. What the statements say of the words that start an operation on a completion flag, of memory accesses, and of the order in which
checks trap.
-/
namespace Sys2Proof.Machine

/-! ## Traps -/

/-- `m` holds the issuing lanes for which `p` holds, there is one, and `low` is the lowest of them. -/
structure Caught (f : Flight) (p : Nat → Prop) (m : Lanes) (low : Nat) : Prop where
  which : ∀ l, m.getLsbD l = true ↔ f.lanes.getLsbD l = true ∧ p l
  one   : m.getLsbD low = true
  least : ∀ l, m.getLsbD l = true → low ≤ l

/-- The word traps with `cause` in the issuing lanes for which `p` holds, if there is one; sr.taddr is that of the lowest of them. -/
def TrapsIf (i : Instr) (s : State) (g : Gang) (f : Flight) (cause : Nat) (p : Nat → Prop) (addr : Nat → W64) : Prop :=
  (∃ l, f.lanes.getLsbD l = true ∧ p l) →
    ∃ m low, Caught f p m low ∧ exec i s = .next (s.trap g f cause m (addr low) true i.sig.size)

/-- As TrapsIf, in the state `w` that the word has left before it traps. -/
def TrapsIn (i : Instr) (s w : State) (g : Gang) (f : Flight) (cause : Nat) (p : Nat → Prop) (addr : Nat → W64) : Prop :=
  (∃ l, f.lanes.getLsbD l = true ∧ p l) →
    ∃ m low, Caught f p m low ∧ exec i s = .next (w.trap g f cause m (addr low) true i.sig.size)

/-- No issuing lane has `p`. -/
def Flight.none (f : Flight) (p : Nat → Prop) : Prop := ∀ l, f.lanes.getLsbD l = true → ¬p l

/-! ## Bytes at home and in a view -/

/-- The home of a byte is as before, or has received a byte that was dirty in the CU (R177, R178). -/
def HomeKept (s t : State) (cu : Nat) (p : Place) : Prop :=
  t.homeBytes p 1 = s.homeBytes p 1 ∨
    ∃ a x, p = .phys a ∧ x ∈ (s.cu cu).lines ∧ x.line = a / 64 ∧ x.dirty.getLsbD (a % 64) = true ∧ t.homeBytes p 1 = [x.byte (a % 64)]

/-- A CU sees a byte as before, or as its home now holds it. -/
def ViewKept (s t : State) (cu : Nat) (p : Place) : Prop := t.viewBytes cu p 1 = s.viewBytes cu p 1 ∨ t.viewBytes cu p 1 = t.homeBytes p 1

/-- A CU's view cache can take the line of a place without giving up another: it holds the line, or has less than its 2,048 lines (R13). -/
def State.viewRoom (s : State) (cu : Nat) (p : Place) : Prop := ∀ a, p = .phys a → ((s.cu cu).line? (a / 64)).isSome = true ∨ (s.cu cu).lines.length < 2048

/-- Each byte of a CU's view is its home's, or one that was dirty in the CU before: what an acquire from clus scope up leaves (log 15). -/
def Refreshed (s t : State) (cu : Nat) : Prop :=
  ∀ a, t.viewBytes cu (.phys a) 1 = t.homeBytes (.phys a) 1 ∨
    ∃ x ∈ (s.cu cu).lines, x.line = a / 64 ∧ x.dirty.getLsbD (a % 64) = true ∧ t.viewBytes cu (.phys a) 1 = [x.byte (a % 64)]

/-- Every byte that was dirty in a CU is at its home, and its lines are clean. -/
def WrittenBack (s t : State) (cu : Nat) : Prop :=
  (∀ a x, (s.cu cu).line? (a / 64) = some x → x.dirty.getLsbD (a % 64) = true → look t.phys a = x.byte (a % 64)) ∧ ∀ x ∈ (t.cu cu).lines, x.dirty = 0

/-! ## Words that start an operation -/

/-- The state around a gang may differ only in the gangs and in the number that the next operation takes. -/
def SameAround (s t : State) : Prop := { t with gangs := s.gangs, serial := s.serial } = s

/-- The word has issued one operation, on the flag `flag` and with the body `o`, and has done nothing else in its gang. -/
structure Begins (o : OpBody) (flag : Option Nat) (s t : State) (g : Gang) (f : Flight) : Prop where
  op : ∃ h, t.gang? g.id = some h ∧
    h.ops = g.ops ++
      [{ id := s.serial, flag := flag, pc := f.pc, clause := (g.thread (lowestLane f.lanes)).clause, strays := g.strays f.lanes, after := g.suppliers, body := o }] ∧
    GangFrame { ops := True } g h
  serial : t.serial = s.serial + 1
  others : ∀ j, j ≠ g.id → t.gang? j = s.gang? j

/-- The flag of a word is not at 63 (R129). -/
def Gang.flagFree (g : Gang) (flag : Option Nat) : Prop := ∀ i, flag = some i → g.flag i < 63

/-! ## Memory words (R167-R173, R192, R202-R209) -/

/-- A memory word as its chapter gives it. -/
structure MemForm where
  access : AccessKind
  space  : Space
  /-- Only the common window is allowed (R208). -/
  common : Bool := false
  size   : Nat
  e      : BitVec 1
  sb     : BitVec 6
  a      : BitVec 7
  /-- The registers read and written. -/
  regs   : List Nat
  dst    : List Nat
  /-- The slot bit; a word without one uses slot A. -/
  slot   : BitVec 1 := 0
  kind   : MemKind

/-- A plain load or store. -/
def plainForm (sp : Space) (store : Bool) (l : BitVec 1) (t : BitVec 3) (e : BitVec 1) (sb : BitVec 6) (a d : BitVec 7) : MemForm :=
  let n := match t.toNat with
    | 0 | 1 => 1
    | 2 | 3 => 2
    | 4 => 4
    | 5 => 8
    | _ => 16
  let span := (List.range (if t = 5 then 2 else if t = 6 then 4 else 1)).map fun i => d.toNat + i
  { access := if store then .write else .read, space := sp, size := n, e := e, sb := sb, a := a, regs := if store then span else []
    dst := if store then [] else span, slot := l, kind := if store then .store else .load t.toNat }

/-- A 32-bit atomic or reduction that reads `n` registers. -/
def modifyForm (k : MemKind) (n : Nat) (result : Bool) (e : BitVec 1) (sb : BitVec 6) (a d : BitVec 7) : MemForm :=
  { access := .modify, space := .generic, size := 4, e := e, sb := sb, a := a, regs := (List.range n).map fun i => d.toNat + i
    dst := if result then [d.toNat] else [], kind := k }

/-- A lock operation. -/
def lockForm (x : Nat) (e : BitVec 1) (sb : BitVec 6) (a d : BitVec 7) : MemForm :=
  { access := .modify, space := .generic, common := true, size := 8, e := e, sb := sb, a := a, regs := [d.toNat], dst := [d.toNat, d.toNat + 1], kind := .rwl x }

/-- The memory words (R168, R191, R203, R209). -/
def memForm : Instr → Option MemForm
  | .ldg l t e sb a d => some (plainForm .global false l t e sb a d)
  | .stg l t e sb a d => some (plainForm .global true l t e sb a d)
  | .lds l t e sb a d => some (plainForm .scratch false l t e sb a d)
  | .sts l t e sb a d => some (plainForm .scratch true l t e sb a d)
  | .ldc l t e sb a d => some (plainForm .common false l t e sb a d)
  | .stc l t e sb a d => some (plainForm .common true l t e sb a d)
  | .ldx l t e sb a d => some (plainForm .generic false l t e sb a d)
  | .stx l t e sb a d => some (plainForm .generic true l t e sb a d)
  | .ldAcq c e sb a d => some { access := .read, space := .generic, size := 4, e := e, sb := sb, a := a, regs := [], dst := [d.toNat], kind := .ldAcq c.toNat }
  | .stRel c e sb a d => some { access := .write, space := .generic, size := 4, e := e, sb := sb, a := a, regs := [d.toNat], dst := [], kind := .stRel c.toNat }
  | .atomAddI32 e sb a d => some (modifyForm (.atom 0) 1 true e sb a d)
  | .atomMinI32 e sb a d => some (modifyForm (.atom 1) 1 true e sb a d)
  | .atomMaxI32 e sb a d => some (modifyForm (.atom 2) 1 true e sb a d)
  | .atomMinN32 e sb a d => some (modifyForm (.atom 3) 1 true e sb a d)
  | .atomMaxN32 e sb a d => some (modifyForm (.atom 4) 1 true e sb a d)
  | .atomAnd e sb a d => some (modifyForm (.atom 5) 1 true e sb a d)
  | .atomOr e sb a d => some (modifyForm (.atom 6) 1 true e sb a d)
  | .atomXor e sb a d => some (modifyForm (.atom 7) 1 true e sb a d)
  | .atomXchg e sb a d => some (modifyForm (.atom 8) 1 true e sb a d)
  | .atomCas32 e sb a d => some (modifyForm (.atom 9) 2 true e sb a d)
  | .atomAddF32 e sb a d => some (modifyForm (.atom 10) 1 true e sb a d)
  | .atomMinF32 e sb a d => some (modifyForm (.atom 11) 1 true e sb a d)
  | .atomMaxF32 e sb a d => some (modifyForm (.atom 12) 1 true e sb a d)
  | .atomCas64 e sb a d => some { modifyForm (.atom 13) 4 true e sb a d with size := 8, dst := [d.toNat, d.toNat + 1] }
  | .redAddI32 e sb a d => some (modifyForm (.red 0) 1 false e sb a d)
  | .redMinI32 e sb a d => some (modifyForm (.red 1) 1 false e sb a d)
  | .redMaxI32 e sb a d => some (modifyForm (.red 2) 1 false e sb a d)
  | .redMinN32 e sb a d => some (modifyForm (.red 3) 1 false e sb a d)
  | .redMaxN32 e sb a d => some (modifyForm (.red 4) 1 false e sb a d)
  | .redAnd e sb a d => some (modifyForm (.red 5) 1 false e sb a d)
  | .redOr e sb a d => some (modifyForm (.red 6) 1 false e sb a d)
  | .redXor e sb a d => some (modifyForm (.red 7) 1 false e sb a d)
  | .redAddF32 e sb a d => some (modifyForm (.red 8) 1 false e sb a d)
  | .redMinF32 e sb a d => some (modifyForm (.red 9) 1 false e sb a d)
  | .redMaxF32 e sb a d => some (modifyForm (.red 10) 1 false e sb a d)
  | .redAxpyF32 e sb a d => some (modifyForm (.red 11) 2 false e sb a d)
  | .rwlTryrd e sb a d => some (lockForm 0 e sb a d)
  | .rwlTrywr e sb a d => some (lockForm 1 e sb a d)
  | .rwlRelrd e sb a d => some (lockForm 2 e sb a d)
  | .rwlRelwr e sb a d => some (lockForm 3 e sb a d)
  | .rwlSetpref e sb a d => some (lockForm 4 e sb a d)
  | _ => none

/-- The address that a lane forms: Sc[SB] + V[A], zero- or sign-extended (R169). -/
def MemForm.addr (m : MemForm) (g : Gang) (l : Nat) : W64 :=
  let v := g.vreg l m.a.toNat
  BitVec.ofInt 64 ((g.sreg m.sb.toNat).toInt + if m.e = 1 then v.toInt else (v.toNat : Int))

/-- What the address of a lane names in the word's space, none for ADDRESS_WINDOW (R168, R208). -/
def MemForm.target (m : MemForm) (s : State) (g : Gang) (l : Nat) : Option Target :=
  if m.common ∧ fld (m.addr g l) 63 56 ≠ 0xFA then none else s.resolve g m.space (m.addr g l)

/-- The target passes its scratch allotment (R159). -/
def MemForm.outside (m : MemForm) (s : State) (g : Gang) (l : Nat) : Prop :=
  ∃ team z off, m.target s g l = some (.scratch team z off) ∧ z < off + m.size

/-- The translation of a lane's target. -/
def MemForm.xlate (m : MemForm) (s : State) (g : Gang) (l : Nat) : Option Xlate := (m.target s g l).map (s.targetXlate g m.access.page)

/-- The access matches a watch of the die that is not ignored (R361). -/
def MemForm.watched (m : MemForm) (s : State) (g : Gang) (l : Nat) : Prop :=
  g.pastWatch = false ∧ ∃ va, m.target s g l = some (.global va) ∧
    watchHit (s.die (dieOf (s.cuOf g))) (s.asidOf g) m.access.load m.access.store m.access.rmw va m.size = true

/-- The place of a lane's access, once it is translated. -/
def MemForm.place (m : MemForm) (s : State) (g : Gang) (l : Nat) : Place :=
  match m.xlate s g l, m.target s g l with
  | some (.ok pa _ _), some t => placeOf pa t
  | _, _ => .phys 0

/-- No check of R169 stops the access of a lane: it has a target inside its space, aligned, allowed and present, not watched and, to be written,
not in transit. -/
structure MemForm.Passes (m : MemForm) (s : State) (g : Gang) (l : Nat) : Prop where
  inside  : ¬m.outside s g l
  aligned : (m.addr g l).toNat % m.size = 0
  present : ∃ pa transit new, m.xlate s g l = some (.ok pa transit new) ∧ (m.access.page = .write → transit = false)
  unwatched : ¬m.watched s g l

/-- The state after the walks of the issuing lanes, with their targets and translations: each completed walk has set its bits, and may be kept (R337, R338; log 26);
each walk is counted (R342). -/
def State.walkedBy (s : State) (g : Gang) (f : Flight) (k : Kind) (aim : Nat → Option Target) (x : Nat → Option Xlate) : State :=
  (lanesOf f.lanes).foldl (fun t l => match x l with
    | some y => t.translated (s.cuOf g) (s.asidOf g) k (aim l) y
    | none => t) s

/-- The state after the walks of a memory word. -/
def MemForm.walked (m : MemForm) (s : State) (g : Gang) (f : Flight) : State := s.walkedBy g f m.access.page (m.target s g) (m.xlate s g)

/-- The undo records that the word's places still need (R358). -/
def MemForm.records (m : MemForm) (s : State) (g : Gang) (f : Flight) : List (Bool × Nat) :=
  if m.access.page = .write then s.unlogged ((lanesOf f.lanes).map (m.place s g)) else []

/-- Address `a` lies in an undo record that `t` has beyond those of `s` (R358). -/
def InNewRecord (s t : State) (a : Nat) : Prop := ∃ n, s.undo.length ≤ n ∧ n < t.undo.length ∧ s.logAt n ≤ a ∧ a < s.logAt n + 128

/-- A page whose entry a lane's walk has read anew. -/
def WalkReads (x : Nat → Option Xlate) (l a : Nat) : Prop := ∃ pa tr p, x l = some (.ok pa tr (some p)) ∧ a = p.entry

/-- What the walks of a word's lanes and the undo log leave around its gang: the bits of the entries read anew are set (R337), the lines to be written are
logged (R358), and nothing else has changed but the kept translations and the log's own records. -/
structure WalkedOn (s t : State) (f : Flight) (k : Kind) (x : Nat → Option Xlate) (place : Nat → Place) : Prop where
  kept : ∀ a, ¬InNewRecord s t a → (∀ l, f.lanes.getLsbD l = true → ¬WalkReads x l a) → look t.phys a = look s.phys a
  bits : ∀ l a, ¬InNewRecord s t a → f.lanes.getLsbD l = true → WalkReads x l a → (look t.phys a).getLsbD 5 = true ∧ (k = .write → (look t.phys a).getLsbD 6 = true)
  lines : ∀ c, (t.cu c).lines = (s.cu c).lines
  logged : k = .write → s.phases ≠ [] → ∀ l line, f.lanes.getLsbD l = true → s.logLine (place l) = some line → t.logged line = true
  rest : { t with gangs := s.gangs, serial := s.serial, phys := s.phys, cus := s.cus, undo := s.undo } = s

/-- The accesses of a lane: one, or two halves of 8 bytes for a b128 (R173). A clause temporary is read at issue, any other source later (R131, R132). -/
def MemForm.accesses (m : MemForm) (s : State) (g : Gang) (l : Nat) : List Access :=
  let half := fun (n : Nat) (regs dst : List Nat) (size : Nat) =>
    Access.mk l (placePlus (m.place s g l) n) (m.addr g l + BitVec.ofNat 64 n) size (regs.map (g.port l)) dst false
  if m.size = 16 then [half 0 (m.regs.take 2) (m.dst.take 2) 8, half 8 (m.regs.drop 2) (m.dst.drop 2) 8] else [half 0 m.regs m.dst m.size]

/-- The undo log has room for the records that a write of some places still needs (R358). -/
def State.logFits (s : State) (ps : List Place) : Prop := s.unlogged ps = [] ∨ s.undo.length + (s.unlogged ps).length ≤ s.logRoom

/-- The flag of a memory word. -/
def MemForm.flag (m : MemForm) (b : BodyAt) : Option Nat := slotFlag (if m.slot = 0 then b.slotA else b.slotB)

/-! ## Read-modify-write (R203, R209) -/

/-- What a 32-bit atomic or reduction leaves in memory, by the table of R203: `m` is the old value, `d` and `d1` the two sources. -/
def modifyResult (red : Bool) (x : Nat) (m d d1 : W32) : W32 :=
  match x with
  | 0 => BitVec.ofInt 32 (m.toInt + d.toInt)
  | 1 => if m.toInt ≤ d.toInt then m else d
  | 2 => if m.toInt ≤ d.toInt then d else m
  | 3 => if m.toNat ≤ d.toNat then m else d
  | 4 => if m.toNat ≤ d.toNat then d else m
  | 5 => m &&& d
  | 6 => m ||| d
  | 7 => m ^^^ d
  | _ =>
    if red then
      if x = 8 then (addF32 .rne m d).1 else if x = 9 then (minMaxF32 false m d).1 else if x = 10 then (minMaxF32 true m d).1 else (fmaF32 .rne m d d1).1
    else
      if x = 8 then d else if x = 9 then (if m = d then d1 else m) else if x = 10 then (addF32 .rne m d).1
      else if x = 11 then (minMaxF32 false m d).1 else (minMaxF32 true m d).1

/-- The fields of a lock word (R207). -/
structure Lock where
  p  : Bool
  w  : Bool
  ww : Nat
  rs : Nat
  rc : Nat

def lockOf (n : Nat) : Lock := ⟨n.testBit 63, n.testBit 62, n / 2 ^ 48 % 2 ^ 14, n / 2 ^ 32 % 2 ^ 16, n % 2 ^ 32⟩
def Lock.nat (k : Lock) : Nat := k.p.toNat * 2 ^ 63 + k.w.toNat * 2 ^ 62 + k.ww * 2 ^ 48 + k.rs * 2 ^ 32 + k.rc

/-- Rwl(X, w, i) of R209 on the fields. -/
def Lock.after (x : Nat) (k : Lock) (i : Bool) : Lock :=
  if k.rs ≠ 0 then k
  else match x with
    | 0 => if k.w = false ∧ ¬(k.p = true ∧ 0 < k.ww) ∧ k.rc < 0xFFFFFFFF then { k with rc := k.rc + 1 } else k
    | 1 =>
      if k.w = false ∧ k.rc = 0 then { k with w := true, ww := k.ww - 1 }
      else if k.p = true ∧ i = false ∧ k.ww < 0x3FFF then { k with ww := k.ww + 1 } else k
    | 2 => { k with rc := k.rc - 1 }
    | 3 => { k with w := false }
    | _ => { k with p := i }

/-- What an atomic or a lock operation leaves at its place, from the old value and the lane's sources. -/
def modified (k : MemKind) (m : Nat) (vs : List W32) : Nat :=
  match k with
  | .atom 13 => if m = (vs.getD 0 0).toNat + 2 ^ 32 * (vs.getD 1 0).toNat then (vs.getD 2 0).toNat + 2 ^ 32 * (vs.getD 3 0).toNat else m
  | .atom x => (modifyResult false x (BitVec.ofNat 32 m) (vs.getD 0 0) (vs.getD 1 0)).toNat
  | .rwl x => ((lockOf m).after x ((vs.getD 0 0).getLsbD 0)).nat
  | _ => m

/-- The value at a place after the accesses of a list that name it, one after another (R205). -/
def modifiedBy (k : MemKind) (p : Place) (accs : List Access) (m : Nat) : Nat :=
  accs.foldl (fun m a => if a.place = p then modified k m (a.values.getD []) else m) m

/-- Every lane of an atomic or a lock operation can be performed now: its sources are read and every operation that may have supplied them has completed
(R183), its place is accessible, the CU's own copy of it has no error (R357), and no earlier access of the CU to it is outstanding (R172); two lanes name one
place or places apart. -/
structure Performable (s : State) (g : Gang) (o : Op) (k : MemKind) (accs : List Access) : Prop where
  body : o.body = .mem k accs
  kind : (∃ x, k = .atom x) ∨ ∃ x, k = .rwl x
  size : ∀ a ∈ accs, ((k = .atom 13 ∨ ∃ x, k = .rwl x) → a.size = 8) ∧ (¬(k = .atom 13 ∨ ∃ x, k = .rwl x) → a.size = 4)
  fresh : o.land = [] ∧ o.sland = [] ∧ ∀ a ∈ accs, a.done = false
  read : ∀ a ∈ accs, a.values.isSome = true
  supplied : g.supplied o = true
  free : ∀ a ∈ accs, s.accessible a.place a.size = true ∧ s.lineSound (s.cuOf g) a.place = true ∧ s.inOrder (s.cuOf g) o.id 0 a.place a.size = true
  apart : ∀ a ∈ accs, ∀ b ∈ accs, a.place = b.place ∨ overlap a.place a.size b.place b.size = false
  lines : ∀ a ∈ accs, ∀ n, a.place = .phys n → n / 64 = (n + a.size - 1) / 64
  teams : ∀ a ∈ accs, ∀ t n, a.place = .scratch t n → (s.team? t).isSome = true
  lanes : (accs.map Access.lane).Nodup ∧ accs.length ≤ 64 ∧ ∀ a ∈ accs, a.lane < g.threads.length ∧ a.lane < 64 ∧ a.dst.length ≤ a.size / 4

/-! ## Address conversion (R175) -/

/-- Whether a generic address is well formed in a space: global, scratch, clus, common. -/
def inSpace (s : State) (g : Gang) (p : Nat) (v : W64) : Prop :=
  let w := v.toNat / 2 ^ 56
  let a := v.toNat % 2 ^ 56
  match p with
  | 0 => w = 0
  | 1 => w = 0xF8 ∧ a < 2 ^ 18
  | 2 => w = 0xF9 ∧ a < 2 ^ 21 ∧ (s.rankTeam (s.teamOf g) (a / 2 ^ 18)).isSome = true
  | _ => w = 0xFA ∧ a < 2 ^ 29

/-- What togen makes of a source value. -/
def toGeneric (p v : Nat) : Nat :=
  match p with
  | 0 => v
  | 1 => 0xF8 * 2 ^ 56 + v
  | 2 => 0xF9 * 2 ^ 56 + v
  | _ => 0xFA * 2 ^ 56 + v

/-- The source of togen in a lane: a pair for a virtual address, else one register. -/
def generalSource (g : Gang) (p : Nat) (a : BitVec 7) (l : Nat) : Nat :=
  (g.vreg l a.toNat).toNat + if p = 0 then 2 ^ 32 * (g.vreg l (a.toNat + 1)).toNat else 0

/-- The pair V[D], V[D+1] holds a 64-bit value. -/
def Gang.pairIs (g : Gang) (l d : Nat) (v : W64) : Prop := (g.vreg l d).toNat + 2 ^ 32 * (g.vreg l (d + 1)).toNat = v.toNat

/-! ## Barriers (R196-R200) -/

/-- The fields of barrier `b` of team `t` after an arrival of count `c` (R198). -/
structure Arrived (r q : Barrier) (c : Nat) : Prop where
  exp : q.exp = r.exp
  round : r.arr.toNat + c = r.exp.toNat → q.rnd = r.rnd + 1 ∧ q.arr = 0
  counted : r.arr.toNat + c ≠ r.exp.toNat → q.rnd = r.rnd ∧ q.arr.toNat = r.arr.toNat + c

/-- The count of an arrival: the lanes of the sub-group when A names s0, else u64(Sc[A]). -/
def arrivals (g : Gang) (f : Flight) (a : BitVec 7) : Nat :=
  if a = 0 then ((List.range 64).filter fun l => f.lanes.getLsbD l).length else (g.sreg a.toNat).toNat

/-- An arrival that the barrier takes (R198). -/
def takes (r : Barrier) (c : Nat) : Prop := c ≠ 0 ∧ c ≤ 0xFFFF ∧ r.arr.toNat + c ≤ r.exp.toNat

end Sys2Proof.Machine
end

