-- ==== Sys2Proof/RuleEngines.lean ====
section
/-!
DEFINITION. What the statements say of the copy engine, the carousels and the matrix unit.
-/
namespace Sys2Proof.Machine

/-! ## Copies (R219, R225, R227, R231) -/

/-- The carousel of a copy is configured and its slots hold the destination's span (R219); code 15 names none. -/
def carouselFits (x : Team) (c : BitVec 4) (dst : BitVec 256) : Prop :=
  c = 15 ∨ ∃ k, x.carousel? c.toNat = some k ∧ (lyCount dst = 0 ∨ 0 ≤ (lySpan dst).1 ∧ (lySpan dst).2 ≤ ((64 * k.sz : Nat) : Int))

/-- The destination as a copy captures it: its own record, or with the base of the slot at TAIL (R219, R227). -/
def copyDest (x : Team) (c : BitVec 4) (dst : BitVec 256) : BitVec 256 :=
  if c = 15 then dst else lyRebase dst (((x.carousel? c.toNat).map fun k => k.base + 64 * k.sz * k.tail).getD 0)

/-- What a copy has captured at its issue (R75, R219, R225). -/
structure Captured (g : Gang) (src dst : BitVec 256) (xf : Nat) (car : Option Nat) (k : Copy) : Prop where
  records : k.src = src ∧ k.dst = dst ∧ k.xf = xf ∧ k.car = car
  numbers : k.cvsub = g.cvsub ∧ k.lvt0 = g.lvt0 ∧ k.lvt1 = g.lvt1
  fresh : k.stage = .queued ∧ k.batch = none ∧ k.carSlot = none ∧ k.moved = [] ∧ k.out = [] ∧ k.fail = none ∧ k.followOp = none ∧ k.flags = 0

/-- A word that writes the scalar `d` with `v` and changes nothing else of what `Frame` names. -/
def WritesScalar (i : Instr) (s : State) (g : Gang) (d : Nat) (v : W64) : Prop :=
  ∃ t h, exec i s = .next t ∧ t.gang? g.id = some h ∧ ((∀ l, (g.thread l).gathers = false) → h.sreg d = if d = 0 then 0 else v) ∧
    Frame { sreg := fun n => n = d } s t g

/-- A scratch record can be read now: the offset is a multiple of 8, its 32 bytes lie below Z, and no earlier access of the CU to them and no acquire of the
gang is outstanding. -/
structure ScratchReads (s : State) (g : Gang) (off : W64) : Prop where
  aligned : off.toNat % 8 = 0
  below : off.toNat + 32 ≤ (s.teamOf g).scratchZ
  free : g.acquiring = false ∧ s.accessible (.scratch (s.teamOf g).id off.toNat) 32 = true ∧
    s.inOrder (s.cuOf g) s.serial 0 (.scratch (s.teamOf g).id off.toNat) 32 = true

/-- The 32 bytes of the team's scratch at an offset, as a record. -/
def scratchWord (s : State) (g : Gang) (off : W64) : BitVec 256 := BitVec.ofNat 256 (readNat (s.teamOf g).scratch off.toNat 32)

/-- A carousel after carcfg (R226). -/
def configured (v : W64) : Carousel :=
  { nslot := v.toNat / 2 ^ 32 % 2 ^ 7, sz := v.toNat / 2 ^ 24 % 2 ^ 8, base := v.toNat % 2 ^ 18, free := v.toNat / 2 ^ 32 % 2 ^ 7 }

/-- The word that carcfg takes (R226), for a team with Z bytes of scratch. -/
structure CarouselWord (z : Nat) (v : W64) : Prop where
  reserved : v.toNat / 2 ^ 39 = 0 ∧ v.toNat / 2 ^ 18 % 2 ^ 6 = 0
  slots : 1 ≤ (configured v).nslot ∧ (configured v).nslot ≤ 64
  size : 1 ≤ (configured v).sz ∧ (configured v).sz ≤ 64
  base : (configured v).base % 64 = 0 ∧ (configured v).base + 64 * (configured v).sz * (configured v).nslot ≤ z

/-- A carousel is idle: unconfigured, or with no slot filled and no started copy into it still on its way (R226). -/
def carouselIdle (s : State) (x : Team) (c : BitVec 4) : Prop :=
  ∀ k, x.carousel? c.toNat = some k → k.filled = 0 ∧ s.filling x.id c.toNat = false

/-- A copy that moves nothing is complete at its issue: it counts among the gang's open copies, and nothing else has changed (R219, R223). -/
def CopiesNothing (i : Instr) (s : State) (g : Gang) : Prop :=
  ∃ t h, exec i s = .next t ∧ t.gang? g.id = some h ∧ GangFrame {} { g with loose := g.loose ++ [⟨s.serial, 0, none⟩] } h ∧ SameAround s t ∧ t.serial = s.serial + 1 ∧
    ∀ j, j ≠ g.id → t.gang? j = s.gang? j

/-! ## The data pass (R220, R221) -/

/-- What element `n` of the destination receives of a source code, with the flags (R220, R81, R83, R74): its bits, or Convert of its value. -/
def ElementIs (c : Copy) (n code out : Nat) (fl : BitVec 8) : Prop :=
  let sb8 := decide (lyFmt c.src = 12)
  let head := c.heads.getD (n / 128) 0
  if c.xf = 0 then out = code ∧ fl = 0
  else if isSB (lyFmt c.src) then
    ∀ d, sbDigit sb8 c.lvt0 c.lvt1 head code (n % 128 / 32) = some d →
      ∃ v f1 f2, SbValueIs sb8 d head v f1 ∧ Converts c.cvsub (.flt f32) (Elem.of (lyFmt c.dst)) .rne false v out f2 ∧ fl = f1 ||| f2
  else Converts c.cvsub (Elem.of (lyFmt c.src)) (Elem.of (lyFmt c.dst)) .rne false code out fl

/-- Byte `i` from the address `a` on is to be written with `v`, whole. -/
def Wants (d : Copy) (n : Nat) (a : W64) (i v : Nat) : Prop := ∃ e ∈ d.out, e.unit = n ∧ e.addr = a + BitVec.ofNat 64 i ∧ e.mask = 0xFF ∧ e.val.toNat = v % 256

/-- Copy `c` has read the bytes `bs` of unit `n`, an element or a header, and is now `d`. -/
structure UnitMoved (c d : Copy) (n : Nat) (bs : List Byte) : Prop where
  same : { d with moved := c.moved, codes := c.codes, out := c.out, flags := c.flags } = c
  moved : d.moved = put c.moved n 1
  /-- A byte that waits is still to be written, unless it is of a lower walk index of the same destination element. -/
  kept : ∀ e ∈ c.out, e ∈ d.out ∨ e.unit < n ∧ c.sameElem e.unit n = true
  only : ∀ e ∈ d.out, e ∈ c.out ∨ e.unit = n ∧ c.superseded n = false
  element : c.xf ≤ 1 → n < lyCount c.src → ∃ out fl, ElementIs c n (codeOf (lyFmt c.src) (lyHigh c.src n) bs) out fl ∧ d.flags = c.flags ||| fl ∧
    (c.superseded n = false → n < lyCount c.dst →
      (fmtBits (lyFmt c.dst) ≠ 4 → ∀ i, i < fmtBytes (lyFmt c.dst) → Wants d n (lyElem c.dst n).1 i (out / 2 ^ (8 * i))) ∧
      (fmtBits (lyFmt c.dst) = 4 → ∃ e ∈ d.out, e.unit = n ∧ e.addr = (lyElem c.dst n).1 ∧
        if lyHigh c.dst n then e.mask = 0xF0 ∧ e.val.toNat / 16 = out % 16 else e.mask = 0x0F ∧ e.val.toNat % 16 = out % 16))
  header : c.xf = 0 → lyCount c.src = lyCount c.dst → lyCount c.src ≤ n → d.flags = c.flags ∧
    ∀ i b, i < 2 → bs[i]? = some b → Wants d n (lyBase c.dst + BitVec.ofNat 64 (lyHeader c.dst (n - lyCount c.dst))) i b.toNat
  /-- A block to quantise is written once its last element has been read. -/
  block : 2 ≤ c.xf →
    let k := n / 128
    let whole := ∀ i, i < 128 → 128 * k + i = n ∨ look c.moved (128 * k + i) ≠ 0
    let x := fun (i : Nat) => if 128 * k + i = n then leNat bs else (look c.codes (128 * k + i)).toNat % 2 ^ 32
    (¬whole → d.flags = c.flags ∧ ∀ e ∈ d.out, e ∈ c.out) ∧ look d.codes n = BitVec.ofNat 33 (2 ^ 32 + leNat bs) ∧
    (whole → ∃ head codes fl, QuantIs (decide (c.xf = 3)) c.cvsub c.lvt0 c.lvt1 x head codes fl ∧ d.flags = c.flags ||| fl ∧
      (∀ i, i < 2 → Wants d n (lyBase c.dst + BitVec.ofNat 64 (lyHeader c.dst k)) i (head / 2 ^ (8 * i))) ∧
      (c.xf = 2 → ∀ i, i < 64 → Wants d n (lyBase c.dst + BitVec.ofNat 64 (64 * k)) i (codes (2 * i) + 16 * codes (2 * i + 1))) ∧
      (c.xf = 3 → ∀ i, i < 128 → Wants d n (lyBase c.dst + BitVec.ofNat 64 (128 * k)) i (codes i)))

/-- The message with which unit `n` of an fcopy.to leaves (R231): one half of a byte for a 4-bit element, else its bytes. -/
def Sent (c : Copy) (r : Remote) (g : Gang) (o : Op) (asid : BitVec 8) (n : Nat) (bs : List Byte) (m : Message) : Prop :=
  (n < lyCount c.src → fmtBits (lyFmt c.src) = 4 → m = .fabricNibble r.flow g.id o.id asid (lyElem c.dst n).1 (lyHigh c.dst n) (codeOf (lyFmt c.src) (lyHigh c.src n) bs)) ∧
  (n < lyCount c.src → fmtBits (lyFmt c.src) ≠ 4 → m = .fabricWrite r.flow g.id o.id asid (lyElem c.dst n).1 bs) ∧
  (lyCount c.src ≤ n → m = .fabricWrite r.flow g.id o.id asid (lyBase c.dst + BitVec.ofNat 64 (lyHeader c.dst (n - lyCount c.dst))) bs)

/-! ## Status words (R222, R224) -/

/-- A completed copy reports to one of the batches of a range. -/
def Covered (g : Gang) (bs : List (BitVec 16)) (r : CopyReport) : Prop := ∃ b l, (b, l) ∈ g.batches ∧ b ∈ bs ∧ r ∈ l
/-- The failed copy of a range that is earliest in issue order. -/
def EarliestFault (g : Gang) (bs : List (BitVec 16)) (r : CopyReport) (e : BitVec 8 × W64 × W64) : Prop :=
  Covered g bs r ∧ r.fault = some e ∧ ∀ q, Covered g bs q → q.fault ≠ none → q = r ∨ r.op < q.op
/-- The status word of a range (R224). -/
structure StatusIs (g : Gang) (bs : List (BitVec 16)) (w : W64) : Prop where
  flags : ∀ k, k < 8 → (w.getLsbD k = true ↔ ∃ r, Covered g bs r ∧ r.status.getLsbD k = true)
  good : (∀ r, Covered g bs r → r.fault = none) → w.toNat < 256
  fail : ∀ r e, EarliestFault g bs r e → w.toNat / 256 = 1 + 256 * e.1.toNat

/-! ## An operation of a gang -/

/-- Operation `o` of gang `g` of the state. -/
structure HasOp (s : State) (g : Gang) (o : Op) : Prop where
  gang : s.gang? g.id = some g
  op : g.op? o.id = some o

/-- The operation is complete: it is gone, every other operation of the gang is as before, and so are its registers but the scalar `d`. -/
structure Completes (g h : Gang) (o : Op) (d : Option Nat) : Prop where
  gone : h.ops = g.ops.filter fun q => decide (q.id ≠ o.id)
  vregs : (∀ x ∈ o.land, False) → ∀ l n, h.vreg l n = g.vreg l n
  sregs : o.sland = [] → ∀ n, d ≠ some n → h.sreg n = g.sreg n
  masks : h.masks = g.masks

/-- The copy of the operation is now `c`; every other operation is as before. -/
def CopyIs (t : State) (g : Gang) (o : Op) (c : Copy) : Prop :=
  ∃ h, t.gang? g.id = some h ∧ h.op? o.id = some { o with body := .copy c } ∧ ∀ j, j ≠ o.id → h.op? j = g.op? j

/-! ## What a macro holds and what mmul makes of it (R235, R238-R241) -/

/-- Macro `z` of position `p` has become `y` by an mloadb: each group of 32 rows of a column holds its elements aligned, or D for an SB format; the rest is 0. -/
structure ContentIs (m : Matrix) (p : Nat) (z y : Macro) : Prop where
  same : { y with q := z.q, exps := z.exps, poison := z.poison, bad := z.bad } = z ∧ y.bad = false
  group : ∀ n t, n < 128 → t < 4 →
    let c := m.slot
    let col := if mcArr c = 0 then n else 128 * p + n
    let row := (if mcArr c = 0 then 128 * p else 0) + 32 * t
    let code := fun (i : Nat) => if row + i < mcK c then m.code (row + i + mcK c * col) else 0
    let q := fun (i : Nat) => entry 0 y.q (128 * n + 32 * t + i)
    let ge := entry 0 y.exps (4 * n + t)
    let poisoned := decide (look y.poison (4 * n + t) ≠ 0)
    col < mcN c → row < mcK c →
      (isSB (mcBfmt c) = false → AlignIs (mcBfmt c) code q ge poisoned) ∧
      (isSB (mcBfmt c) = true → ge = 0 ∧ poisoned = false ∧ ∀ i d, i < 32 → row + i < mcK c →
        sbDigit (decide (mcBfmt c = 12)) m.lvt0 m.lvt1 (m.heads.getD ((row + i + mcK c * col) / 128) 0) (code i) ((row + i + mcK c * col) % 128 / 32) = some d → q i = d)
  outside : ∀ n k, n < 128 → k < 128 →
    (mcN m.slot ≤ (if mcArr m.slot = 0 then n else 128 * p + n) ∨ mcK m.slot ≤ (if mcArr m.slot = 0 then 128 * p + k else k)) → entry 0 y.q (128 * n + k) = 0

/-- The two sides of group `t` of an output element of mmul: the row of A aligned, and the group of B as its macro holds it. -/
structure SidesAre (m : Matrix) (x : Team) (row n t : Nat) (a b : Side) : Prop where
  left : AlignIs (mcAfmt m.slot) (fun i => if 32 * t + i < mcK m.slot then m.code (row * mcK m.slot + 32 * t + i) else 0) a.q a.g a.poisoned
  right : ∀ j z, (mcGroup m.slot)[if mcArr m.slot = 0 then t / 4 else n / 128]? = some j → entry? x.macros j = some z →
    let col := if mcArr m.slot = 0 then n else n % 128
    let k := if mcArr m.slot = 0 then t % 4 else t
    (∀ i, b.q i = entry 0 z.q (128 * col + 32 * k + i)) ∧ b.g = entry 0 z.exps (4 * col + k) ∧ (b.poisoned = true ↔ look z.poison (4 * col + k) ≠ 0)

/-- The groups that feed tile `r` (R240, R241). -/
def tileGroups (c : BitVec 256) (r : Nat) : List Nat :=
  (List.range 32).filter fun t => decide (32 * t < mcK c) && (decide (mcMode c ≠ 2) || decide (mcArr c ≠ 0) || decide (t / 4 = r))

/-- Every code that a command has read is one of its format. -/
def Matrix.codesFit (m : Matrix) : Prop := ∀ i, m.code i < 2 ^ fmtBits m.readFmt

/-! ## Matrix commands (R235, R238, R241-R243) -/

/-- MACS names at least one macro and only macros that the team holds, and g, K and N fit the arrangement (R235). -/
structure GroupFits (x : Team) (c : BitVec 256) : Prop where
  some_ : mcMacs c ≠ 0
  held : ∀ j, j < 8 → (mcMacs c).testBit j = true → ∃ m, entry? x.macros j = some m ∧ m.held = true
  stacked : mcArr c = 0 → (mcGroup c).length = (mcK c + 127) / 128 ∧ mcN c ≤ 128
  beside : mcArr c ≠ 0 → (mcGroup c).length = (mcN c + 127) / 128 ∧ mcK c ≤ 128

/-- The first check of mloadb: MATRIX_SLOT unless this holds (R238). -/
structure LoadFits (x : Team) (c r : BitVec 256) : Prop where
  group : GroupFits x c
  format : mcBfmt c ∈ [3, 4, 5, 6, 9, 11, 12, 13]
  record : lyWin r = 8 ∧ lyFmt r = mcBfmt c ∧ lyExt r 0 = mcK c ∧ lyExt r 1 = mcN c ∧ lyExt r 2 = 1 ∧ lyExt r 3 = 1
  blocks : (mcBfmt c = 11 ∨ mcBfmt c = 12) → mcK c % 128 = 0

/-- Every element and header of a record lies in the team's scratch. -/
def recordInside (x : Team) (r : BitVec 256) : Prop := 0 ≤ (lyAddr r : Int) + (lySpan r).1 ∧ (lyAddr r : Int) + (lySpan r).2 ≤ (x.scratchZ : Int)

/-- The load record of macro `j` says that an mloadb of this slot was issued, with `j` at its position in the group (R233, R241). -/
def Loaded (x : Team) (c : BitVec 256) (j : Nat) : Prop :=
  ∃ m, entry? x.macros j = some m ∧ m.loaded = true ∧ m.bfmt.toNat = mcBfmt c ∧ m.arr.toNat = mcArr c ∧ m.k = mcK c ∧ m.n = mcN c ∧
    m.pos = ((List.range j).filter fun i => (mcMacs c).testBit i).length

/-- The first check of mmul: MATRIX_SLOT unless this holds (R241). -/
structure MulFits (x : Team) (c : BitVec 256) : Prop where
  group : GroupFits x c
  formats : mcAfmt c ∈ [3, 4, 5, 6, 9, 13] ∧ mcBfmt c ∈ [3, 4, 5, 6, 9, 11, 12, 13]
  partial_ : ¬(mcMode c = 2 ∧ mcArr c ≠ 0 ∧ 1 < (mcGroup c).length)
  loaded : ∀ j, j < 8 → (mcMacs c).testBit j = true → Loaded x c j

/-- One past the last byte of A, and of the tiles of C (R241). -/
def mulAEnd (c : BitVec 256) : Nat := mcAbase c + (mcM c - 1) * mcAstr c + (mcK c * fmtBits (mcAfmt c) + 7) / 8
def mulCEnd (c : BitVec 256) : Nat :=
  mcCbase c + ((if mcMode c = 2 ∧ mcArr c = 0 then (mcGroup c).length else 1) * mcM c - 1) * mcCstr c + 4 * mcN c

/-- The four regions of scacc, each with its base and one past its last byte, in the order P, C, SCA, SCB (R242). -/
def scaleRegions (c : BitVec 256) : List (Nat × Nat) :=
  [(mcAbase c, mcAbase c + (mcM c - 1) * mcAstr c + 4 * mcN c), (mcCbase c, mcCbase c + (mcM c - 1) * mcCstr c + 4 * mcN c),
   (mcSca c, mcSca c + 4 * mcM c), (mcScb c, mcScb c + 4 * mcN c)]

/-- The first of a list with `p`. -/
def FirstWith {α : Type} (xs : List α) (p : α → Prop) (a : α) : Prop := ∃ u v, xs = u ++ a :: v ∧ p a ∧ ∀ b ∈ u, ¬p b

/-- The matrix unit takes the command: one operation on slot A with what the command captures, and nothing else changes but the teams. -/
def MatrixIssued (i : Instr) (k : MatrixKind) (slot : BitVec 256) (s t : State) (g : Gang) (f : Flight) (b : BodyAt) (m : Matrix) : Prop :=
  exec i s = .next t ∧ Begins (.matrix m) (slotFlag b.slotA) s t g f ∧ m.kind = k ∧ m.slot = slot ∧ m.lvt0 = g.lvt0 ∧ m.lvt1 = g.lvt1 ∧
    m.reads = [] ∧ m.parts = [] ∧ m.flags = 0 ∧ { t with gangs := s.gangs, serial := s.serial, teams := s.teams } = s

end Sys2Proof.Machine
end

