-- ==== Sys2Proof/RuleTasks.lean ====
section
/-!
DEFINITION. What the statements say of the graph store, of tasks and launches, and of refining slots.
-/
namespace Sys2Proof.Machine

/-! ## Graph words (R266-R278) -/

/-- A word on the current graph (R268-R270): what it does, A, B, D, and the edge slots and version records that each lane of a mutation reserves. -/
structure GraphForm where
  kind : GraphKind
  a : BitVec 7
  b : BitVec 7
  d : BitVec 7
  records : Option (Nat × Nat) := none

def graphForm : Instr → Option GraphForm
  | .gadde b a d => some ⟨.gadde, a, b, d, some (2, 2)⟩
  | .grme b a d => some ⟨.grme, a, b, d, some (0, 2)⟩
  | .gsetw b a d => some ⟨.gsetw, a, b, d, some (0, 2)⟩
  | .gdegOut a d => some ⟨.gdeg false, a, a, d, none⟩
  | .gdegIn a d => some ⟨.gdeg true, a, a, d, none⟩
  | .gldOut b a d => some ⟨.gld false, a, b, d, none⟩
  | .gldIn b a d => some ⟨.gld true, a, b, d, none⟩
  | .gfindOut b a d => some ⟨.gfind false, a, b, d, none⟩
  | .gfindIn b a d => some ⟨.gfind true, a, b, d, none⟩
  | .gvld a d => some ⟨.gvld, a, a, d, none⟩
  | .gvst a d => some ⟨.gvst, a, a, d, none⟩
  | _ => none

/-- A lane of a graph operation, with the registers it read at issue. -/
def laneOf (g : Gang) (a b d l pin : Nat) (steps : List CursorStep) : GraphLane :=
  { lane := l, a := g.vreg l a, b := g.vreg l b, d := g.vreg l d, d2 := g.vreg l (d + 1), pin := pin, steps := steps }

/-- A word on an open cursor (R272): what it does, the cursor, A, D, and how it moves RANK. -/
def cursorForm (g : Gang) : Instr → Option (GraphKind × BitVec 3 × Nat × Nat × (Nat → List CursorStep))
  | .cnext c d => some (.cnext, c, 0, d.toNat, fun _ => [.next])
  | .cseek c a => some (.cseek, c, a.toNat, 0, fun l => [.seek (g.vreg l a.toNat).toNat])
  | .crank c d => some (.crank, c, 0, d.toNat, fun _ => [])
  | _ => none

/-- The gang waits for records, and the runtime has been told (R265, R350). -/
def WaitsForRecords (i : Instr) (s : State) (g : Gang) (addr : W64) : Prop :=
  ∃ t h, exec i s = .next t ∧ t.gang? g.id = some h ∧ h = { g with stall := some (.capacity s.freshTag) } ∧
    ∃ r ∈ t.requests, r.tag = s.freshTag ∧ r.addr = addr ∧ r.what = .room g.id addr

/-- The values that a lane of a graph read receives in D, D+1, in the view `e` of its CU (R269, R270, R255). -/
def graphReads (k : GraphKind) (vn : Nat) (e : Edges) (props : Cells 64) (l : GraphLane) (r : List W32) : Prop :=
  let list := fun (i : Bool) => if vn ≤ l.a.toNat then [] else e.list i l.a.toNat
  match k with
  | .gdeg i => r = [BitVec.ofNat 32 (list i).length]
  | .gld i => (∀ x, (list i)[l.b.toNat]? = some x → r = [x.1, x.2]) ∧ ((list i).length ≤ l.b.toNat → r = [noVertex, 0])
  | .gfind i => ∃ v : W32, r = [v] ∧ ((∀ x ∈ list i, x.1 ≠ l.b) → v = noVertex) ∧
      (∀ n x, (list i)[n]? = some x → x.1 = l.b → (∀ m y, m < n → (list i)[m]? = some y → y.1 ≠ l.b) → v = BitVec.ofNat 32 n)
  | .gvld => r = [BitVec.ofNat 32 ((look props l.a.toNat).toNat % 2 ^ 32), BitVec.ofNat 32 ((look props l.a.toNat).toNat / 2 ^ 32)]
  | _ => False

/-- What a lane of a mutation writes and notes (R268): its status, and the intent if it has one. -/
def mutation (k : GraphKind) (vn : Nat) (here : Bool) (l : GraphLane) : W32 × Option Intent :=
  if vn ≤ l.a.toNat ∨ vn ≤ l.b.toNat then (3, none)
  else match k with
    | .gadde => (if here then 1 else 0, some (.put l.a.toNat l.b.toNat l.d))
    | .grme => if here then (0, some (.remove l.a.toNat l.b.toNat)) else (2, none)
    | _ => if here then (0, some (.set l.a.toNat l.b.toNat l.d)) else (2, none)

/-- Whether an edge is there in the view after the intent. -/
def Intent.leaves (here : Bool) : Intent → Bool
  | .put _ _ _ => true
  | .remove _ _ => false
  | .set _ _ _ => here

/-- The lanes of a mutation one after another, each in the view that the earlier ones left (R261, R268). -/
def mutations (k : GraphKind) (vn : Nat) : List GraphLane → Edges → List (W32 × Option Intent)
  | [], _ => []
  | l :: r, e =>
    let m := mutation k vn (e.has l.a.toNat l.b.toNat) l
    m :: mutations k vn r ((m.2.map e.apply).getD e)

/-- The edge that an intent is about. -/
def Intent.edge : Intent → Nat × Nat
  | .put u v _ => (u, v)
  | .remove u v => (u, v)
  | .set u v _ => (u, v)

/-- The commits of a graph rise in generation up to `top`, none of their intents is without a version record, and of two intents on one edge the earlier
one's record in a list is freed first (R258, R264). -/
structure Graph.Orderly (x : Graph) (top : Nat) : Prop where
  rise : (x.history.map Commit.gen).Pairwise fun a b => a < b
  past : ∀ c ∈ x.history, c.gen ≤ top
  held : ∀ v ∈ x.kept, v.out = true ∨ v.inn = true
  first : x.kept.Pairwise fun a b => a.intent.edge = b.intent.edge → (a.out = true → b.out = true) ∧ (a.inn = true → b.inn = true)

/-- Nothing needs a version record of graph `x` (R264): every CU with a gang of the address space has reached its generation, and so has every pin on its list. -/
def Unneeded (s : State) (x : Graph) (r : VersionAt) : Prop :=
  (∀ y ∈ s.gangs, s.asidOf y = x.asid → r.commit.gen ≤ (s.cu (s.cuOf y)).view) ∧
  ∀ p ∈ s.pinsOf x.handle, p.inList = r.inList → p.vertex = r.vertex → r.commit.gen ≤ p.gen

/-- The items of gstat on a graph, read by a CU (R278). -/
def statItem (s : State) (cu : Nat) (x : Graph) (p : Pool) (item : W64) : W64 :=
  let all := s.graph.graphs.filter fun y => decide (y.asid = x.asid) && decide (y.pool = x.pool) && s.holdsRecords y
  let n := fun (k : Nat) => BitVec.ofNat 64 k
  if item = 0 then n x.vn else if item = 1 then n (x.upTo s.graph.gen).length
  else if item = 2 then n (all.map Graph.slotsUsed).sum else if item = 3 then n p.slots
  else if item = 4 then n (all.map Graph.versUsed).sum else if item = 5 then n p.vers
  else if item = 6 then n (all.map Graph.vn).sum else if item = 7 then n p.verts
  else if item = 8 then n (s.pinsOf x.handle).length else if item = 9 then n (s.cu cu).view
  else if item = 10 then n s.graph.gen else 0xFFFFFFFFFFFFFFFF

/-! ## Task words (R290, R297-R300) -/

/-- The record has these fields, and its reserved bits are 0 (R290). -/
def recordIs (r : BitVec 256) (code frame jca prio launch chain : Nat) : Prop :=
  r.toNat = code + 2 ^ 56 * prio + 2 ^ 64 * frame + 2 ^ 128 * jca + 2 ^ 192 * launch + 2 ^ 224 * chain

/-- The pair V[n], V[n+1] of a lane, as a number. -/
def Gang.pairNat (g : Gang) (l n : Nat) : Nat := (g.vreg l n).toNat + 2 ^ 32 * (g.vreg l (n + 1)).toNat

/-- What the address of a lane of jcadd names: a place outside scratch, with its translation (R204, R298). -/
def joinTarget (s : State) (g : Gang) (a : BitVec 7) (l : Nat) : Option Target :=
  match s.window g (BitVec.ofNat 64 (g.pairNat l a.toNat)) with
  | some (.scratch _ _ _) => none
  | t => t

def joinXlate (s : State) (g : Gang) (a : BitVec 7) (l : Nat) : Option Xlate := (joinTarget s g a l).map (s.targetXlate g .write)

/-- The place of a lane's join counter, once it is translated. -/
def joinPlace (s : State) (g : Gang) (a : BitVec 7) (l : Nat) : Place :=
  match joinXlate s g a l, joinTarget s g a l with
  | some (.ok pa _ _), some t => placeOf pa t
  | _, _ => .phys 0

/-- A spawn whose records pass their checks: it stalls while the deque's spill region has no room, and otherwise issues one operation on slot A. -/
def Spawns (i : Instr) (s : State) (g : Gang) (f : Flight) (b : BodyAt) (n : Nat) (rs : List (BitVec 256) → Prop) : Prop :=
  let cu := s.cuOf g
  ((s.cu cu).spillRoom (s.spawning cu + n) = false → exec i s = .next (s.setGang { g with stall := some .spillFull })) ∧
  ((s.cu cu).spillRoom (s.spawning cu + n) = true → g.flagFree (slotFlag b.slotA) →
    ∃ t l, exec i s = .next t ∧ SameAround s t ∧ Begins (.spawn l) (slotFlag b.slotA) s t g f ∧ l.length = n ∧ rs l)

/-- `n` bytes of the team's scratch at an offset can be read now: no acquire of the gang and no earlier access of the CU to them is outstanding. -/
structure ScratchFree (s : State) (g : Gang) (off n : Nat) : Prop where
  acquired : g.acquiring = false
  sound : s.accessible (.scratch (s.teamOf g).id off) n = true
  ordered : s.inOrder (s.cuOf g) s.serial 0 (.scratch (s.teamOf g).id off) n = true

/-- `p` is the packet `raw` with JOB, PHASE and LTG of the issuing gang (R299). -/
structure OwnPacket (s : State) (g : Gang) (raw p : BitVec 512) : Prop where
  job : pktJob p = s.jobOf g
  phase : pktPhase p = s.phaseOf g
  table : pktLtg p = pktLtg (s.teamOf g).origin.packet
  rest : ∀ n, n < 512 → ¬(352 ≤ n ∧ n < 368) → ¬(336 ≤ n ∧ n < 348) → ¬(224 ≤ n ∧ n < 237) → p.getLsbD n = raw.getLsbD n

/-- The cancel words with their kinds and A: 0 launch, 1 chain, 2 phase, 3 job (R300). -/
def cancelForm : Instr → Option (Nat × BitVec 7)
  | .cancelLaunch a => some (0, a)
  | .cancelChain a => some (1, a)
  | .cancelPhase a => some (2, a)
  | .cancelJob a => some (3, a)
  | _ => none

/-- A unit of work that a gang's retirement counts on its launch (R284): the last gang of a team, or a task gang with one record that is no re-fire. -/
def CountsOne (x : Team) (g : Gang) (alone : Prop) : Prop := (x.isTask = false ∧ alone) ∨ (x.isTask = true ∧ ∃ c, g.packed = [⟨none, c⟩])

/-- Work with a packet, a launch id and a chain is of the level of kind `k` with id `n` in a job (R295, R300). -/
def ofLevel (k n : Nat) (job : BitVec 16) (p : BitVec 512) (id : W32) (chain : BitVec 12) : Prop :=
  match k with
  | 0 => id.toNat = n
  | 1 => pktJob p = job ∧ chain.toNat = n
  | 2 => pktJob p = job ∧ (pktPhase p).toNat = n
  | _ => pktJob p = job

/-! ## Task events -/

/-- Word `k` of the continuation record of the join counter at `a` is at the place `p` for the gang (R298). -/
def RecordWord (s : State) (g : Gang) (a : W64) (k : Nat) (p : Place) : Prop :=
  ∃ t pa tr new, s.window g (a + BitVec.ofNat 64 (8 * k)) = some t ∧ s.targetXlate g .read t = .ok pa tr new ∧ p = placeOf pa t

/-- The walk of word `k` of a continuation record must wait. -/
def RecordWaits (s : State) (g : Gang) (a : W64) (k : Nat) : Prop :=
  ∃ t, s.window g (a + BitVec.ofNat 64 (8 * k)) = some t ∧ s.targetXlate g .read t = .wait

/-- The levels of a deque are listed in rising order. -/
def Cu.tidy (c : Cu) : Prop := (c.deque.map Prod.fst).Pairwise fun a b => a < b

/-- An acquire of a CU from die scope up (R179, R260): its view is refreshed (log 15), and its view generation is the latest. -/
def Acquired (s t : State) (cu : Nat) : Prop := Refreshed s t cu ∧ t.graph.gen ≤ (t.cu cu).view

/-- The id that the next accepted launch takes (log 9). -/
def State.nextLaunch (s : State) : W32 := BitVec.ofNat 32 (nextName s.named Config.launchMask) ^^^ Config.launchMask

/-- The record that a completed, rejected or cancelled host launch gives (R368). -/
def completionOf (p : BitVec 512) (cause : BitVec 8) (id : W32) (tag : W64) (status : BitVec 8) : Completion :=
  { job := pktJob p, phase := pktPhase p, cause := cause, launch := id, tag := tag, status := status }

/-- A host's packet that became no launch stays with its phase in progress (R359, R368; log 40). -/
def KeepsPacket (s t : State) (q : Option Nat) (e : Entry) : Prop :=
  t.phases = s.phases.map fun x => if x.job = pktJob e.packet ∧ x.phase = pktPhase e.packet then { x with packets := x.packets ++ [(q, e)] } else x

/-- A gang at its entry point in the first `live` lanes, with the registers of R89 but those that `v` and `x` say. -/
structure AtEntry (h : Gang) (p : BitVec 512) (pc : W64) (live : Nat) (v : Nat → Nat → W32) (x : Nat → W64) : Prop where
  shape : h.width = pktWidth p ∧ h.vcount = pktVregs p
  lanes : ∀ l, l < h.width → (if l < live then (h.thread l).standsAt pc else (h.thread l).status = .exited) ∧ (h.thread l).cursors = [] ∧ (h.thread l).delivery = none
  vregs : ∀ l n, l < h.width → h.vreg l n = v l n
  sregs : ∀ n, h.sreg n = x n
  masks : ∀ n, h.mreg n = 0
  specials : h.tvec = pktTvec p ∧ h.fmode = 0 ∧ h.fstat = 0 ∧ h.cvsub = 0 ∧ h.lvt0 = 0 ∧ h.lvt1 = 0 ∧ h.gcur = 0 ∧ h.dbsel = 0
  idle : h.ops = [] ∧ h.flight = none ∧ h.withheld = [] ∧ h.halt = .no

/-- What a lane of a task gang starts with (R289). -/
def recordEntry (r : Record) (ver : W32) (l n : Nat) : W32 :=
  match n with
  | 0 => BitVec.ofNat 32 ((recFrame r.words).toNat % 2 ^ 32)
  | 1 => BitVec.ofNat 32 ((recFrame r.words).toNat / 2 ^ 32)
  | 2 => ver
  | 3 => BitVec.ofNat 32 l
  | 4 => BitVec.ofNat 32 ((recJca r.words).toNat % 2 ^ 32)
  | 5 => BitVec.ofNat 32 ((recJca r.words).toNat / 2 ^ 32)
  | _ => 0

/-! ## Refining slots (R304-R317) -/

/-- The ref words with the scalar that names the slot, and whether a live slot is asked for (R306, R307). -/
def refForm : Instr → Option (BitVec 7 × Bool)
  | .rpub _ a _ | .rpubk _ a _ | .rread _ a _ | .rver a _ | .rsubRerun _ a | .rsubCancel _ a | .runsub _ a | .rstop a | .rsettle a => some (a, true)
  | .rinit _ a _ => some (a, false)
  | _ => none

/-- The slot address passes R307, and the home has answered every earlier operation of the gang on the slot at the common offset `off`. -/
structure SlotReady (s : State) (g : Gang) (v : W64) (live : Bool) (off : Nat) : Prop where
  address : v.toNat = 0xFA * 2 ^ 56 + off ∧ off < 2 ^ 29 ∧ off % 64 = 0
  granule : s.grantAt (s.asidOf g) off = some .slot
  answered : g.acquiring = false ∧ g.onSlot off = false
  slot : live = true → (s.slot? off).isSome = true

/-- A ref word whose checks pass issues one operation on slot A. -/
def RefIssued (i : Instr) (k : RefKind) (off : Nat) (s : State) (g : Gang) (f : Flight) (b : BodyAt) : Prop :=
  g.flagFree (slotFlag b.slotA) → ∃ t, exec i s = .next t ∧ SameAround s t ∧ Begins (.ref k off) (slotFlag b.slotA) s t g f

/-- The scratch offset of a tile passes its checks (R309). -/
def TileChecked (i : Instr) (s : State) (g : Gang) (f : Flight) (v : W64) (off : Nat) (ok : Prop) : Prop :=
  (v.toNat % 8 ≠ 0 → exec i s = .next (s.trap g f ALIGNMENT f.lanes v true 4)) ∧
  (v.toNat % 8 = 0 → (s.teamOf g).scratchZ < v.toNat + 64 * hdrTsz (s.header off) → exec i s = .next (s.trap g f SCRATCH_RANGE f.lanes v true 4)) ∧
  (v.toNat % 8 = 0 → v.toNat + 64 * hdrTsz (s.header off) ≤ (s.teamOf g).scratchZ → ok)

/-- A refinement operation of a gang at its home. -/
structure RefOp (s : State) (g : Gang) (o : Op) (k : RefKind) (off : Nat) : Prop where
  has : HasOp s g o
  body : o.body = .ref k off
  fresh : o.land = [] ∧ o.sland = []
  may : s.mayRef g o k off = true

/-- The operation is performed, completes, and gives the scalar `d` the value `v`. -/
def RefGives (s t : State) (g : Gang) (o : Op) (d : Nat) (v : W64) : Prop :=
  exec (.refOpPerform g.id o.id) s = .next t ∧ ∃ h, t.gang? g.id = some h ∧ Completes g h o (some d) ∧ h.sreg d = if d = 0 then 0 else v

/-- The version word of a slot as a CU reads it, and whether its cluster's mirror serves it (R306, R311). -/
def wordRead (s : State) (cu off : Nat) : W64 :=
  match s.mirror? (clusterOf cu) off with
  | some m => m.version
  | none => versionWord (s.header off)

/-- Whether a new first word beats the current one (R309); `num` is the number that a word is as an f32. -/
def Beats (key : Nat) (n c : W32) : Prop :=
  let num := fun (v : W32) => if v.toNat / 2 ^ 31 = 1 then -((v.toNat % 2 ^ 31 : Nat) : Int) else ((v.toNat % 2 ^ 31 : Nat) : Int)
  let nan := fun (v : W32) => 0x7F800000 < v.toNat % 2 ^ 31
  match key with
  | 0 => True
  | 1 => n.toInt < c.toInt
  | 2 => n.toNat < c.toNat
  | 3 => ¬nan n ∧ (nan c ∨ num n < num c)
  | 4 => c.toInt < n.toInt
  | 5 => c.toNat < n.toNat
  | _ => ¬nan n ∧ (nan c ∨ num c < num n)

/-! ## Pooling (R323-R331) -/

/-- The descriptor obeys R326. -/
structure DescriptorFits (d : BitVec 256) : Prop where
  reserved : d.toNat / 2 ^ 184 = 0 ∧ d.toNat / 2 ^ 115 % 2 ^ 13 = 0 ∧ d.toNat / 2 ^ 107 % 2 ^ 5 = 0 ∧ d.toNat / 2 ^ 56 % 2 ^ 8 = 0
  format : dscFmt d ≤ 3
  columns : 16 ≤ dscCols d ∧ dscCols d ≤ 1024 ∧ dscCols d % 16 = 0
  rows : dscRows d ≠ 0
  aligned : dscBase d % 65536 = 0 ∧ dscStride d % 65536 = 0
  stride : dscRows d * (dscCols d / 16) * dscSize d ≤ dscStride d

/-- The 8 bytes of a bag list's header name NB bags in the pooling mode MODE (R327). -/
structure BagHeader (h : W64) (nb mode : Nat) : Prop where
  fields : h.toNat = nb + 2 ^ 16 * mode + 2 ^ 18 * (if mode = 1 then 1 else 0)
  count : 1 ≤ nb ∧ nb ≤ 256
  mode : mode ≤ 2

/-- OFF[i] of a bag list at the scratch offset `l`. -/
def bagOff (x : Team) (l i : Nat) : Nat := readNat x.scratch (l + 8 + 4 * i) 4

/-- The offsets obey R327. -/
def OffsetsFit (x : Team) (l nb : Nat) : Prop := bagOff x l 0 = 0 ∧ ∀ i, i < nb → bagOff x l i ≤ bagOff x l (i + 1) ∧ bagOff x l (i + 1) ≤ bagOff x l i + 4096

/-- The command that an embag issues. -/
structure PoolIs (e : Embag) (x : Team) (d : BitVec 256) (l out nb mode : Nat) : Prop where
  desc : e.desc = d
  places : e.list = l ∧ e.out = out ∧ e.nb = nb ∧ e.mode = mode
  offs : e.offs.length = nb + 1 ∧ ∀ i, i ≤ nb → e.offs[i]? = some (bagOff x l i)
  fresh : e.parts = [] ∧ e.flags = 0 ∧ e.waiting = none ∧ e.refused = []

/-- One term of an output (R329): the element is widened to f32 without rounding, then added, multiplied and added with one rounding, or compared. -/
def TermIs (fmt mode : Nat) (acc : W32) (code : Nat) (wt : W32) (r : W32) (fl : BitVec 8) : Prop :=
  ∃ (v : W32) (f1 f2 : BitVec 8), fl = f1 ||| f2 ∧
    (if fmt = 0 then v.toNat = code ∧ f1 = 0
      else Converts 0 (.flt (if fmt = 1 then f16 else if fmt = 2 then bf16 else e4m3)) (.flt f32) .rne false code v.toNat f1) ∧
    match mode with
    | 0 => AddIs .rne acc v r f2
    | 1 => FopIs f32 3 .rne wt.toNat v.toNat acc.toNat r.toNat f2
    | _ => MinMaxIs f32 true acc.toNat v.toNat r.toNat f2

/-- The operation of a gang is an embag with these fields. -/
def EmbagIs (t : State) (g : Gang) (o : Op) (e : Embag) : Prop := ∃ h q, t.gang? g.id = some h ∧ h.op? o.id = some q ∧ q.body = .embag e

/-- The virtual address of element (r, c) of a table (R324). -/
def elementVa (d : BitVec 256) (r c : Nat) : Nat :=
  let slice := dscCols d / 16
  (dscBase d + c / slice * dscStride d + (r * slice + c % slice) * dscSize d) % 2 ^ 56

/-- Element (r, c) of a table stands at `pa`, in the tier of the buffer of its slice (R321, R331), apart from the page-table entry that its walk marks. -/
def ElementAt (s : State) (g : Gang) (e : Embag) (r c pa : Nat) : Prop :=
  ∃ tr new, s.engineTranslate (s.asidOf g) (elementVa e.desc r c) .read = .ok pa tr new ∧ inTier pa (dscSize e.desc) = true ∧
    (pa - 2 ^ 44) / 2 ^ 38 = c / (dscCols e.desc / 16) ∧ ∀ q, new = some q → q.entry < pa ∨ pa + dscSize e.desc ≤ q.entry

/-- Element (r, c) cannot be read: its page forbids it, or is no capacity page of its buffer (R331). -/
def ElementBad (s : State) (g : Gang) (e : Embag) (r c : Nat) : Prop :=
  s.engineTranslate (s.asidOf g) (elementVa e.desc r c) .read = .protection ∨
  ∃ pa tr new, s.engineTranslate (s.asidOf g) (elementVa e.desc r c) .read = .ok pa tr new ∧
    ¬(inTier pa (dscSize e.desc) = true ∧ (pa - 2 ^ 44) / 2 ^ 38 = c / (dscCols e.desc / 16))

/-! ## Host, fabric, debug and management (R19, R337, R358, R360, R366, R369, R372) -/

/-- Each of the `n` bytes from `va` on lies in window 0 on a page that is present and allowed, and not in transit if it is to be written; `pas` are their places. -/
structure SpanOk (s : State) (asid : BitVec 8) (k : Kind) (va : W64) (n : Nat) (pas : List Nat) : Prop where
  length : pas.length = n
  each : ∀ i, i < n → (va + BitVec.ofNat 64 i).toNat < 2 ^ 56 ∧
    ∃ pa tr new, pas[i]? = some pa ∧ s.engineTranslate asid (va + BitVec.ofNat 64 i).toNat k = .ok pa tr new ∧ (k = .write → tr = false)

/-- Byte `i` of a span is its first that cannot be reached. -/
structure SpanStops (s : State) (asid : BitVec 8) (k : Kind) (va : W64) (n i : Nat) : Prop where
  inside : i < n
  before : ∃ pas, SpanOk s asid k va i pas

/-- Byte `i` of a span is its first that cannot be reached, since its page is absent or forbids the access. -/
structure SpanFails (s : State) (asid : BitVec 8) (k : Kind) (va : W64) (n i : Nat) : Prop where
  stops : SpanStops s asid k va n i
  why : 2 ^ 56 ≤ (va + BitVec.ofNat 64 i).toNat ∨ s.engineTranslate asid (va + BitVec.ofNat 64 i).toNat k = .fault ∨
    s.engineTranslate asid (va + BitVec.ofNat 64 i).toNat k = .protection

/-- Byte `i` of a span is its first that cannot be reached, and it can be reached later: its page is in transit, or its walk must wait. -/
structure SpanDelays (s : State) (asid : BitVec 8) (k : Kind) (va : W64) (n i : Nat) : Prop where
  stops : SpanStops s asid k va n i
  inside : (va + BitVec.ofNat 64 i).toNat < 2 ^ 56
  why : s.engineTranslate asid (va + BitVec.ofNat 64 i).toNat k = .wait ∨
    k = .write ∧ ∃ pa new, s.engineTranslate asid (va + BitVec.ofNat 64 i).toNat k = .ok pa true new

/-- Nothing of physical memory has changed but A and D bits of page-table entries, which completed walks have set (R337). -/
def MarksOnly (s t : State) (a : Nat) : Prop := ∃ m : Byte, (m = 0 ∨ m = 0x20 ∨ m = 0x60) ∧ look t.phys a = look s.phys a ||| m

/-- Memory after some bytes were written at their homes: nothing else changed but A and D bits and new undo records. -/
def SpanStored (s t : State) (pas : List Nat) (bs : List Byte) : Prop :=
  (pas.Nodup → ∀ (i a : Nat) (b : Byte), pas[i]? = some a → bs[i]? = some b → look t.phys a = b) ∧
  (∀ a, a ∉ pas → ¬InNewRecord s t a → MarksOnly s t a) ∧ t.common = s.common ∧ t.gangs = s.gangs ∧ t.teams = s.teams

/-- The command of a connection waits for the runtime at an address (R366). -/
def CommandWaits (s t : State) (conn : Nat) (a : W64) : Prop :=
  t.commands = s.commands ++ [(conn, s.freshTag, false)] ∧ (∃ r ∈ t.requests, r.tag = s.freshTag ∧ r.addr = a ∧ r.what = .command conn) ∧ (∀ n, MarksOnly s t n) ∧ t.outbox = s.outbox

/-- A state that differs from another only by a message that it has sent and by the bits of completed walks. -/
def Answers (s t : State) (m : Message) : Prop := (∀ n, MarksOnly s t n) ∧ t.outbox = s.outbox ++ [m] ∧ { t with phys := s.phys, outbox := s.outbox } = s

/-- A flow of an address space on this module (R369). -/
def Serves (s : State) (flow : W64) (asid : BitVec 8) : Prop := asid ≠ 0 ∧ ∃ x ∈ s.flows, x.handle = flow ∧ x.asid = asid

/-- A completion record as CREAD returns it, by the layout of R368. -/
def recordHolds (w : BitVec 256) (r : Completion) : Prop :=
  w.toNat = r.status.toNat + 2 ^ 64 * r.tag.toNat + 2 ^ 128 * r.launch.toNat + 2 ^ 160 * r.cause.toNat + 2 ^ 168 * r.phase.toNat + 2 ^ 192 * r.job.toNat

/-- What an uncorrectable error leaves at a location (R357). -/
def Spoiled (s t : State) : ErrorLoc → Prop
  | .mem p => t.accessible p 1 = false
  | .register j l n => ∀ y, s.gang? j = some y → l < 64 → l < y.threads.length → ∃ z, t.gang? j = some z ∧ (∀ r, z.vreg l r = y.vreg l r) ∧ n ∈ (z.thread l).bad ∧
      (∀ k, k ≠ l → z.thread k = y.thread k) ∧ { z with threads := y.threads } = y
  | .scalar j n => n ≠ 0 → ∀ y, s.gang? j = some y → t.gang? j = some { y with badScalars := y.badScalars ++ [n] }
  | .mask j n => ∀ y, s.gang? j = some y → t.gang? j = some { y with badMasks := y.badMasks ++ [n] }
  | .line c n => ∀ x ∈ (t.cu c).lines, x.line = n → x.bad = true
  | .code c n => n ∈ (t.cu c).badCode
  | .teamMacro j n => ∀ x, t.team? j = some x → ∀ m ∈ x.macros, m.1 = n → m.2.bad = true
  | .graph h => ∀ x ∈ t.graph.graphs, x.handle = h → x.bad = true
  | .mirror c off => ∀ m ∈ t.mirrors, m.cluster = c → m.off = off → m.bad = true
  | .deque c => (t.cu c).badDeque = true

/-- A state that differs from another only by a message that it has sent. -/
def Says (s t : State) (m : Message) : Prop := t = { s with outbox := s.outbox ++ [m] }

/-- The gang that a handle and an index name, as the state holds it. -/
structure Names (s : State) (h : W64) (idx : Nat) (g : Gang) : Prop where
  target : (s.gangs.find? fun x => decide (s.handle x = h) && decide (x.index.toNat = idx)) = some g
  gang : s.gang? g.id = some g

/-- Gang `g` is now `h`, and nothing else has changed. -/
def Becomes (s t : State) (g h : Gang) : Prop := t.gang? g.id = some h ∧ { t with gangs := s.gangs } = s ∧ ∀ j, j ≠ g.id → t.gang? j = s.gang? j

/-- Values that the registers which name what a gang is and where it runs can hold (R92, R339): sr.lane to sr.crank, and sr.asid. -/
abbrev PlaceValue (g : Gang) (n v : Nat) : Prop :=
  n = 0 ∧ v < g.width ∨ n = 1 ∧ (v = 16 ∨ v = 32 ∨ v = 64) ∨ n = 2 ∧ v < 16 ∨ (n = 3 ∨ n = 4) ∧ v < 2 ^ 32 ∨ (n = 5 ∨ n = 6) ∧ v < 2 ^ 12 ∨ n = 7 ∧ v < 2 ^ 16 ∨
  n = 8 ∧ v < 576 ∨ n = 9 ∧ v < 72 ∨ n = 10 ∧ v < 4 ∨ n = 11 ∧ v < 8 ∨ n = 32 ∧ v < 2 ^ 8

/-- What the debugger reads (R360); the words of an open cursor and of a carousel are the model's own layout (log 45). -/
def debugRead (s : State) (g : Gang) : DebugReg → Nat
  | .vector l c => (g.vreg l c).toNat
  | .scalar n => (g.sreg n).toNat
  | .mask n => (g.mreg n).toNat
  | .flag n => g.flag n
  | .special n l => (s.special g (lane l) l n).toNat
  | .layout n => (look g.layouts n).toNat
  | .slot n => (look g.slots n).toNat
  | .pc l => (match g.flight with
    | some f => if f.lanes.getLsbD l then f.pc else (g.thread l).pc
    | none => (g.thread l).pc).toNat
  | .cursor l n => (((entry? (g.thread l).cursors n).map s.cursorWord).getD 0).toNat
  | .carousel n => ((((s.teamOf g).carousel? n).map Carousel.word).getD 0).toNat

/-- A state in which no CU holds a line, a kept translation that `p` names, or, with `code`, a cached instruction. -/
structure Dropped (t : State) (p : Kept → Prop) (code : Bool) : Prop where
  lines : ∀ c, (t.cu c).lines = []
  kept : ∀ c k, k ∈ (t.cu c).kept → ¬p k
  code : code = true → ∀ c, (t.cu c).icode = []

/-- A kept translation of a page of a span of `n` bytes. -/
def keptOf (asid : BitVec 8) (va : W64) (n : Nat) (k : Kept) : Prop := k.asid = asid ∧ k.va < va.toNat + n ∧ va.toNat < k.va + k.size

/-- The module once every CU has written its view cache back. -/
def State.writtenBack (s : State) : State := (s.cus.map Prod.fst).foldl State.writeBack s

/-- The bytes of a digest, the most significant first (log 10). -/
def bigEndian (d : BitVec 384) : List Byte := (List.range 48).map fun i => BitVec.ofNat 8 (d.toNat / 2 ^ (8 * (47 - i)))

/-- Memory once the entries that map a span are changed by `f`, and no other byte (R372). -/
structure Marked (m t : State) (asid : BitVec 8) (va : W64) (n : Nat) (f : Byte → Byte) : Prop where
  pages : ∀ i p, i < n → m.walk asid (va.toNat + i) .read = .page p → look t.phys p.entry = f (look m.phys p.entry)
  others : ∀ a, (∀ i p, i < n → m.walk asid (va.toNat + i) .read = .page p → p.entry ≠ a) → look t.phys a = look m.phys a
  same : t.common = m.common ∧ t.gangs = m.gangs ∧ t.teams = m.teams

/-- The ADDR by which an ERROR record names a location (R357); one that is no byte of memory has the ADDR that the device gives it (log 53). -/
def located : ErrorLoc → W64
  | .mem (.phys a) => BitVec.ofNat 64 a
  | .mem (.common o) => BitVec.ofNat 64 (0xFA * 2 ^ 56 + o)
  | .mem (.scratch _ o) => BitVec.ofNat 64 (0xF8 * 2 ^ 56 + o)
  | loc => Config.errorAddr loc

/-- The state differs from another only in one die. -/
def DieIs (s t : State) (d : Nat) (x : Die) : Prop := t.die d = x ∧ (∀ k, k ≠ d → t.die k = s.die k) ∧ { t with dies := s.dies } = s

/-- The state differs from another only in what one HBM stack does about a retrain, and in messages sent. -/
def StackIs (s t : State) (h : Nat) (r : Retrain) (out : List Message) : Prop :=
  entry .idle t.hbmStacks h = r ∧ (∀ k, k ≠ h → entry .idle t.hbmStacks k = entry .idle s.hbmStacks k) ∧ t.outbox = s.outbox ++ out ∧
    { t with hbmStacks := s.hbmStacks, outbox := s.outbox } = s

end Sys2Proof.Machine
end

