-- ==== Sys2Proof/Certificates/Slice0/Obligations.lean ====
section
/-!
DEFINITION. The statements for the provers. `Issues i s g f b` says that gang `g` issues the word `i` and that the word passes IssueCheck; `Frame`
says what the instruction leaves unchanged.
-/
section

open Sys2Proof Sys2Proof.Machine

/-- iop (R95): every operation X gives each issuing lane the table's result in D and changes nothing else. -/
def Obligations.IopResults : Prop :=
  ∀ (i : Instr) (x : Nat) (b a d : BitVec 7) (s : State) (g : Gang) (f : Flight) (at_ : BodyAt), iopRow i = some (x, b, a, d) → Issues i s g f at_ →
    ∃ t h, exec i s = .next t ∧ t.gang? g.id = some h ∧
      (∀ l, f.lanes.getLsbD l = true →
        h.vreg l d.toNat = iopResult x (g.vreg l a.toNat) (g.vreg l b.toNat) (g.vreg l d.toNat)) ∧
      Frame { vreg := fun l n => f.lanes.getLsbD l = true ∧ n = d.toNat } s t g

/-- The 16-bit integer words (R46, R47): each has the result of its 32-bit form with D as destination and first source, and mov gives its second
source; nothing else changes. -/
def Obligations.ShortIntegerResults : Prop :=
  (∀ (i : Instr) (x : Nat) (im : BitVec 1) (b d : BitVec 5) (z : Bool) (s : State) (g : Gang) (f : Flight) (at_ : BodyAt),
    shortRow i = some (x, im, b, d, z) → Issues i s g f at_ →
    ∃ t h, exec i s = .next t ∧ t.gang? g.id = some h ∧
      (∀ l, f.lanes.getLsbD l = true →
        h.vreg l d.toNat = iopResult x (g.vreg l d.toNat) (shortSecond g im b z l) (g.vreg l d.toNat)) ∧
      Frame { vreg := fun l n => f.lanes.getLsbD l = true ∧ n = d.toNat } s t g) ∧
  (∀ (im : BitVec 1) (b d : BitVec 5) (s : State) (g : Gang) (f : Flight) (at_ : BodyAt), Issues (.movShort im b d) s g f at_ →
    ∃ t h, exec (.movShort im b d) s = .next t ∧ t.gang? g.id = some h ∧
      (∀ l, f.lanes.getLsbD l = true → h.vreg l d.toNat = shortSecond g im b false l) ∧
      Frame { vreg := fun l n => f.lanes.getLsbD l = true ∧ n = d.toNat } s t g)

/-- addi, muli, andi, ori, xori (R97) and the shifts and the rotate by an immediate (R98): each issuing lane holds the result in D, and nothing else
changes. -/
def Obligations.ImmediateResults : Prop :=
  (∀ (i : Instr) (x : Nat) (im : BitVec 11) (a d : BitVec 7) (s : State) (g : Gang) (f : Flight) (at_ : BodyAt),
    immRow i = some (x, im, a, d) → Issues i s g f at_ →
    ∃ t h, exec i s = .next t ∧ t.gang? g.id = some h ∧
      (∀ l, f.lanes.getLsbD l = true →
        h.vreg l d.toNat = iopResult x (g.vreg l a.toNat) (BitVec.ofInt 32 im.toInt) 0) ∧
      Frame { vreg := fun l n => f.lanes.getLsbD l = true ∧ n = d.toNat } s t g) ∧
  (∀ (i : Instr) (x : Option Nat) (n : BitVec 5) (a d : BitVec 7) (s : State) (g : Gang) (f : Flight) (at_ : BodyAt),
    shiftRow i = some (x, n, a, d) → Issues i s g f at_ →
    ∃ t h, exec i s = .next t ∧ t.gang? g.id = some h ∧
      (∀ l, f.lanes.getLsbD l = true → h.vreg l d.toNat = shiftResult x n.toNat (g.vreg l a.toNat)) ∧
      Frame { vreg := fun l n => f.lanes.getLsbD l = true ∧ n = d.toNat } s t g)

/-- iun (R99): the result in D has, in each issuing lane, the property the table gives it, and nothing else changes. bfe and bfi (R100, R101), sel (R103),
li and liu (R104), vbc and vbch (R109): the value of D in each issuing lane; nothing else changes. -/
def Obligations.UnaryAndFieldResults : Prop :=
  (∀ (i : Instr) (a d : BitVec 7) (p : W32 → W32 → Prop) (s : State) (g : Gang) (f : Flight) (at_ : BodyAt), unaryRow i = some (a, d, p) → Issues i s g f at_ →
      ∃ t h, exec i s = .next t ∧ t.gang? g.id = some h ∧
        (∀ l, f.lanes.getLsbD l = true → p (g.vreg l a.toNat) (h.vreg l d.toNat)) ∧
        Frame { vreg := fun l n => f.lanes.getLsbD l = true ∧ n = d.toNat } s t g) ∧
  (∀ (i : Instr) (d : BitVec 7) (v : Gang → Nat → W32) (s : State) (g : Gang) (f : Flight) (at_ : BodyAt), fieldRow i = some (d, v) → Issues i s g f at_ →
      ∃ t h, exec i s = .next t ∧ t.gang? g.id = some h ∧
        (∀ l, f.lanes.getLsbD l = true → h.vreg l d.toNat = v g l) ∧
        Frame { vreg := fun l n => f.lanes.getLsbD l = true ∧ n = d.toNat } s t g)

/-- icmp (R102): the bits of the issuing lanes in mask M say whether the condition holds, below the gang's width; bits of other lanes below the width are as
before, bits at or above it are 0, and nothing else changes. -/
def Obligations.CompareResults : Prop :=
  ∀ (i : Instr) (x : Nat) (b a : BitVec 7) (m : BitVec 4) (s : State) (g : Gang) (f : Flight) (at_ : BodyAt), icmpRow i = some (x, b, a, m) → Issues i s g f at_ →
    ∃ t h, exec i s = .next t ∧ t.gang? g.id = some h ∧
      ((∀ l, (g.thread l).gathers = false) → ∀ l, l < 64 →
        ((h.mreg m.toNat).getLsbD l = true ↔ l < g.width ∧
          if f.lanes.getLsbD l = true then condition x (g.vreg l a.toNat).toInt (g.vreg l b.toNat).toInt (g.vreg l a.toNat).toNat (g.vreg l b.toNat).toNat
          else (g.mreg m.toNat).getLsbD l = true)) ∧
      Frame { mask := fun n => n = m.toNat } s t g

/-- sop and scmp (R105, R108): Sc[D] holds the table's result, s0 stays 0 (R90), and nothing else changes. saddi (R106), sli, sliu, slih and slihu (R107),
vget (R109; a clause temporary of a lane whose clause has ended gives a free value, log 23), mget, mpop and mfirst (R144): the value of the scalar destination; s0 stays 0 (R90), and nothing else changes. -/
def Obligations.ScalarResults : Prop :=
  ((∀ (i : Instr) (x : Nat) (b a d : BitVec 7) (s : State) (g : Gang) (f : Flight) (at_ : BodyAt), sopRow i = some (x, b, a, d) → Issues i s g f at_ →
      ∃ t h, exec i s = .next t ∧ t.gang? g.id = some h ∧
        ((∀ l, (g.thread l).gathers = false) → h.sreg d.toNat = if d.toNat = 0 then 0 else sopResult x (g.sreg a.toNat) (g.sreg b.toNat)) ∧
        Frame { sreg := fun n => n = d.toNat } s t g) ∧
    (∀ (i : Instr) (x : Nat) (b a d : BitVec 7) (s : State) (g : Gang) (f : Flight) (at_ : BodyAt), scmpRow i = some (x, b, a, d) → Issues i s g f at_ →
      ∃ t h, exec i s = .next t ∧ t.gang? g.id = some h ∧
        ((∀ l, (g.thread l).gathers = false) → d.toNat ≠ 0 → (h.sreg d.toNat = 1 ∨ h.sreg d.toNat = 0) ∧ (h.sreg d.toNat = 1 ↔
          condition x (g.sreg a.toNat).toInt (g.sreg b.toNat).toInt (g.sreg a.toNat).toNat (g.sreg b.toNat).toNat)) ∧
        Frame { sreg := fun n => n = d.toNat } s t g)) ∧
  (∀ (i : Instr) (d : Nat) (v : Gang → W64) (s : State) (g : Gang) (f : Flight) (at_ : BodyAt), scalarRow i = some (d, v) → Issues i s g f at_ →
      ∃ t h, exec i s = .next t ∧ t.gang? g.id = some h ∧
        ((∀ l, (g.thread l).gathers = false) → h.sreg d = if d = 0 then 0 else v g) ∧ Frame { sreg := fun n => n = d } s t g)

/-- The FP32, packed 16-bit, dot-product and conversion instructions and the 16-bit float words (R47, R71, R112-R125): D holds each lane's result, the
flags of every lane are merged into sr.fstat, and nothing else changes. The results are those of the rules in exact integers: one rounding, overflow and
flush (R65-R67, R69), FopArith with its NaNs, infinities and zero signs (R113, R120, R121; the sign of an all-zero sum is the reading of log 52), min, max,
scale and the exact functions (R114, R118, R119), the table of R117 (log2 of 1.0 is +0, log 52) with its exact cases, and Convert (R74, R123, R124). The
neighbours and flags of R117 are stated of rcp, rsq and sqrt. Of an inexact exp2, log2, sin or cos only the flags are: INEXACT, OVERFLOW with an infinity,
UNDERFLOW with a subnormal result or zero and with none above 2^-126, and no other. sbdec (R125) checks E and all four selectors of the header, the reading of
R82 that log 52 names against the pseudocode of R125. fcmp (R115): the bits of the issuing lanes in mask M say whether the condition
holds of the two values as R111 reads them, INVALID is merged where a signalling NaN, or for the ordered compares any NaN, is compared, and nothing else
changes. -/
def Obligations.FloatResults : Prop :=
  (∀ (i : Instr) (d : Nat) (v : Gang → Nat → W32 × BitVec 8) (s : State) (g : Gang) (f : Flight) (at_ : BodyAt), floatRow i = some (d, v) → Issues i s g f at_ →
      ∃ t h, exec i s = .next t ∧ t.gang? g.id = some h ∧
        (∀ l, f.lanes.getLsbD l = true → h.vreg l d = (v g l).1) ∧
        ((∀ l, (g.thread l).gathers = false) → ∀ k, h.fstat.getLsbD k = true ↔
          g.fstat.getLsbD k = true ∨ ∃ l, f.lanes.getLsbD l = true ∧ (v g l).2.getLsbD k = true) ∧
        Frame { vreg := fun l n => f.lanes.getLsbD l = true ∧ n = d, fstat := True } s t g) ∧
  (∀ (i : Instr) (d : Nat) (v : Gang → Nat → W32 × BitVec 8) (g : Gang) (l : Nat), floatRow i = some (d, v) → FloatResult i g l (v g l)) ∧
  (∀ (i : Instr) (b a : BitVec 7) (m : BitVec 4) (quiet : Bool) (c : Val → Val → Bool) (s : State) (g : Gang) (f : Flight) (at_ : BodyAt),
      fcmpRow i = some (b, a, m, quiet, c) → Issues i s g f at_ →
      ∃ t h, exec i s = .next t ∧ t.gang? g.id = some h ∧
        ((∀ l, (g.thread l).gathers = false) →
          (∀ l, l < 64 → ((h.mreg m.toNat).getLsbD l = true ↔ l < g.width ∧
            if f.lanes.getLsbD l = true then c (g.opF32 (g.vreg l a.toNat)) (g.opF32 (g.vreg l b.toNat)) = true else (g.mreg m.toNat).getLsbD l = true)) ∧
          (h.fstat = g.fstat ∨ h.fstat = g.fstat ||| INVALID) ∧
          (h.fstat = g.fstat ||| INVALID ↔ g.fstat ||| INVALID = g.fstat ∨ ∃ l, f.lanes.getLsbD l = true ∧
            (snanFlag [g.opF32 (g.vreg l a.toNat), g.opF32 (g.vreg l b.toNat)] = INVALID ∨
              quiet = false ∧ ((g.opF32 (g.vreg l a.toNat)).isNan = true ∨ (g.opF32 (g.vreg l b.toNat)).isNan = true)))) ∧
        Frame { mask := fun n => n = m.toNat, fstat := True } s t g)

/-- Branches, jumps, calls and returns (R145-R147): every issuing lane stands at the header position of its target, a call leaves PC + 4 in s63, and
nothing else changes. The targets of an indirect form lie in the code space and are even; where one does not, the form traps. The checks of an indirect
transfer (R147): a target outside the code space raises ADDRESS_WINDOW in the lanes that hold one, else an odd target ALIGNMENT in those lanes, with
sr.taddr the target of the lowest of them. -/
def Obligations.Transfers : Prop :=
  (∀ (i : Instr) (target : Gang → Flight → Nat → W64) (link indirect : Bool) (s : State) (g : Gang) (f : Flight) (at_ : BodyAt),
      transferRow i = some (target, link, indirect) → Issues i s g f at_ →
      (indirect = true → ∀ l, f.lanes.getLsbD l = true → (target g f l).toNat < 2 ^ 56 ∧ (target g f l).toNat % 2 = 0) →
      ∃ t h, exec i s = .next t ∧ t.gang? g.id = some h ∧
        (∀ l, f.lanes.getLsbD l = true → (h.thread l).standsAt (pcOf (target g f l))) ∧
        ((∀ l, (g.thread l).gathers = false) → link = true → h.sreg 63 = f.pc + 4) ∧
        Frame { sreg := fun n => link = true ∧ n = 63 } s t g) ∧
  (∀ (i : Instr) (target : Gang → Flight → Nat → W64) (link : Bool) (s : State) (g : Gang) (f : Flight) (at_ : BodyAt),
      transferRow i = some (target, link, true) → Issues i s g f at_ →
      ((∃ l, f.lanes.getLsbD l = true ∧ 2 ^ 56 ≤ (target g f l).toNat) →
        ∃ m low, (∀ l, m.getLsbD l = true ↔ f.lanes.getLsbD l = true ∧ 2 ^ 56 ≤ (target g f l).toNat) ∧ m.getLsbD low = true ∧
          (∀ l, m.getLsbD l = true → low ≤ l) ∧ exec i s = .next (s.trap g f ADDRESS_WINDOW m (target g f low) true 4)) ∧
      ((∀ l, f.lanes.getLsbD l = true → (target g f l).toNat < 2 ^ 56) → (∃ l, f.lanes.getLsbD l = true ∧ (target g f l).toNat % 2 = 1) →
        ∃ m low, (∀ l, m.getLsbD l = true ↔ f.lanes.getLsbD l = true ∧ (target g f l).toNat % 2 = 1) ∧ m.getLsbD low = true ∧
          (∀ l, m.getLsbD l = true → low ≤ l) ∧ exec i s = .next (s.trap g f ALIGNMENT m (target g f low) true 4)))

/-- Mask words (R141, R142, R144): mset, mand, mor, mxor, mnot, mcpy, mlive, msub, join and leave give the mask the table's bits below the gang's width
and zeros above, and nothing else changes. -/
def Obligations.MaskResults : Prop :=
  ∀ (i : Instr) (d : Nat) (v : Gang → Flight → Nat → Bool) (s : State) (g : Gang) (f : Flight) (at_ : BodyAt), maskRow i = some (d, v) → Issues i s g f at_ →
    ∃ t h, exec i s = .next t ∧ t.gang? g.id = some h ∧
      ((∀ l, (g.thread l).gathers = false) → ∀ l, l < 64 → ((h.mreg d).getLsbD l = true ↔ l < g.width ∧ v g f l = true)) ∧
      Frame { mask := fun n => n = d } s t g

/-- wait (R142), in a gang where no lane is withheld and no lane waits but at a wait on the same mask: when every member waits there or has exited, every
lane that waits goes on at the header position after its wait; while a member is elsewhere, or the mask holds an uncorrectable error (R357; log 53), the issuing
lanes are blocked. The mask is as before. A membership word (R152) that lacks a member, or whose exchange would read a register in error: the issuing lanes
are blocked there, and no register changes. -/
def Obligations.HoldingWords : Prop :=
  (∀ (m : BitVec 4) (s : State) (g : Gang) (f : Flight) (at_ : BodyAt), Issues (.wait m) s g f at_ → g.withheld = [] →
      (∀ l, (g.thread l).gathers = true → (g.thread l).status = .blocked (.wait m.toNat)) →
      ∃ t h, exec (.wait m) s = .next t ∧ t.gang? g.id = some h ∧
        (m.toNat ∉ g.badMasks →
          (∀ l, (g.mreg m.toNat).getLsbD l = true → f.lanes.getLsbD l = true ∨ (g.thread l).status = .blocked (.wait m.toNat) ∨ (g.thread l).status = .exited) →
          (∀ l, l < g.width → f.lanes.getLsbD l = true → (h.thread l).standsAt (pcOf (f.pc + 4))) ∧
          (∀ l, l < g.width → f.lanes.getLsbD l = false → (g.thread l).status = .blocked (.wait m.toNat) → (h.thread l).standsAt (pcOf ((g.thread l).pc + 4)))) ∧
        ((m.toNat ∈ g.badMasks ∨
            ∃ l, (g.mreg m.toNat).getLsbD l = true ∧ f.lanes.getLsbD l = false ∧ (g.thread l).status ≠ .blocked (.wait m.toNat) ∧ (g.thread l).status ≠ .exited) →
          ∀ l, f.lanes.getLsbD l = true → (h.thread l).status = .blocked (.wait m.toNat) ∧ (h.thread l).pc = f.pc) ∧
        (∀ n, h.mreg n = g.mreg n) ∧ (∀ l n, h.vreg l n = g.vreg l n) ∧ (∀ n, h.sreg n = g.sreg n) ∧
        { t with gangs := s.gangs } = s ∧ ∀ j, j ≠ g.id → t.gang? j = s.gang? j) ∧
  (∀ (i : Instr) (p : Nat) (k : MemberKind) (s : State) (g : Gang) (f : Flight) (at_ : BodyAt), memberOf i = some (p, k) → Issues i s g f at_ → g.quiet →
      ((∃ l, (g.mreg p).getLsbD l = true ∧ f.lanes.getLsbD l = false) ∨ f.lanes &&& ~~~g.lanes = 0 ∧ g.exchangeSound f.lanes p k = false) →
      ∃ t h, exec i s = .next t ∧ t.gang? g.id = some h ∧
        (∀ l, f.lanes.getLsbD l = true → (h.thread l).status = .blocked (.member p k) ∧ (h.thread l).pc = f.pc) ∧ Frame {} s t g)

/-- The shuffles (R152, R153) whose members all issue at once and that read nothing in error (R357): each issuing lane receives the source lane's value from before, or 0 from outside the gang
(a clause temporary of a lane whose clause has ended gives a free value, log 23); the lanes go on together, and nothing else changes. -/
def Obligations.Shuffles : Prop :=
  ∀ (i : Instr) (p : BitVec 4) (a d : BitVec 7) (src : Gang → Nat → Int) (s : State) (g : Gang) (f : Flight) (at_ : BodyAt),
    shuffleRow i = some (p, a, d, src) → Issues i s g f at_ → g.quiet → (∀ n k, memberOf i = some (n, k) → g.exchangeSound f.lanes n k = true) → f.lanes &&& ~~~g.lanes = 0 → g.mreg p.toNat &&& ~~~f.lanes = 0 →
    ∃ t h, exec i s = .next t ∧ t.gang? g.id = some h ∧
      (∀ l, f.lanes.getLsbD l = true →
        h.vreg l d.toNat = (if 0 ≤ src g l ∧ src g l < g.width then g.otherLane (src g l).toNat a.toNat else 0) ∧ (h.thread l).standsAt (pcOf (f.pc + 4))) ∧
      Frame { vreg := fun l n => f.lanes.getLsbD l = true ∧ n = d.toNat } s t g

/-- xred (R152, R154) whose members all issue at once and that reads nothing in error (R357): each member among the issuing lanes receives the reduction or its scan; only members receive a
result; the lanes go on together, and only sr.fstat may change beside. The integer results are those of exact arithmetic; sum.f32 is the fixed tree of
AddF32, scan.f32 the doubling scan, min and max those of R114, with the flags of every add, each add rounded once (R66, R67). The sign of a sum of two zeros
of one sign is the reading of log 52, and that min and max treat a single member as NextOp of itself with itself, so that one NaN gives 0x7FC00000 and INVALID
where it signals, that of log 25. -/
def Obligations.Reductions : Prop :=
  ∀ (i : Instr) (x : Nat) (p : BitVec 4) (a d : BitVec 7) (s : State) (g : Gang) (f : Flight) (at_ : BodyAt),
    xredRow i = some (x, p, a, d) → Issues i s g f at_ → g.quiet → (∀ n k, memberOf i = some (n, k) → g.exchangeSound f.lanes n k = true) → f.lanes &&& ~~~g.lanes = 0 → g.mreg p.toNat &&& ~~~f.lanes = 0 →
    ∃ t h fl, exec i s = .next t ∧ t.gang? g.id = some h ∧
      (∀ l, (g.mreg p.toNat).getLsbD l = true →
        xredInt x (fun k => g.vreg k a.toNat) ((List.range 64).filter fun k => (g.mreg p.toNat).getLsbD k) l (h.vreg l d.toNat)) ∧
      XredFloat x g.rm g.width (fun l => g.vreg l a.toNat) (g.mreg p.toNat) (fun l => h.vreg l d.toNat) fl ∧
      (∀ l, f.lanes.getLsbD l = true → (h.thread l).standsAt (pcOf (f.pc + 4))) ∧
      h.fstat = g.fstat ||| fl ∧
      Frame { vreg := fun l n => (g.mreg p.toNat).getLsbD l = true ∧ n = d.toNat, fstat := True } s t g

/-- vote (R152, R155) whose members all issue at once and that reads nothing in error (R357): the scalar or the mask receives the vote of the members, once; the lanes go on together, and nothing
else changes. -/
def Obligations.Votes : Prop :=
  (∀ (i : Instr) (p : BitVec 4) (a d : BitVec 7) (v : Lanes → Lanes → W64) (s : State) (g : Gang) (f : Flight) (at_ : BodyAt),
    voteRow i = some (p, a, d, v) → Issues i s g f at_ → g.quiet → (∀ n k, memberOf i = some (n, k) → g.exchangeSound f.lanes n k = true) → f.lanes ≠ 0 → f.lanes &&& ~~~g.lanes = 0 → g.mreg p.toNat &&& ~~~f.lanes = 0 →
    ∃ t h true_, exec i s = .next t ∧ t.gang? g.id = some h ∧
      (∀ l, true_.getLsbD l = true ↔ (g.mreg p.toNat).getLsbD l = true ∧ g.vreg l a.toNat ≠ 0) ∧
      h.sreg d.toNat = (if d.toNat = 0 then 0 else v (g.mreg p.toNat) true_) ∧
      (∀ l, f.lanes.getLsbD l = true → (h.thread l).standsAt (pcOf (f.pc + 4))) ∧ Frame { sreg := fun n => n = d.toNat } s t g) ∧
  (∀ (p : BitVec 4) (a : BitVec 7) (m : BitVec 4) (s : State) (g : Gang) (f : Flight) (at_ : BodyAt),
    Issues (.voteBallotMask p a m) s g f at_ → g.quiet → g.exchangeSound f.lanes p.toNat (.vote 3 a.toNat m.toNat) = true → f.lanes ≠ 0 → f.lanes &&& ~~~g.lanes = 0 → g.mreg p.toNat &&& ~~~f.lanes = 0 →
    ∃ t h, exec (.voteBallotMask p a m) s = .next t ∧ t.gang? g.id = some h ∧
      (∀ l, (h.mreg m.toNat).getLsbD l = true ↔ (g.mreg p.toNat).getLsbD l = true ∧ g.vreg l a.toNat ≠ 0) ∧
      (∀ l, f.lanes.getLsbD l = true → (h.thread l).standsAt (pcOf (f.pc + 4))) ∧ Frame { mask := fun n => n = m.toNat } s t g)

/-- exit (R143, R151): the issuing lanes have exited with their cursors closed, their bits are 0 in every mask and every other bit is as before, their
registers keep their values, and nothing else changes. yield, nop, nop32, fsclr and pfetch (R48, R70, R151, R176): a yield leaves its lanes at the next
header position, marked as having yielded; fsclr clears sr.fstat; no other register and no byte of memory changes (that a pfetch leaves caches, counters and
page tables alone too is the model's choice, log 54: R176 lets a device fetch the lines). After any word that neither
ends its body nor transfers, traps or waits, the sub-group stands at the next word, PC + 2 or PC + 4, with one word less to go, and after the last word at
the header position there (R43, R54, R126). -/
def Obligations.ExitAndPlainWords : Prop :=
  (∀ (s : State) (g : Gang) (f : Flight) (at_ : BodyAt), Issues .exit s g f at_ →
      ∃ t h, exec .exit s = .next t ∧ t.gang? g.id = some h ∧
        (∀ l, f.lanes.getLsbD l = true → (h.thread l).status = .exited ∧ (h.thread l).cursors = [] ∧ ∀ n, h.vreg l n = g.vreg l n) ∧
        ((∀ l, (g.thread l).gathers = false) → ∀ n, n < 12 → h.mreg n = g.mreg n &&& ~~~f.lanes) ∧
        Frame { mask := fun n => n < 12, lane := fun l => f.lanes.getLsbD l = true } s t g) ∧
  ((∀ (s : State) (g : Gang) (f : Flight) (at_ : BodyAt), Issues .yield s g f at_ →
      ∃ t h, exec .yield s = .next t ∧ t.gang? g.id = some h ∧
        (∀ l, f.lanes.getLsbD l = true → (h.thread l).standsAt (pcOf (f.pc + 4)) ∧ (h.thread l).yielded = true) ∧ Frame {} s t g) ∧
    (∀ (i : Instr) (s : State) (g : Gang) (f : Flight) (at_ : BodyAt), (i = .nop ∨ i = .nop32 ∨ ∃ e sb a k, i = .pfetch e sb a k) → Issues i s g f at_ →
      ∃ t, exec i s = .next t ∧ Frame {} s t g) ∧
    (∀ (s : State) (g : Gang) (f : Flight) (at_ : BodyAt), Issues .fsclr s g f at_ →
      ∃ t h, exec .fsclr s = .next t ∧ t.gang? g.id = some h ∧ ((∀ l, (g.thread l).gathers = false) → h.fstat = 0) ∧ Frame { fstat := True } s t g)) ∧
  (∀ (i : Instr) (s : State) (g : Gang) (f : Flight) (b : BodyAt), plainWord i = true → Issues i s g f b →
      ∃ t h, exec i s = .next t ∧ t.gang? g.id = some h ∧
        (1 < b.left → h.flight = some ⟨f.lanes, pcOf (f.pc + BitVec.ofNat 64 i.sig.size), some { b with left := b.left - 1 }⟩) ∧
        (b.left ≤ 1 → h.flight = none ∧ ∀ l, f.lanes.getLsbD l = true → (h.thread l).standsAt (pcOf (f.pc + BitVec.ofNat 64 i.sig.size))))

/-! ## Encoding, issue and traps -/

/-- One word of several families, written out from the spec's field rows (R46, R49, R53), is the instruction it stands for. -/
def Obligations.DecodeWords : Prop :=
  -- mov:i=1 v3, 5: I=1, B=00101, D=00011, OP=0000, bit 0 = 0
  decodeTableWord 16 0b1_00101_00011_0000_0 = some (.movShort 1 5 3) ∧
  -- header: SLOTB=1111, SLOTA=0001, WAIT=000000000010, N=00011, OP=000000
  decodeTableWord 32 0b1111_0001_000000000010_00011_000000_1 = some (.clauseHeader 15 1 2 3) ∧
  -- sub.i32: X=0001, B=0000010, A=0000001, D=0000011, OP=000001
  decodeTableWord 32 0b0001_0000010_0000001_0000011_000001_1 = some (.subI32 2 1 3) ∧
  -- OP=010010 is no major
  decodeTableWord 32 0b0000_0000000_0000000_0000000_010010_1 = none

/-- For every well-formed instruction, with every operand at every value that its encoding admits, decoding its encoding gives it back, with its length, whatever follows; a word with a reserved operand
code is refused. Each word has one meaning: bytes that decode to an instruction begin with that instruction's encoding. -/
def Obligations.DecodeEncode : Prop :=
  (∀ (i : Instr) (rest : List Byte), i.wf = true → decode (encode i ++ rest) = .ok (i, i.sig.size)) ∧
  (∀ (i : Instr) (rest : List Byte), i.isWord = true → i.wf = false → decode (encode i ++ rest) = .error .reservedOperand) ∧
  (∀ (bs : List Byte) (i : Instr) (n : Nat), decode bs = .ok (i, n) → i.wf = true ∧ n = i.sig.size ∧ bs.take n = encode i)

/-- A step that issues a word of gang `j` runs exactly the decoded instruction, in the state that fetching it leaves; a debug step may end after it (R156).
A word that passes IssueCheck and would consume a register in error makes the gang stall in place instead (R357; what a word consumes, and that the gang stalls
for it, is log 53's).
A word that is no instruction raises its cause (R48, R55, R57, R58): in a body ILLEGAL_ENCODING, but CLAUSE_FORM with the header's major; at a header position
CLAUSE_FORM, with sr.taddr the transfer that led there (of fused lanes that of the lowest, which is the model's choice, log 54), but ILLEGAL_ENCODING with the
header's major. A word whose fetch faults suspends the gang, and
one whose page forbids it raises PAGE_PROTECTION (R44); the clause was not issued then, and what the sub-groups waited is as before (R139). -/
def Obligations.StepRunsDecodedWord : Prop :=
  ∀ (s t : State) (j : Nat) (x g : Gang) (f : Flight), s.pick = some (.issue j, t) → t.gang? j = some x → (t.begin x).gang? j = some g → g.flight = some f →
    (f.place = none → g.dueFault f.lanes = none) →
    let u := t.begin x
    let after := fun (v : State) => v.onGang j fun h => (x.undecided h).afterWord (decide (f.place = none))
    let read := u.fetched (u.cuOf g) (u.asidOf g) f.pc.toNat
    (∀ w size i n, u.fetch (u.cuOf g) (u.asidOf g) f.pc = .word w size → decode (leBytes size w) = .ok (i, n) →
      let v := u.fetchedWord (u.cuOf g) (u.asidOf g) f.pc size
      (ConsumesError i v g f → step s = .next (after (v.setGang { g with stall := some .error }))) ∧
      (¬ConsumesError i v g f → step s = onNext after (exec i v))) ∧
    (∀ w size e, u.fetch (u.cuOf g) (u.asidOf g) f.pc = .word w size → decode (leBytes size w) = .error e →
      let v := u.fetchedWord (u.cuOf g) (u.asidOf g) f.pc size
      let header := size = 4 ∧ w % 128 = 1
      (f.place ≠ none → ¬header → step s = .next (after (v.trap g f ILLEGAL_ENCODING f.lanes 0 true size))) ∧
      (f.place ≠ none → header → step s = .next (after (v.trap g f CLAUSE_FORM f.lanes 0 false size))) ∧
      (f.place = none → ¬header → step s = .next (after (v.trap g f CLAUSE_FORM f.lanes (g.thread (lowestLane f.lanes)).via false size))) ∧
      (f.place = none → header → step s = .next (after (v.trap g f ILLEGAL_ENCODING f.lanes 0 false size)))) ∧
    (∀ va, u.fetch (u.cuOf g) (u.asidOf g) f.pc = .fault va → step s = .next (after (read.suspend g f f.lanes va none))) ∧
    (∀ va, u.fetch (u.cuOf g) (u.asidOf g) f.pc = .protection va → step s = .next (after (read.trap g f PAGE_PROTECTION f.lanes va false 0)))

/-- The checks of a word in their order (R57), each with its cause: at a header position CLAUSE_FORM; then unassigned codes, a word that must stand last
and does not, a system word in user mode, and a vector register beyond the allotment. That sr.taddr at a header position of fused lanes is the transfer of the
lowest of them, and 0 where it came by none, is the model's choice (log 54). -/
def Obligations.IssueChecks : Prop :=
  ∀ (i : Instr) (s : State) (g : Gang) (f : Flight), i.isWord = true → (∀ b a w n, i ≠ .clauseHeader b a w n) →
    s.focus = some g.id → s.gang? g.id = some g → g.flight = some f →
    (f.place = none → exec i s = .next (s.trap g f CLAUSE_FORM f.lanes (g.thread (lowestLane f.lanes)).via false i.sig.size)) ∧
    (∀ b, f.place = some b →
      (i.wf = false → exec i s = .next (s.trap g f ILLEGAL_ENCODING f.lanes 0 true i.sig.size)) ∧
      (i.wf = true → i.sig.last = true → b.left ≠ 1 → exec i s = .next (s.trap g f CLAUSE_FORM f.lanes 0 false i.sig.size)) ∧
      (i.wf = true → (i.sig.last = true → b.left = 1) → i.sig.sys = true → s.system g = false →
        exec i s = .next (s.trap g f PRIVILEGE f.lanes 0 true i.sig.size)) ∧
      (i.wf = true → (i.sig.last = true → b.left = 1) → (i.sig.sys = true → s.system g = true) → (∃ o ∈ i.sig.ops, o.beyond g.vcount = true) →
        exec i s = .next (s.trap g f REGISTER_RANGE f.lanes 0 true i.sig.size)))

/-- Taking a trap in user mode, where the handler can start (R347, R149): each trapping lane has its delivery recorded and stands at the header position at
sr.tvec, with its registers as they were; the other issuing lanes are withheld at the word; no other gang, no byte of memory and no die changes. -/
def Obligations.TrapEntry : Prop :=
  ∀ (s : State) (g : Gang) (f : Flight) (cause : Nat) (t : Lanes) (addr : W64) (skip : Bool) (size : Nat),
    s.gang? g.id = some g → g.flight = some f → s.system g = false → g.tvec ≠ 0 → t ≠ 0 →
    (∀ l, t.getLsbD l = true → f.lanes.getLsbD l = true ∧ (g.thread l).entering = false) → (∀ l, f.lanes.getLsbD l = true → (g.thread l).status = .ready) →
    ∃ h, (s.trap g f cause t addr skip size).gang? g.id = some h ∧ h.flight = none ∧
      (∀ l, t.getLsbD l = true →
        (h.thread l).standsAt (g.tvec.setWidth 64) ∧ (∀ n, h.vreg l n = g.vreg l n) ∧
        ∃ d, (h.thread l).delivery = some d ∧ d.cause = BitVec.ofNat 8 cause ∧ d.pc = f.pc ∧ d.mask = t ∧ d.addr = addr ∧ d.unreturned = true ∧
          d.rePc = f.pc ∧ d.reAt = f.place ∧ (d.nextPc, d.nextAt) = (if skip then nextAt f size else (f.pc, f.place)) ∧
          ∀ n, look d.temps n = if 120 ≤ n ∧ n < 128 then g.vreg l n else 0) ∧
      (∀ l, f.lanes.getLsbD l = true → t.getLsbD l = false →
        (∃ w, (h.thread l).status = .withheld w) ∧ (h.thread l).pc = f.pc ∧ (h.thread l).place = f.place ∧ ∀ n, h.vreg l n = g.vreg l n) ∧
      { s.trap g f cause t addr skip size with gangs := s.gangs } = s ∧
      ∀ j, j ≠ g.id → (s.trap g f cause t addr skip size).gang? j = s.gang? j

/-- Where no handler can start (R348): with sr.tvec = 0 the trapping lanes of a user gang are held at the word, and a NOHANDLER record with the cause and
the team's handle goes to the die's ring, or waits for it; a fault in system mode stops the gang and is reported to the management controller. -/
def Obligations.TrapUnhandled : Prop :=
  ∀ (s : State) (g : Gang) (f : Flight) (cause : Nat) (t : Lanes) (addr : W64) (skip : Bool) (size : Nat),
    s.gang? g.id = some g → g.flight = some f → t ≠ 0 → (∀ l, t.getLsbD l = true → f.lanes.getLsbD l = true ∧ l < g.threads.length) →
    (s.system g = false → g.tvec = 0 →
      (∃ h, (s.trap g f cause t addr skip size).gang? g.id = some h ∧
        ∀ l, t.getLsbD l = true → (h.thread l).status = .held ∧ (h.thread l).pc = f.pc ∧ (h.thread l).place = f.place) ∧
      s.trap g f cause t addr skip size =
        (s.setGang ((g.trapped f cause t addr skip size).settle)).record (dieOf (s.cuOf g)) 5 cause 0 (s.handle g) 0) ∧
    (s.system g = true →
      (∃ h, (s.trap g f cause t addr skip size).gang? g.id = some h ∧ h.crashed = true ∧ h.stopped = true) ∧
      (s.trap g f cause t addr skip size).outbox = s.outbox ++ [.systemFault (dieOf (s.cuOf g)) (BitVec.ofNat 8 cause)])

/-- trap n and brk (R342, R361): each takes its cause in every issuing lane; brk under a debug session of the job halts the gang at the word instead, and
the controller is told; after a resume past it, it goes on as a nop, which is the model's choice (log 45: R361 has a resume past ignore the watches). tret and tret:at=next (R349, R133) in lanes that all hold an unreturned delivery: each stands at its return PC with its trap copy
in k0-k7 and its other registers as they were, and the delivery is returned. Other lanes raise ILLEGAL_ENCODING. -/
def Obligations.TrapWordsAndReturn : Prop :=
  ((∀ (n : BitVec 7) (s : State) (g : Gang) (f : Flight) (b : BodyAt), Issues (.trap n) s g f b →
      exec (.trap n) s = .next (s.trap g f SOFTWARE_TRAP f.lanes (BitVec.ofNat 64 n.toNat) true 4)) ∧
    (∀ (s : State) (g : Gang) (f : Flight) (b : BodyAt), Issues .brk s g f b →
      (g.pastWatch = true → ∃ t, exec .brk s = .next t ∧ Frame {} s t g) ∧
      (g.pastWatch = false → s.jobOf g ∉ s.sessions → exec .brk s = .next (s.trap g f BREAKPOINT f.lanes 0 true 4)) ∧
      (g.pastWatch = false → s.jobOf g ∈ s.sessions → ∃ t h, exec .brk s = .next t ∧ t.gang? g.id = some h ∧ h = { g with halt := .halted } ∧
        t.outbox = s.outbox ++ [.stopped (s.handle g) g.index.toNat] ∧ { t with gangs := s.gangs, outbox := s.outbox } = s ∧
        ∀ j, j ≠ g.id → t.gang? j = s.gang? j))) ∧
  (∀ (i : Instr) (next : Bool) (s : State) (g : Gang) (f : Flight) (b : BodyAt), (i = .tret ∧ next = false ∨ i = .tretNext ∧ next = true) → Issues i s g f b →
      ((∀ l, f.lanes.getLsbD l = true → ∃ d, (g.thread l).delivery = some d ∧ d.unreturned = true) →
        ∃ t h, exec i s = .next t ∧ t.gang? g.id = some h ∧ h.flight = none ∧
          (∀ l d, f.lanes.getLsbD l = true → (g.thread l).delivery = some d →
            (h.thread l).status = .ready ∧ (h.thread l).pc = (if next then d.nextPc else d.rePc) ∧
            (h.thread l).place = (if next then d.nextAt else d.reAt) ∧
            (∀ n, h.vreg l n = if 120 ≤ n ∧ n < 128 then look d.temps n else g.vreg l n) ∧
            ∃ d', (h.thread l).delivery = some d' ∧ d'.unreturned = false) ∧
          { t with gangs := s.gangs } = s ∧ ∀ j, j ≠ g.id → t.gang? j = s.gang? j) ∧
      TrapsIf i s g f ILLEGAL_ENCODING (fun l => ¬∃ d, (g.thread l).delivery = some d ∧ d.unreturned = true) (fun _ => 0))

/-- The header of a clause (R126, R53): at a header position, with assigned codes and its flags at zero, the sub-group starts the body: k0-k7 of its lanes are 0,
every other register is as before, and the slots are latched. With a flag not zero it goes on waiting; with an unassigned code it raises
ILLEGAL_ENCODING; in a body it raises CLAUSE_FORM. -/
def Obligations.ClauseStart : Prop :=
  ∀ (slotB slotA : BitVec 4) (w : BitVec 12) (n : BitVec 5) (s : State) (g : Gang) (f : Flight), s.focus = some g.id → s.gang? g.id = some g → g.flight = some f →
    let i := Instr.clauseHeader slotB slotA w n
    let free := ∀ k, k < 12 → w.getLsbD k = true → g.flag k = 0
    (∀ b, f.place = some b → exec i s = .next (s.trap g f CLAUSE_FORM f.lanes 0 false 4)) ∧
    (f.place = none → i.wf = false → exec i s = .next (s.trap g f ILLEGAL_ENCODING f.lanes 0 false 4)) ∧
    (f.place = none → i.wf = true → free →
      ∃ t h, exec i s = .next t ∧ t.gang? g.id = some h ∧ h.flight = some ⟨f.lanes, pcOf (f.pc + 4), some ⟨slotA, slotB, n.toNat⟩⟩ ∧
        h.issues = g.issues + 1 ∧
        (∀ l k, h.vreg l k = if f.lanes.getLsbD l = true ∧ 120 ≤ k ∧ k < 128 then 0 else g.vreg l k) ∧
        GangFrame { vreg := fun l k => f.lanes.getLsbD l = true ∧ 120 ≤ k } { g with issues := 0 } { h with issues := 0 } ∧
        { t with gangs := s.gangs, serial := s.serial } = s ∧ ∀ j, j ≠ g.id → t.gang? j = s.gang? j) ∧
    (f.place = none → i.wf = true → ¬free → exec i s = .next (s.setGang { g with flight := none }))

/-- vsr and ssr (R92, R93, R340): bits [31:0] of the special register, as each lane reads it, or all of it for the lowest lane; nothing else changes. The
read-only registers 0-11 and 18-22 hold what the table of R92 says, the trap registers of the lowest issuing lane (R347), unless a debugger has given
one of 0-11 another value (R360; log 45). wsr
(R92, R94, R72, R73, R340): a value with a reserved bit raises ILLEGAL_ENCODING; an odd sr.tvec ALIGNMENT, one outside the code space ADDRESS_WINDOW;
otherwise a later read of the register by the gang gives the value, a read-only or unassigned register keeps its own, every other special register reads as
before (sr.evtail aside, where a ring takes the records that waited), and no general register changes. -/
def Obligations.SpecialRegisters : Prop :=
  ((∀ (a d : BitVec 7) (s : State) (g : Gang) (f : Flight) (b : BodyAt), Issues (.vsr a d) s g f b →
      ∃ t h, exec (.vsr a d) s = .next t ∧ t.gang? g.id = some h ∧
        (∀ l, f.lanes.getLsbD l = true → h.vreg l d.toNat = (s.special g f.lanes l a.toNat).setWidth 32) ∧
        (∀ l v, f.lanes.getLsbD l = true → entry? g.shown (if a.toNat = 0 then 64 + l else a.toNat) = none → readOnlySpecial s g f.lanes l a.toNat = some v → h.vreg l d.toNat = BitVec.ofNat 32 v) ∧
        Frame { vreg := fun l n => f.lanes.getLsbD l = true ∧ n = d.toNat } s t g) ∧
    (∀ (a d : BitVec 7) (s : State) (g : Gang) (f : Flight) (b : BodyAt), Issues (.ssr a d) s g f b →
      ∃ t h, exec (.ssr a d) s = .next t ∧ t.gang? g.id = some h ∧
        ((∀ l, (g.thread l).gathers = false) → h.sreg d.toNat = if d.toNat = 0 then 0 else s.special g f.lanes (lowestLane f.lanes) a.toNat) ∧
        (∀ v, (∀ l, (g.thread l).gathers = false) → d.toNat ≠ 0 → entry? g.shown (if a.toNat = 0 then 64 + lowestLane f.lanes else a.toNat) = none → readOnlySpecial s g f.lanes (lowestLane f.lanes) a.toNat = some v → h.sreg d.toNat = BitVec.ofNat 64 v) ∧
        Frame { sreg := fun n => n = d.toNat } s t g)) ∧
  (∀ (a d : BitVec 7) (s : State) (g : Gang) (f : Flight) (b : BodyAt), Issues (.wsr a d) s g f b →
      let v := g.sreg a.toNat
      let n := d.toNat
      (ReservedBits n v → exec (.wsr a d) s = .next (s.trap g f ILLEGAL_ENCODING f.lanes 0 true 4)) ∧
      (n = 23 → v.toNat % 2 = 1 → exec (.wsr a d) s = .next (s.trap g f ALIGNMENT f.lanes v true 4)) ∧
      (n = 23 → v.toNat % 2 = 0 → 2 ^ 56 ≤ v.toNat → exec (.wsr a d) s = .next (s.trap g f ADDRESS_WINDOW f.lanes v true 4)) ∧
      (¬ReservedBits n v → (n = 23 → v.toNat % 2 = 0 ∧ v.toNat < 2 ^ 56) →
        ∃ t h, exec (.wsr a d) s = .next t ∧ t.gang? g.id = some h ∧
          ((∀ l, (g.thread l).gathers = false) → ∀ l k, t.special h f.lanes l k =
            if k = n ∧ k ∈ [12, 13, 14, 15, 16, 17, 23, 33, 34, 35, 36, 38, 39] then v
            else if k = 37 then t.special h f.lanes l 37 else s.special g f.lanes l k) ∧
          (n ≠ 36 → n ≠ 38 → t.common = s.common ∧ t.special h f.lanes 0 37 = s.special g f.lanes 0 37) ∧
          (∀ l k, (g.thread l).gathers = false → h.vreg l k = g.vreg l k) ∧ ((∀ l, (g.thread l).gathers = false) → ∀ k, h.sreg k = g.sreg k ∧ h.mreg k = g.mreg k) ∧
          t.phys = s.phys ∧ t.cus = s.cus ∧ t.teams = s.teams ∧ ∀ j, j ≠ g.id → t.gang? j = s.gang? j))

/-! ## Memory -/

/-- A memory word (R167-R173, R191, R203, R204, R209) that no check of R169 stops, with its flag free and room in the undo log: it issues one operation that
accesses, lane by lane in ascending order, the place that the lane's address names. Its registers and every byte of memory are as before, but for the
A and D bits of the page-table entries that a walk has read (R337); while a phase is in progress, every line of a place to be written has its undo record,
whose 128 bytes lie in the log (R358; what they hold is log 17's). -/
def Obligations.MemoryWords : Prop :=
  ∀ (i : Instr) (m : MemForm) (s : State) (g : Gang) (f : Flight) (b : BodyAt), memForm i = some m → Issues i s g f b → g.flagFree (m.flag b) → g.acquiring = false →
    (∀ l, f.lanes.getLsbD l = true → m.Passes s g l) →
    (m.access.page = .write → s.logFits ((lanesOf f.lanes).map (m.place s g))) →
    ∃ t, exec i s = .next t ∧
      Begins (.mem m.kind (((lanesOf f.lanes).map (m.accesses s g)).flatten)) (m.flag b) s t g f ∧
      WalkedOn s t f m.access.page (m.xlate s g) (m.place s g)

/-- The checks of a memory word over all its lanes, in their order (R169): a bad window, a scratch offset past the allotment, a misaligned address, a page
or granule that forbids the access; each traps in the lanes that have the cause, with the address of the lowest. A memory word that no cause of R169 stops:
a watched address raises BREAKPOINT with the lowest of them (R361), or halts the gang under a debug session; else a page that is not present suspends the
gang, with the lowest such address reported (R169, R350); else a page in transit that is to be written, or an acquire that has not completed, makes the
word stall in place (R185, R179), and so does a flag at 63 where the log has room (R129). A walk that meets an entry it cannot read now stalls the word too.
The model's choices here: the place of the watch after every cause of R169 and before an absent page (log 26), the transit stall and the bits that the
completed walks leave set whatever becomes of the word (log 13), the stall of any later access behind an acquire (log 19), and the stalled walk (log 53). -/
def Obligations.MemoryChecks : Prop :=
  (∀ (i : Instr) (m : MemForm) (s : State) (g : Gang) (f : Flight) (b : BodyAt), memForm i = some m → Issues i s g f b →
      TrapsIf i s g f ADDRESS_WINDOW (fun l => m.target s g l = none) (m.addr g) ∧
      (f.none (fun l => m.target s g l = none) →
        TrapsIf i s g f SCRATCH_RANGE (m.outside s g) (m.addr g) ∧
        (f.none (m.outside s g) →
          TrapsIf i s g f ALIGNMENT (fun l => (m.addr g l).toNat % m.size ≠ 0) (m.addr g) ∧
          (f.none (fun l => (m.addr g l).toNat % m.size ≠ 0) →
            ((∃ l, f.lanes.getLsbD l = true ∧ m.xlate s g l = some .wait) → ∃ l, f.lanes.getLsbD l = true ∧ m.xlate s g l = some .wait ∧
              exec i s = .next ((m.walked s g f).setGang { g with stall := some (.walk (m.addr g l) m.access.page) })) ∧
            (f.none (fun l => m.xlate s g l = some .wait) →
              TrapsIn i s (m.walked s g f) g f PAGE_PROTECTION (fun l => m.xlate s g l = some .protection) (m.addr g)))))) ∧
  (∀ (i : Instr) (m : MemForm) (s : State) (g : Gang) (f : Flight) (b : BodyAt), memForm i = some m → Issues i s g f b →
      f.none (fun l => m.target s g l = none ∨ m.outside s g l ∨ (m.addr g l).toNat % m.size ≠ 0 ∨ m.xlate s g l = some .wait ∨ m.xlate s g l = some .protection) →
      let w := m.walked s g f
      let lowest := fun (p : Nat → Prop) (x : Lanes) (a : W64) =>
        (∀ l, x.getLsbD l = true ↔ f.lanes.getLsbD l = true ∧ p l) ∧ (∃ l, x.getLsbD l = true ∧ a = m.addr g l) ∧ ∀ l, x.getLsbD l = true → a.toNat ≤ (m.addr g l).toNat
      ((∃ l, f.lanes.getLsbD l = true ∧ m.watched s g l) → ∃ x a, lowest (m.watched s g) x a ∧
        (s.jobOf g ∉ s.sessions → exec i s = .next (w.trap g f BREAKPOINT x a true 4)) ∧
        (s.jobOf g ∈ s.sessions → exec i s = .next ((w.setGang { g with halt := .halted }).send (.stopped (s.handle g) g.index.toNat)))) ∧
      (f.none (m.watched s g) →
        ((∃ l, f.lanes.getLsbD l = true ∧ m.xlate s g l = some .fault) → ∃ x a, lowest (fun l => m.xlate s g l = some .fault) x a ∧
          exec i s = .next (w.suspend g f x a (some 4))) ∧
        (f.none (fun l => m.xlate s g l = some .fault) →
          ((m.access.page = .write ∧ ∃ l pa n, f.lanes.getLsbD l = true ∧ m.xlate s g l = some (.ok pa true n)) →
            ∃ l pa n, f.lanes.getLsbD l = true ∧ m.xlate s g l = some (.ok pa true n) ∧ exec i s = .next (w.setGang { g with stall := some (.transit (m.addr g l)) })) ∧
          ((m.access.page = .write → f.none fun l => ∃ pa n, m.xlate s g l = some (.ok pa true n)) → g.acquiring = true →
            exec i s = .next (w.setGang { g with stall := some .acquire })) ∧
          ((m.access.page = .write → f.none fun l => ∃ pa n, m.xlate s g l = some (.ok pa true n)) → g.acquiring = false →
            (m.access.page = .write → s.logFits ((lanesOf f.lanes).map (m.place s g))) →
            ∀ k, m.flag b = some k → 63 ≤ g.flag k → exec i s = .next ((w.logLines (m.records s g f)).setGang { g with stall := some (.flagFull k) })))))

/-- Suspension at a page that is not present (R350), of a user gang: the gang issues nothing until the runtime answers, and a KIND 1 record with a fresh
TAG, the cause, the team's handle and the address is on its way to the die's ring; no register and, but for the ring, no memory changes. The event ring
(R344): a record goes to the place that sr.evtail names, sr.evtail rises by one, and no other byte of memory changes, when the die has a ring, no record
waits and the ring is not full; otherwise it waits behind those that wait, and nothing else changes. -/
def Obligations.SuspensionAndRing : Prop :=
  (∀ (s : State) (g : Gang) (f : Flight) (t : Lanes) (addr : W64) (size : Option Nat), s.gang? g.id = some g → s.system g = false →
      (∃ h, (s.suspend g f t addr size).gang? g.id = some h ∧ h.suspended = some s.freshTag ∧ h.stopped = true ∧
        h = { g with suspended := some s.freshTag, flight := if f.place = none then none else some f }) ∧
      (∃ r, r ∈ (s.suspend g f t addr size).requests ∧ r.tag = s.freshTag ∧ r.addr = addr ∧ r.what = .word g.id t size) ∧
      s.suspend g f t addr size = (({ s with named := s.named + 1, requests := s.requests ++ [TagReq.mk s.freshTag addr (.word g.id t size)] }).setGang
        { g with suspended := some s.freshTag, flight := if f.place = none then none else some f }).record (dieOf (s.cuOf g)) 1 PAGE_NOT_PRESENT s.freshTag (s.handle g) addr) ∧
  (∀ (s : State) (d kind cause : Nat) (tag : W32) (handle addr : W64),
      let x := s.die d
      let r : EventRecord := ⟨addr, handle, tag, BitVec.ofNat 8 cause, BitVec.ofNat 8 kind⟩
      let t := s.record d kind cause tag handle addr
      let off := 65536 * x.evring.toNat + 32 * (x.evtail.toNat % 2048)
      (x.hasRing = true → x.evtail - x.evhead ≠ 2048 → x.pending = [] →
        (t.die d).evtail = x.evtail + 1 ∧ (t.die d).pending = [] ∧
        readNat t.common off 32 = r.kind.toNat + r.cause.toNat * 2 ^ 8 + r.tag.toNat * 2 ^ 96 + r.handle.toNat * 2 ^ 128 + r.addr.toNat * 2 ^ 192 ∧
        ∀ a, (a < off ∨ off + 32 ≤ a) → look t.common a = look s.common a) ∧
      ((x.hasRing = false ∨ x.evtail - x.evhead = 2048) → t = s.onDie d fun y => { y with pending := y.pending ++ [r] }) ∧
      { t with common := s.common, dies := s.dies } = s)

/-- An access of a load is performed (R170, R178), with every other lane of the word that names the place: the registers of each of these lanes are to
receive the bytes that the issuing CU's view holds at the place, so that they receive one value, extended as the width says, and no byte changes in any view
or home. The registers of a load of each width (R170): i8, n8, i16, n16 and b32 in one register, b64 in two and each half of a b128 in two; little-endian.
An access of a store is performed in the issuing CU's view (R170, R177, R178), with every other lane of the word that names the place: the CU then reads the
bytes of the highest such lane at the place, every other byte of its view is as before, and of a global store no home and no other CU's view changes.
A view cache that is full and does not hold the line gives up another one (R13, R178; which one is log 18's): then homes may receive bytes that were dirty in
the CU, and views may show them. -/
def Obligations.AccessPerforms : Prop :=
  ((∀ (s : State) (g : Gang) (o : Op) (w i : Nat) (accs : List Access) (a : Access), s.gang? g.id = some g → g.op? o.id = some o →
        o.body = .mem (.load w) accs → accs[i]? = some a → s.mayPerformAll g o i a = true →
        (∀ n, a.place = .phys n → ∀ c ∈ accs, c.place = a.place → n / 64 = (n + c.size - 1) / 64) →
        ∃ t h q, s.own (.perform g.id o.id i) = some t ∧ t.gang? g.id = some h ∧ h.op? o.id = some q ∧
          q.land = o.land ++ ((samePlace accs a).map fun b =>
            (b.1.dst.zip (loadWords w (s.viewBytes (s.cuOf g) a.place b.1.size))).map fun p => (⟨b.1.lane, p.1, p.2⟩ : Landing)).flatten ∧
          (∃ accs', q.body = .mem (.load w) accs' ∧ ∀ j : Nat, accs'[j]? = accs[j]?.map fun (b : Access) => if b.place = a.place then { b with done := true } else b) ∧
          (s.viewRoom (s.cuOf g) a.place → (∀ cu p, t.viewBytes cu p 1 = s.viewBytes cu p 1) ∧ ∀ p, t.homeBytes p 1 = s.homeBytes p 1) ∧
          (∀ cu p, HomeKept s t (s.cuOf g) p ∧ ViewKept s t cu p)) ∧
    ((∀ x : Byte, loadWords 0 [x] = [BitVec.ofInt 32 x.toInt] ∧ loadWords 1 [x] = [BitVec.ofNat 32 x.toNat]) ∧
      (∀ x y : Byte, loadWords 2 [x, y] = [BitVec.ofInt 32 (y ++ x).toInt] ∧ loadWords 3 [x, y] = [BitVec.ofNat 32 (x.toNat + 256 * y.toNat)]) ∧
      (∀ a b c d : Byte, loadWords 4 [a, b, c, d] = [d ++ c ++ b ++ a]) ∧
      (∀ a b c d p q r s : Byte, ∀ w, w = 5 ∨ w = 6 → loadWords w [a, b, c, d, p, q, r, s] = [d ++ c ++ b ++ a, s ++ r ++ q ++ p]))) ∧
  (∀ (s : State) (g : Gang) (o : Op) (i n : Nat) (accs : List Access) (a b : Access) (vs : List W32), s.gang? g.id = some g →
      g.op? o.id = some o → o.body = .mem .store accs → accs[i]? = some a → s.mayPerformAll g o i a = true →
      (samePlace accs a).getLast? = some (b, n) → b.values = some vs → (∀ c ∈ accs, c.place = a.place → c.size = a.size) →
      (∀ n, a.place = .phys n → n / 64 = (n + a.size - 1) / 64) → (∀ t n, a.place = .scratch t n → (s.team? t).isSome = true) → 0 < a.size →
      ∃ t, s.own (.perform g.id o.id i) = some t ∧
        t.viewBytes (s.cuOf g) a.place a.size = storeOf a.size vs ∧
        (s.viewRoom (s.cuOf g) a.place →
          (∀ p, overlap p 1 a.place a.size = false → t.viewBytes (s.cuOf g) p 1 = s.viewBytes (s.cuOf g) p 1) ∧
          (∀ n, a.place = .phys n → (∀ p, t.homeBytes p 1 = s.homeBytes p 1) ∧ ∀ cu p, cu ≠ s.cuOf g → t.viewBytes cu p 1 = s.viewBytes cu p 1)) ∧
        (∀ cu p, overlap p 1 a.place a.size = false → HomeKept s t (s.cuOf g) p ∧ ViewKept s t cu p))

/-- ATOMIC_PERFORM (R203, R205, R209, R182): each lane's operation is performed once at its place, lanes of one place one after another in ascending order; each
lane receives the value that the earlier lanes left, every place holds the last value, no byte of another place changes at home but for the CU's own dirty bytes that are written
back, and the operation is complete. -/
def Obligations.AtomicsPerform : Prop :=
  ∀ (s : State) (g : Gang) (o : Op) (k : MemKind) (accs : List Access), s.gang? g.id = some g → g.op? o.id = some o → Performable s g o k accs →
    let old := fun (j : Nat) (a : Access) => modifiedBy k a.place (accs.take j) (leNat ((s.ownHome (s.cuOf g) a.place).homeBytes a.place a.size))
    ∃ t h, exec (.atomicPerform g.id o.id) s = .next t ∧ t.gang? g.id = some h ∧ h.op? o.id = none ∧
      (∀ a ∈ accs, leNat (t.homeBytes a.place a.size) = old accs.length a ∧ t.viewBytes (s.cuOf g) a.place a.size = t.homeBytes a.place a.size) ∧
      (∀ j a, accs[j]? = some a → ∀ n r, a.dst[n]? = some r → n < 2 → a.dst.Nodup → r < 120 → h.vreg a.lane r = BitVec.ofNat 32 (old j a / 2 ^ (32 * n))) ∧
      (∀ l r, (∀ a ∈ accs, a.lane = l → r ∉ a.dst) → h.vreg l r = g.vreg l r) ∧
      (∀ p, (∀ a ∈ accs, overlap p 1 a.place a.size = false) → t.viewBytes (s.cuOf g) p 1 = s.viewBytes (s.cuOf g) p 1 ∧ HomeKept s t (s.cuOf g) p)

/-- MEMORY_OP_COMPLETE (R129, R131, R171, R192, R205): once every access of a load, a store, a reduction or an acquire or release access has been performed,
the results that have not landed land in their registers, the flag falls, and an ld.acq acquires at its scope; no other register changes. That an acquire
reads the clean bytes of a dirty line again from their home, where R179 speaks of clean lines, is the model's choice (log 15). -/
def Obligations.MemoryCompletes : Prop :=
  ∀ (s : State) (g : Gang) (o : Op) (k : MemKind) (accs : List Access), s.gang? g.id = some g → g.op? o.id = some o → o.body = .mem k accs →
    (∀ x, k ≠ .atom x) → (∀ x, k ≠ .rwl x) → k ≠ .jcadd → (∀ a ∈ accs, a.done = true) → o.sland = [] → (∀ x ∈ o.land, x.lane < g.threads.length ∧ x.lane < 64) →
    ∃ t h, exec (.memoryOpComplete g.id o.id) s = .next t ∧ t.gang? g.id = some h ∧
      h.ops = g.ops.filter (fun q => decide (q.id ≠ o.id)) ∧
      (∀ l n v, ⟨l, n, v⟩ ∈ o.land → (∀ x ∈ o.land, x.lane = l → x.reg = n → x.val = v) → (n < 120 ∨ (g.thread l).clause = o.clauseAt l) → h.vreg l n = v) ∧
      (∀ l n, (∀ x ∈ o.land, x.lane = l → x.reg ≠ n) → h.vreg l n = g.vreg l n) ∧ h.sregs = g.sregs ∧ h.masks = g.masks ∧
      (∀ p, t.homeBytes p 1 = s.homeBytes p 1) ∧
      ((∀ c, k ≠ .ldAcq c) → ∀ cu p, t.viewBytes cu p 1 = s.viewBytes cu p 1) ∧
      (∀ c, k = .ldAcq c → 2 ≤ c → Refreshed s t (s.cuOf g)) ∧ (∀ c, k = .ldAcq c → 3 ≤ c → t.graph.gen ≤ (t.cu (s.cuOf g)).view)

/-- A reduction that leaves its CU, and REDUCTION_APPLY (R203, R205, R182, R172): the operands of the lanes that name one place leave together, in lane order,
while no byte but the CU's own dirty ones of that line reaches a home and the CU's view is as before; such a reduction is applied once, at its home, lane after
lane, no other home changes, each CU it came from then reads the new value there, and it is outstanding no more. -/
def Obligations.ReductionsApply : Prop :=
  (∀ (s : State) (g : Gang) (o : Op) (x i : Nat) (accs : List Access) (a : Access), s.gang? g.id = some g → g.op? o.id = some o → o.body = .mem (.red x) accs →
    accs[i]? = some a → s.mayPerformAll g o i a = true →
    ∃ t h q, s.own (.perform g.id o.id i) = some t ∧ t.gang? g.id = some h ∧ h.op? o.id = some q ∧
      t.reds = s.reds ++ [⟨s.serial, [(s.cuOf g, g.id, o.id)], a.place, x,
        (samePlace accs a).map fun p => ((p.1.values.getD []).getD 0 0, (p.1.values.getD []).getD 1 0)⟩] ∧ t.serial = s.serial + 1 ∧
      (∃ accs', q.body = .mem (.red x) accs' ∧ ∀ j : Nat, accs'[j]? = accs[j]?.map fun (b : Access) => if b.place = a.place then { b with done := true } else b) ∧
      (∀ p, HomeKept s t (s.cuOf g) p ∧ t.viewBytes (s.cuOf g) p 1 = s.viewBytes (s.cuOf g) p 1) ∧ ∀ l n, h.vreg l n = g.vreg l n) ∧
  ∀ (s : State) (r : Red), (s.reds.find? fun x => decide (x.id = r.id)) = some r → s.accessible r.place 4 = true → (∀ t n, r.place = .scratch t n → (s.team? t).isSome = true) →
    ∃ t, exec (.reductionApply r.id) s = .next t ∧ t.reds = s.reds.filter (fun y => decide (y.id ≠ r.id)) ∧
      leNat (t.homeBytes r.place 4) =
        (r.ds.foldl (fun m d => modifyResult true r.x m d.1 d.2) (BitVec.ofNat 32 (leNat (s.homeBytes r.place 4)))).toNat ∧
      (∀ p, overlap p 1 r.place 4 = false → t.homeBytes p 1 = s.homeBytes p 1) ∧
      (∀ c ∈ r.sources, (∀ n, r.place = .phys n → n / 64 = (n + 3) / 64) → t.viewBytes c.1 r.place 4 = t.homeBytes r.place 4)

/-- The events of memory and of stalls happen only where the state enables them: an operation that is not there, an access still to be performed, a
reduction that is gone or a stall that lasts leaves them without a next state. STALLED_WORD_RESUME (R127): once what a stalled word waits for has come, the
gang's word may issue again; no register and no memory changes. -/
def Obligations.StallsAndWaitingEvents : Prop :=
  (∀ (s : State) (g o r : Nat),
      (s.op? g o = none → exec (.memoryOpComplete g o) s = .fault .notEnabled ∧ exec (.atomicPerform g o) s = .fault .notEnabled) ∧
      (∀ x y k accs a, s.op? g o = some (x, y) → y.body = .mem k accs → a ∈ accs → a.done = false → exec (.memoryOpComplete g o) s = .fault .notEnabled) ∧
      ((∀ x ∈ s.reds, x.id ≠ r) → exec (.reductionApply r) s = .fault .notEnabled) ∧
      (∀ x, s.gang? g = some x → (x.stall = none ∨ ∃ st, x.stall = some st ∧ s.stallOver x st = false) → exec (.stalledWordResume g) s = .fault .notEnabled)) ∧
  (∀ (s : State) (g : Gang) (st : Stall), s.gang? g.id = some g → g.stall = some st →
      (match st with
        | .flagFull k => g.flag k < 63
        | .sealed16 => g.batches.length < 16
        | .acquire => g.acquiring = false
        | .earlier => s.earlierPerformed g s.serial = true
        | .earlierLoads => g.earlierRead s.serial = true
        | .fcopies => g.earlierFcopies s.serial = true
        | .logFull tag | .capacity tag => ∀ q ∈ s.requests, q.tag ≠ tag
        | .supply => g.suppliers = []
        | st => s.stallOver g st = true) →
      ∃ t h, exec (.stalledWordResume g.id) s = .next t ∧ t.gang? g.id = some h ∧ h = { g with stall := none, stalls := h.stalls } ∧
        { t with gangs := s.gangs, tick := s.tick } = s ∧ ∀ j, j ≠ g.id → t.gang? j = s.gang? j)

/-- The fences (R179, R193, R258, R260): a release stalls until the gang's earlier accesses have been performed, an acquire until its earlier loads have completed,
and a release from clus scope up while a dirty line of the CU cannot be written back (R355, R357).
From clus scope up, a release leaves every dirty byte of the CU's view at its home and no dirty line, and an acquire leaves no clean byte that differs from its
home; from die scope up, the CU's tentative mutations are committed and its view generation is the latest. No register changes. The model's choices here: an acquire reads the clean bytes of a dirty line again from their home, where
R179 speaks of clean lines (log 15), and a fence too stalls behind an earlier ld.acq or rread (log 19). -/
def Obligations.FenceWords : Prop :=
  ∀ (i : Instr) (sc : BitVec 3) (acq rel : Bool) (s : State) (g : Gang) (f : Flight) (b : BodyAt),
    (i = .fence sc ∧ acq = true ∧ rel = true ∨ i = .fenceAcq sc ∧ acq = true ∧ rel = false ∨ i = .fenceRel sc ∧ acq = false ∧ rel = true) → Issues i s g f b →
    let cu := s.cuOf g
    (g.acquiring = true → exec i s = .next (s.setGang { g with stall := some .acquire })) ∧
    (g.acquiring = false → rel = true → s.earlierPerformed g s.serial = false → exec i s = .next (s.setGang { g with stall := some .earlier })) ∧
    (g.acquiring = false → rel = true → s.earlierPerformed g s.serial = true → sc = 5 → g.earlierFcopies s.serial = false →
      exec i s = .next (s.setGang { g with stall := some .fcopies })) ∧
    (g.acquiring = false → rel = true → s.earlierPerformed g s.serial = true → (sc = 5 → g.earlierFcopies s.serial = true) → 2 ≤ sc.toNat → s.flushable cu = false →
      exec i s = .next (s.setGang { g with stall := some .flush })) ∧
    let released := rel = true → s.earlierPerformed g s.serial = true ∧ (sc = 5 → g.earlierFcopies s.serial = true) ∧ (2 ≤ sc.toNat → s.flushable cu = true)
    (g.acquiring = false → released → acq = true → g.earlierRead s.serial = false → exec i s = .next (s.setGang { g with stall := some .earlierLoads })) ∧
    (g.acquiring = false → released →
      (acq = true → g.earlierRead s.serial = true) →
      ∃ t h, exec i s = .next t ∧ t.gang? g.id = some h ∧ GangFrame {} g h ∧ (∀ j, j ≠ g.id → t.gang? j = s.gang? j) ∧
        (rel = true → 2 ≤ sc.toNat → WrittenBack s t cu) ∧
        (acq = true → 2 ≤ sc.toNat → Refreshed s t cu) ∧
        (rel = true → 3 ≤ sc.toNat → ∀ x ∈ t.graph.graphs, ∀ m ∈ x.tentative, m.1 ≠ cu) ∧
        (acq = true → 3 ≤ sc.toNat → t.graph.gen ≤ (t.cu cu).view) ∧
        (∀ a, (∀ x, (s.cu cu).line? (a / 64) = some x → x.dirty.getLsbD (a % 64) = false) → look t.phys a = look s.phys a) ∧
        (∀ c, c ≠ cu → t.cu c = s.cu c) ∧ { t with gangs := s.gangs, phys := s.phys, cus := s.cus, graph := s.graph } = s)

/-- togen, ofgen and isin (R175): in each issuing lane the pair D, D+1 holds the converted address, or 0xFFFF_FFFF in both where the value has none; isin changes
only the bits of the issuing lanes; nothing else changes. -/
def Obligations.AddressConversion : Prop :=
  (∀ (p : BitVec 3) (a d : BitVec 7) (s : State) (g : Gang) (f : Flight) (b : BodyAt), Issues (.togen p a d) s g f b →
    ∃ t h, exec (.togen p a d) s = .next t ∧ t.gang? g.id = some h ∧
      (∀ l, f.lanes.getLsbD l = true →
        let v := toGeneric p.toNat (generalSource g p.toNat a l)
        (v < 2 ^ 64 ∧ inSpace s g p.toNat (BitVec.ofNat 64 v) → h.pairIs l d.toNat (BitVec.ofNat 64 v)) ∧
        (¬(v < 2 ^ 64 ∧ inSpace s g p.toNat (BitVec.ofNat 64 v)) → h.vreg l d.toNat = 0xFFFFFFFF ∧ h.vreg l (d.toNat + 1) = 0xFFFFFFFF)) ∧
      Frame { vreg := fun l n => f.lanes.getLsbD l = true ∧ (n = d.toNat ∨ n = d.toNat + 1) } s t g) ∧
  (∀ (p : BitVec 3) (a d : BitVec 7) (s : State) (g : Gang) (f : Flight) (b : BodyAt), Issues (.ofgen p a d) s g f b →
    ∃ t h, exec (.ofgen p a d) s = .next t ∧ t.gang? g.id = some h ∧
      (∀ l, f.lanes.getLsbD l = true →
        let v := BitVec.ofNat 64 (generalSource g 0 a l)
        (inSpace s g p.toNat v → h.pairIs l d.toNat (BitVec.ofNat 64 (v.toNat % 2 ^ 56))) ∧
        (¬inSpace s g p.toNat v → h.vreg l d.toNat = 0xFFFFFFFF ∧ h.vreg l (d.toNat + 1) = 0xFFFFFFFF)) ∧
      Frame { vreg := fun l n => f.lanes.getLsbD l = true ∧ (n = d.toNat ∨ n = d.toNat + 1) } s t g) ∧
  (∀ (p : BitVec 3) (a : BitVec 7) (m : BitVec 4) (s : State) (g : Gang) (f : Flight) (b : BodyAt), Issues (.isin p a m) s g f b →
    ∃ t h, exec (.isin p a m) s = .next t ∧ t.gang? g.id = some h ∧
      ((∀ l, (g.thread l).gathers = false) → ∀ l, l < g.width → l < 64 → ((h.mreg m.toNat).getLsbD l = true ↔
        (f.lanes.getLsbD l = true ∧ inSpace s g p.toNat (BitVec.ofNat 64 (generalSource g 0 a l))) ∨
        (f.lanes.getLsbD l = false ∧ (g.mreg m.toNat).getLsbD l = true))) ∧
      Frame { mask := fun n => n = m.toNat } s t g)

/-- jmpt (R148): an index past the table, a table that is not global or not aligned, and, once every entry can be read, a target outside the code space or an odd one (R147) raise their causes
in that order, the last two with sr.taddr the target of the lowest lane that has one; else each lane goes to the header position at the table base plus its entry, read in the CU's view as an i32; no register changes. That the
read of an entry matches a load watch is the model's choice (log 26). -/
def Obligations.TableJump : Prop :=
  ∀ (sb : BitVec 6) (a : BitVec 7) (s : State) (g : Gang) (f : Flight) (b : BodyAt), Issues (.jmpt sb a) s g f b →
    let i := Instr.jmpt sb a
    let base := g.sreg sb.toNat
    let idx := fun l => (g.vreg l a.toNat).toNat
    let at_ := fun l => base + BitVec.ofNat 64 (4 * idx l)
    TrapsIf i s g f TABLE_RANGE (fun l => (g.sreg (sb.toNat + 1)).toNat ≤ idx l) (fun _ => base) ∧
    (f.none (fun l => (g.sreg (sb.toNat + 1)).toNat ≤ idx l) →
      TrapsIf i s g f ADDRESS_WINDOW (fun _ => 2 ^ 56 ≤ base.toNat) (fun _ => base) ∧
      (base.toNat < 2 ^ 56 → TrapsIf i s g f ALIGNMENT (fun _ => base.toNat % 4 ≠ 0) (fun _ => base))) ∧
    ∀ (pa : Nat → Nat) (tr : Nat → Bool) (new : Nat → Option Page) (target : Nat → W64),
      (∀ l, f.lanes.getLsbD l = true → idx l < (g.sreg (sb.toNat + 1)).toNat ∧ (at_ l).toNat < 2 ^ 56 ∧
        s.translate (s.cuOf g) (s.asidOf g) (at_ l).toNat .read = .ok (pa l) (tr l) (new l) ∧ s.accessible (.phys (pa l)) 4 = true ∧
        s.lineSound (s.cuOf g) (.phys (pa l)) = true ∧ s.lineRoom (s.cuOf g) (.phys (pa l)) = true ∧ s.inOrder (s.cuOf g) s.serial 0 (.phys (pa l)) 4 = true ∧
        (g.pastWatch = true ∨ watchHit (s.die (dieOf (s.cuOf g))) (s.asidOf g) true false false (at_ l).toNat 4 = false) ∧
        target l = base + BitVec.ofInt 64 (BitVec.ofNat 32 (leNat (s.viewBytes (s.cuOf g) (.phys (pa l)) 4))).toInt) →
      base.toNat < 2 ^ 56 → base.toNat % 4 = 0 → g.acquiring = false →
      let far := fun l => 2 ^ 56 ≤ (target l).toNat
      let odd := fun l => (target l).toNat % 2 = 1
      let raises := fun (c : Nat) (p : Nat → Prop) => (∃ l, f.lanes.getLsbD l = true ∧ p l) → ∃ (u : State) (m : Lanes) (low : Nat), Caught f p m low ∧
        { u with phys := s.phys, cus := s.cus } = s ∧ exec i s = .next (u.trap g f c m (target low) true 4)
      raises ADDRESS_WINDOW far ∧ (f.none far → raises ALIGNMENT odd) ∧
      (f.none far → f.none odd →
        ∃ t h, exec i s = .next t ∧ t.gang? g.id = some h ∧ (∀ l, f.lanes.getLsbD l = true → (h.thread l).standsAt (target l)) ∧ GangFrame {} g h ∧
          { t with gangs := s.gangs, phys := s.phys, cus := s.cus } = s ∧ ∀ j, j ≠ g.id → t.gang? j = s.gang? j)

/-! ## Barriers -/

/-- The checks of the barrier words (R198, R200): a number at or past the team's count, a bad init, and a count that the barrier does not take raise
BARRIER_STATE with sr.taddr := b; a rarrive at a rank that its group does not have raises ADDRESS_WINDOW with the rank. The barrier words with their effect
(R196-R200): init sets EXP and keeps the round; an arrival raises ARR by its count and completes the round at EXP; the arriving gang aims at the round
after the present one, and a rarrive leaves every aim; query reads the fields. An arrwait or a wait blocks its lanes until (rnd − t_g) mod 2^16 < 2^15.
Every other barrier of the team, and every other team, is as before. rarrive (R200): it arrives at the barrier of the team whose rank it names, changes no
aim of the issuing gang, and is a release at clus scope, so that it stalls while a dirty line cannot be written back. A wait for a round that held a remote
arrival acquires at clus scope (R200); which rounds are remembered as such is log 20's, and what an acquire reads again log 15's. -/
def Obligations.BarrierWords : Prop :=
  (∀ (i : Instr) (n : BitVec 4) (s : State) (g : Gang) (f : Flight) (b : BodyAt), Issues i s g f b →
      let t := s.teamOf g
      let bad := exec i s = .next (s.trap g f BARRIER_STATE f.lanes (BitVec.ofNat 64 n.toNat) true 4)
      (∀ a, (i = .barInit a n ∨ i = .barArrive a n ∨ i = .barArrwait a n ∨ i = .barWait n ∨ i = .barQuery a n) → t.barCount ≤ n.toNat → bad) ∧
      (∀ a, i = .barInit a n → n.toNat < t.barCount → ((t.barrier n.toNat).arr ≠ 0 ∨ 0xFFFF < (g.sreg a.toNat).toNat) → bad) ∧
      (∀ a, (i = .barArrive a n ∨ i = .barArrwait a n) → n.toNat < t.barCount → ¬takes (t.barrier n.toNat) (arrivals g f a) → bad) ∧
      (∀ c a, i = .barRarrive c a n → s.rankTeam t (g.sreg c.toNat).toNat = none →
        exec i s = .next (s.trap g f ADDRESS_WINDOW f.lanes (g.sreg c.toNat) true 4)) ∧
      (∀ c a u, i = .barRarrive c a n → s.rankTeam t (g.sreg c.toNat).toNat = some u → (u.barCount ≤ n.toNat ∨ ¬takes (u.barrier n.toNat) (arrivals g f a)) → bad)) ∧
  ((∀ (i : Instr) (n : BitVec 4) (s : State) (g : Gang) (f : Flight) (b : BodyAt) (x : Team), Issues i s g f b → s.team? g.team = some x → n.toNat < x.barCount →
        let r := x.barrier n.toNat
        let others := fun (t : State) => (∀ y k, t.team? g.team = some y → k ≠ n.toNat → y.barrier k = x.barrier k) ∧ ∀ j, j ≠ g.team → t.team? j = s.team? j
        (∀ a, i = .barInit a n → r.arr = 0 → (g.sreg a.toNat).toNat ≤ 0xFFFF →
          ∃ t h y, exec i s = .next t ∧ t.gang? g.id = some h ∧ GangFrame {} g h ∧ t.team? g.team = some y ∧
            y.barrier n.toNat = { r with exp := BitVec.ofNat 16 (g.sreg a.toNat).toNat } ∧ others t ∧ { t with gangs := s.gangs, teams := s.teams } = s) ∧
        (∀ a, i = .barQuery a n →
          ∃ t h, exec i s = .next t ∧ t.gang? g.id = some h ∧
            ((∀ l, (g.thread l).gathers = false) → a.toNat ≠ 0 → (h.sreg a.toNat).toNat =
              (look g.targets n.toNat).toNat * 2 ^ 48 + r.rnd.toNat * 2 ^ 32 + r.arr.toNat * 2 ^ 16 + r.exp.toNat) ∧
            Frame { sreg := fun k => k = a.toNat } s t g) ∧
        (∀ a, (i = .barArrive a n ∨ i = .barArrwait a n) → takes r (arrivals g f a) → s.earlierPerformed g s.serial = true →
          ∃ t h y, exec i s = .next t ∧ t.gang? g.id = some h ∧ t.team? g.team = some y ∧ Arrived r (y.barrier n.toNat) (arrivals g f a) ∧ others t ∧
            look h.targets n.toNat = r.rnd + 1 ∧ (∀ k, k ≠ n.toNat → look h.targets k = look g.targets k) ∧
            (i = .barArrwait a n → ∀ l, l < g.width → f.lanes.getLsbD l = true →
              if r.arr.toNat + arrivals g f a = r.exp.toNat then (h.thread l).standsAt (pcOf (f.pc + 4)) else (h.thread l).status = .blocked (.bar n.toNat) ∧ (h.thread l).pc = f.pc) ∧
            (∀ l k, (g.thread l).gathers = false → h.vreg l k = g.vreg l k) ∧ t.phys = s.phys ∧ t.common = s.common) ∧
        (i = .barWait n →
          ∃ t h y, exec i s = .next t ∧ t.gang? g.id = some h ∧ t.team? g.team = some y ∧ { y with barriers := x.barriers } = x ∧
            { y.barrier n.toNat with owed := r.owed } = r ∧ others t ∧
            (∀ l, l < g.width → f.lanes.getLsbD l = true →
              if (r.rnd - look g.targets n.toNat).toNat < 2 ^ 15 then (h.thread l).standsAt (pcOf (f.pc + 4)) else (h.thread l).status = .blocked (.bar n.toNat) ∧ (h.thread l).pc = f.pc) ∧
            (∀ l k, (g.thread l).gathers = false → h.vreg l k = g.vreg l k) ∧ t.phys = s.phys ∧ t.common = s.common ∧
            ((look g.targets n.toNat ∈ r.remotes ∨ ∃ m ∈ r.owed, (look g.targets n.toNat - m).toNat < 2 ^ 15) → (r.rnd - look g.targets n.toNat).toNat < 2 ^ 15 → (∃ l, l < g.width ∧ l < 64 ∧ f.lanes.getLsbD l = true) →
              Refreshed s t x.cu))) ∧
    (∀ (c a : BitVec 7) (n : BitVec 4) (s : State) (g : Gang) (f : Flight) (b : BodyAt) (u : Team), Issues (.barRarrive c a n) s g f b →
        s.rankTeam (s.teamOf g) (g.sreg c.toNat).toNat = some u → s.team? u.id = some u → n.toNat < u.barCount → takes (u.barrier n.toNat) (arrivals g f a) →
        s.earlierPerformed g s.serial = true →
        (s.flushable (s.cuOf g) = false → exec (.barRarrive c a n) s = .next (s.setGang { g with stall := some .flush })) ∧
        (s.flushable (s.cuOf g) = true → ∃ t h y, exec (.barRarrive c a n) s = .next t ∧ t.gang? g.id = some h ∧ t.team? u.id = some y ∧ Arrived (u.barrier n.toNat) (y.barrier n.toNat) (arrivals g f a) ∧
          (∀ k, k ≠ n.toNat → y.barrier k = u.barrier k) ∧ (∀ j, j ≠ u.id → t.team? j = s.team? j) ∧ h.targets = g.targets ∧
          WrittenBack s t (s.cuOf g) ∧ t.common = s.common)))

/-! ## Copies, carousels and batches -/

/-- copy and the fabric copies (R214, R219, R220, R231): a carousel that does not fit raises CAROUSEL, unequal element counts or a format pair without a conversion
ILLEGAL_ENCODING, a remote record outside window 0 or an unknown flow ADDRESS_WINDOW, and a record at home that does not pass its own checks their cause; where they pass and
the flag is free, a copy that moves nothing and has no follow-on is complete at once, and any other joins the engine's queue, once that has room, with all that it captures, and
nothing else changes. The order of the checks of a fabric copy is the model's choice (log 54); so is that an empty copy with a follow-on joins the queue (log 36). -/
def Obligations.CopyIssue : Prop :=
  (∀ (x : BitVec 3) (l : BitVec 1) (c : BitVec 4) (m : BitVec 2) (fo : BitVec 1) (yd ys : BitVec 3) (s : State) (g : Gang) (f : Flight) (b : BodyAt),
    Issues (.copy x l c m fo yd ys) s g f b →
    let i := Instr.copy x l c m fo yd ys
    let src := look g.layouts ys.toNat
    let dst := look g.layouts yd.toNat
    let flag := slotFlag (if l = 0 then b.slotA else b.slotB)
    let into := copyDest (s.teamOf g) c dst
    let pair := lyCount src = lyCount dst ∧ xfLegal x.toNat (lyFmt src) (lyFmt dst) = true
    (¬carouselFits (s.teamOf g) c dst → exec i s = .next (s.trap g f CAROUSEL f.lanes (BitVec.ofNat 64 c.toNat) true 4)) ∧
    (carouselFits (s.teamOf g) c dst → ¬pair → exec i s = .next (s.trap g f ILLEGAL_ENCODING f.lanes 0 true 4)) ∧
    (carouselFits (s.teamOf g) c dst → pair → ∀ e, s.recordCause g src = some e → exec i s = .next (s.trap g f e f.lanes (lyBase src) true 4)) ∧
    (carouselFits (s.teamOf g) c dst → pair → s.recordCause g src = none → ∀ e, s.recordCause g into = some e →
      exec i s = .next (s.trap g f e f.lanes (lyBase into) true 4)) ∧
    let good := carouselFits (s.teamOf g) c dst ∧ pair ∧ s.recordCause g src = none ∧ s.recordCause g into = none
    (good → lyCount src = 0 → fo = 0 → g.flagFree flag → CopiesNothing i s g) ∧
    (good → ¬(lyCount src = 0 ∧ fo = 0) → s.copyRoom (s.cuOf g) = false → exec i s = .next (s.setGang { g with stall := some .copyQueue })) ∧
    (good → ¬(lyCount src = 0 ∧ fo = 0) → s.copyRoom (s.cuOf g) = true → g.flagFree flag →
      ∃ t k, exec i s = .next t ∧ Begins (.copy k) flag s t g f ∧ SameAround s t ∧ k.remote = none ∧
        Captured g src into x.toNat (if c = 15 then none else some c.toNat) k ∧ k.follow = if fo = 1 then some (m.toNat, look g.slots m.toNat) else none)) ∧
  (∀ (i : Instr) (inward : Bool) (n : BitVec 6) (l : BitVec 1) (yr yl : BitVec 3) (s : State) (g : Gang) (f : Flight) (b : BodyAt),
    (i = .fcopyTo n l yr yl ∧ inward = false ∨ i = .fcopyFrom n l yr yl ∧ inward = true) → Issues i s g f b →
    let far := look g.layouts yr.toNat
    let near := look g.layouts yl.toNat
    let flow := g.sreg n.toNat
    let src := if inward then far else near
    let dst := if inward then near else far
    let same := lyCount far = lyCount near ∧ lyFmt far = lyFmt near
    let known := ∃ x ∈ s.flows, x.handle = flow ∧ x.job = s.jobOf g
    let flag := slotFlag (if l = 0 then b.slotA else b.slotB)
    (¬same → exec i s = .next (s.trap g f ILLEGAL_ENCODING f.lanes 0 true 4)) ∧
    (same → lyWin far ≠ 0 → exec i s = .next (s.trap g f ADDRESS_WINDOW f.lanes (lyBase far) true 4)) ∧
    (same → lyWin far = 0 → ¬known → exec i s = .next (s.trap g f ADDRESS_WINDOW f.lanes flow true 4)) ∧
    (same → lyWin far = 0 → known → ∀ e, s.recordCause g near = some e → exec i s = .next (s.trap g f e f.lanes (lyBase near) true 4)) ∧
    let good := same ∧ lyWin far = 0 ∧ known ∧ s.recordCause g near = none
    (good → lyCount near = 0 → g.flagFree flag → CopiesNothing i s g) ∧
    (good → lyCount near ≠ 0 → s.copyRoom (s.cuOf g) = false → exec i s = .next (s.setGang { g with stall := some .copyQueue })) ∧
    (good → lyCount near ≠ 0 → s.copyRoom (s.cuOf g) = true → g.flagFree flag →
      ∃ t k, exec i s = .next t ∧ Begins (.copy k) flag s t g f ∧ SameAround s t ∧ Captured g src dst 0 none k ∧ k.follow = none ∧
        ∃ r, k.remote = some r ∧ r.flow = flow ∧ r.inward = inward ∧ r.bytes = none))

/-- seal and cwait (R223): a seal gives the next batch number and closes the gang's open copies into that batch, and stalls in place with 16 unreported batches; a cwait with an empty
range completes at once with 0, and any other is outstanding on slot A's flag for the batches of its range. -/
def Obligations.BatchWords : Prop :=
  (∀ (d : BitVec 7) (s : State) (g : Gang) (f : Flight) (b : BodyAt), Issues (.sealBatch d) s g f b →
    (16 ≤ g.batches.length → exec (.sealBatch d) s = .next (s.setGang { g with stall := some .sealed16 })) ∧
    (g.batches.length < 16 → ∃ t h, exec (.sealBatch d) s = .next t ∧ t.gang? g.id = some h ∧
      h.sealedNo = g.sealedNo + 1 ∧ h.sealedAny = true ∧ h.batches = g.batches ++ [(g.sealedNo + 1, g.loose)] ∧ h.loose = [] ∧
      ((∀ l, (g.thread l).gathers = false) → ∀ n, h.sreg n = if n = d.toNat ∧ n ≠ 0 then BitVec.ofNat 64 (g.sealedNo + 1).toNat else g.sreg n) ∧
      (∀ o q, h.op? o = some q → ∃ p, g.op? o = some p ∧ q.flag = p.flag ∧ (∀ c, p.body = .copy c →
        q.body = .copy { c with batch := some (c.batch.getD (g.sealedNo + 1)) }) ∧ ((∀ c, p.body ≠ .copy c) → q = p)) ∧
      { t with gangs := s.gangs } = s ∧ ∀ j, j ≠ g.id → t.gang? j = s.gang? j)) ∧
  (∀ (a d : BitVec 7) (s : State) (g : Gang) (f : Flight) (b : BodyAt), Issues (.cwait a d) s g f b → g.flagFree (slotFlag b.slotA) →
    ∃ r : List (BitVec 16),
      (∀ k, k ∈ r ↔ g.sealedAny = true ∧ (∃ rs, (k, rs) ∈ g.batches) ∧
        let n := (g.sreg a.toNat).toNat % 2 ^ 16
        let ahead := (n + 2 ^ 16 - g.sealedNo.toNat) % 2 ^ 16
        let m := if 1 ≤ ahead ∧ ahead < 2 ^ 15 then g.sealedNo.toNat else n
        (m + 2 ^ 16 - k.toNat) % 2 ^ 16 < 2 ^ 15) ∧
      (r = [] → WritesScalar (.cwait a d) s g d.toNat 0) ∧
      (r ≠ [] → ∃ t, exec (.cwait a d) s = .next t ∧ Begins (.cwait d.toNat r f.lanes) (slotFlag b.slotA) s t g f ∧ SameAround s t))

/-- lyset and mset (R217, R237): an offset that is not a multiple of 8 raises ALIGNMENT, 32 bytes not below Z SCRATCH_RANGE, a record that is not legal ILLEGAL_ENCODING, each with
the offset in sr.taddr and the register unchanged; otherwise the register holds the 32 bytes, and nothing else changes. -/
def Obligations.ScratchRecords : Prop :=
  ∀ (i : Instr) (a : BitVec 7) (legal : BitVec 256 → Bool) (put_ : Gang → BitVec 256 → Gang) (s : State) (g : Gang) (f : Flight) (b : BodyAt),
    ((∃ r : BitVec 3, i = .lyset a r ∧ legal = lyLegal ∧ put_ = fun h v => { h with layouts := put h.layouts r.toNat v }) ∨
     (∃ n : BitVec 2, i = .msetSlot a n ∧ legal = mcLegal ∧ put_ = fun h v => { h with slots := put h.slots n.toNat v })) → Issues i s g f b →
    let off := g.sreg a.toNat
    (off.toNat % 8 ≠ 0 → exec i s = .next (s.trap g f ALIGNMENT f.lanes off true 4)) ∧
    (off.toNat % 8 = 0 → (s.teamOf g).scratchZ < off.toNat + 32 → exec i s = .next (s.trap g f SCRATCH_RANGE f.lanes off true 4)) ∧
    (ScratchReads s g off → legal (scratchWord s g off) = false → exec i s = .next (s.trap g f ILLEGAL_ENCODING f.lanes off true 4)) ∧
    (ScratchReads s g off → legal (scratchWord s g off) = true → ∃ t h, exec i s = .next t ∧ t.gang? g.id = some h ∧
      h.layouts = (put_ g (scratchWord s g off)).layouts ∧ h.slots = (put_ g (scratchWord s g off)).slots ∧
      GangFrame {} (put_ g (scratchWord s g off)) h ∧ { t with gangs := s.gangs } = s ∧ ∀ j, j ≠ g.id → t.gang? j = s.gang? j)

/-- carcfg, ctake, cfree and bccrd (R226, R228-R230): a carousel out of range, unconfigured or asked for too much raises CAROUSEL; carcfg sets the four counters of an idle one; ctake
gives the offset of the slot at HEAD once n slots are filled, and blocks its lanes until then; cfree moves HEAD by n; bccrd reads and clears the CU's conflict counter. -/
def Obligations.CarouselWords : Prop :=
  (∀ (a : BitVec 7) (c : BitVec 4) (s : State) (g : Gang) (f : Flight) (b : BodyAt) (x : Team), Issues (.carcfg a c) s g f b → s.team? g.team = some x →
    let v := g.sreg a.toNat
    let good := c.toNat < x.carCount ∧ CarouselWord x.scratchZ v ∧ carouselIdle s x c
    (¬good → exec (.carcfg a c) s = .next (s.trap g f CAROUSEL f.lanes (BitVec.ofNat 64 c.toNat) true 4)) ∧
    (good → ∃ t h y, exec (.carcfg a c) s = .next t ∧ t.gang? g.id = some h ∧ GangFrame {} g h ∧ t.team? g.team = some y ∧ y.carousel? c.toNat = some (configured v) ∧
      (∀ k, k ≠ c.toNat → y.carousel? k = x.carousel? k) ∧ (∀ j, j ≠ g.team → t.team? j = s.team? j) ∧ { t with gangs := s.gangs, teams := s.teams } = s)) ∧
  (∀ (d a : BitVec 7) (c : BitVec 4) (s : State) (g : Gang) (f : Flight) (b : BodyAt) (x : Team), Issues (.ctake d a c) s g f b → s.team? g.team = some x →
    let n := (g.sreg a.toNat).toNat
    (∀ k, x.carousel? c.toNat = some k → 1 ≤ n → n ≤ k.nslot → ∃ t h, exec (.ctake d a c) s = .next t ∧ t.gang? g.id = some h ∧ t.teams = s.teams ∧
      (n ≤ k.filled → (∀ l, l < g.width → f.lanes.getLsbD l = true → (h.thread l).standsAt (pcOf (f.pc + 4))) ∧
        ((∀ l, (g.thread l).gathers = false) → (∃ l, l < g.width ∧ l < 64 ∧ f.lanes.getLsbD l = true) → d.toNat ≠ 0 → h.sreg d.toNat = BitVec.ofNat 64 (k.base + 64 * k.sz * k.head))) ∧
      (k.filled < n → ∀ l, l < g.width → f.lanes.getLsbD l = true → (h.thread l).status = .blocked (.take c.toNat n d.toNat) ∧ (h.thread l).pc = f.pc)) ∧
    ((x.carousel? c.toNat = none ∨ ∃ k, x.carousel? c.toNat = some k ∧ (n = 0 ∨ k.nslot < n)) →
      exec (.ctake d a c) s = .next (s.trap g f CAROUSEL f.lanes (BitVec.ofNat 64 c.toNat) true 4))) ∧
  (∀ (a : BitVec 7) (c : BitVec 4) (s : State) (g : Gang) (f : Flight) (b : BodyAt) (x : Team), Issues (.cfree a c) s g f b → s.team? g.team = some x →
    let n := (g.sreg a.toNat).toNat
    (∀ k, x.carousel? c.toNat = some k → 1 ≤ n → n ≤ k.filled → s.earlierPerformed g s.serial = true →
      ∃ t h y, exec (.cfree a c) s = .next t ∧ t.gang? g.id = some h ∧ GangFrame {} g h ∧ t.team? g.team = some y ∧
        y.carousel? c.toNat = some { k with head := (k.head + n) % k.nslot, filled := k.filled - n, free := k.free + n } ∧ { t with gangs := s.gangs, teams := s.teams } = s) ∧
    ((x.carousel? c.toNat = none ∨ ∃ k, x.carousel? c.toNat = some k ∧ (n = 0 ∨ k.filled < n)) →
      exec (.cfree a c) s = .next (s.trap g f CAROUSEL f.lanes (BitVec.ofNat 64 c.toNat) true 4))) ∧
  (∀ (d : BitVec 7) (s : State) (g : Gang) (f : Flight) (b : BodyAt), Issues (.bccrd d) s g f b →
    ∃ t h, exec (.bccrd d) s = .next t ∧ t.gang? g.id = some h ∧
      ((∀ l, (g.thread l).gathers = false) → d.toNat ≠ 0 → h.sreg d.toNat = BitVec.ofNat 64 (s.cu (s.cuOf g)).conflicts.toNat) ∧ GangFrame { sreg := fun n => n = d.toNat } g h ∧
      t.cu (s.cuOf g) = { s.cu (s.cuOf g) with conflicts := 0 } ∧ (∀ c, c ≠ s.cuOf g → t.cu c = s.cu c) ∧ { t with gangs := s.gangs, cus := s.cus } = s)

/-- The events of a copy (R214, R220-R225, R227, R231): the engine starts a gang's copies in order and takes the slot at TAIL; the data pass reads units, elements or headers, in the CU's view, and
writes the bytes that R220 gives one by one, of a destination element named twice those of the higher walk index; an fcopy.to sends them. A copy that has moved and written everything, or failed, lands,
and its slot is counted unless it failed; a landed copy whose follow-on is done completes, merges its flags and reports to its batch; an fcopy.to completes at its acknowledgement; a cwait completes when
the batches of its range are complete, and gives their status word. That the status word names the earliest failed copy of all batches of the range is the model's choice (log 54); what units a copy is
moved in is log 31's. -/
def Obligations.CopyEvents : Prop :=
  (∀ (s : State) (g : Gang) (o : Op) (c : Copy), HasOp s g o → o.body = .copy c → c.stage = .queued → g.supplied o = true →
    (∀ p ∈ g.ops, ∀ d, p.id < o.id → p.body = .copy d → d.stage ≠ .queued) →
    (∀ k, c.car = some k → ∃ x y, s.team? g.team = some x ∧ x.carousel? k = some y ∧ 0 < y.free) →
    ∃ t h q d, exec (.copyEngineStart g.id o.id) s = .next t ∧ t.gang? g.id = some h ∧ h.op? o.id = some q ∧ q.body = .copy d ∧ d.stage ≠ .queued ∧ d.src = c.src ∧
      h.sregs = g.sregs ∧ (∀ l n, h.vreg l n = g.vreg l n) ∧ (c.car = none → t.teams = s.teams ∧ d.dst = c.dst) ∧
      (∀ k x y, c.car = some k → s.team? g.team = some x → x.carousel? k = some y → d.carSlot = some y.tail ∧ d.dst = lyRebase c.dst (y.base + 64 * y.sz * y.tail) ∧
        ∃ z, t.team? g.team = some z ∧ z.carousel? k = some { y with free := y.free - 1, tail := (y.tail + 1) % y.nslot })) ∧
  (∀ (s : State) (g : Gang) (o : Op) (c : Copy) (t : State), HasOp s g o → o.body = .copy c → c.stage = .moving → c.fail = none →
    xfLegal c.xf (lyFmt c.src) (lyFmt c.dst) = true → f32.finite c.cvsub.toNat → s.own (.unit g.id o.id) = some t →
    (∃ n d bs, n < c.units ∧ look c.moved n = 0 ∧ CopyIs t g o d ∧ (∀ cu p, HomeKept s t (s.cuOf g) p ∧ ViewKept s t cu p) ∧
      (c.hasSource = true → bs = ((plainUnit c.src n).map fun i => s.viewBytes (s.cuOf g) (s.copyPlace g c i.1) i.2).flatten) ∧
      (c.hasSource = false → c.brought n = some bs) ∧ (c.hasDest = true → UnitMoved c d n bs) ∧
      (c.hasDest = false → d = { c with moved := put c.moved n 1 } ∧ ∀ r, c.remote = some r → lyCount c.src = lyCount c.dst →
        if c.shadowed n then t.outbox = s.outbox else ∃ m, t.outbox = s.outbox ++ [m] ∧ Sent c r g o (s.asidOf g) n bs m)) ∨
    (∃ j e p, c.out[j]? = some e ∧ p = s.copyPlace g c e.addr ∧ ((∀ k a, p = .scratch k a → (s.team? k).isSome = true) →
      CopyIs t g o { c with out := c.out.eraseIdx j } ∧
      t.viewBytes (s.cuOf g) p 1 = [((s.viewBytes (s.cuOf g) p 1).headD 0 &&& ~~~e.mask) ||| (e.val &&& e.mask)] ∧
      ∀ cu q, overlap q 1 p 1 = false → (∀ a, q = .phys a → ¬InNewRecord s t a) → HomeKept s t (s.cuOf g) q ∧ ViewKept s t cu q))) ∧
  (∀ (s : State) (g : Gang) (o : Op) (c : Copy), HasOp s g o → o.body = .copy c → c.stage ≠ .landed →
    (c.fail.isSome = true ∨ c.car = none ∧ c.stage = .moving ∧ c.out = [] ∧ ∀ n, n < c.units → look c.moved n ≠ 0) →
    ∃ t, exec (.copyDataLanded g.id o.id) s = .next t ∧ CopyIs t g o { c with stage := .landed } ∧ t.phys = s.phys ∧ t.common = s.common ∧ t.teams = s.teams) ∧
  (∀ (s : State) (g : Gang) (o : Op) (c : Copy) (k j : Nat) (x : Team) (y : Carousel), HasOp s g o → o.body = .copy c → c.stage = .moving → c.fail = none →
    (∀ n, n < c.units → look c.moved n ≠ 0) → c.out = [] → c.car = some k → c.carSlot = some j → s.team? g.team = some x → x.carousel? k = some y →
    ∃ t u z, exec (.copyDataLanded g.id o.id) s = .next t ∧ CopyIs t g o { c with stage := .landed } ∧ t.team? g.team = some u ∧ u.carousel? k = some z ∧
      z.head = y.head ∧ z.tail = y.tail ∧ z.free = y.free ∧
      (j ≠ (y.head + y.filled) % y.nslot → look y.landed ((y.head + y.filled) % y.nslot) = 0 → z.filled = y.filled ∧ look z.landed j = 1) ∧
      (j = (y.head + y.filled) % y.nslot → y.filled < y.nslot → 1 < y.nslot → look y.landed ((y.head + y.filled + 1) % y.nslot) = 0 → z.filled = y.filled + 1)) ∧
  (∀ (s : State) (g : Gang) (o : Op) (c : Copy), HasOp s g o → o.body = .copy c → c.stage = .landed →
    (c.fail.isSome = true ∨ (∀ r, c.remote = some r → r.inward = true) ∧ (c.follow = none ∨ ∃ k, c.followOp = some k ∧ g.op? k = none)) →
    ∃ t h, exec (.copyComplete g.id o.id) s = .next t ∧ t.gang? g.id = some h ∧ Completes g h o none ∧ h.fstat = g.fstat ||| c.flags ∧
      (c.batch = none → h.loose = g.loose ++ [⟨o.id, BitVec.ofNat 64 c.flags.toNat, c.fail.map fun e => (e.1, o.pc, e.2)⟩] ∧ h.batches = g.batches) ∧
      { t with gangs := s.gangs } = s) ∧
  (∀ (s : State) (g : Gang) (o : Op) (c : Copy) (r : Remote), HasOp s g o → o.body = .copy c → c.stage = .landed → c.fail = none → c.remote = some r → r.inward = false →
    ∃ t h, exec (.fcopyAck g.id o.id) s = .next t ∧ t.gang? g.id = some h ∧ Completes g h o none ∧ { t with gangs := s.gangs } = s) ∧
  (∀ (s : State) (g : Gang) (o : Op) (d : Nat) (bs : List (BitVec 16)) (lanes : Lanes), HasOp s g o → o.body = .cwait d bs lanes → o.sland = [] → o.land = [] →
    (∀ p ∈ g.ops, ∀ c k, p.body = .copy c → c.batch = some k → k ∉ bs) →
    ∃ t h, exec (.cwaitComplete g.id o.id) s = .next t ∧ t.gang? g.id = some h ∧ Completes g h o (some d) ∧
      h.batches = g.batches.filter (fun b => !bs.contains b.1) ∧ ((∀ r, Covered g bs r → r.status.toNat < 256) → d ≠ 0 → StatusIs g bs (h.sreg d)) ∧
      ((∀ r, Covered g bs r → r.fault = none) → ∀ l, h.thread l = g.thread l) ∧
      (∀ r e, EarliestFault g bs r e → ∀ l, (h.thread l).copyFaults = (g.thread l).copyFaults ++
        if lanes.getLsbD l = true ∧ l < g.width ∧ l < g.threads.length ∧ (g.thread l).status ≠ .exited then [e] else []) ∧
      { t with gangs := s.gangs } = s)

/-! ## Matrix -/

/-- The matrix words (R234, R238, R241-R244): the checks of each in its order with their causes and sr.taddr; where they pass and the unit has room and the flag is free, one command is issued with what
it captures; an mloadb of an SB record stalls while an earlier matrix command of the gang has not written its destination. An mloadb writes the load record of each macro of its group; an mrel takes the named macros from the team; mstat reads the counts and the bits. -/
def Obligations.MatrixWords : Prop :=
  (∀ (l : BitVec 3) (n : BitVec 2) (s : State) (g : Gang) (f : Flight) (b : BodyAt) (x : Team), Issues (.mloadb l n) s g f b → s.team? g.team = some x →
    let i := Instr.mloadb l n
    let c := look g.slots n.toNat
    let r := look g.layouts l.toNat
    let bad := fun k => corrupt (decide (lyFmt r = 12)) (readNat x.scratch (lyAddr r + lyHeader r k) 2) = true
    let free := g.acquiring = false ∧ s.accessible (.scratch x.id (headSpan r).1) (headSpan r).2 = true ∧ s.inOrder (s.cuOf g) s.serial 0 (.scratch x.id (headSpan r).1) (headSpan r).2 = true ∧
      (isSB (lyFmt r) = true → g.matrixWritten s.serial = true)
    (¬LoadFits x c r → exec i s = .next (s.trap g f MATRIX_SLOT f.lanes (BitVec.ofNat 64 n.toNat) true 4)) ∧
    (LoadFits x c r → ¬recordInside x r → exec i s = .next (s.trap g f SCRATCH_RANGE f.lanes (lyBase r) true 4)) ∧
    (LoadFits x c r → recordInside x r → lyAddr r % fmtBytes (lyFmt r) ≠ 0 → exec i s = .next (s.trap g f ALIGNMENT f.lanes (lyBase r) true 4)) ∧
    (LoadFits x c r → recordInside x r → lyAddr r % fmtBytes (lyFmt r) = 0 → isSB (lyFmt r) = true → g.matrixWritten s.serial = false →
      exec i s = .next (s.setGang { g with stall := some .matrixTurn })) ∧
    (LoadFits x c r → recordInside x r → lyAddr r % fmtBytes (lyFmt r) = 0 → free →
      (∀ k, isSB (lyFmt r) = true → k < lyCount r / 128 → bad k → (∀ j, j < k → ¬bad j) →
        exec i s = .next (s.trap g f SELECTOR_CORRUPT f.lanes (BitVec.ofNat 64 (lyAddr r + lyHeader r k)) true 4)) ∧
      ((isSB (lyFmt r) = true → ∀ k, k < lyCount r / 128 → ¬bad k) → s.matrixRoom (s.cuOf g) = true → g.flagFree (slotFlag b.slotA) →
        ∃ t m y, MatrixIssued i .mloadb c s t g f b m ∧ m.layout = r ∧ t.team? g.team = some y ∧
          (∀ j, j < 8 → (mcMacs c).testBit j = true → Loaded y c j) ∧ ∀ j, (8 ≤ j ∨ (mcMacs c).testBit j = false) → entry? y.macros j = entry? x.macros j))) ∧
  (∀ (n : BitVec 2) (s : State) (g : Gang) (f : Flight) (b : BodyAt) (x : Team), Issues (.mmul n) s g f b → s.team? g.team = some x →
    let i := Instr.mmul n
    let c := look g.slots n.toNat
    (¬MulFits x c → exec i s = .next (s.trap g f MATRIX_SLOT f.lanes (BitVec.ofNat 64 n.toNat) true 4)) ∧
    (MulFits x c → x.scratchZ < mulAEnd c → exec i s = .next (s.trap g f SCRATCH_RANGE f.lanes (BitVec.ofNat 64 (mcAbase c)) true 4)) ∧
    (MulFits x c → mulAEnd c ≤ x.scratchZ → x.scratchZ < mulCEnd c → exec i s = .next (s.trap g f SCRATCH_RANGE f.lanes (BitVec.ofNat 64 (mcCbase c)) true 4)) ∧
    (MulFits x c → mulAEnd c ≤ x.scratchZ → mulCEnd c ≤ x.scratchZ → ∀ v, FirstWith [mcAbase c, mcAstr c, mcCbase c, mcCstr c] (fun v => v % 4 ≠ 0) v →
      exec i s = .next (s.trap g f ALIGNMENT f.lanes (BitVec.ofNat 64 v) true 4)) ∧
    (MulFits x c → mulAEnd c ≤ x.scratchZ → mulCEnd c ≤ x.scratchZ → (∀ v ∈ [mcAbase c, mcAstr c, mcCbase c, mcCstr c], v % 4 = 0) → s.matrixRoom (s.cuOf g) = true →
      g.flagFree (slotFlag b.slotA) → ∃ t m, MatrixIssued i .mmul c s t g f b m ∧ t.teams = s.teams)) ∧
  (∀ (n : BitVec 2) (s : State) (g : Gang) (f : Flight) (b : BodyAt) (x : Team), Issues (.scacc n) s g f b → s.team? g.team = some x →
    let i := Instr.scacc n
    let c := look g.slots n.toNat
    let six := [mcAbase c, mcAstr c, mcCbase c, mcCstr c, mcSca c, mcScb c]
    (∀ v, FirstWith six (fun v => v % 4 ≠ 0) v → exec i s = .next (s.trap g f ALIGNMENT f.lanes (BitVec.ofNat 64 v) true 4)) ∧
    ((∀ v ∈ six, v % 4 = 0) → ∀ e, FirstWith (scaleRegions c) (fun e => x.scratchZ < e.2) e → exec i s = .next (s.trap g f SCRATCH_RANGE f.lanes (BitVec.ofNat 64 e.1) true 4)) ∧
    ((∀ v ∈ six, v % 4 = 0) → (∀ e ∈ scaleRegions c, e.2 ≤ x.scratchZ) → s.matrixRoom (s.cuOf g) = true → g.flagFree (slotFlag b.slotA) →
      ∃ t m, MatrixIssued i .scacc c s t g f b m ∧ t.teams = s.teams)) ∧
  (∀ (a : BitVec 7) (s : State) (g : Gang) (f : Flight) (b : BodyAt) (x : Team), Issues (.mrel a) s g f b → s.team? g.team = some x →
    let v := g.sreg a.toNat
    let good := v ≠ 0 ∧ v.toNat < 256 ∧ ∀ j, v.getLsbD j = true → ∃ m, entry? x.macros j = some m ∧ m.held = true
    (¬good → exec (.mrel a) s = .next (s.trap g f MATRIX_SLOT f.lanes v true 4)) ∧
    (good → s.matrixRoom (s.cuOf g) = true → g.flagFree (slotFlag b.slotA) →
      ∃ t m y, MatrixIssued (.mrel a) (.mrel (BitVec.ofNat 8 v.toNat)) 0 s t g f b m ∧ t.team? g.team = some y ∧
        (∀ j, v.getLsbD j = true → y.macro? j = none) ∧ ∀ j, v.getLsbD j = false → entry? y.macros j = entry? x.macros j)) ∧
  (∀ (d : BitVec 7) (s : State) (g : Gang) (f : Flight) (b : BodyAt) (x : Team), Issues (.mstat d) s g f b → s.team? g.team = some x → x.asked ≤ 8 → s.pendingMatrix x.id ≤ 16 →
    ∃ v : W64, WritesScalar (.mstat d) s g d.toNat v ∧ v.toNat / 2 ^ 24 = s.pendingMatrix x.id ∧ v.toNat / 2 ^ 16 % 2 ^ 8 = x.asked ∧
      ∀ j, j < 8 → (v.getLsbD (8 + j) = true ↔ ∃ m, entry? x.macros j = some m ∧ m.held = true ∧ m.loaded = true) ∧ (v.getLsbD j = true ↔ ∃ m, entry? x.macros j = some m ∧ m.held = true))

/-- MATRIX_COMMAND_COMPLETE (R234, R238, R243), once the command's reads and writes are done and the earlier commands of the gang, and those of the team on its macros, are complete: its flags are merged, its
flag falls, an mloadb has given each macro of its group its content, each group of 32 aligned or decoded (R239, R81), and kept the others, and an mrel has returned its macros. -/
def Obligations.MatrixCompletes : Prop :=
  ∀ (s : State) (g : Gang) (o : Op) (m : Matrix) (x : Team), HasOp s g o → o.body = .matrix m → s.team? g.team = some x → g.supplied o = true →
    (m.kind = .mloadb → m.codesFit ∧ mcBfmt m.slot ∈ [3, 4, 5, 6, 9, 11, 12, 13]) →
    (∀ n, n < m.readCount → look m.reads n ≠ 0) → (∀ n, n < m.writeCount → look m.parts n ≠ 0) →
    (∀ h ∈ s.gangs, h.team = g.team → ∀ p ∈ h.ops, ∀ n, p.id < o.id → p.body = .matrix n → h.id ≠ g.id ∧ ∀ j ∈ n.macros, j ∉ m.macros) →
    ∃ t h y, exec (.matrixCommandComplete g.id o.id) s = .next t ∧ t.gang? g.id = some h ∧ Completes g h o none ∧ h.fstat = g.fstat ||| m.flags ∧ t.team? g.team = some y ∧
      y.scratch = x.scratch ∧
      (∀ j z, entry? x.macros j = some z → ∃ w, entry? y.macros j = some w ∧ match m.kind with
        | .mloadb => if (mcMacs m.slot).testBit j = true ∧ j < 8 then ContentIs m ((List.range j).filter fun i => (mcMacs m.slot).testBit i).length z w else w = z
        | .mrel v => w = if v.getLsbD j then { z with returned := true } else z
        | _ => w = z) ∧
      (∀ j, j ≠ g.team → t.team? j = s.team? j) ∧ { t with gangs := s.gangs, teams := s.teams } = s

/-- The arithmetic of the macros: a float group is cut to one exponent G by truncation towards zero (R239), a flush makes a subnormal a zero of its sign and changes nothing else (R240), a unit of mmul writes
the sum of its groups in ascending k, from +0 or the element of C, each step rounded and flushed (R240, R241), and a unit of scacc writes Flush(c + p·s), with s the rounded product of the two scales (R242);
each writes its element of C and no other byte of the scratch. The sign of a sum of two zeros is the reading of log 52. -/
def Obligations.MatrixArithmetic : Prop :=
  (∀ (fmt : Nat) (codes : List Nat), fmt ∈ [3, 4, 5, 6, 9, 13] → codes.length = 32 → (∀ c ∈ codes, c < 2 ^ fmtBits fmt) →
    AlignIs fmt (fun i => codes.getD i 0) (fun i => (alignGroup fmt codes).1.getD i 0) (alignGroup fmt codes).2.1 (alignGroup fmt codes).2.2) ∧
  (∀ r : W32, FlushIs r.toNat (flush r).1.toNat (flush r).2) ∧
  (∀ (s : State) (g : Gang) (o : Op) (m : Matrix) (x : Team) (tile row n : Nat), HasOp s g o → o.body = .matrix m → s.team? g.team = some x → m.kind = .mmul → m.codesFit →
    mcAfmt m.slot ∈ [3, 4, 5, 6, 9, 13] → n < mcN m.slot → row < mcM m.slot → tile < (if mcMode m.slot = 2 ∧ mcArr m.slot = 0 then (mcGroup m.slot).length else 1) →
    let c := m.slot
    let at_ := mcCbase c + (tile * mcM c + row) * mcCstr c + 4 * n
    ∃ y h q w fl sides, (s.doMatrix g o m (m.readCount + ((tile * mcM c + row) * mcN c + n))).team? g.team = some y ∧
      (s.doMatrix g o m (m.readCount + ((tile * mcM c + row) * mcN c + n))).gang? g.id = some h ∧ h.op? o.id = some q ∧ q.body = .matrix w ∧ w.flags = m.flags ||| fl ∧
      (∀ t ∈ tileGroups c tile, SidesAre m x row n t (sides t).1 (sides t).2) ∧
      OutIs (if mcMode c = 1 then (read32 x.scratch at_).toNat else 0) ((tileGroups c tile).map sides) (read32 y.scratch at_).toNat fl ∧
      ∀ a, (a < at_ ∨ at_ + 4 ≤ a) → look y.scratch a = look x.scratch a) ∧
  (∀ (s : State) (g : Gang) (o : Op) (m : Matrix) (x : Team) (row n : Nat), HasOp s g o → o.body = .matrix m → s.team? g.team = some x → m.kind = .scacc → n < mcN m.slot → row < mcM m.slot →
    let c := m.slot
    let at_ := mcCbase c + row * mcCstr c + 4 * n
    ∃ y h q w p r f1 f2 f3, (s.doMatrix g o m (mcN c * row + n)).team? g.team = some y ∧
      (s.doMatrix g o m (mcN c * row + n)).gang? g.id = some h ∧ h.op? o.id = some q ∧ q.body = .matrix w ∧ w.flags = m.flags ||| f1 ||| f2 ||| f3 ∧
      FopIs f32 2 .rne (read32 x.scratch (mcSca c + 4 * row)).toNat (read32 x.scratch (mcScb c + 4 * n)).toNat 0 p f1 ∧
      FopIs f32 3 .rne (read32 x.scratch (mcAbase c + row * mcAstr c + 4 * n)).toNat p (read32 x.scratch at_).toNat r f2 ∧ FlushIs r (read32 y.scratch at_).toNat f3 ∧
      ∀ a, (a < at_ ∨ at_ + 4 ≤ a) → look y.scratch a = look x.scratch a)

/-! ## The graph store -/

/-- The graph words (R252, R265-R272): on no live graph GRAPH_HANDLE, on a cursor in the wrong state CURSOR_STATE, without records a stall of which the
runtime is told; otherwise one operation is issued on slot A with the registers it reads, a copen opens its cursor with a pin, the cursor forms move RANK,
and cclose closes. gnew, gfree and gstat (R252, R275, R276, R278): a pool that the address space does not hold, a vertex count out of
range or a handle that is not live raises GRAPH_HANDLE; otherwise each issues one operation on slot A. That a gfree stalls while another one of its handle is
outstanding is the model's choice (log 37). -/
def Obligations.GraphWords : Prop :=
  ((∀ (i : Instr) (w : GraphForm) (s : State) (g : Gang) (f : Flight) (b : BodyAt), graphForm i = some w → Issues i s g f b →
      (s.liveGraph (s.asidOf g) g.gcur = none → exec i s = .next (s.trap g f GRAPH_HANDLE f.lanes g.gcur true 4)) ∧
      (∀ x, s.liveGraph (s.asidOf g) g.gcur = some x →
        let n := laneCount f.lanes
        let room := ∀ r, w.records = some r → s.poolRoom x.asid x.pool (r.1 * n) (r.2 * n) 0 = true
        (¬room → WaitsForRecords i s g g.gcur) ∧
        (room → g.acquiring = false → g.flagFree (slotFlag b.slotA) →
          ∃ t, exec i s = .next t ∧ SameAround s t ∧
            Begins (.graph w.kind g.gcur w.d.toNat ((lanesOf f.lanes).map fun l => laneOf g w.a.toNat w.b.toNat w.d.toNat l 0 [])) (slotFlag b.slotA) s t g f))) ∧
    (∀ (i : Instr) (inList : Bool) (c : BitVec 3) (a d : BitVec 7) (s : State) (g : Gang) (f : Flight) (b : BodyAt),
      (i = .copenOut c a d ∧ inList = false ∨ i = .copenIn c a d ∧ inList = true) → Issues i s g f b →
      (s.liveGraph (s.asidOf g) g.gcur = none → exec i s = .next (s.trap g f GRAPH_HANDLE f.lanes g.gcur true 4)) ∧
      (∀ x, s.liveGraph (s.asidOf g) g.gcur = some x →
        TrapsIf i s g f CURSOR_STATE (fun l => (entry? (g.thread l).cursors c.toNat).isSome = true) (fun _ => BitVec.ofNat 64 c.toNat) ∧
        (f.none (fun l => (entry? (g.thread l).cursors c.toNat).isSome = true) → g.acquiring = false → g.flagFree (slotFlag b.slotA) →
          ∃ t h op, exec i s = .next t ∧ t.gang? g.id = some h ∧ h.ops = g.ops ++ [op] ∧ op.flag = slotFlag b.slotA ∧
            (∃ ls, op.body = .graph (.copen inList) g.gcur d.toNat ls ∧ ls.map GraphLane.lane = lanesOf f.lanes ∧ (∀ x ∈ ls, x.a = g.vreg x.lane a.toNat) ∧
              ∀ x ∈ ls, entry? (h.thread x.lane).cursors c.toNat = some ⟨x.pin, []⟩ ∧
                ∃ p ∈ t.graph.pins, p.id = x.pin ∧ p.handle = g.gcur ∧ p.inList = inList ∧ p.vertex = (g.vreg x.lane a.toNat).toNat ∧ p.list = none) ∧
            (∀ l k, h.vreg l k = g.vreg l k ∨ (g.thread l).gathers = true) ∧ { t with gangs := s.gangs, serial := s.serial, graph := s.graph } = s))) ∧
    (∀ (i : Instr) (k : GraphKind) (c : BitVec 3) (a d : Nat) (step : Nat → List CursorStep) (s : State) (g : Gang) (f : Flight) (b : BodyAt),
      cursorForm g i = some (k, c, a, d, step) → Issues i s g f b →
      TrapsIf i s g f CURSOR_STATE (fun l => entry? (g.thread l).cursors c.toNat = none) (fun _ => BitVec.ofNat 64 c.toNat) ∧
      (∀ cur : Nat → Cursor, (∀ l, f.lanes.getLsbD l = true → entry? (g.thread l).cursors c.toNat = some (cur l)) → g.acquiring = false → g.flagFree (slotFlag b.slotA) →
        ∃ t h op, exec i s = .next t ∧ t.gang? g.id = some h ∧ h.ops = g.ops ++ [op] ∧ op.flag = slotFlag b.slotA ∧
          op.body = .graph k 0 d ((lanesOf f.lanes).map fun l => laneOf g a a d l (cur l).pin (cur l).steps) ∧
          (∀ l, f.lanes.getLsbD l = true → entry? (h.thread l).cursors c.toNat = some { cur l with steps := (cur l).steps ++ step l }) ∧ SameAround s t)) ∧
    (∀ (c : BitVec 3) (s : State) (g : Gang) (f : Flight) (b : BodyAt), Issues (.cclose c) s g f b → g.acquiring = false → g.flagFree (slotFlag b.slotA) →
      ∃ t h op, exec (.cclose c) s = .next t ∧ t.gang? g.id = some h ∧ h.ops = g.ops ++ [op] ∧ op.flag = slotFlag b.slotA ∧
        (∀ l, f.lanes.getLsbD l = true → entry? (h.thread l).cursors c.toNat = none ∧ ∀ k, k ≠ c.toNat → entry? (h.thread l).cursors k = entry? (g.thread l).cursors k) ∧ SameAround s t)) ∧
  ((∀ (b_ a d : BitVec 7) (s : State) (g : Gang) (f : Flight) (b : BodyAt), Issues (.gnew b_ a d) s g f b →
      let i := Instr.gnew b_ a d
      let pool := g.sreg b_.toNat
      let vn := g.sreg a.toNat
      let held := pool.toNat ≤ 255 ∧ (s.pool? (s.asidOf g) pool.toNat).isSome = true
      let fits := 1 ≤ vn.toNat ∧ vn.toNat ≤ 0xFFFFFFFE
      (¬held → exec i s = .next (s.trap g f GRAPH_HANDLE f.lanes pool true 4)) ∧ (held → ¬fits → exec i s = .next (s.trap g f GRAPH_HANDLE f.lanes vn true 4)) ∧
      (held → fits → s.poolRoom (s.asidOf g) pool.toNat 0 0 vn.toNat = false → WaitsForRecords i s g pool) ∧
      (held → fits → s.poolRoom (s.asidOf g) pool.toNat 0 0 vn.toNat = true → g.flagFree (slotFlag b.slotA) →
        ∃ t, exec i s = .next t ∧ SameAround s t ∧ Begins (.gsys (.gnew vn.toNat pool.toNat) d.toNat) (slotFlag b.slotA) s t g f)) ∧
    (∀ (a : BitVec 7) (s : State) (g : Gang) (f : Flight) (b : BodyAt), Issues (.gfree a) s g f b →
      let h := g.sreg a.toNat
      (s.liveGraph (s.asidOf g) h = none → exec (.gfree a) s = .next (s.trap g f GRAPH_HANDLE f.lanes h true 4)) ∧
      (s.liveGraph (s.asidOf g) h ≠ none → s.freeing h = true → exec (.gfree a) s = .next (s.setGang { g with stall := some (.freeing h) })) ∧
      (s.liveGraph (s.asidOf g) h ≠ none → s.freeing h = false → g.flagFree (slotFlag b.slotA) →
        ∃ t, exec (.gfree a) s = .next t ∧ SameAround s t ∧ Begins (.gsys (.gfree h) 0) (slotFlag b.slotA) s t g f)) ∧
    (∀ (a d : BitVec 7) (s : State) (g : Gang) (f : Flight) (b : BodyAt), Issues (.gstat a d) s g f b →
      (s.liveGraph (s.asidOf g) g.gcur = none → exec (.gstat a d) s = .next (s.trap g f GRAPH_HANDLE f.lanes g.gcur true 4)) ∧
      (s.liveGraph (s.asidOf g) g.gcur ≠ none → g.flagFree (slotFlag b.slotA) →
        ∃ t, exec (.gstat a d) s = .next t ∧ SameAround s t ∧ Begins (.gsys (.gstat g.gcur (g.sreg a.toNat)) d.toNat) (slotFlag b.slotA) s t g f)))

/-- gsel (R277): it sets sr.gcur of the issuing gang to its source, whatever that names, and does nothing else; a wsr to sr.gcur does the same. -/
def Obligations.SelectGraph : Prop :=
  ∀ (i : Instr) (a : BitVec 7) (s : State) (g : Gang) (f : Flight) (b : BodyAt), (i = .gsel a ∨ i = .wsr a 17) → Issues i s g f b →
    ∃ t h, exec i s = .next t ∧ t.gang? g.id = some h ∧ h.gcur = g.sreg a.toNat ∧ GangFrame {} { g with gcur := g.sreg a.toNat } h ∧ { t with gangs := s.gangs } = s ∧
      ∀ j, j ≠ g.id → t.gang? j = s.gang? j

/-- GRAPH_OP_COMPLETE and VERSION_RECLAIM (R255-R259, R261, R264, R267-R278): reads receive what their CU's view holds and change no graph; the lanes of a mutation one after another receive their status and
note their intent as tentative, seen in their own CU's view at once and in no other; gvst leaves at each vertex the property of the highest lane that names it; a copen gives DEG and pins the list as its
CU sees it; cnext gives the edge at RANK of the pinned list, crank RANK, and a pin that no cursor holds and no operation names is gone; gnew makes a live graph without edges and gives its handle, which is not 0; gfree ends it; gstat gives the item (R278); a
version record that no pin and no view needs is freed, and every view reads as before. Which record is freed when is the model's choice (log 37), and so is the layout of a graph's commits. -/
def Obligations.GraphCompletes : Prop :=
  (∀ (s : State) (g : Gang) (o : Op) (k : GraphKind) (h : W64) (dst : Nat) (ls : List GraphLane) (x : Graph), HasOp s g o → o.body = .graph k h dst ls → s.graph.find h = some x →
    (k = .gdeg false ∨ k = .gdeg true ∨ k = .gld false ∨ k = .gld true ∨ k = .gfind false ∨ k = .gfind true ∨ k = .gvld) → o.land = [] → o.sland = [] →
    o.performed = false → s.mayGraph g o = true → (ls.map GraphLane.lane).Nodup → (∀ l ∈ ls, l.lane < g.threads.length ∧ l.lane < 64) → dst + 2 ≤ 128 →
    ∃ t y, exec (.graphOpComplete g.id o.id) s = .next t ∧ t.gang? g.id = some y ∧ y.ops = g.ops.filter (fun q => decide (q.id ≠ o.id)) ∧
      (∀ l ∈ ls, ∃ r, graphReads k x.vn (x.view (s.cuOf g) (s.cu (s.cuOf g)).view) x.props l r ∧
        ∀ n v, r[n]? = some v → (dst + n < 120 ∨ (g.thread l.lane).clause = o.clauseAt l.lane) → y.vreg l.lane (dst + n) = v) ∧
      (∀ l n, ((∀ z ∈ ls, z.lane ≠ l) ∨ n < dst ∨ dst + 2 ≤ n) → y.vreg l n = g.vreg l n) ∧ t.graph.graphs = s.graph.graphs ∧ t.phys = s.phys ∧ t.common = s.common) ∧
  (∀ (s : State) (g : Gang) (o : Op) (k : GraphKind) (h : W64) (dst : Nat) (ls : List GraphLane) (x : Graph), HasOp s g o → o.body = .graph k h dst ls → s.graph.find h = some x →
    (k = .gadde ∨ k = .grme ∨ k = .gsetw) → o.land = [] → o.sland = [] → o.performed = false → s.mayGraph g o = true → (ls.map GraphLane.lane).Nodup →
    (∀ l ∈ ls, l.lane < g.threads.length ∧ l.lane < 64) → dst < 128 →
    let cu := s.cuOf g
    let view := x.view cu (s.cu cu).view
    let rs := mutations k x.vn ls view
    let notes := rs.filterMap Prod.snd
    ∃ t y z, exec (.graphOpComplete g.id o.id) s = .next t ∧ t.gang? g.id = some y ∧ y.ops = g.ops.filter (fun q => decide (q.id ≠ o.id)) ∧ t.graph.find h = some z ∧
      (∀ (n : Nat) (l : GraphLane) (r : W32 × Option Intent), ls[n]? = some l → rs[n]? = some r → (dst < 120 ∨ (g.thread l.lane).clause = o.clauseAt l.lane) → y.vreg l.lane dst = r.1) ∧
      (∀ l n, ((∀ z ∈ ls, z.lane ≠ l) ∨ n ≠ dst) → y.vreg l n = g.vreg l n) ∧
      z.tentative = x.tentative ++ notes.map (fun i => (cu, i)) ∧ z.history = x.history ∧ z.base = x.base ∧ z.view cu (t.cu cu).view = notes.foldl Edges.apply view ∧
      (∀ l i, ls = [l] → notes = [i] → (z.view cu (t.cu cu).view).has l.a.toNat l.b.toNat = i.leaves (view.has l.a.toNat l.b.toNat)) ∧
      ∀ cu', cu' ≠ cu → z.view cu' (t.cu cu').view = x.view cu' (s.cu cu').view) ∧
  (∀ (s : State) (g : Gang) (o : Op) (h : W64) (dst : Nat) (ls : List GraphLane) (x : Graph), HasOp s g o → o.body = .graph .gvst h dst ls → s.graph.find h = some x →
    o.land = [] → o.sland = [] → o.performed = false → s.mayGraph g o = true → (ls.map GraphLane.lane).Pairwise (fun a b => a < b) →
    ∃ t y z, exec (.graphOpComplete g.id o.id) s = .next t ∧ t.gang? g.id = some y ∧ Completes g y o none ∧ t.graph.find h = some z ∧ { z with props := x.props } = x ∧
      (∀ l ∈ ls, l.a.toNat < x.vn → (∀ m ∈ ls, m.a = l.a → m.lane ≤ l.lane) → (look z.props l.a.toNat).toNat = l.d2.toNat * 2 ^ 32 + l.d.toNat) ∧
      (∀ u, ((∀ l ∈ ls, l.a.toNat ≠ u) ∨ x.vn ≤ u) → look z.props u = look x.props u) ∧ (∀ k, k ≠ h → t.graph.find k = s.graph.find k)) ∧
  (∀ (s : State) (g : Gang) (o : Op) (i : Bool) (h : W64) (dst : Nat) (ls : List GraphLane) (x : Graph), HasOp s g o → o.body = .graph (.copen i) h dst ls → s.graph.find h = some x →
    o.land = [] → o.sland = [] → o.performed = false → s.mayGraph g o = true → (ls.map GraphLane.lane).Nodup → (ls.map GraphLane.pin).Nodup →
    (∀ l ∈ ls, l.lane < g.threads.length ∧ l.lane < 64) → dst < 128 →
    let list := fun (l : GraphLane) => if x.vn ≤ l.a.toNat then [] else (x.view (s.cuOf g) (s.cu (s.cuOf g)).view).list i l.a.toNat
    ∃ t y, exec (.graphOpComplete g.id o.id) s = .next t ∧ t.gang? g.id = some y ∧ y.ops = g.ops.filter (fun q => decide (q.id ≠ o.id)) ∧ t.graph.graphs = s.graph.graphs ∧
      (∀ l ∈ ls, (dst < 120 ∨ (g.thread l.lane).clause = o.clauseAt l.lane) → y.vreg l.lane dst = BitVec.ofNat 32 (list l).length) ∧
      (∀ l n, ((∀ z ∈ ls, z.lane ≠ l) ∨ n ≠ dst) → y.vreg l n = g.vreg l n) ∧
      (∀ l ∈ ls, l.pin ∈ s.heldPins → ∀ p, s.pin? l.pin = some p → t.pin? l.pin = some { p with gen := (s.cu (s.cuOf g)).view, list := some (list l) }) ∧
      (∀ n ∈ s.heldPins, (∀ l ∈ ls, l.pin ≠ n) → t.pin? n = s.pin? n)) ∧
  (∀ (s : State) (g : Gang) (o : Op) (k : GraphKind) (h : W64) (dst : Nat) (ls : List GraphLane) (es : GraphLane → List (W32 × W32)), HasOp s g o → o.body = .graph k h dst ls →
    (k = .cnext ∨ k = .crank ∨ k = .cseek ∨ k = .cclose) → o.land = [] → o.sland = [] → o.performed = false → s.mayGraph g o = true → (ls.map GraphLane.lane).Nodup →
    (∀ l ∈ ls, l.lane < g.threads.length ∧ l.lane < 64) → dst + 2 ≤ 128 → (k ≠ .cclose → ∀ l ∈ ls, ∃ p, s.pin? l.pin = some p ∧ p.list = some (es l)) →
    let rank := fun (l : GraphLane) => rankAfter (es l).length l.steps
    let lands := fun (l : GraphLane) (n : Nat) => n < 120 ∨ (g.thread l.lane).clause = o.clauseAt l.lane
    ∃ t y, exec (.graphOpComplete g.id o.id) s = .next t ∧ t.gang? g.id = some y ∧ y.ops = g.ops.filter (fun q => decide (q.id ≠ o.id)) ∧ t.graph.graphs = s.graph.graphs ∧
      (k = .cnext → ∀ l ∈ ls, (∀ e, (es l)[rank l]? = some e → (lands l dst → y.vreg l.lane dst = e.1) ∧ (lands l (dst + 1) → y.vreg l.lane (dst + 1) = e.2)) ∧
        ((es l).length ≤ rank l → (lands l dst → y.vreg l.lane dst = noVertex) ∧ (lands l (dst + 1) → y.vreg l.lane (dst + 1) = 0))) ∧
      (k = .crank → ∀ l ∈ ls, lands l dst → y.vreg l.lane dst = BitVec.ofNat 32 (rank l)) ∧
      (∀ l n, ((∀ z ∈ ls, z.lane ≠ l) ∨ n < dst ∨ dst + 2 ≤ n ∨ k = .cseek ∨ k = .cclose ∨ k = .crank ∧ n ≠ dst) → y.vreg l n = g.vreg l n) ∧
      (∀ n ∈ s.heldPins, t.pin? n = s.pin? n) ∧
      (∀ n, n ∉ s.heldPins → (∀ z ∈ t.gangs, ∀ q ∈ z.ops, ∀ a b c ms, q.body = .graph a b c ms → ∀ m ∈ ms, m.pin ≠ n) → ∀ p ∈ t.graph.pins, p.id ≠ n)) ∧
  (∀ (deg n : Nat) (steps : List CursorStep), rankAfter deg [] = 0 ∧ rankAfter deg (steps ++ [.next]) = min (rankAfter deg steps + 1) deg ∧
    rankAfter deg (steps ++ [.seek n]) = min n deg) ∧
  (∀ (s : State) (g : Gang) (o : Op) (vn pool dst : Nat), HasOp s g o → o.body = .gsys (.gnew vn pool) dst → o.land = [] → o.sland = [] → g.supplied o = true →
    ∃ t y h, exec (.graphOpComplete g.id o.id) s = .next t ∧ t.gang? g.id = some y ∧ Completes g y o (some dst) ∧ (dst ≠ 0 → y.sreg dst = h) ∧ h ≠ 0 ∧
      ∃ z ∈ t.graph.graphs, z.handle = h ∧ z.live = true ∧ z.asid = s.asidOf g ∧ z.vn = vn ∧ z.pool = pool ∧ z.base = [] ∧ z.tentative = [] ∧ z.history = []) ∧
  (∀ (s : State) (g : Gang) (o : Op) (h : W64) (dst : Nat), HasOp s g o → o.body = .gsys (.gfree h) dst → o.land = [] → o.sland = [] → g.supplied o = true → s.graphBusy h = false →
    ∃ t y, exec (.graphOpComplete g.id o.id) s = .next t ∧ t.gang? g.id = some y ∧ Completes g y o none ∧ ∀ a, t.liveGraph a h = none) ∧
  (∀ (s : State) (g : Gang) (o : Op) (h item : W64) (dst : Nat) (x : Graph) (p : Pool), HasOp s g o → o.body = .gsys (.gstat h item) dst → o.land = [] → o.sland = [] → dst ≠ 0 →
    g.supplied o = true → s.graph.find h = some x → x.bad = false → s.pool? x.asid x.pool = some p →
    ∃ t y, exec (.graphOpComplete g.id o.id) s = .next t ∧ t.gang? g.id = some y ∧ Completes g y o (some dst) ∧ y.sreg dst = statItem s (s.cuOf g) x p item ∧ { t with gangs := s.gangs } = s) ∧
  (∀ (s : State) (n : Nat) (x : Graph), s.graph.graphs[n]? = some x → s.graph.find x.handle = some x → s.holdsRecords x = true → x.Orderly s.graph.gen → s.reclaimable x ≠ [] →
    ∃ t z r, exec (.versionReclaim n) s = .next t ∧ t.graph.find x.handle = some z ∧ r.commit ∈ x.history ∧ Unneeded s x r ∧ z.versUsed + 1 = x.versUsed ∧ z.live = x.live ∧
      z.Orderly t.graph.gen ∧ { t with graph := s.graph, tick := s.tick } = s ∧ ∀ m k, r.commit.gen ≤ m → look (z.upTo m) k = look (x.upTo m) k) ∧
  (∀ (s : State) (cu : Nat), (∀ x ∈ s.graph.graphs, x.Orderly s.graph.gen) → ∀ x ∈ (s.commitCu cu).graph.graphs, x.Orderly (s.commitCu cu).graph.gen)

/-! ## Tasks and launches -/

/-- spawn.v, spawn.s, jcadd, launch, the cancels and lvwait (R297-R301): their checks in the order of their rules, and where none raises a cause, the
operation that each issues on slot A with what it captures. A spawn stalls in place while the deque's spill region has no room (R291), and a cancel while a load that has landed a result has not
completed (R183; that it waits so is log 54's). A cancel of a level that is
not live has no effect; one of a live level marks every gang of the level, leaves none of its records on a deque and nothing of its launches to place. The model's choices here:
what room a spill region has (log 39), and for jcadd those of every memory word (logs 13, 19, 26, 53). LAUNCH and CHAIN of a new record are what sr.launch and sr.chain show (R297), also where a debugger has
written them (log 45). -/
def Obligations.TaskWords : Prop :=
  (∀ (a : BitVec 7) (s : State) (g : Gang) (f : Flight) (b : BodyAt), Issues (.spawnV a) s g f b →
    let i := Instr.spawnV a
    let x := s.teamOf g
    let v := fun (l n : Nat) => (g.vreg l (a.toNat + n)).toNat
    let bad := fun l => 2 ^ 24 ≤ v l 1 ∨ 2 ^ 5 ≤ v l 6
    TrapsIf i s g f ILLEGAL_ENCODING bad (fun _ => 0) ∧
    (f.none bad → TrapsIf i s g f ALIGNMENT (fun l => v l 0 % 2 = 1) (fun l => BitVec.ofNat 64 (g.pairNat l a.toNat)) ∧
      ((f.none fun l => v l 0 % 2 = 1) → Spawns i s g f b (lanesOf f.lanes).length fun (rs : List (BitVec 256)) => ∀ (k l : Nat), (lanesOf f.lanes)[k]? = some l →
        ∃ r, rs[k]? = some r ∧ recordIs r (g.pairNat l a.toNat) (g.pairNat l (a.toNat + 2)) (g.pairNat l (a.toNat + 4)) (min (v l 6) (pktPrio x.origin.packet))
          (s.launchOf g).toNat (s.chainOf g).toNat))) ∧
  (∀ (a : BitVec 7) (s : State) (g : Gang) (f : Flight) (b : BodyAt), Issues (.spawnS a) s g f b →
    let i := Instr.spawnS a
    let x := s.teamOf g
    let c := (g.sreg a.toNat).toNat
    (2 ^ 61 ≤ c → exec i s = .next (s.trap g f ILLEGAL_ENCODING f.lanes 0 true 4)) ∧
    (c < 2 ^ 61 → c % 2 = 1 → exec i s = .next (s.trap g f ALIGNMENT f.lanes (BitVec.ofNat 64 (c % 2 ^ 56)) true 4)) ∧
    (c < 2 ^ 61 → c % 2 = 0 → Spawns i s g f b 1 fun (rs : List (BitVec 256)) => ∃ r, rs = [r] ∧
      recordIs r (c % 2 ^ 56) (g.sreg (a.toNat + 1)).toNat (g.sreg (a.toNat + 2)).toNat (min (c / 2 ^ 56) (pktPrio x.origin.packet)) (s.launchOf g).toNat (s.chainOf g).toNat)) ∧
  (∀ (rb a d : BitVec 7) (s : State) (g : Gang) (f : Flight) (b : BodyAt), Issues (.jcadd rb a d) s g f b →
    let i := Instr.jcadd rb a d
    let addr := fun l => BitVec.ofNat 64 (g.pairNat l a.toNat)
    let x := joinXlate s g a
    let w := s.walkedBy g f .write (joinTarget s g a) x
    let ps := (lanesOf f.lanes).map (joinPlace s g a)
    TrapsIf i s g f ADDRESS_WINDOW (fun l => joinTarget s g a l = none) addr ∧
    (f.none (fun l => joinTarget s g a l = none) → TrapsIf i s g f ALIGNMENT (fun l => g.pairNat l a.toNat % 8 ≠ 0) addr ∧
      (f.none (fun l => g.pairNat l a.toNat % 8 ≠ 0) →
        ((∃ l, f.lanes.getLsbD l = true ∧ x l = some .wait) →
          ∃ l, f.lanes.getLsbD l = true ∧ x l = some .wait ∧ exec i s = .next (w.setGang { g with stall := some (.walk (addr l) .write) })) ∧
        (f.none (fun l => x l = some .wait) → TrapsIn i s w g f PAGE_PROTECTION (fun l => x l = some .protection) addr))) ∧
    ((∀ l, f.lanes.getLsbD l = true → g.pairNat l a.toNat % 8 = 0 ∧ (∃ pa new, x l = some (.ok pa false new)) ∧
        (g.pastWatch = true ∨ ∀ va, joinTarget s g a l = some (.global va) → watchHit (s.die (dieOf (s.cuOf g))) (s.asidOf g) false false true va 8 = false)) →
      g.acquiring = false → s.logFits ps →
      (g.flagFree (slotFlag b.slotA) → ∃ t, exec i s = .next t ∧ WalkedOn s t f .write x (joinPlace s g a) ∧
        Begins (.mem .jcadd ((lanesOf f.lanes).map fun l => Access.mk l (joinPlace s g a l) (addr l) 8 [g.port l rb.toNat] [d.toNat] false))
          (slotFlag b.slotA) s t g f))) ∧
  (∀ (rb a d : BitVec 7) (s : State) (g : Gang) (f : Flight) (b : BodyAt), Issues (.launch rb a d) s g f b →
    let i := Instr.launch rb a d
    let x := s.teamOf g
    let off := g.sreg a.toNat
    let q := g.sreg rb.toNat
    let usable := fun (k : Queue) => s.queue? q.toNat = some k ∧ q.toNat ≤ 255 ∧ k.hostOwned = false ∧ k.asid = s.asidOf g
    (off.toNat % 8 ≠ 0 → exec i s = .next (s.trap g f ALIGNMENT f.lanes off true 4)) ∧
    (off.toNat % 8 = 0 → x.scratchZ < off.toNat + 64 → exec i s = .next (s.trap g f SCRATCH_RANGE f.lanes off true 4)) ∧
    (off.toNat % 8 = 0 → off.toNat + 64 ≤ x.scratchZ →
      ((∀ k, ¬usable k) → exec i s = .next (s.trap g f ADDRESS_WINDOW f.lanes q true 4)) ∧
      (∀ k p, usable k → ScratchFree s g off.toNat 64 → OwnPacket s g (BitVec.ofNat 512 (readNat x.scratch off.toNat 64)) p →
        (pktPrio p = 23 → s.system g = false → exec i s = .next (s.trap g f PRIVILEGE f.lanes off true 4)) ∧
        ((pktPrio p = 23 → s.system g = true) →
          (∀ c, s.packetCause p (s.asidOf g) = some c → exec i s = .next (s.trap g f c f.lanes off true 4)) ∧
          (s.packetCause p (s.asidOf g) = none →
            (k.depth ≤ k.entries.length + s.launching k.num → exec i s = .next (s.setGang { g with stall := some (.queueFull k.num) })) ∧
            (k.entries.length + s.launching k.num < k.depth → g.flagFree (slotFlag b.slotA) →
              ∃ t, exec i s = .next t ∧ SameAround s t ∧ Begins (.launch p k.num d.toNat false) (slotFlag b.slotA) s t g f)))))) ∧
  (∀ (i : Instr) (k : Nat) (a : BitVec 7) (s : State) (g : Gang) (f : Flight) (b : BodyAt), cancelForm i = some (k, a) → Issues i s g f b →
    let n := (g.sreg a.toNat).toNat
    let job := s.jobOf g
    let at_ := s.levelCounter ⟨k, n, job⟩ (some (pktTable (s.teamOf g).origin.packet))
    (g.suppliers ≠ [] → exec i s = .next (s.setGang { g with stall := some .supply })) ∧
    (g.suppliers = [] → (∀ off, at_ = some off → s.count off = 0) → ∃ t, exec i s = .next t ∧ Frame {} s t g) ∧
    (∀ off, g.suppliers = [] → at_ = some off → s.count off ≠ 0 → ∃ t, exec i s = .next t ∧
      (∀ h ∈ t.gangs, ∀ x ∈ s.teams, x.id = h.team → ofLevel k n job x.origin.packet x.origin.id x.chain → h.cancelled = true) ∧
      (∀ c ∈ t.cus, ∀ r ∈ c.2.records, ¬ofLevel k n job r.origin.packet r.origin.id (recChain r.words)) ∧
      (∀ l ∈ t.launches, ofLevel k n job l.origin.packet l.origin.id (pktChain l.origin.packet) →
        l.cancelled = true ∧ l.nextTeam = pktCount l.origin.packet ∧ l.nextSeed = pktCount l.origin.packet) ∧
      t.teams = s.teams ∧ t.phys = s.phys)) ∧
  (∀ (a : BitVec 7) (s : State) (g : Gang) (f : Flight) (b : BodyAt), Issues (.lvwait a) s g f b →
    let i := Instr.lvwait a
    let v := g.sreg a.toNat
    let off := v.toNat % 2 ^ 29
    (v.toNat / 2 ^ 29 ≠ 0xFA * 2 ^ 27 → exec i s = .next (s.trap g f ADDRESS_WINDOW f.lanes v true 4)) ∧
    (v.toNat / 2 ^ 29 = 0xFA * 2 ^ 27 → v.toNat % 8 ≠ 0 → exec i s = .next (s.trap g f ALIGNMENT f.lanes v true 4)) ∧
    (v.toNat / 2 ^ 29 = 0xFA * 2 ^ 27 → v.toNat % 8 = 0 → s.grantAt (s.asidOf g) off ≠ some .counter → exec i s = .next (s.trap g f PAGE_PROTECTION f.lanes v true 4)) ∧
    (v.toNat / 2 ^ 29 = 0xFA * 2 ^ 27 → v.toNat % 8 = 0 → s.grantAt (s.asidOf g) off = some .counter → g.flagFree (slotFlag b.slotA) →
      ∃ t, exec i s = .next t ∧ SameAround s t ∧ Begins (.lvwait off (decide (s.count off = 0))) (slotFlag b.slotA) s t g f))

/-- setprio (R302): sr.prio of the issuing gang is the lesser of its source and the launch's priority, which the gang's next issue decision reads; no record on any deque, and nothing else outside
the gang, changes. -/
def Obligations.SetPriority : Prop :=
  ∀ (a : BitVec 7) (s : State) (g : Gang) (f : Flight) (b : BodyAt), Issues (.setprio a) s g f b →
    ∃ t h, exec (.setprio a) s = .next t ∧ t.gang? g.id = some h ∧ h.prio.toNat = min (g.sreg a.toNat).toNat (pktPrio (s.teamOf g).origin.packet) ∧
      GangFrame {} { g with prio := h.prio } h ∧ { t with gangs := s.gangs } = s ∧ t.cus = s.cus ∧ ∀ j, j ≠ g.id → t.gang? j = s.gang? j

/-- JCADD_PERFORM, LVWAIT_COMPLETE, LAUNCH_ACCEPT and DEQUE_REFILL (R282, R284, R290, R291, R298, R299, R301, R319, R368). A lane's add at its home gives 0 unless it leaves 0; then an invalid record
gives 2, and a valid one gives 1 and stands at the bottom of its level, counted; the whole waits while the push has no room. A level wait completes once a test has found COUNT = 0, and acquires.
An invalid packet is discarded with its cause; a valid one of some units becomes a launch with a fresh id, its counter holds COUNT, and its levels rise by one. A spilled record returns to SRAM at
its place. The model's choices here: result 2 also for a record that the gang may not read or whose page is absent (log 38), the acquire of a level wait byte by byte (log 15), that a cancelled
launch takes back its units at acceptance and in what order the levels are counted (log 35), and the room of a spill region (log 39). -/
def Obligations.TaskEvents : Prop :=
  (∀ (s : State) (g : Gang) (o : Op) (a : Access) (v : W32) (d : Nat), HasOp s g o → o.body = .mem .jcadd [a] → o.land = [] → o.sland = [] →
    a.values = some [v] → a.dst = [d] → d < 120 → a.lane < g.threads.length → a.lane < 64 → (∀ n, a.place = .phys n → n / 64 = (n + 7) / 64) → (∀ t n, a.place ≠ .scratch t n) →
    s.mayRelease g o.id 4 = true → g.supplied o = true → s.accessible a.place 8 = true → s.lineSound (s.cuOf g) a.place = true → s.inOrder (s.cuOf g) o.id 0 a.place 8 = true →
    let cu := s.cuOf g
    let u := s.releaseActs cu 4
    let n := BitVec.ofInt 64 (leNat (u.homeBytes a.place 8) + v.toInt)
    let zero := u.rmw cu a.place 8 fun _ => 0
    let gives := fun (t : State) (w : W32) => exec (.jcaddPerform g.id o.id) s = .next t ∧
      ∃ h, t.gang? g.id = some h ∧ h.op? o.id = none ∧ h.vreg a.lane d = w ∧ ∀ l k, (l ≠ a.lane ∨ k ≠ d) → h.vreg l k = g.vreg l k
    (n ≠ 0 → ∃ t, gives t 0 ∧ leNat (t.homeBytes a.place 8) = n.toNat ∧ ∀ p, overlap p 1 a.place 8 = false → t.homeBytes p 1 = u.homeBytes p 1) ∧
    (n = 0 → (∃ k, 1 ≤ k ∧ k ≤ 4 ∧ RecordWaits zero g a.addr k) → exec (.jcaddPerform g.id o.id) s = .fault .notEnabled) ∧
    (n = 0 → (∀ k, 1 ≤ k → k ≤ 4 → ¬RecordWaits zero g a.addr k) → (∃ k, 1 ≤ k ∧ k ≤ 4 ∧ ∀ p, ¬RecordWord zero g a.addr k p) → ∃ t, gives t 2 ∧ t.common = zero.common) ∧
    (n = 0 → ∀ p : Nat → Place, (∀ k, 1 ≤ k → k ≤ 4 → RecordWord zero g a.addr k (p k) ∧ zero.accessible (p k) 8 = true) →
      let rec_ : BitVec 256 := BitVec.ofNat 256 (leNat (zero.homeBytes (p 1) 8 ++ zero.homeBytes (p 2) 8 ++ zero.homeBytes (p 3) 8 ++ zero.homeBytes (p 4) 8))
      ((recCause rec_ ≠ none ∨ ∀ l, zero.launch? (recLaunch rec_) = some l → l.origin.asid ≠ s.asidOf g) → ∃ t, gives t 2 ∧ t.common = zero.common) ∧
      (∀ l, recCause rec_ = none → zero.launch? (recLaunch rec_) = some l → l.origin.asid = s.asidOf g → (zero.cu cu).dequeRoom 1 = false → exec (.jcaddPerform g.id o.id) s = .fault .notEnabled) ∧
      (∀ l, recCause rec_ = none → zero.launch? (recLaunch rec_) = some l → l.origin.asid = s.asidOf g → (zero.cu cu).dequeRoom 1 = true → (zero.cu cu).tidy →
        (∀ q : Record, q.origin = l.origin → recChain q.words = recChain rec_ → zero.discards q = false) →
        ∃ t q rest, gives t 1 ∧ (t.cu cu).level (recPrio q.words) = q :: rest ∧ q.origin = l.origin ∧ q.refire = none ∧
          recordIs q.words (recCode rec_).toNat (recFrame rec_).toNat (recJca rec_).toNat (min (recPrio rec_) (pktPrio l.origin.packet)) (recLaunch rec_).toNat (recChain rec_).toNat ∧
          t.count (pktCounter l.origin.packet) = min (zero.count (pktCounter l.origin.packet) + 1) (2 ^ 48 - 1)))) ∧
  (∀ (s : State) (g : Gang) (o : Op) (off : Nat) (met : Bool), HasOp s g o → o.body = .lvwait off met → o.land = [] → o.sland = [] →
    ((met = true ∨ s.count off = 0) → ∃ t h, exec (.lvwaitComplete g.id o.id) s = .next t ∧ t.gang? g.id = some h ∧ Completes g h o none ∧ Acquired s t (s.cuOf g) ∧
      t.phys = s.phys ∧ t.common = s.common) ∧
    (met = false → s.count off ≠ 0 → exec (.lvwaitComplete g.id o.id) s = .fault .notEnabled)) ∧
  (∀ (s : State) (n : Nat) (q : Queue) (e : Entry), s.queue? n = some q → (q.entries.find? fun e => decide (e.launch = none)) = some e →
    let i := Instr.launchAccept n
    let p := e.packet
    (∀ c, s.packetCause p e.asid = some c → ∃ t k, exec i s = .next t ∧ t.queue? n = some k ∧ k.entries = q.entries.erase e ∧ t.launches = s.launches ∧ t.common = s.common ∧
      (∀ con tag, e.submitter = .host con tag → t.held = s.held ++ [completionOf p (BitVec.ofNat 8 c) 0 tag 1] ∧ t.gangs = s.gangs ∧ KeepsPacket s t (some n) e)) ∧
    (s.packetCause p e.asid = none → 0 < pktCount p → s.cancelOn (pktTable p) (pktChain p) p = false → (∀ l ∈ s.launches, l.origin.id ≠ s.nextLaunch) →
      (∀ l par, (∃ g o, e.submitter = .gang g o par) → s.launch? par = some l → l.cancelled = false) →
      ∃ t l, exec i s = .next t ∧ t.launches = s.launches ++ [l] ∧ l.origin = ⟨s.nextLaunch, e.asid, p⟩ ∧ s.nextLaunch ≠ 0 ∧ l.submitter = e.submitter ∧ l.nextTeam = 0 ∧ l.nextSeed = 0 ∧
        l.cancelled = false ∧ t.held = s.held ∧
        (∀ con tag, e.submitter = .host con tag → t.gangs = s.gangs ∧
          (pktCounter p ∉ levelsOf p → t.count (pktCounter p) = pktCount p ∧ t.cx (pktCounter p) = false ∧
            ∀ off ∈ levelsOf p, t.count off = min (s.count off + 1) (2 ^ 48 - 1) ∧ (t.cx off = true ↔ s.cx off = true ∧ s.count off ≠ 0))) ∧
        (∀ j o par g y pk qn d qd, e.submitter = .gang j o par → s.gang? j = some g → g.op? o = some y → y.body = .launch pk qn d qd → y.land = [] → y.sland = [] →
          ∃ h, t.gang? j = some h ∧ h.op? o = none ∧ (d ≠ 0 → (h.sreg d).toNat = s.nextLaunch.toNat) ∧ ∀ k, k ≠ d → h.sreg k = g.sreg k))) ∧
  (∀ (n : Nat) (s : State), (s.cu n).inSram < 4096 → 0 < (s.cu n).inHbm → (s.cu n).spillAbsent = false → (s.cu n).badDeque = false → (s.cu n).tidy →
    ∃ t p u r v, exec (.dequeRefill n) s = .next t ∧ (s.cu n).level p = u ++ r :: v ∧ r.spilled = true ∧ (∀ x ∈ u, x.spilled = false) ∧
      (t.cu n).level p = u ++ { r with spilled := false } :: v ∧ (∀ q, q ≠ p → (t.cu n).level q = (s.cu n).level q) ∧ (∀ m, m ≠ n → t.cu m = s.cu m) ∧ { t with cus := s.cus } = s)

/-- PLACEMENT_DECISION, DISPATCH and GANG_RETIREMENT (R88, R89, R161, R284, R285, R287, R289, R292, R314, R354). A team that is placed, or each team of a cluster group, on CUs of one cluster with the ranks in
order, has its gangs at the entry point with ARG and COUNT, the start acquires, and the launch goes on to its next team or group; a saved team comes back with its registers and threads. A dispatch takes records of one code pointer, launch and chain from one deque, and its gang holds one in
each lane of the pack. A gang retires when its threads have exited, its flags are zero and its reductions are at their homes; it writes the CU's dirty lines back, and the last gang of a team takes
one from the launch's counter, which may complete the launch; a task gang takes one for each record that is no re-fire, and for a re-fire one from its slot's NRUN and one from its chain. The model's choices here: on which CU a unit is placed (log 32), the acquire of a start byte by byte (log 15), and that only condition
operations without a flag are dropped (log 29). -/
def Obligations.PlacementAndRetirement : Prop :=
  (∀ (s : State) (cu prio q : Nat) (id : W32) (cus : List Nat) (l : Launch), s.decision = some (cu, prio, .team q id cus) → s.launch? id = some l →
    let p := l.origin.packet
    let k := max 1 (pktGroup p)
    ∃ t xs, exec (.placementDecision cu) s = .next t ∧ t.teams = s.teams ++ xs ∧ xs.length = k ∧ cus.length = k ∧ cus.Nodup ∧ cu ∈ cus ∧
      (∀ i x, xs[i]? = some x → cus[i]? = some x.cu ∧ clusterOf x.cu = clusterOf cu ∧ x.rank = i ∧ x.groupSize = pktGroup p ∧
        x.origin = l.origin ∧ x.index = l.nextTeam + i ∧ x.isTask = false ∧ x.chain = pktChain p ∧
        x.scratchZ = pktScratch p ∧ x.scratch = [] ∧ x.barCount = pktBarriers p ∧ x.barriers = [] ∧ x.carCount = pktCarousels p ∧ x.carousels = [] ∧ x.asked = pktMacros p ∧
        (∀ n, n < pktGangs p → ∃ h ∈ t.gangs, h.team = x.id ∧ h.index.toNat = n ∧ h.prio.toNat = pktPrio p ∧
          AtEntry h p (pktCode p) (pktWidth p) (fun _ _ => 0) fun k => if k = 1 then pktArg p else if k = 2 then BitVec.ofNat 64 (pktCount p) else 0)) ∧
      (∃ grp, ∀ x ∈ xs, x.group = if pktGroup p = 0 then none else some grp) ∧
      (∀ h ∈ s.gangs, h ∈ t.gangs) ∧ t.gangs.length = s.gangs.length + k * pktGangs p ∧ (∃ y, t.launch? id = some y ∧ y = { l with nextTeam := l.nextTeam + k }) ∧
      (∀ c ∈ cus, Acquired s t c) ∧ t.phys = s.phys ∧ t.common = s.common) ∧
  (∀ (s : State) (cu prio : Nat) (area : W64) (cus : List Nat) (u : Saved) (x : Team), s.decision = some (cu, prio, .restore area cus) →
    (s.saved.find? fun u => decide (u.area = area)) = some u → u.teams = [x] →
    ∃ t, exec (.placementDecision cu) s = .next t ∧ t.teams = s.teams ++ [{ x with cu := cu }] ∧ (∀ v ∈ t.saved, v.area ≠ area) ∧ area ∉ t.restores ∧
      (∀ g ∈ u.gangs, g.team = x.id → ∃ h ∈ t.gangs, h = { g with quads := h.quads, gslot := h.gslot, saving := false, ops := h.ops, shown := h.shown } ∧ h.ops.map Op.id = g.ops.map Op.id) ∧
      t.phys = s.phys ∧ t.common = s.common) ∧
  (∀ (s : State) (cu p src : Nat) (line : List Record), s.decision = some (cu, p, .records) → s.source cu p = some (src, line) → (∀ r ∈ line, recPrio r.words = p) →
    ∃ t x h rs, exec (.dispatch cu) s = .next t ∧ rs ≠ [] ∧ rs.length ≤ h.width ∧ ((s.cu src).level p).Perm (rs ++ (t.cu src).level p) ∧
      (∀ r ∈ rs, ∀ y ∈ rs, recCode r.words = recCode y.words ∧ recLaunch r.words = recLaunch y.words ∧ recChain r.words = recChain y.words) ∧
      t.teams = s.teams ++ [x] ∧ x.cu = cu ∧ x.isTask = true ∧ h ∈ t.gangs ∧ h.team = x.id ∧ h.prio.toNat = p ∧ t.gangs.length = s.gangs.length + 1 ∧
      (∀ r, rs.head? = some r → x.origin = r.origin ∧ x.chain = recChain r.words ∧
        AtEntry h r.origin.packet ((recCode r.words).setWidth 64) rs.length
          (fun l n => match rs[l]? with
            | some y => recordEntry y (s.laneVersion y) l n
            | none => 0)
          fun k => if k = 1 then pktArg r.origin.packet else 0) ∧ Acquired s t cu ∧ t.phys = s.phys) ∧
  (∀ (s : State) (g : Gang) (x : Team), s.gang? g.id = some g → s.team? g.team = some x → (∀ t ∈ g.threads, t.status = .exited) → (∀ o ∈ g.ops, o.isCondition = true ∧ o.flag = none) →
    g.flight = none → (∀ r ∈ s.reds, ∀ c ∈ r.sources, c.2.1 ≠ g.id) → s.flushable (s.cuOf g) = true →
    let off := pktCounter x.origin.packet
    let alone := ∀ h ∈ s.gangs, h.team = x.id → h.id = g.id
    ∃ t, exec (.gangRetirement g.id) s = .next t ∧ (∀ h ∈ t.gangs, h.id ≠ g.id) ∧ (∀ j, j ≠ g.id → (t.gang? j).isSome = (s.gang? j).isSome) ∧ WrittenBack s t x.cu ∧
      (∀ a, (∀ y, (s.cu x.cu).line? (a / 64) = some y → y.dirty.getLsbD (a % 64) = false) → look t.phys a = look s.phys a) ∧
      (x.isTask = false → ¬alone → t.common = s.common ∧ t.launches = s.launches) ∧
      (x.isTask = true → (∀ p ∈ g.packed, p.refire = none) → g.packed.length < s.count off →
        t.count off = s.count off - g.packed.length ∧ t.launches = s.launches ∧ ∀ a, (a < off ∨ off + 8 ≤ a) → look t.common a = look s.common a) ∧
      (∀ r c y, x.isTask = true → g.packed = [⟨some r, c⟩] → s.slot? r.off = some y → y.id = r.slot → (c + 8 ≤ r.off ∨ r.off + 64 ≤ c) →
        hdrNrun (t.header r.off) = hdrNrun (s.header r.off) - 1 ∧ t.count c = s.count c - 1 ∧ t.launches = s.launches ∧
        ∀ a, (a < c ∨ c + 8 ≤ a) → (a < r.off ∨ r.off + 64 ≤ a) → look t.common a = look s.common a) ∧
      (CountsOne x g alone → (s.count off = 0 → t.common = s.common) ∧
        (1 < s.count off → t.count off = s.count off - 1 ∧ t.launches = s.launches ∧ ∀ a, (a < off ∨ off + 8 ≤ a) → look t.common a = look s.common a) ∧
        (∀ l con tag, s.count off = 1 → s.launch? x.origin.id = some l → l.submitter = .host con tag →
          (∀ y ∈ t.launches, y.origin.id ≠ l.origin.id) ∧
          t.held = s.held ++ [completionOf l.origin.packet l.seedCause l.origin.id tag (if l.cancelled then 2 else 0)] ∧
          (off % 8 = 0 → off ∉ levelsOf l.origin.packet → t.count off = 0 ∧
            (pktPhase l.origin.packet ≠ 4095 → ∀ n ∈ levelsOf l.origin.packet, t.count n = s.count n - 1))))) ∧
  (∀ (s : State) (g : Gang), s.gang? g.id = some g → ((∃ o ∈ g.ops, o.flag ≠ none) ∨ ∃ r ∈ s.reds, ∃ c ∈ r.sources, c.2.1 = g.id) → exec (.gangRetirement g.id) s = .fault .notEnabled)

/-! ## Refining slots -/

/-- The ref words (R307-R311, R313, R316): a bad slot address raises its cause in the order of R307, with sr.taddr the address; then each form's own checks, and otherwise one operation on slot A with what
it captures. A publish into an open slot at version 0xFFFF_FFFF raises VERSION_OVERFLOW. The model's choices here: the stall while another operation of the gang on the slot is outstanding, and while
the outstanding publishes may use up the versions (log 43); the stall behind an acquire (log 19); and that a record whose third word has bits 63:44 set is an ILLEGAL_ENCODING, by the reserved bits of R290. -/
def Obligations.RefWords : Prop :=
  (∀ (i : Instr) (a : BitVec 7) (live : Bool) (s : State) (g : Gang) (f : Flight) (b : BodyAt), refForm i = some (a, live) → Issues i s g f b →
    let v := g.sreg a.toNat
    let off := v.toNat % 2 ^ 29
    let trap := fun c => exec i s = .next (s.trap g f c f.lanes v true 4)
    (v.toNat / 2 ^ 29 ≠ 0xFA * 2 ^ 27 → trap ADDRESS_WINDOW) ∧
    (v.toNat / 2 ^ 29 = 0xFA * 2 ^ 27 → (off % 64 ≠ 0 → trap ALIGNMENT) ∧ (off % 64 = 0 → (s.grantAt (s.asidOf g) off ≠ some .slot → trap PAGE_PROTECTION) ∧
      (s.grantAt (s.asidOf g) off = some .slot →
        (g.acquiring = true → exec i s = .next (s.setGang { g with stall := some .acquire })) ∧
        (g.acquiring = false → g.onSlot off = true → exec i s = .next (s.setGang { g with stall := some (.slot off) })) ∧
        (g.acquiring = false → g.onSlot off = false → live = true → s.slot? off = none → trap PAGE_PROTECTION))))) ∧
  (∀ (i : Instr) (keyed : Bool) (rb a : BitVec 7) (c : BitVec 3) (s : State) (g : Gang) (f : Flight) (b : BodyAt) (off : Nat),
    (i = .rpub rb a c ∧ keyed = false ∨ i = .rpubk rb a c ∧ keyed = true) → Issues i s g f b → SlotReady s g (g.sreg a.toNat) true off →
    TileChecked i s g f (g.sreg rb.toNat) off
      ((hdrFin (s.header off) = false → hdrVer (s.header off) = 0xFFFFFFFF → exec i s = .next (s.trap g f VERSION_OVERFLOW f.lanes (g.sreg a.toNat) true 4)) ∧
       (hdrFin (s.header off) = false → hdrVer (s.header off) < 0xFFFFFFFF → 0xFFFFFFFF ≤ hdrVer (s.header off) + s.publishing off →
         exec i s = .next (s.setGang { g with stall := some (.version off) })) ∧
       ((hdrFin (s.header off) = true ∨ hdrVer (s.header off) + s.publishing off < 0xFFFFFFFF) → RefIssued i (.rpub keyed c.toNat (g.sreg rb.toNat).toNat a.toNat) off s g f b))) ∧
  (∀ (rb a : BitVec 7) (c : BitVec 3) (s : State) (g : Gang) (f : Flight) (b : BodyAt) (off : Nat), Issues (.rread rb a c) s g f b → SlotReady s g (g.sreg a.toNat) true off →
    TileChecked (.rread rb a c) s g f (g.sreg rb.toNat) off (RefIssued (.rread rb a c) (.rread c.toNat (g.sreg rb.toNat).toNat a.toNat) off s g f b)) ∧
  (∀ (a d : BitVec 7) (s : State) (g : Gang) (f : Flight) (b : BodyAt) (off : Nat), SlotReady s g (g.sreg a.toNat) true off →
    (Issues (.rver a d) s g f b → RefIssued (.rver a d) (.rver d.toNat) off s g f b) ∧
    (Issues (.runsub d a) s g f b → RefIssued (.runsub d a) (.runsub (g.sreg d.toNat)) off s g f b) ∧
    (Issues (.rstop a) s g f b → RefIssued (.rstop a) .rstop off s g f b) ∧
    (Issues (.rsettle a) s g f b → g.flagFree (slotFlag b.slotA) → ∃ t, exec (.rsettle a) s = .next t ∧ SameAround s t ∧
      Begins (.rsettle off (decide (hdrFin (s.header off) = true ∧ hdrNpend (s.header off) = 0 ∧ hdrNrun (s.header off) = 0))) (slotFlag b.slotA) s t g f)) ∧
  (∀ (i : Instr) (cancel : Bool) (rb a : BitVec 7) (s : State) (g : Gang) (f : Flight) (b : BodyAt) (off : Nat),
    (i = .rsubRerun rb a ∧ cancel = false ∨ i = .rsubCancel rb a ∧ cancel = true) → Issues i s g f b → SlotReady s g (g.sreg a.toNat) true off →
    let w := fun n => (g.sreg (rb.toNat + n)).toNat
    let x := s.teamOf g
    let reserved := 2 ^ 44 ≤ w 3 ∨ w 0 / 2 ^ 61 ≠ 0
    (reserved → exec i s = .next (s.trap g f ILLEGAL_ENCODING f.lanes 0 true 4)) ∧
    (¬reserved → w 0 % 2 = 1 → exec i s = .next (s.trap g f ALIGNMENT f.lanes (BitVec.ofNat 64 (w 0 % 2 ^ 56)) true 4)) ∧
    (¬reserved → w 0 % 2 = 0 → ∃ r, recordIs r (w 0 % 2 ^ 56) (w 1) (w 2) (min (w 0 / 2 ^ 56) (pktPrio x.origin.packet)) (s.launchOf g).toNat (w 3 / 2 ^ 32) ∧
      RefIssued i (.rsub cancel r a.toNat) off s g f b)) ∧
  (∀ (rb a : BitVec 7) (k : BitVec 3) (s : State) (g : Gang) (f : Flight) (b : BodyAt) (off : Nat), Issues (.rinit rb a k) s g f b → SlotReady s g (g.sreg a.toNat) false off →
    let i := Instr.rinit rb a k
    let n := (g.sreg rb.toNat).toNat
    let good := n % 64 = 0 ∧ 64 ≤ n ∧ n ≤ 4096
    let meets := ∃ x ∈ s.slots, x.off ≠ off ∧ x.off < off + 64 + n ∧ off < x.off + 64 + 64 * hdrTsz (s.header x.off)
    (¬good → exec i s = .next (s.trap g f ILLEGAL_ENCODING f.lanes (g.sreg rb.toNat) true 4)) ∧
    (good → (65536 < off % 65536 + 64 + n ∨ meets) → exec i s = .next (s.trap g f PAGE_PROTECTION f.lanes (g.sreg a.toNat) true 4)) ∧
    (good → off % 65536 + 64 + n ≤ 65536 → s.slotInWay off (64 + n) = false → RefIssued i (.rinit k.toNat n) off s g f b))

/-- REF_OP_PERFORM and RSETTLE_COMPLETE (R308-R316). A publish on a final slot gives all ones and a beaten keyed one 0, and neither changes common memory; otherwise the version rises by one, the tile
holds the published bytes, and the mirrors follow. rread copies the tile and gives the version word; rver gives it. rsub gives the lowest free id, or 0; runsub removes the
subscription; rstop makes the slot final; rinit makes an open slot at version 0 with a tile of zeros and no subscription. rsettle completes on a settled slot. A publish re-fires a rerun subscription and
cancels the chain of a cancel subscription, but a record of CODE 0 is a watch and does neither. The acquires of rread and rsettle are byte by byte (log 15), which is the model's choice. -/
def Obligations.RefEvents : Prop :=
  (∀ (s : State) (g : Gang) (o : Op) (keyed : Bool) (scope tile d off : Nat), RefOp s g o (.rpub keyed scope tile d) off →
    let h := s.header off
    let z := 64 * hdrTsz h
    let x := s.teamOf g
    let loses := keyed = true ∧ hdrVer h ≠ 0 ∧ ¬Beats (hdrKey h) (BitVec.ofNat 32 (readNat x.scratch tile 4)) (BitVec.ofNat 32 (readNat s.common (off + 64) 4))
    tile + z ≤ x.scratchZ → 64 ≤ z →
    (hdrFin h = true → ∃ t, RefGives s t g o d 0xFFFFFFFFFFFFFFFF ∧ t.common = s.common ∧ t.slots = s.slots) ∧
    (hdrFin h = false → loses → ∃ t, RefGives s t g o d 0 ∧ t.common = s.common ∧ t.slots = s.slots) ∧
    (hdrFin h = false → ¬loses → hdrVer h < 0xFFFFFFFF → (∀ y, s.slot? off = some y → y.subs = []) →
      ∃ t, RefGives s t g o d (BitVec.ofNat 64 (hdrVer h + 1)) ∧ readNat t.common (off + 64) z = readNat x.scratch tile z ∧
        hdrVer (t.header off) = hdrVer h + 1 ∧ hdrFin (t.header off) = false ∧ hdrKey (t.header off) = hdrKey h ∧ hdrTsz (t.header off) = hdrTsz h ∧
        (∀ a, (a < off ∨ off + 64 + z ≤ a) → look t.common a = look s.common a) ∧
        ∀ m ∈ t.mirrors, m.off = off → if scope = 2 ∨ scope = 3 then m.valid = true ∧ m.version = versionWord (t.header off) else m.valid = false)) ∧
  (∀ (s : State) (g : Gang) (o : Op) (scope tile d off : Nat) (y : Slot) (u : Sub), RefOp s g o (.rpub false scope tile d) off → hdrFin (s.header off) = false →
    hdrVer (s.header off) < 0xFFFFFFFF → s.slot? off = some y → y.subs = [u] → u.cancel = false → u.pending = false → recCode u.words ≠ 0 → s.discards (y.record u) = false →
    hdrNpend (s.header off) < 2 ^ 11 - 1 → (s.cu u.home).tidy →
    let n := chainCounter (pktTable u.origin.packet) (recChain u.words).toNat
    (∀ c ∈ [n, phaseCounter (pktTable u.origin.packet) (pktPhase u.origin.packet).toNat, jobCounter (pktTable u.origin.packet)],
      c + 8 ≤ off ∨ off + 64 + 64 * hdrTsz (s.header off) ≤ c) →
    ∃ t r rest, exec (.refOpPerform g.id o.id) s = .next t ∧ (t.cu u.home).level (recPrio u.words) = r :: rest ∧ r.words = u.words ∧ r.origin = u.origin ∧ r.refire = some ⟨off, y.id, u.id⟩ ∧
      hdrNpend (t.header off) = hdrNpend (s.header off) + 1 ∧ t.count n = min (s.count n + 1) (2 ^ 48 - 1)) ∧
  (∀ (s : State) (g : Gang) (o : Op) (scope tile d off : Nat) (y : Slot) (u : Sub), RefOp s g o (.rpub false scope tile d) off → hdrFin (s.header off) = false →
    hdrVer (s.header off) < 0xFFFFFFFF → s.slot? off = some y → y.subs = [u] →
    (recCode u.words = 0 → ∃ t z, exec (.refOpPerform g.id o.id) s = .next t ∧ t.slot? off = some z ∧ z.subs = [u] ∧ (∀ c, (t.cu c).deque = (s.cu c).deque) ∧
      hdrNpend (t.header off) = hdrNpend (s.header off) ∧ ∀ j, (t.gang? j).map Gang.cancelled = (s.gang? j).map Gang.cancelled) ∧
    (recCode u.words ≠ 0 → u.cancel = true → u.pending = false → u.base.toNat ≤ hdrVer (s.header off) →
      let n := chainCounter (pktTable u.origin.packet) (recChain u.words).toNat
      (n + 8 ≤ off ∨ off + 64 + 64 * hdrTsz (s.header off) ≤ n) → s.count n ≠ 0 →
      ∃ t z, exec (.refOpPerform g.id o.id) s = .next t ∧ t.slot? off = some z ∧ z.subs = [] ∧
        ∀ h ∈ t.gangs, ∀ x ∈ s.teams, x.id = h.team → ofLevel 1 (recChain u.words).toNat (pktJob u.origin.packet) x.origin.packet x.origin.id x.chain → h.cancelled = true)) ∧
  (∀ (s : State) (g : Gang) (o : Op) (scope tile d off : Nat) (x : Team), RefOp s g o (.rread scope tile d) off → s.team? g.team = some x →
    let z := 64 * hdrTsz (s.header off)
    tile + z ≤ x.scratchZ →
    let mirror := s.mirror? (clusterOf x.cu) off
    ∃ t y, RefGives s t g o d (match mirror with
        | some m => if z = 64 then m.version else versionWord (s.header off)
        | none => versionWord (s.header off)) ∧ t.team? g.team = some y ∧
      readNat y.scratch tile z = (match mirror with
        | some m => if z = 64 then m.tile.toNat else readNat s.common (off + 64) z
        | none => readNat s.common (off + 64) z) ∧
      (∀ a, (a < tile ∨ tile + z ≤ a) → look y.scratch a = look x.scratch a) ∧ (3 ≤ scope → Acquired s t x.cu) ∧ t.common = s.common ∧ t.phys = s.phys) ∧
  (∀ (s : State) (g : Gang) (o : Op) (d off : Nat), RefOp s g o (.rver d) off →
    ∃ t, RefGives s t g o d (wordRead s (s.cuOf g) off) ∧ { t with gangs := s.gangs } = s) ∧
  (∀ (s : State) (g : Gang) (o : Op) (cancel : Bool) (r : BitVec 256) (d off : Nat) (x : Slot), RefOp s g o (.rsub cancel r d) off → s.slot? off = some x →
    ((hdrFin (s.header off) = true ∨ 1024 ≤ x.subs.length) → ∃ t, RefGives s t g o d 0 ∧ { t with gangs := s.gangs } = s) ∧
    (hdrFin (s.header off) = false → x.subs.length < 1024 → ∃ t n y u, RefGives s t g o d (BitVec.ofNat 64 n) ∧ 1 ≤ n ∧ n ≤ 1024 ∧ (∀ v ∈ x.subs, v.id ≠ n) ∧
      (∀ m, 1 ≤ m → m < n → ∃ v ∈ x.subs, v.id = m) ∧ t.slot? off = some y ∧ y.subs = x.subs ++ [u] ∧ u.id = n ∧ u.cancel = cancel ∧ u.words = r ∧ u.pending = false ∧
      u.origin = (s.teamOf g).origin ∧ u.home = s.cuOf g ∧ u.base.toNat = hdrVer (s.header off))) ∧
  (∀ (s : State) (g : Gang) (o : Op) (id : W64) (off : Nat) (x : Slot), RefOp s g o (.runsub id) off → s.slot? off = some x →
    ∃ t h y, exec (.refOpPerform g.id o.id) s = .next t ∧ t.gang? g.id = some h ∧ h.op? o.id = none ∧ (∀ n, h.sreg n = g.sreg n) ∧ t.slot? off = some y ∧
      y.subs = x.subs.filter (fun v => decide (v.id ≠ id.toNat)) ∧ ((∀ v ∈ x.subs, v.id ≠ id.toNat) → t.common = s.common ∧ t.mirrors = s.mirrors)) ∧
  (∀ (s : State) (g : Gang) (o : Op) (off : Nat), RefOp s g o .rstop off →
    ∃ t h, exec (.refOpPerform g.id o.id) s = .next t ∧ t.gang? g.id = some h ∧ h.op? o.id = none ∧ hdrFin (t.header off) = true ∧ hdrVer (t.header off) = hdrVer (s.header off) ∧
      (hdrFin (s.header off) = true → t.common = s.common) ∧ (∀ a, (a < off ∨ off + 64 ≤ a) → look t.common a = look s.common a) ∧
      (hdrFin (s.header off) = false → ∀ m ∈ t.mirrors, m.off = off → m.valid = true ∧ m.version = versionWord (t.header off))) ∧
  (∀ (s : State) (g : Gang) (o : Op) (key z off : Nat), RefOp s g o (.rinit key z) off → key < 7 → z % 64 = 0 → 64 ≤ z → z ≤ 4096 →
    (∀ x, s.slot? off = some x → ∀ u ∈ x.subs, u.pending = false) →
    ∃ t h x, exec (.refOpPerform g.id o.id) s = .next t ∧ t.gang? g.id = some h ∧ h.op? o.id = none ∧ t.slot? off = some x ∧ x.subs = [] ∧ (∀ m ∈ t.mirrors, m.off ≠ off) ∧
      hdrVer (t.header off) = 0 ∧ hdrFin (t.header off) = false ∧ hdrKey (t.header off) = key ∧ hdrTsz (t.header off) = z / 64 ∧ hdrNpend (t.header off) = 0 ∧
      (t.header off).getLsbD 36 = true ∧ hdrNrun (t.header off) = (if (s.slot? off).isSome then hdrNrun (s.header off) else 0) ∧ readNat t.common (off + 64) z = 0 ∧
      ∀ a, (a < off ∨ off + 64 + z ≤ a) → look t.common a = look s.common a) ∧
  (∀ (s : State) (g : Gang) (o : Op) (off : Nat) (met : Bool), HasOp s g o → o.body = .rsettle off met → o.land = [] → o.sland = [] →
    let now := hdrFin (s.header off) = true ∧ hdrNpend (s.header off) = 0 ∧ hdrNrun (s.header off) = 0
    ((met = true ∨ now) → ∃ t h, exec (.rsettleComplete g.id o.id) s = .next t ∧ t.gang? g.id = some h ∧ Completes g h o none ∧ Acquired s t (s.cuOf g) ∧
      t.phys = s.phys ∧ t.common = s.common) ∧
    (met = false → ¬now → exec (.rsettleComplete g.id o.id) s = .fault .notEnabled))

/-! ## Pooling -/

/-- embcfg, embag and EMBAG_COMPLETE (R323, R326-R330). embcfg loads a legal descriptor from the scratch and refuses another; embag's checks raise their causes in order, and otherwise it issues one operation on
slot A with the descriptor, the offsets and the places captured. An output takes its bag's terms one after another from its start, each element read at its home and each index and weight read once; one at
or above ROWS is passed over; after the last the output is written. A bag with an element that cannot be read is refused: its outputs are 0x7FC00000 and its status 2; otherwise its status is 1 where an
index was passed over, else 0, and SUBST goes with each index passed over. An absent page makes the command wait for the runtime. Once every word is written, the flags are merged and the flag falls.
The model's choices here: in what pieces the buffers read (log 44), and the sign of a zero sum (log 52). -/
def Obligations.Embedding : Prop :=
  (∀ (a : BitVec 7) (n : BitVec 4) (s : State) (g : Gang) (f : Flight) (b : BodyAt) (x : Team), Issues (.embcfg a n) s g f b → s.team? g.team = some x →
    let i := Instr.embcfg a n
    let off := g.sreg a.toNat
    (off.toNat % 8 ≠ 0 → exec i s = .next (s.trap g f ALIGNMENT f.lanes off true 4)) ∧
    (off.toNat % 8 = 0 → x.scratchZ < off.toNat + 32 → exec i s = .next (s.trap g f SCRATCH_RANGE f.lanes off true 4)) ∧
    (ScratchReads s g off → ¬DescriptorFits (scratchWord s g off) → exec i s = .next (s.trap g f ILLEGAL_ENCODING f.lanes off true 4)) ∧
    (ScratchReads s g off → DescriptorFits (scratchWord s g off) → ∃ t h y, exec i s = .next t ∧ t.gang? g.id = some h ∧ GangFrame {} g h ∧ t.team? g.team = some y ∧
      look y.descs n.toNat = scratchWord s g off ∧ (∀ m, m ≠ n.toNat → look y.descs m = look x.descs m) ∧ y.scratch = x.scratch ∧ (∀ j, j ≠ g.team → t.team? j = s.team? j) ∧
      { t with gangs := s.gangs, teams := s.teams } = s ∧ ∀ j, j ≠ g.id → t.gang? j = s.gang? j)) ∧
  (∀ (rb a : BitVec 7) (n : BitVec 4) (s : State) (g : Gang) (f : Flight) (b : BodyAt) (x : Team), Issues (.embag rb a n) s g f b → s.team? g.team = some x →
    let i := Instr.embag rb a n
    let d := look x.descs n.toNat
    let l := (g.sreg a.toNat).toNat
    let out := (g.sreg rb.toNat).toNat
    let trap := fun (c addr : Nat) => exec i s = .next (s.trap g f c f.lanes (BitVec.ofNat 64 addr) true 4)
    (dscCols d = 0 → trap ILLEGAL_ENCODING n.toNat) ∧
    (dscCols d ≠ 0 → (l % 8 ≠ 0 → trap ALIGNMENT l) ∧ (l % 8 = 0 → out % 4 ≠ 0 → trap ALIGNMENT out) ∧
      (l % 8 = 0 → out % 4 = 0 → (x.scratchZ < l + 8 → trap SCRATCH_RANGE l) ∧
        (l + 8 ≤ x.scratchZ → ScratchFree s g l 8 →
          let h := BitVec.ofNat 64 (readNat x.scratch l 8)
          ((∀ nb mode, ¬BagHeader h nb mode) → trap ILLEGAL_ENCODING l) ∧
          (∀ nb mode, BagHeader h nb mode → l + 8 + 4 * (nb + 1) ≤ x.scratchZ → ScratchFree s g l (8 + 4 * (nb + 1)) →
            let idx := l + 8 + 4 * (nb + 1)
            let m := bagOff x l nb
            (¬OffsetsFit x l nb → trap ILLEGAL_ENCODING l) ∧
            (OffsetsFit x l nb → (x.scratchZ < idx + 4 * m → trap SCRATCH_RANGE idx) ∧
              (idx + 4 * m ≤ x.scratchZ → mode = 1 → x.scratchZ < idx + 8 * m → trap SCRATCH_RANGE (idx + 4 * m)) ∧
              (idx + 4 * m ≤ x.scratchZ → (mode = 1 → idx + 8 * m ≤ x.scratchZ) →
                (x.scratchZ < out + 4 * nb * (dscCols d + 1) → trap SCRATCH_RANGE out) ∧
                (out + 4 * nb * (dscCols d + 1) ≤ x.scratchZ → s.embagsOn (dieOf (s.cuOf g)) < 32 → g.flagFree (slotFlag b.slotA) →
                  ∃ t e, exec i s = .next t ∧ SameAround s t ∧ PoolIs e x d l out nb mode ∧ Begins (.embag e) (slotFlag b.slotA) s t g f)))))))) ∧
  (∀ (s : State) (g : Gang) (o : Op) (e : Embag) (x : Team) (n : Nat), HasOp s g o → o.body = .embag e → s.team? g.team = some x →
    let cols := dscCols e.desc
    let last := e.nb * cols
    let b := if n < last then n / cols else n - last
    let held := fun (m : Cells 33) (base k : Nat) => if look m k = 0 then readNat x.scratch (base + 4 * k) 4 else (look m k).toNat % 2 ^ 32
    let idx := held e.idx (idxBase e.list e.nb)
    let wt := held e.wts (wtBase e.list e.nb (e.offs.getD e.nb 0))
    let p := (entry (e.offs.getD b 0, if e.mode = 2 then 0xFF800000 else 0) e.runs n).1
    let acc := (entry (e.offs.getD b 0, if e.mode = 2 then 0xFF800000 else 0) e.runs n).2
    let fls := entry 0 e.bagFlags b
    let writes := fun (w : W32) (fl : BitVec 8) => ∃ t y, s.poolOne g o.id e n = some t ∧ EmbagIs t g o { e with parts := put e.parts n 1, flags := e.flags ||| fl } ∧
      t.team? g.team = some y ∧ readNat y.scratch (e.out + 4 * n) 4 = w.toNat ∧ ∀ a, (a < e.out + 4 * n ∨ e.out + 4 * n + 4 ≤ a) → look y.scratch a = look x.scratch a
    let takes := fun (r : W32) (fl : BitVec 8) => ∃ t d, s.poolOne g o.id e n = some t ∧ EmbagIs t g o d ∧ entry (0, 0) d.runs n = (p + 1, r) ∧ entry 0 d.bagFlags b = fls ||| fl ∧
      look d.idx p = BitVec.ofNat 33 (2 ^ 32 + idx p) ∧ (e.mode = 1 → look d.wts p = BitVec.ofNat 33 (2 ^ 32 + wt p)) ∧
      d.parts = e.parts ∧ d.flags = e.flags ∧ d.refused = e.refused ∧ t.teams = s.teams
    (∀ skip : Bool, (skip = true ↔ ∃ k, e.offs.getD b 0 ≤ k ∧ k < e.offs.getD (b + 1) 0 ∧ dscRows e.desc ≤ idx k) → last ≤ n →
      let subst : BitVec 8 := if skip then SUBST else 0
      (b ∈ e.refused → writes 2 (INVALID ||| subst ||| fls)) ∧ (b ∉ e.refused → writes (if skip then 1 else 0) (fls ||| subst))) ∧
    (n < last → (b ∈ e.refused → writes 0x7FC00000 0) ∧
      (b ∉ e.refused → (e.offs.getD (b + 1) 0 ≤ p → writes acc 0) ∧
        (p < e.offs.getD (b + 1) 0 → (dscRows e.desc ≤ idx p → takes acc 0) ∧
          (idx p < dscRows e.desc →
            (∀ pa, ElementAt s g e (idx p) (n % cols) pa → (s.cu x.cu).lines = [] →
              ∃ r fl, TermIs (dscFmt e.desc) e.mode acc (readNat s.phys pa (dscSize e.desc)) (BitVec.ofNat 32 (wt p)) r fl ∧ takes r fl) ∧
            (ElementBad s g e (idx p) (n % cols) → ∃ t d, s.poolOne g o.id e n = some t ∧ EmbagIs t g o d ∧ d.refused = b :: e.refused ∧
              (∀ j, b * cols ≤ j → j < b * cols + cols → look d.parts j = 0) ∧ (∀ j, (j < b * cols ∨ b * cols + cols ≤ j) → look d.parts j = look e.parts j) ∧ t.teams = s.teams) ∧
            (s.engineTranslate (s.asidOf g) (elementVa e.desc (idx p) (n % cols)) .read = .fault → s.system g = false →
              ∃ t, s.poolOne g o.id e n = some t ∧ EmbagIs t g o { e with waiting := some (b, s.freshTag) } ∧
                ∃ r ∈ t.requests, r.tag = s.freshTag ∧ r.addr = BitVec.ofNat 64 (elementVa e.desc (idx p) (n % cols)) ∧ r.what = .bag g.id o.id b)))))) ∧
  (∀ (s : State) (g : Gang) (o : Op) (e : Embag), HasOp s g o → o.body = .embag e → o.land = [] → o.sland = [] → (∀ n, n < e.nb * (dscCols e.desc + 1) → look e.parts n ≠ 0) →
    ∃ t h, exec (.embagComplete g.id o.id) s = .next t ∧ t.gang? g.id = some h ∧ Completes g h o none ∧ h.fstat = g.fstat ||| e.flags ∧ { t with gangs := s.gangs } = s)

/-! ## System words and requests -/

/-- rdcyc, rdperf, tlbinv, halt and sret, with TLBINV_COMPLETE and HALT_COMPLETE (R342-R345). rdcyc gives the die's cycle counter, which has not gone back; rdperf the counter of its index, 0 past the table; tlbinv
and halt issue one operation on slot A; an sret goes on to the next word, and its request is served in the state that leaves. A completed tlbinv leaves no kept translation
that it names; a halt completes when the die's ring holds a record that the runtime has not consumed. That a completed tlbinv drops every line of every view cache, and with ic = 1 every
cached instruction, where R343 names the lines of the same pages, is the model's choice (log 28), and so is by how much a counter moves on and that it stops at its greatest value (log 6). -/
def Obligations.SystemWords : Prop :=
  (∀ (i : Instr) (d : BitVec 7) (value : State → W64) (s : State) (g : Gang) (f : Flight) (b : BodyAt),
    (i = .rdcyc d ∧ value = (fun t => (t.die (dieOf (s.cuOf g))).cycles) ∨
     ∃ a, i = .rdperf a d ∧ value = fun t => match (g.sreg a.toNat).toNat with
      | 0 => g.issues
      | 1 => g.words
      | 2 => g.laneOps
      | 3 => g.stalls
      | 4 => (s.cu (s.cuOf g)).misses
      | 5 => (s.cu (s.cuOf g)).walks
      | 6 => (t.die (dieOf (s.cuOf g))).stretched
      | _ => 0) → Issues i s g f b →
    ∃ t h n m, exec i s = .next t ∧ t.gang? g.id = some h ∧ ((∀ l, (g.thread l).gathers = false) → h.sreg d.toNat = if d.toNat = 0 then 0 else value t) ∧
      GangFrame { sreg := fun k => k = d.toNat } g h ∧
      (let e := s.die (dieOf (s.cuOf g))
       t.die (dieOf (s.cuOf g)) = { e with cycles := BitVec.ofNat 64 (min (2 ^ 64 - 1) (e.cycles.toNat + n)), stretched := BitVec.ofNat 64 (min (2 ^ 64 - 1) (e.stretched.toNat + m)) }) ∧ m ≤ n ∧
      (∀ k, k ≠ dieOf (s.cuOf g) → t.die k = s.die k) ∧ { t with gangs := s.gangs, dies := s.dies, tick := s.tick } = s ∧ ∀ j, j ≠ g.id → t.gang? j = s.gang? j) ∧
  (∀ (i : Instr) (o : OpBody) (s : State) (g : Gang) (f : Flight) (b : BodyAt),
    (i = .halt ∧ o = .halt ∨ ∃ rb a c k, (i = .tlbinvPage rb a c ∧ k = 0 ∨ i = .tlbinvAsid rb a c ∧ k = 1 ∨ i = .tlbinvAll rb a c ∧ k = 2) ∧
      o = .tlbinv (k + 4 * c.toNat) (g.sreg a.toNat) (BitVec.ofNat 8 (g.sreg rb.toNat).toNat)) → Issues i s g f b → g.flagFree (slotFlag b.slotA) →
    ∃ t, exec i s = .next t ∧ SameAround s t ∧ Begins o (slotFlag b.slotA) s t g f) ∧
  (∀ (i : Instr) (rb a : BitVec 7) (serve : State → W64 → W64 → State) (s : State) (g : Gang) (f : Flight) (b : BodyAt),
    (i = .sretResume rb a ∧ serve = (fun u v _ => if v.toNat < 2 ^ 32 then u.resume (BitVec.ofNat 32 v.toNat) else u) ∨
     i = .sretRefuse rb a ∧ serve = (fun u v _ => if v.toNat < 2 ^ 32 then u.refuse (BitVec.ofNat 32 v.toNat) else u) ∨
     i = .sretKill rb a ∧ serve = (fun u v _ => u.kill v) ∨ i = .sretSave rb a ∧ serve = (fun u v w => u.save v w) ∨
     i = .sretRestore rb a ∧ serve = (fun u _ w => u.restore w) ∨ i = .sretRollback rb a ∧ serve = fun u _ _ => u.rollback (dieOf (s.cuOf g))) → Issues i s g f b →
    ∃ u, Frame {} s u g ∧ exec i s = .next (serve u (g.sreg a.toNat) (g.sreg rb.toNat))) ∧
  (∀ (s : State) (g : Gang) (o : Op) (inv : Nat) (va : W64) (asid : BitVec 8), HasOp s g o → o.body = .tlbinv inv va asid → o.land = [] → o.sland = [] →
    (s.pagesQuiet (invMatches inv va asid) o.id = false → exec (.tlbinvComplete g.id o.id) s = .fault .notEnabled) ∧
    (s.pagesQuiet (invMatches inv va asid) o.id = true → s.allFlushable = true →
    let named := fun (k : Kept) => if inv % 4 = 0 then k.asid = asid ∧ k.va ≤ va.toNat % 2 ^ 56 ∧ va.toNat % 2 ^ 56 < k.va + k.size else if inv % 4 = 1 then k.asid = asid else True
    ∃ t h, exec (.tlbinvComplete g.id o.id) s = .next t ∧ t.gang? g.id = some h ∧ Completes g h o none ∧
      (∀ c k, k ∈ (t.cu c).kept ↔ k ∈ (s.cu c).kept ∧ ¬named k) ∧ (∀ c, (t.cu c).icode = if 4 ≤ inv then [] else (s.cu c).icode) ∧ (∀ c, (t.cu c).lines = []) ∧
      t.common = s.common ∧ t.teams = s.teams)) ∧
  (∀ (s : State) (g : Gang) (o : Op), HasOp s g o → o.body = .halt → o.land = [] → o.sland = [] →
    let d := s.die (dieOf (s.cuOf g))
    (d.evtail ≠ d.evhead → ∃ t h, exec (.haltComplete g.id o.id) s = .next t ∧ t.gang? g.id = some h ∧ Completes g h o none ∧ { t with gangs := s.gangs } = s) ∧
    (d.evtail = d.evhead → exec (.haltComplete g.id o.id) s = .fault .notEnabled))

/-- What the requests do (R345, R350-R354, R356, R358, R359), with SAVE_STREAM and DEADLINE_OVERRUN. A tag or a handle that names nothing changes nothing. Resume lets a suspended gang issue again; refuse traps its
faulting lanes with PAGE_NOT_PRESENT; a kill ends every lane of the unit; a save stops the unit's gangs and, once they have drained, takes them off their CUs with a SAVED record,
and a restore asks for their placement; an overrun is recorded once. A rollback puts back the oldest logged bytes of every line, and leaves no gang, team or launch of a phase; each host packet of a phase waits in its queue again, or gives
its record again where no queue took it; where the log is lost, each gives its record of a failed job instead. The area's bytes and the checks of a save are the model's choice (log 11), and so are which record a failed
job gives (log 53), that a saved unit whose copies were held is placed again when it is killed, so that they complete (R214; log 41), what becomes of packets that were never accepted, and that a phase whose boundary had its peers ready waits for them anew (log 40). -/
def Obligations.RequestsServed : Prop :=
  (∀ (s : State) (tag : W32), (∀ r ∈ s.requests, r.tag ≠ tag) → s.resume tag = s ∧ s.refuse tag = s) ∧
  (∀ (s : State) (tag : W32) (r : TagReq) (g : Gang) (lanes : Lanes) (size : Option Nat), (s.requests.find? fun x => decide (x.tag = tag)) = some r → r.what = .word g.id lanes size → s.gang? g.id = some g →
    (∃ n, (g.flight = none → n = 0) ∧ (s.resume tag).gang? g.id = some { g with suspended := none, stalls := g.stalls + n } ∧ (∀ x ∈ (s.resume tag).requests, x.tag ≠ tag) ∧
      { s.resume tag with gangs := s.gangs, requests := s.requests, tick := s.tick } = s ∧ ∀ j, j ≠ g.id → (s.resume tag).gang? j = s.gang? j) ∧
    let u := { s with requests := s.requests.filter fun x => decide (x.tag ≠ tag), tick := s.tick + 1 }
    (∀ f, g.flight = some f → ∃ n, s.refuse tag = u.trap { g with suspended := none, stalls := g.stalls + n } f PAGE_NOT_PRESENT lanes r.addr size.isSome (size.getD 0)) ∧
    (g.flight = none → ∃ f, f.lanes = lanes ∧ f.pc = (g.thread (lowestLane lanes)).pc ∧ f.place = none ∧
      s.refuse tag = u.trap { g with suspended := none } f PAGE_NOT_PRESENT lanes r.addr false 0)) ∧
  (∀ (s : State) (h : W64),
    (∀ x ts, unitOf h s.teams s.gangs = x :: ts → ∀ g ∈ (s.kill h).gangs, (∃ y ∈ x :: ts, y.id = g.team) →
      g.killed = true ∧ g.flight = none ∧ (∀ l, l < g.width → l < 64 → (g.thread l).status = .exited ∧ (g.thread l).cursors = []) ∧ g.withheld = []) ∧
    (∀ j g, s.gang? j = some g → (∀ y ∈ unitOf h s.teams s.gangs, y.id ≠ g.team) → unitOf h s.teams s.gangs ≠ [] → (s.kill h).gang? j = some g) ∧
    (s.kill h).phys = s.phys ∧
    (unitOf h s.teams s.gangs = [] → (∀ u ∈ s.saved, unitOf h u.teams u.gangs = []) → s.kill h = s) ∧
    (∀ u, unitOf h s.teams s.gangs = [] → (s.saved.find? fun u => decide (unitOf h u.teams u.gangs ≠ [])) = some u →
      ((∀ g ∈ u.gangs, g.copies = []) → ∀ v ∈ (s.kill h).saved, v.area ≠ u.area) ∧
      ((∃ g ∈ u.gangs, g.copies ≠ []) → u.area ∈ (s.kill h).restores ∧ (∃ v ∈ (s.kill h).saved, v.area = u.area ∧ v.gangs.map Gang.ops = u.gangs.map Gang.ops) ∧
        ∀ v ∈ (s.kill h).saved, v.area = u.area → ∀ g ∈ v.gangs, g.killed = true ∧ ∀ l, l < g.width → l < 64 → (g.thread l).status = .exited))) ∧
  (∀ (s : State) (h area : W64) (x : Team) (ts : List Team), unitOf h s.teams s.gangs = x :: ts → (∀ v ∈ s.savings, v.area ≠ area ∧ ∀ y ∈ x :: ts, y.id ∉ v.teams) →
    (∀ u ∈ s.saved, u.area ≠ area) → area.toNat % 4096 = 0 → inHbm area.toNat (areaSize (x :: ts) (s.gangsIn ((x :: ts).map Team.id))) = true →
    (∃ v, (s.save h area).savings = s.savings ++ [v] ∧ v.area = area ∧ v.teams = (x :: ts).map Team.id ∧ v.handle = h) ∧
    (∀ g ∈ (s.save h area).gangs, (∃ y ∈ x :: ts, y.id = g.team) → g.saving = true) ∧ { s.save h area with gangs := s.gangs, savings := s.savings } = s) ∧
  (∀ (s : State) (area : W64) (v : Saving), (s.savings.find? fun v => decide (v.area = area)) = some v →
    (∀ g ∈ s.gangs, g.team ∈ v.teams → (g.flight = none ∨ g.halt = .halted) ∧ g.suspended = none ∧ g.stall = none ∧ (∀ o ∈ g.ops, o.isCondition = true ∨ s.heldCopy g o = true) ∧
      ∀ r ∈ s.reds, ∀ c ∈ r.sources, c.2.1 ≠ g.id) → (∀ x ∈ s.teams, x.id ∈ v.teams → s.flushable x.cu = true) → (∀ e ∈ s.hbmStacks, e.2 = .idle) →
    ∃ (t : State) (u : Saved) (r : State), exec (.saveStream area) s = .next t ∧ (∀ g ∈ t.gangs, g.team ∉ v.teams) ∧ (∀ x ∈ t.teams, x.id ∉ v.teams) ∧ (∀ x ∈ t.savings, x.area ≠ area) ∧
      t.saved = s.saved ++ [u] ∧ u.area = area ∧ u.teams = s.teams.filter (fun x => v.teams.contains x.id) ∧ u.gangs.map Gang.id = (s.gangs.filter fun g => v.teams.contains g.team).map Gang.id ∧
      (∀ g ∈ s.gangs, g.team ∈ v.teams → ∃ h ∈ u.gangs, h.flight = none ∧ { h with threads := g.threads, flight := g.flight } = g ∧
        (∀ l, (∀ f, g.flight = some f → f.lanes.getLsbD l = false) → h.thread l = g.thread l) ∧
        ∀ f l, g.flight = some f → f.lanes.getLsbD l = true → l < g.threads.length → l < 64 → h.thread l = { g.thread l with pc := f.pc, place := f.place, status := .ready }) ∧
      t.gangs = s.gangs.filter (fun g => !v.teams.contains g.team) ∧ t = r.record v.die 3 0 0 v.handle area) ∧
  (∀ (s : State) (area : W64) (v : Saving), (s.savings.find? fun v => decide (v.area = area)) = some v → (s.die v.die).pdead ≠ 0 → v.overrun = false →
    ∃ u : State, exec (.deadlineOverrun area) s = .next (u.record v.die 4 0 0 v.handle area) ∧ { u with savings := s.savings } = s ∧ (∀ x ∈ u.savings, x.area = area → x.overrun = true) ∧
      u.savings.map Saving.area = s.savings.map Saving.area) ∧
  (∀ (s : State) (area : W64),
    ((∃ u ∈ s.saved, u.area = area) → area ∉ s.restores → s.restore area = { s with restores := s.restores ++ [area] }) ∧
    ((∀ u ∈ s.saved, u.area ≠ area) → s.restore area = s)) ∧
  (∀ (s : State) (die : Nat),
    let t := s.rollback die
    let lost := ∃ q ∈ s.poisoned, overlap (.phys (s.logAt 0)) (128 * s.undo.length) q 1 = true
    t.undo = [] ∧ (∃ r, t = State.record r die 7 0 0 noHandle 0) ∧
    ((∀ g ∈ s.gangs, ∀ o ∈ g.ops, o.isEngine = false) →
      (¬lost → (∀ u x v, s.undo = u ++ x :: v → x.common = false → (∀ y ∈ u, ¬(y.common = false ∧ y.line = x.line)) → readNat t.phys (64 * x.line) 64 = x.old.toNat) ∧
        ∀ a, (∀ x ∈ s.undo, x.common = false → x.line ≠ a / 64) → look t.phys a = look s.phys a) ∧
      (lost → t.phys = s.phys ∧ ∀ p ∈ s.phases, p.asid ≠ 0 → ∀ e ∈ p.packets, ∀ con tag, e.2.submitter = .host con tag →
        completionOf e.2.packet 0x15 (e.2.launch.getD 0) tag 3 ∈ t.held) ∧
      (¬lost → ∀ p ∈ s.phases, p.asid ≠ 0 → ∀ e ∈ p.packets,
        (∀ n, e.1 = some n → (s.queue? n).isSome = true → ∃ k, t.queue? n = some k ∧ { e.2 with launch := none } ∈ k.entries) ∧
        (∀ con tag, e.1 = none → e.2.submitter = .host con tag → completionOf e.2.packet 4 0 tag 1 ∈ t.held))) ∧
    (∀ p ∈ s.phases, p.asid ≠ 0 → (∀ x ∈ t.teams, p.owns x.origin.packet = false) ∧ (∀ l ∈ t.launches, p.owns l.origin.packet = false) ∧
      (∀ g ∈ t.gangs, ∀ x ∈ s.teams, x.id = g.team → p.owns x.origin.packet = false) ∧
      ∀ c ∈ t.held, c.job = p.job → c.phase = p.phase → c.status = 3 ∨ (∃ q ∈ s.phases, c ∈ q.start.held) ∨
        ∃ q ∈ s.phases, ∃ e ∈ q.packets, e.1 = none ∧ ∃ con tag, e.2.submitter = .host con tag ∧ c = completionOf e.2.packet 4 0 tag 1) ∧
    (∀ p ∈ t.phases, p.peersReady = false ∧ (p.asid ≠ 0 → ∀ e ∈ p.packets, e.1 = none)))

/-! ## Host and fabric -/

/-- The Svaphor commands, PHASE_BOUNDARY and the fabric's requests (R365-R370). A command waits while its connection waits, and ends with status 1 once refused. QPUT joins a host-owned queue, waits for room, or is discarded with
CAUSE 4; WRITE and READ reach every byte through the job's pages, wait at the first that is absent, or end with status 1 and no effect; CREAD returns and takes the released records of the job. A
boundary publishes and commits every CU, empties the undo log and releases the phase's records. A served fabric write is stored and acknowledged, a read returns its bytes, and any other is refused.
The model's choices here: a fabric request at an absent page is refused (log 48); a PHASE command of a phase without launches opens it with the stores as they stand, and a boundary makes every CU
acquire, and a PHASE of the reserved phase 4,095 ends with status 1 (log 42); a fabric write is always logged (log 17); and the address of a failed fabric copy is the remote BASE (log 36). -/
def Obligations.HostCommands : Prop :=
  (∀ (c : Nat) (q tag : W64) (p : BitVec 512) (s : State),
    let taken := fun (k : Queue) => q.toNat ≤ 255 ∧ s.queue? q.toNat = some k ∧ k.hostOwned = true
    ((∀ k, ¬taken k) → ∃ t, exec (.qput c q tag p) s = .next t ∧
      { t with phases := s.phases } = { s with held := s.held ++ [completionOf p 4 0 tag 1], outbox := s.outbox ++ [.status c 0] } ∧
      KeepsPacket s t none { packet := p, asid := 0, submitter := .host c tag }) ∧
    (∀ k, taken k → k.depth ≤ k.entries.length → exec (.qput c q tag p) s = .fault .notEnabled) ∧
    (∀ k, taken k → k.entries.length < k.depth → ∃ t, exec (.qput c q tag p) s = .next t ∧
      t.queue? q.toNat = some { k with entries := k.entries ++ [{ packet := p, asid := k.asid, submitter := .host c tag }] } ∧
      { t with queues := s.queues, outbox := s.outbox } = s ∧ t.outbox = s.outbox ++ [.status c 0])) ∧
  (∀ (c : Nat) (asid : BitVec 8) (va : W64) (bs : List Byte) (s : State),
    let i := Instr.write c asid va bs
    let fails := ∃ t, exec i s = .next t ∧ t.outbox = s.outbox ++ [.status c 1] ∧ (∀ n, MarksOnly s t n) ∧ t.common = s.common
    (∀ tag refused, (s.commands.find? fun e => decide (e.1 = c)) = some (c, tag, refused) → if refused then fails else exec i s = .fault .notEnabled) ∧
    ((∀ e ∈ s.commands, e.1 ≠ c) → (asid = 0 → fails) ∧ (asid ≠ 0 →
      (∀ n, SpanDelays s asid .write va bs.length n → exec i s = .fault .notEnabled) ∧
      (∀ n, SpanStops s asid .write va bs.length n →
        let a := va + BitVec.ofNat 64 n
        ((2 ^ 56 ≤ a.toNat ∨ s.engineTranslate asid a.toNat .write = .protection) → fails) ∧
        (a.toNat < 2 ^ 56 → s.engineTranslate asid a.toNat .write = .fault → ∃ t, exec i s = .next t ∧ CommandWaits s t c a)) ∧
      (∀ pas, SpanOk s asid .write va bs.length pas → (∀ a ∈ pas, s.accessible (.phys a) 1 = true) →
        (s.logFits (pas.map Place.phys) → ∃ t, exec i s = .next t ∧ SpanStored s t pas bs ∧ t.outbox = s.outbox ++ [.status c 0] ∧ (s.phases = [] → t.undo = s.undo) ∧
          (s.phases ≠ [] → ∀ a ∈ pas, t.logged (false, a / 64) = true)) ∧
        (¬s.logFits (pas.map Place.phys) → ∃ t, exec i s = .next t ∧ CommandWaits s t c va))))) ∧
  (∀ (c : Nat) (asid : BitVec 8) (va : W64) (n : Nat) (s : State),
    let i := Instr.read c asid va n
    let fails := ∃ t, exec i s = .next t ∧ t.outbox = s.outbox ++ [.status c 1] ∧ (∀ n, MarksOnly s t n) ∧ t.common = s.common
    (∀ tag refused, (s.commands.find? fun e => decide (e.1 = c)) = some (c, tag, refused) → if refused then fails else exec i s = .fault .notEnabled) ∧
    ((∀ e ∈ s.commands, e.1 ≠ c) → (asid = 0 → fails) ∧ (asid ≠ 0 →
      (∀ m, SpanDelays s asid .read va n m → exec i s = .fault .notEnabled) ∧
      (∀ m, SpanStops s asid .read va n m →
        let a := va + BitVec.ofNat 64 m
        ((2 ^ 56 ≤ a.toNat ∨ s.engineTranslate asid a.toNat .read = .protection) → fails) ∧
        (a.toNat < 2 ^ 56 → s.engineTranslate asid a.toNat .read = .fault → ∃ t, exec i s = .next t ∧ CommandWaits s t c a)) ∧
      (∀ pas, SpanOk s asid .read va n pas → (∀ a ∈ pas, s.accessible (.phys a) 1 = true) →
        ∃ t, exec i s = .next t ∧ SpanStored s t [] [] ∧ t.outbox = s.outbox ++ [.status c 0, .bytes c (pas.map (look s.phys))])))) ∧
  (∀ (c : Nat) (job : BitVec 16) (s : State), ∃ t ws, exec (.cread c job) s = .next t ∧ t = { s with
    released := s.released.filter fun r => decide (r.job ≠ job), outbox := s.outbox ++ [.completions c ws] } ∧
    ws.length = (s.released.filter fun r => decide (r.job = job)).length ∧
    ∀ (n : Nat) (w : BitVec 256) (r : Completion), ws[n]? = some w → (s.released.filter fun r => decide (r.job = job))[n]? = some r → recordHolds w r) ∧
  (∀ (c : Nat) (job : BitVec 16) (s : State), ∃ t, exec (.phase c job 4095) s = .next t ∧ Says s t (.status c 1)) ∧
  (∀ (c : Nat) (job : BitVec 16) (p : BitVec 12) (s : State), p ≠ 4095 → ∃ t, exec (.phase c job p) s = .next t ∧ t.outbox = s.outbox ++ [.status c 0] ∧ (∃ x ∈ t.phases, x.job = job ∧ x.phase = p) ∧
    (∀ x ∈ t.phases, x.job = job → x.phase = p → x.asked = true) ∧ { t with phases := s.phases, outbox := s.outbox } = s ∧
    ((∀ x ∈ s.phases, ¬(x.job = job ∧ x.phase = p)) → ∃ x, t.phases = s.phases ++ [x] ∧ x.packets = [] ∧ x.peersReady = false ∧ x.start.common = s.common ∧ x.start.slots = s.slots ∧
      x.start.graph = s.graph)) ∧
  (∀ (job : BitVec 16) (p : BitVec 12) (s : State) (x : Phase), (s.phases.find? fun x => decide (x.job = job) && decide (x.phase = p)) = some x →
    (¬(x.asked = true ∧ x.peersReady = true ∧ s.phaseOver x = true ∧ s.allFlushable = true) → exec (.phaseBoundary job p) s = .fault .notEnabled) ∧
    (x.asked = true → x.peersReady = true → s.phaseOver x = true → s.allFlushable = true → ∃ t, exec (.phaseBoundary job p) s = .next t ∧ t.undo = [] ∧
      (∀ c, (t.cu c).lines = []) ∧ (∀ c ∈ s.cus, t.graph.gen ≤ (t.cu c.1).view ∧ ∀ y ∈ t.graph.graphs, ∀ m ∈ y.tentative, m.1 ≠ c.1) ∧
      (∀ y ∈ t.phases, ¬(y.job = job ∧ y.phase = p)) ∧ t.released = s.released ++ s.held.filter (fun r => decide (r.job = job ∧ r.phase = p)) ∧
      t.held = s.held.filter (fun r => decide (¬(r.job = job ∧ r.phase = p))) ∧ t.common = s.common ∧ t.gangs = s.gangs)) ∧
  (∀ (flow : W64) (asid : BitVec 8) (va : W64) (bs : List Byte) (s : State),
    let i := Instr.fabricWritePerform flow asid va bs
    let refused := ∃ t, exec i s = .next t ∧ Answers s t (.fabricRefusal flow)
    (¬Serves s flow asid → refused) ∧
    (Serves s flow asid → (∀ n, SpanFails s asid .write va bs.length n → refused) ∧ (∀ n, SpanDelays s asid .write va bs.length n → exec i s = .fault .notEnabled) ∧
      (∀ pas, SpanOk s asid .write va bs.length pas → (∀ a ∈ pas, s.accessible (.phys a) 1 = true) →
        let lines := s.logNeeds (pas.map Place.phys)
        ((lines = [] ∨ s.undo.length + lines.length ≤ s.logRoom) →
          ∃ t, exec i s = .next t ∧ SpanStored s t pas bs ∧ t.outbox = s.outbox ++ [.fabricAck flow] ∧ ∀ a ∈ pas, t.logged (false, a / 64) = true) ∧
        (¬(lines = [] ∨ s.undo.length + lines.length ≤ s.logRoom) → (∀ r ∈ s.requests, r.what ≠ .engineLog) →
          ∃ t, exec i s = .next t ∧ (∃ r ∈ t.requests, r.tag = s.freshTag ∧ r.what = .engineLog) ∧ (∀ n, MarksOnly s t n) ∧ t.outbox = s.outbox)))) ∧
  (∀ (flow : W64) (asid : BitVec 8) (va : W64) (n : Nat) (s : State),
    let i := Instr.fcopyFromRemoteRead flow asid va n
    let refused := ∃ t, exec i s = .next t ∧ Answers s t (.fabricRefusal flow)
    (¬Serves s flow asid → refused) ∧
    (Serves s flow asid → (∀ m, SpanFails s asid .read va n m → refused) ∧ (∀ m, SpanDelays s asid .read va n m → exec i s = .fault .notEnabled) ∧
      (∀ pas, SpanOk s asid .read va n pas → (∀ a ∈ pas, s.accessible (.phys a) 1 = true) →
        ∃ t, exec i s = .next t ∧ SpanStored s t [] [] ∧ t.outbox = s.outbox ++ [.fabricData flow (pas.map (look s.phys))]))) ∧
  (∀ (d : Nat) (s : State), ∃ t, exec (.uetPacketDrop d) s = .next t ∧ t.die d = { s.die d with dropped := (s.die d).dropped + 1 } ∧ (∀ k, k ≠ d → t.die k = s.die k) ∧
    { t with dies := s.dies } = s) ∧
  (∀ (c : Nat) (s : State), ∃ t, exec (.deliveryFailure (.command c)) s = .next t ∧ Says s t (.status c 1)) ∧
  (∀ (s : State) (g : Gang) (o : Op) (c : Copy) (r : Remote), HasOp s g o → o.body = .copy c → c.remote = some r → c.fail = none →
    ∃ t, exec (.deliveryFailure (.copy g.id o.id)) s = .next t ∧
      CopyIs t g o { c with fail := some (BitVec.ofNat 8 PAGE_PROTECTION, lyBase (if r.inward then c.src else c.dst)) } ∧ { t with gangs := s.gangs } = s)

/-! ## Debug and management -/

/-- The debug requests (R156, R360, R361). A halt asks a running gang to stop; a resume lets it go on; a step of a halted gang lets its sub-group in flight, or the one chosen at a header position, issue one word, or
is reported as not taken; a halted gang's registers are read, and written but for its flags, and a gang that is not halted gives and takes nothing; a die holds four watches. Which values a halted gang takes, that a register which names what the gang is or where it
runs only shows the value, the trap registers of a lane without a delivery, the requests without effect, what a step is reported as, and the words in which cursors and carousels are shown are the model's choice (log 45). -/
def Obligations.DebugRequests : Prop :=
  (∀ (h : W64) (idx : Nat) (s : State) (g : Gang), Names s h idx g →
    (∃ t, exec (.debugHalt h idx) s = .next t ∧ Becomes s t g (if g.halt = .no then { g with halt := .asked } else g)) ∧
    (∀ past, ∃ t, exec (.debugResume h idx past) s = .next t ∧ Becomes s t g { g with halt := .no, pastWatch := past }) ∧
    ((g.halt ≠ .halted ∨ g.stopped = true) → ∃ t, exec (.debugStep h idx) s = .next t ∧ Says s t .notStepped) ∧
    (∀ f, g.halt = .halted → g.stopped = false → g.flight = some f →
      if g.dbsel.getLsbD 6 = true ∧ f.lanes.getLsbD (g.dbsel.toNat % 64) = false then ∃ t, exec (.debugStep h idx) s = .next t ∧ Says s t .notStepped
      else ∃ t, exec (.debugStep h idx) s = .next t ∧ Becomes s t g { g with halt := .stepping }) ∧
    (g.halt = .halted → g.stopped = false → g.flight = none →
      (∀ q ∈ s.readyGroups g, g.dbsel.getLsbD 6 = true ∧ q.lanes.getLsbD (g.dbsel.toNat % 64) = false) → ∃ t, exec (.debugStep h idx) s = .next t ∧ Says s t .notStepped) ∧
    (∀ q ∈ s.readyGroups g, g.halt = .halted → g.stopped = false → g.flight = none → (g.dbsel.getLsbD 6 = true → q.lanes.getLsbD (g.dbsel.toNat % 64) = true) →
      ∃ t, exec (.debugStep h idx) s = .next t ∧ Becomes s t g { g with halt := .stepping }) ∧
    (∀ what, ∃ t, exec (.debugInspect h idx what) s = .next t ∧
      if g.halt = .halted then Says s t (.inspected what (BitVec.ofNat 256 (debugRead s g what))) else t = s) ∧
    (∀ what v, (g.halt ≠ .halted ∨ g.takes what v = false) → exec (.debugWrite h idx what v) s = .next s) ∧
    (∀ n v, exec (.debugWrite h idx (.flag n) v) s = .next s) ∧
    (∀ l c v, g.halt = .halted → l < g.width → l < 64 → l < g.threads.length → (c < g.vcount ∨ 120 ≤ c ∧ c < 128) → ∃ t x, exec (.debugWrite h idx (.vector l c) v) s = .next t ∧ Becomes s t g x ∧
      x.vreg l c = BitVec.ofNat 32 v.toNat ∧ (∀ k n, (k ≠ l ∨ n ≠ c) → x.vreg k n = g.vreg k n) ∧ (∀ k, (x.thread k).pc = (g.thread k).pc ∧ (x.thread k).status = (g.thread k).status) ∧
      { x with threads := g.threads } = g) ∧
    (∀ n v, g.halt = .halted → n < 64 → ∃ t x, exec (.debugWrite h idx (.scalar n) v) s = .next t ∧ Becomes s t g x ∧ { x with sregs := g.sregs, badScalars := g.badScalars } = g ∧
      ∀ k, x.sreg k = if k = n ∧ k ≠ 0 then BitVec.ofNat 64 v.toNat else g.sreg k) ∧
    (∀ n v, g.halt = .halted → n < 12 → ∃ t x, exec (.debugWrite h idx (.mask n) v) s = .next t ∧ Becomes s t g x ∧ { x with masks := g.masks, badMasks := g.badMasks } = g ∧
      ∀ k, x.mreg k = if k = n then BitVec.ofNat 64 v.toNat &&& g.lanes else g.mreg k) ∧
    (∀ n v, g.halt = .halted → n < 4 → mcLegal v = true → ∃ t x, exec (.debugWrite h idx (.slot n) v) s = .next t ∧ Becomes s t g x ∧ { x with slots := g.slots } = g ∧
      ∀ k, look x.slots k = if k = n then v else look g.slots k) ∧
    (∀ n v, g.halt = .halted → n < 8 → lyLegal v = true → ∃ t x, exec (.debugWrite h idx (.layout n) v) s = .next t ∧ Becomes s t g x ∧ { x with layouts := g.layouts } = g ∧
      ∀ k, look x.layouts k = if k = n then v else look g.layouts k) ∧
    (∀ l v, g.halt = .halted → l < g.width → l < 64 → l < g.threads.length → v.getLsbD 0 = false → (g.thread l).status ≠ .exited → ∃ t x, exec (.debugWrite h idx (.pc l) v) s = .next t ∧
      Becomes s t g x ∧ (x.thread l).standsAt (BitVec.ofNat 64 (v.toNat % 2 ^ 56)) ∧ (∀ f, x.flight = some f → f.lanes.getLsbD l = false) ∧ ∀ k n, x.vreg k n = g.vreg k n) ∧
    (∀ l v, g.halt = .halted → v.toNat < 24 → ∃ t, exec (.debugWrite h idx (.special 18 l) v) s = .next t ∧ Becomes s t g { g with prio := BitVec.ofNat 5 v.toNat }) ∧
    (∀ n l v, g.halt = .halted → PlaceValue g n v.toNat → (n = 0 → l < g.width) → ∃ t x, exec (.debugWrite h idx (.special n l) v) s = .next t ∧ Becomes s t g x ∧
      { x with shown := g.shown } = g ∧ ∀ f j k, t.special x f j k = if k = n ∧ (n = 0 → j = l) then BitVec.ofNat 64 v.toNat else s.special g f j k) ∧
    (∀ n l v, g.halt = .halted → n ∈ [12, 13, 14, 15, 16, 17, 23, 33, 34, 35, 36, 38, 39] → v.toNat < 2 ^ 64 → ¬ReservedBits n (BitVec.ofNat 64 v.toNat) →
      (n = 23 → v.toNat % 2 = 0 ∧ v.toNat < 2 ^ 56) → ∃ t x, exec (.debugWrite h idx (.special n l) v) s = .next t ∧ t.gang? g.id = some x ∧
        (∀ f j k, k ≠ 37 → t.special x f j k = if k = n then BitVec.ofNat 64 v.toNat else s.special g f j k) ∧
        x.threads = g.threads ∧ x.sregs = g.sregs ∧ x.masks = g.masks ∧ t.phys = s.phys ∧ t.cus = s.cus ∧ t.teams = s.teams ∧ ∀ j, j ≠ g.id → t.gang? j = s.gang? j) ∧
    (∀ l v, g.halt = .halted → (s.die (dieOf (s.cuOf g))).pending = [] → ∃ t, exec (.debugWrite h idx (.special 37 l) v) s = .next t ∧
      DieIs s t (dieOf (s.cuOf g)) { s.die (dieOf (s.cuOf g)) with evtail := BitVec.ofNat 64 v.toNat }) ∧
    (∀ n l v, g.halt = .halted → l < g.width → l < 64 → l < g.threads.length →
      let d := (g.thread l).delivery.getD noDelivery
      (n = 19 ∧ v.toNat < 2 ^ 8 ∨ n = 20 ∧ v.toNat < 2 ^ 56 ∨ n = 21 ∨ n = 22) → ∃ t x, exec (.debugWrite h idx (.special n l) v) s = .next t ∧ Becomes s t g x ∧
        { x with threads := g.threads } = g ∧ (∀ k, k ≠ l → x.thread k = g.thread k) ∧ x.thread l = { g.thread l with delivery := some (
          if n = 19 then { d with cause := BitVec.ofNat 8 v.toNat } else if n = 20 then { d with pc := BitVec.ofNat 64 v.toNat }
          else if n = 21 then { d with mask := BitVec.ofNat 64 v.toNat } else { d with addr := BitVec.ofNat 64 v.toNat }) }) ∧
    (∀ l n v, g.halt = .halted → l < g.width → l < 64 → l < g.threads.length → n < 8 →
      let cur := entry? (g.thread l).cursors n
      let names := fun (p : Pin) => p.handle.toNat = v.toNat / 2 ^ 64 % 2 ^ 64 ∧ p.inList = v.getLsbD 128 ∧ p.vertex = v.toNat / 2 ^ 160 % 2 ^ 32
      let seek : CursorStep := .seek (v.toNat % 2 ^ 32)
      let becomes := fun (k : Option Cursor → Prop) (ok : State → Prop) => ∃ t x, exec (.debugWrite h idx (.cursor l n) v) s = .next t ∧
        t.gang? g.id = some x ∧ { x with threads := g.threads } = g ∧ { t with gangs := s.gangs, graph := s.graph, serial := s.serial } = s ∧ k (entry? (x.thread l).cursors n) ∧ ok t
      (v.getLsbD 255 = false → becomes (fun k => k = none) fun _ => True) ∧
      (∀ c p, v.getLsbD 255 = true → cur = some c → s.pin? c.pin = some p → names p → becomes (fun k => k = some { c with steps := c.steps ++ [seek] }) fun _ => True) ∧
      (v.getLsbD 255 = true → (∀ c p, cur = some c → s.pin? c.pin = some p → ¬names p) → ∀ y, s.liveGraph (s.asidOf g) (BitVec.ofNat 64 (v.toNat / 2 ^ 64 % 2 ^ 64)) = some y →
        becomes (fun k => k = some ⟨s.serial, [seek]⟩) fun t => ∃ p ∈ t.graph.pins, p.id = s.serial ∧ names p ∧
          p.list = some (if y.vn ≤ p.vertex then [] else (y.view (s.cuOf g) (s.cu (s.cuOf g)).view).list p.inList p.vertex)))) ∧
  (∀ (d n : Nat) (w : Option Watch) (s : State), n < 4 → ∃ t, exec (.debugWatchSet d n w) s = .next t ∧ entry? (t.die d).watches n = w ∧
    (∀ k, k ≠ n → entry? (t.die d).watches k = entry? (s.die d).watches k) ∧ (∀ k, k ≠ d → t.die k = s.die k) ∧ { t with dies := s.dies } = s)

/-- The management plane (R19, R22, R340, R344, R348, R355, R357, R372-R374). A measurement read clears W on the segment's pages, drops their translations and returns the bytes as they then are; a segment with the stated
digest and a good signature has X set, is fetched anew, and extends the job's attestation record, and any other is reported. The cap moves between 200 W and 440 W; a retrain waits, is refused, runs and ends; errors are
counted, or recorded with CAUSE 0x15 and stall what would consume the location; a reset die has no ring; and a die whose runtime has faulted starts it again at its entry points and rolls the phases back. What the measurement does
with view caches, the order of its steps, a cap out of range, a retrain asked for while another is, and the pending records at a die reset are the model's (log 10, log 33), and so are what a restart of the
runtime starts anew (log 46) and how an error's location is named (log 53). -/
def Obligations.Management : Prop :=
  (∀ (d : Nat) (asid : BitVec 8) (va : W64) (n : Nat) (s : State), s.ptbase.toNat % 8 = 0 →
    let m := s.writtenBack
    let named := spanMatches asid va n
    (∀ i, SpanFails m asid .read va n i → ∃ t, exec (.measurementRead d asid va n) s = .next t ∧ Says s t (.loadRefused va)) ∧
    ((∃ i, SpanDelays m asid .read va n i) ∨ (∃ pas, SpanOk m asid .read va n pas) ∧ s.pagesQuiet named s.serial = false → exec (.measurementRead d asid va n) s = .fault .notEnabled) ∧
    (∀ pas, SpanOk m asid .read va n pas → s.pagesQuiet named s.serial = true → s.allFlushable = true → (∀ a ∈ pas, s.accessible (.phys a) 1 = true) →
      ∃ t, exec (.measurementRead d asid va n) s = .next t ∧ Marked m t asid va n (fun b => b &&& 0xFD) ∧ Dropped t (keptOf asid va n) false ∧
        t.outbox = s.outbox ++ [.measured (pas.map (look t.phys))] ∧ t.attest = s.attest)) ∧
  (∀ (d : Nat) (x : Segment) (s : State), s.ptbase.toNat % 8 = 0 →
    let m := s.writtenBack
    let named := spanMatches x.asid x.va x.len
    (∀ i, SpanFails m x.asid .read x.va x.len i → ∃ t, exec (.markExecutable d x) s = .next t ∧ Says s t (.loadRefused x.va)) ∧
    (∀ i, SpanDelays m x.asid .read x.va x.len i → exec (.markExecutable d x) s = .fault .notEnabled) ∧
    (∀ pas, SpanOk m x.asid .read x.va x.len pas → (∀ a ∈ pas, s.accessible (.phys a) 1 = true) →
      let h := sha384 (pas.map (look m.phys))
      ((h ≠ x.measurement ∨ s.signed x.job h x.va x.signature = false) → ∃ t, exec (.markExecutable d x) s = .next t ∧ Says s t (.loadRefused x.va)) ∧
      (h = x.measurement → s.signed x.job h x.va x.signature = true →
        (s.pagesQuiet named s.serial = false → exec (.markExecutable d x) s = .fault .notEnabled) ∧
        (s.pagesQuiet named s.serial = true → s.allFlushable = true → ∃ t, exec (.markExecutable d x) s = .next t ∧ Marked m t x.asid x.va x.len (fun b => b &&& 0xFD ||| 4) ∧ Dropped t (keptOf x.asid x.va x.len) true ∧
          t.outbox = s.outbox ∧ entry 0 t.attest x.job.toNat = sha384 (bigEndian (entry 0 s.attest x.job.toNat) ++ bigEndian h) ∧
          ∀ k, k ≠ x.job.toNat → entry 0 t.attest k = entry 0 s.attest k)))) ∧
  (∀ (job : BitVec 16) (s : State), ∃ t, exec (.spdmMeasurement job) s = .next t ∧ Says s t (.attestation (entry 0 s.attest job.toNat))) ∧
  (∀ (d : Nat) (s : State), ∃ t power heat, exec (.telemetryRead d) s = .next t ∧ t = { s with
    tick := s.tick + 1
    outbox := s.outbox ++ [.telemetry d ([(s.die d).dropped.toNat, power, heat, (s.die d).cap, (s.die d).stretched.toNat] ++
      ((s.die d).softErrors.map fun (e : Nat × BitVec 64) => [e.1, e.2.toNat]).flatten)] }) ∧
  (∀ (d w : Nat) (s : State),
    (200 ≤ w → w ≤ 440 → ∃ t, exec (.powerCapSet d w) s = .next t ∧ DieIs s t d { s.die d with cap := w }) ∧
    ((w < 200 ∨ 440 < w) → exec (.powerCapSet d w) s = .next s)) ∧
  (∀ (i : Instr) (d : Nat) (s : State), i = .droopDetected d ∨ i = .powerCapExceeded d → ∃ t, exec i s = .next t ∧ DieIs s t d { s.die d with stretching := true }) ∧
  (∀ (d : Nat) (s : State), ((s.die d).stretching = true → ∃ t, exec (.stretchEnd d) s = .next t ∧ DieIs s t d { s.die d with stretching := false }) ∧
    ((s.die d).stretching = false → exec (.stretchEnd d) s = .fault .notEnabled)) ∧
  (∀ (h rate : Nat) (s : State),
    let now := entry .idle s.hbmStacks h
    (h < 8 → now = .idle → ∃ t, exec (.retrainRequest h rate) s = .next t ∧ StackIs s t h (.waiting rate) []) ∧
    (h < 8 → now = .waiting rate → (∃ t, exec (.retrainTimeout h) s = .next t ∧ StackIs s t h .idle [.retrainRefused h]) ∧
      (∃ t, s.own (.retrain h) = some t ∧ StackIs s t h (.running rate) [] ∧ ∀ a n, Config.stackOf (a / 64) = h → t.accessible (.phys a) n = false) ∧
      exec (.retrainEnd h) s = .fault .notEnabled) ∧
    (now = .running rate → exec (.retrainTimeout h) s = .fault .notEnabled ∧ s.own (.retrain h) = none ∧ ∃ t, exec (.retrainEnd h) s = .next t ∧ StackIs s t h .idle []) ∧
    (now ≠ .idle → exec (.retrainRequest h rate) s = .next s)) ∧
  (∀ (d a : Nat) (s : State), ∃ t x, exec (.correctedSoftError d a) s = .next t ∧ DieIs s t d x ∧ { x with softErrors := (s.die d).softErrors } = s.die d ∧
    ∀ k, look x.softErrors k = if k = a then look (s.die d).softErrors k + 1 else look (s.die d).softErrors k) ∧
  (∀ (d : Nat) (loc : ErrorLoc) (s : State), ∃ t u, exec (.uncorrectableError d loc) s = .next t ∧ t = State.record u d 6 0x15 0 0xFFFFFFFFFFFFFFFF (located loc) ∧ Spoiled s t loc ∧
    (∀ p, loc = .mem p → u = { s with poisoned := s.poisoned ++ [p] }) ∧ u.phys = s.phys ∧ u.common = s.common) ∧
  (∀ (d : Nat) (s : State), ∃ t, exec (.dieReset d) s = .next t ∧ DieIs s t d { pending := (s.die d).pending } ∧ (t.die d).evring = 0 ∧ (t.die d).hasRing = false ∧ (t.die d).evtail = 0 ∧
    (t.die d).evhead = 0 ∧ (t.die d).pdead = 0 ∧ (t.die d).cap = 440 ∧ (t.die d).watches = []) ∧
  (∀ (d : Nat) (s : State),
    let here := fun (g : Gang) => g ∈ s.gangs ∧ s.system g = true ∧ dieOf (s.cuOf g) = d
    ((∀ g, here g → g.crashed = false) → exec (.deviceRuntimeRestart d) s = .fault .notEnabled) ∧
    ((∃ g, here g ∧ g.crashed = true) → ∃ t, exec (.deviceRuntimeRestart d) s = .next t ∧ t.undo = [] ∧
      (∀ p ∈ s.phases, p.asid ≠ 0 → (∀ x ∈ t.teams, p.owns x.origin.packet = false) ∧ (∀ l ∈ t.launches, p.owns l.origin.packet = false)) ∧
      (∀ g, here g → s.gang? g.id = some g → (∀ x ∈ s.gangs, x.id = g.id → x.team = g.team) →
        (∀ p ∈ s.phases, p.asid ≠ 0 → ∀ x ∈ s.teams, x.id = g.team → p.owns x.origin.packet = false) →
        let p := (s.teamOf g).origin.packet
        g.width = pktWidth p → g.vcount = pktVregs p → ∃ h, t.gang? g.id = some h ∧ h.team = g.team ∧ h.index = g.index ∧ h.crashed = false ∧
          AtEntry h p (pktCode p) g.width (fun _ _ => 0) fun k => if k = 1 then pktArg p else if k = 2 then BitVec.ofNat 64 (pktCount p) else 0)))

/-! ## The whole machine -/

/-- The module right after reset (R164, R251, R286, R340, R342, R344, R361, R374): no queue is configured, no granule and no pool is granted, no graph exists, no die has a ring, a watch or a
count of cycles, each cap is 440 W, sr.ptbase and sr.ulog are 0; and memory is in its canonical form. That no gang is resident is read from R88 and R285 (log 2). -/
def Obligations.ResetState : Prop :=
  let s := State.reset
  s.gangs = [] ∧ s.teams = [] ∧ (∀ n, s.queue? n = none) ∧ s.grants = [] ∧ s.graph.pools = [] ∧ s.graph.graphs = [] ∧ s.ptbase = 0 ∧ s.ulog = 0 ∧
  (∀ d, (s.die d).cycles = 0 ∧ (s.die d).pdead = 0 ∧ (s.die d).evring = 0 ∧ (s.die d).hasRing = false ∧ (s.die d).evtail = 0 ∧ (s.die d).evhead = 0 ∧ (s.die d).watches = [] ∧ (s.die d).cap = 440) ∧
  s.MemoryForm

/-- Every step of the module keeps every byte memory in its canonical form: addresses rise and no entry is what an unlisted address reads as (the model's own
representation of memory, log 1; a byte of a memory is then written in one way only, and equal memories are equal data). -/
def Obligations.StepKeepsMemoryForm : Prop := ∀ s t : State, s.MemoryForm → step s = .next t → t.MemoryForm

end
end

