-- ==== Sys2Proof/Laws/Cells.lean ====
section
/-!
SUPPORT. The small laws of numbered values, tables, byte memory and lane sets: what a read sees after a write, and that writing keeps the
canonical form.
-/
namespace Sys2Proof.Machine

/-! ## Numbered values -/

theorem look_ins {w : Nat} (m : Cells w) (k : Nat) (v : BitVec w) (j : Nat) : look (ins m k v) j = if k = j then v else look m j := by
  induction m with
  | nil => simp [ins, look]
  | cons e r ih =>
    obtain ⟨i, u⟩ := e
    simp only [ins]
    split
    · simp only [look]
    · split
      · next h => subst h; simp only [look]; split <;> rfl
      · next h => simp only [look, ih]; grind

theorem look_remove {w : Nat} (m : Cells w) (k j : Nat) :
    look (m.filter fun e => decide (e.1 ≠ k)) j = if k = j then 0 else look m j := by
  induction m with
  | nil => simp [look]
  | cons e r ih =>
    obtain ⟨i, u⟩ := e
    by_cases h : i = k
    · subst h; simp only [List.filter, ne_eq, not_true, decide_false, ih, look]; split <;> rfl
    · simp only [List.filter, ne_eq, h, not_false_eq_true, decide_true, look, ih]; grind

/-- A read after a write sees the value written, and any other number is as before. -/
theorem look_put {w : Nat} (m : Cells w) (k : Nat) (v : BitVec w) (j : Nat) : look (put m k v) j = if k = j then v else look m j := by
  unfold put
  split
  · next h => rw [look_remove, h]
  · rw [look_ins]

@[simp] theorem look_put_self {w : Nat} (m : Cells w) (k : Nat) (v : BitVec w) : look (put m k v) k = v := by simp [look_put]

theorem look_put_other {w : Nat} (m : Cells w) (k : Nat) (v : BitVec w) (j : Nat) (h : k ≠ j) : look (put m k v) j = look m j := by
  simp [look_put, h]

/-! ## The canonical form -/

theorem wfFrom_mono {w : Nat} (m : Cells w) (a b : Nat) (h : b ≤ a) (hm : wfFrom a m = true) : wfFrom b m = true := by
  cases m with
  | nil => rfl
  | cons e r =>
    obtain ⟨j, u⟩ := e
    simp only [wfFrom, Bool.and_eq_true, decide_eq_true_eq] at hm ⊢
    exact ⟨⟨by omega, hm.1.2⟩, hm.2⟩

theorem wfFrom_ins {w : Nat} (m : Cells w) (k : Nat) (v : BitVec w) (lo : Nat) (hv : v ≠ 0) (hl : lo ≤ k) (hm : wfFrom lo m = true) :
    wfFrom lo (ins m k v) = true := by
  induction m generalizing lo with
  | nil => simp only [ins, wfFrom, Bool.and_eq_true, decide_eq_true_eq]; exact ⟨⟨hl, hv⟩, trivial⟩
  | cons e r ih =>
    obtain ⟨j, u⟩ := e
    simp only [ins]
    simp only [wfFrom, Bool.and_eq_true, decide_eq_true_eq] at hm
    split
    · next h => simp only [wfFrom, Bool.and_eq_true, decide_eq_true_eq]; exact ⟨⟨hl, hv⟩, ⟨by omega, hm.1.2⟩, hm.2⟩
    · split
      · next h => subst h; simp only [wfFrom, Bool.and_eq_true, decide_eq_true_eq]; exact ⟨⟨hl, hv⟩, hm.2⟩
      · next h1 h2 => simp only [wfFrom, Bool.and_eq_true, decide_eq_true_eq]; exact ⟨hm.1, ih (j + 1) (by omega) hm.2⟩

theorem wfFrom_filter {w : Nat} (m : Cells w) (p : Nat × BitVec w → Bool) (lo : Nat) (hm : wfFrom lo m = true) :
    wfFrom lo (m.filter p) = true := by
  induction m generalizing lo with
  | nil => rfl
  | cons e r ih =>
    obtain ⟨j, u⟩ := e
    simp only [wfFrom, Bool.and_eq_true, decide_eq_true_eq] at hm
    simp only [List.filter]
    split
    · simp only [wfFrom, Bool.and_eq_true, decide_eq_true_eq]; exact ⟨hm.1, ih _ hm.2⟩
    · exact wfFrom_mono _ _ _ (by omega) (ih _ hm.2)

/-- A write keeps the canonical form. -/
theorem wfCells_put {w : Nat} (m : Cells w) (k : Nat) (v : BitVec w) (hm : wfCells m = true) : wfCells (put m k v) = true := by
  unfold put wfCells at *
  split
  · exact wfFrom_filter _ _ _ hm
  · next h => exact wfFrom_ins _ _ _ _ h (Nat.zero_le _) hm

theorem wfCells_filter {w : Nat} (m : Cells w) (p : Nat × BitVec w → Bool) (hm : wfCells m = true) : wfCells (m.filter p) = true :=
  wfFrom_filter m p 0 hm

theorem wf_put (m : List Host.Cell) (a : Nat) (b : BitVec 8) (hm : Memory.wf m = true) : Memory.wf (put m a b) = true := wfCells_put m a b hm

theorem look_below {w : Nat} (m : Cells w) (lo k : Nat) (hm : wfFrom lo m = true) (h : k < lo) : look m k = 0 := by
  induction m generalizing lo with
  | nil => rfl
  | cons e r ih =>
    obtain ⟨j, u⟩ := e
    simp only [wfFrom, Bool.and_eq_true, decide_eq_true_eq] at hm
    simp only [look]
    rw [if_neg (by omega), ih (j + 1) hm.2 (by omega)]

theorem wfFrom_ext {w : Nat} (a b : Cells w) (lo : Nat) (ha : wfFrom lo a = true) (hb : wfFrom lo b = true) (h : ∀ k, look a k = look b k) : a = b := by
  induction a generalizing b lo with
  | nil =>
    cases b with
    | nil => rfl
    | cons e r =>
      obtain ⟨j, u⟩ := e
      simp only [wfFrom, Bool.and_eq_true, decide_eq_true_eq] at hb
      have := h j; simp [look] at this; exact absurd this.symm hb.1.2
  | cons e r ih =>
    obtain ⟨j, u⟩ := e
    cases b with
    | nil =>
      simp only [wfFrom, Bool.and_eq_true, decide_eq_true_eq] at ha
      have := h j; simp [look] at this; exact absurd this ha.1.2
    | cons e' r' =>
      obtain ⟨i, v⟩ := e'
      simp only [wfFrom, Bool.and_eq_true, decide_eq_true_eq] at ha hb
      have hji : j = i := by
        rcases Nat.lt_trichotomy j i with h1 | h1 | h1
        · have := h j; simp only [look, if_true] at this
          rw [if_neg (by omega), look_below r' (i + 1) j hb.2 (by omega)] at this; exact absurd this ha.1.2
        · exact h1
        · have := h i; simp only [look, if_true] at this
          rw [if_neg (by omega), look_below r (j + 1) i ha.2 (by omega)] at this; exact absurd this.symm hb.1.2
      subst hji
      have huv : u = v := by simpa [look] using h j
      subst huv
      have : r = r' := ih r' (j + 1) ha.2 hb.2 fun k => by
        by_cases hk : j = k
        · subst hk; rw [look_below r (j + 1) j ha.2 (by omega), look_below r' (j + 1) j hb.2 (by omega)]
        · simpa [look, hk] using h k
      rw [this]

/-- Equal memories are equal data. -/
theorem wfCells_ext {w : Nat} (a b : Cells w) (ha : wfCells a = true) (hb : wfCells b = true) (h : ∀ k, look a k = look b k) : a = b :=
  wfFrom_ext a b 0 ha hb h

/-! ## Byte memory -/

theorem wf_storeBytes (bs : List Byte) (m : List Host.Cell) (a : Nat) (hm : Memory.wf m = true) : Memory.wf (storeBytes m a bs) = true := by
  induction bs generalizing m a with
  | nil => exact hm
  | cons b r ih => exact ih _ _ (wf_put m a b hm)

theorem wf_storeNat (m : List Host.Cell) (a n v : Nat) (hm : Memory.wf m = true) : Memory.wf (storeNat m a n v) = true := wf_storeBytes _ m a hm

/-- What a byte reads as after a store of bytes: the stored byte inside, as before outside. -/
theorem look_storeBytes (bs : List Byte) (m : List Host.Cell) (a j : Nat) :
    look (storeBytes m a bs) j = if a ≤ j ∧ j < a + bs.length then bs.getD (j - a) 0 else look m j := by
  induction bs generalizing m a with
  | nil => rw [if_neg (by simp only [List.length_nil]; omega)]; rfl
  | cons b r ih =>
    simp only [storeBytes, ih, look_put, List.length_cons]
    by_cases h : a = j
    · subst h; rw [if_neg (by omega), if_pos rfl, if_pos (by omega)]; simp
    · by_cases h2 : a + 1 ≤ j ∧ j < a + 1 + r.length
      · have h3 : a ≤ j ∧ j < a + (r.length + 1) := by omega
        have h4 : j - a = (j - (a + 1)) + 1 := by omega
        simp [h2, h3, h4]
      · have h3 : ¬(a ≤ j ∧ j < a + (r.length + 1)) := by omega
        rw [if_neg h2, if_neg h, if_neg h3]

theorem bytesAt_length (m : List Host.Cell) (a n : Nat) : (bytesAt m a n).length = n := by
  induction n generalizing a with
  | zero => rfl
  | succ n ih => simp [bytesAt, ih]

theorem bytesAt_congr (m k : List Host.Cell) (a n : Nat) (h : ∀ j, a ≤ j → j < a + n → look m j = look k j) : bytesAt m a n = bytesAt k a n := by
  induction n generalizing a with
  | zero => rfl
  | succ n ih => simp only [bytesAt]; rw [h a (by omega) (by omega), ih (a + 1) fun j h1 h2 => h j (by omega) (by omega)]

/-- A load after a store of the same bytes gives them. -/
theorem bytesAt_storeBytes (bs : List Byte) (m : List Host.Cell) (a : Nat) : bytesAt (storeBytes m a bs) a bs.length = bs := by
  have key : ∀ (bs : List Byte) (k : List Host.Cell) (a : Nat), (∀ i, i < bs.length → look k (a + i) = bs.getD i 0) → bytesAt k a bs.length = bs := by
    intro bs
    induction bs with
    | nil => intro k a _; rfl
    | cons b r ih =>
      intro k a h
      simp only [List.length_cons, bytesAt]
      rw [ih k (a + 1) fun i hi => by have := h (i + 1) (by simpa using hi); simpa [Nat.add_assoc, Nat.add_comm 1] using this]
      have := h 0 (by simp); simp at this; rw [this]
  apply key
  intro i hi
  rw [look_storeBytes, if_pos (by omega)]; congr 1; omega

theorem leNat_leBytes (n v : Nat) : leNat (leBytes n v) = v % 256 ^ n := by
  induction n generalizing v with
  | zero => simp [leBytes, leNat, Nat.mod_one]
  | succ n ih =>
    have h : (256 : Nat) ^ (n + 1) = 256 * 256 ^ n := by rw [Nat.pow_succ, Nat.mul_comm]
    rw [h, Nat.mod_mul]; simp only [leBytes, leNat, ih, BitVec.toNat_ofNat]

theorem leBytes_length (n v : Nat) : (leBytes n v).length = n := by
  induction n generalizing v with
  | zero => rfl
  | succ n ih => simp [leBytes, ih]

/-- A number read back after a store is the number stored, cut to its bytes. -/
theorem readNat_storeNat (m : List Host.Cell) (a n v : Nat) : readNat (storeNat m a n v) a n = v % 256 ^ n := by
  have := bytesAt_storeBytes (leBytes n v) m a
  rw [leBytes_length] at this
  simp [readNat, storeNat, this, leNat_leBytes]

/-- A number read elsewhere is as before. -/
theorem readNat_storeNat_other (m : List Host.Cell) (a n v b k : Nat) (h : b + k ≤ a ∨ a + n ≤ b) :
    readNat (storeNat m a n v) b k = readNat m b k := by
  simp only [readNat, storeNat]
  rw [bytesAt_congr _ m b k]
  intro j h1 h2
  rw [look_storeBytes, leBytes_length, if_neg (by omega)]

/-! ## Tables -/

theorem entry_setEntry {α : Type} (d : α) (m : List (Nat × α)) (k : Nat) (x : α) (j : Nat) :
    entry d (setEntry m k x) j = if k = j then x else entry d m j := by
  induction m with
  | nil => simp [setEntry, entry]
  | cons e r ih =>
    obtain ⟨i, y⟩ := e
    simp only [setEntry]
    split
    · simp only [entry]
    · split
      · next h => subst h; simp only [entry]; split <;> rfl
      · next h => simp only [entry, ih]; grind

theorem entry?_setEntry {α : Type} (m : List (Nat × α)) (k : Nat) (x : α) (j : Nat) :
    entry? (setEntry m k x) j = if k = j then some x else entry? m j := by
  induction m with
  | nil => simp [setEntry, entry?]
  | cons e r ih =>
    obtain ⟨i, y⟩ := e
    simp only [setEntry]
    split
    · simp only [entry?]
    · split
      · next h => subst h; simp only [entry?]; split <;> rfl
      · next h => simp only [entry?, ih]; grind

theorem mapFrom_length {α : Type} (f : Nat → α → α) (n : Nat) (xs : List α) : (mapFrom f n xs).length = xs.length := by
  induction xs generalizing n with
  | nil => rfl
  | cons x r ih => simp [mapFrom, ih]

theorem mapFrom_getD {α : Type} (f : Nat → α → α) (n : Nat) (xs : List α) (i : Nat) (d : α) :
    (mapFrom f n xs).getD i d = if i < xs.length then f (n + i) (xs.getD i d) else d := by
  induction xs generalizing n i with
  | nil => simp [mapFrom]
  | cons x r ih =>
    cases i with
    | zero => simp [mapFrom]
    | succ i =>
      simp only [mapFrom, List.getD_cons_succ, ih, List.length_cons, Nat.add_lt_add_iff_right]
      congr 2; omega

/-! ## Lane sets -/

theorem getLsbD_lane (l i : Nat) : (lane l).getLsbD i = (decide (l = i) && decide (i < 64)) := by
  simp only [lane, BitVec.getLsbD_shiftLeft]
  by_cases h : i < 64 <;> by_cases h2 : l = i <;> simp [h, h2, BitVec.getLsbD_one] <;> omega

theorem getLsbD_laneSet_from (ls : List Nat) (s : Lanes) (i : Nat) :
    (ls.foldl (fun s l => s ||| lane l) s).getLsbD i = (s.getLsbD i || (decide (i ∈ ls) && decide (i < 64))) := by
  induction ls generalizing s with
  | nil => simp
  | cons a r ih =>
    simp only [List.foldl, ih, BitVec.getLsbD_or, getLsbD_lane, List.mem_cons]
    by_cases h : a = i
    · subst h; cases s.getLsbD a <;> simp
    · have : ¬ i = a := fun e => h e.symm
      cases s.getLsbD i <;> simp [h, this]

theorem getLsbD_laneSet (ls : List Nat) (i : Nat) : (laneSet ls).getLsbD i = (decide (i ∈ ls) && decide (i < 64)) := by
  simp [laneSet, getLsbD_laneSet_from]

theorem mem_lanesOf (s : Lanes) (i : Nat) : i ∈ lanesOf s ↔ s.getLsbD i = true := by
  simp only [lanesOf, List.mem_filter, List.mem_range]
  constructor
  · exact fun h => h.2
  · intro h; exact ⟨Decidable.byContradiction fun hn => by simp [BitVec.getLsbD_of_ge s i (by omega)] at h, h⟩

/-- The lanes of a set for which a test holds. -/
theorem getLsbD_lanesWhere (s : Lanes) (p : Nat → Bool) (i : Nat) : (lanesWhere s p).getLsbD i = (s.getLsbD i && p i) := by
  simp only [lanesWhere, getLsbD_laneSet, List.mem_filter, mem_lanesOf]
  by_cases h : i < 64
  · cases s.getLsbD i <;> cases p i <;> simp [h]
  · simp [h, BitVec.getLsbD_of_ge s i (by omega)]

theorem insertBy_perm {α : Type} (key : α → Nat) (a : α) (l : List α) : (insertBy key a l).Perm (a :: l) := by
  induction l with
  | nil => exact .refl _
  | cons b r ih =>
    unfold insertBy
    split
    · exact .refl _
    · exact (ih.cons b).trans (.swap a b r)

/-- Sorting keeps the elements. -/
theorem sortBy_perm {α : Type} (key : α → Nat) (l : List α) : (sortBy key l).Perm l := by
  induction l with
  | nil => exact .refl _
  | cons a r ih => exact (insertBy_perm key a _).trans (ih.cons a)

theorem insertBy_rises {α : Type} (key : α → Nat) (a : α) (l : List α) (h : l.Pairwise fun x y => key x ≤ key y) :
    (insertBy key a l).Pairwise fun x y => key x ≤ key y := by
  induction l with
  | nil => simp [insertBy]
  | cons b r ih =>
    obtain ⟨hb, hr⟩ := List.pairwise_cons.mp h
    unfold insertBy
    split
    · next hab => exact List.pairwise_cons.mpr ⟨fun y hy => by
        rcases List.mem_cons.mp hy with rfl | hy
        · exact hab
        · exact Nat.le_trans hab (hb y hy), h⟩
    · next hab => exact List.pairwise_cons.mpr ⟨fun y hy => by
        rcases List.mem_cons.mp ((insertBy_perm key a r).mem_iff.mp hy) with rfl | hy
        · omega
        · exact hb y hy, ih hr⟩

/-- Sorting puts keys in rising order. -/
theorem sortBy_rises {α : Type} (key : α → Nat) (l : List α) : (sortBy key l).Pairwise fun x y => key x ≤ key y := by
  induction l with
  | nil => exact .nil
  | cons a r ih => exact insertBy_rises key a _ ih

end Sys2Proof.Machine
end

