-- ==== Sys2Proof/Laws/Choice.lean ====
section
/-!
SUPPORT. Free choices among what may happen next: a choice is made wherever one may be, and an engine whose copy has something to do does it.
-/
noncomputable section
namespace Sys2Proof.Machine

/-- The search from a freely chosen start finds something wherever there is something. -/
theorem firstFrom_isSome {n start : Nat} {p : Nat → Bool} (k : Nat) (hk : k < n) (h : p k = true) : (firstFrom n start p).isSome = true := by
  rw [firstFrom, List.find?_isSome]
  refine ⟨k, List.mem_map.mpr ⟨(n - start % n + k) % n, List.mem_range.mpr (Nat.mod_lt _ (Nat.lt_of_le_of_lt (Nat.zero_le _) hk)), ?_⟩, h⟩
  have hm : start % n < n := Nat.mod_lt _ (Nat.lt_of_le_of_lt (Nat.zero_le _) hk)
  rw [Nat.add_mod_mod, ← Nat.mod_add_mod, show start % n + (n - start % n + k) = n + k by omega, Nat.add_mod_left, Nat.mod_eq_of_lt hk]

/-- A copy that may move a unit, or write a byte, does one of these. -/
theorem unit_isSome {s : State} {g : Gang} {o : Op} {c : Copy} (h : s.op? g.id o.id = some (g, o)) (hb : o.body = .copy c) (hs : c.stage = .moving) (hf : c.fail = none)
    (hm : (∃ n, n < c.units ∧ s.chosen.mayMove g o.id c n = true) ∨ ∃ e, c.out[0]? = some e ∧ s.chosen.mayWrite g c e = true) : (s.own (.unit g.id o.id)).isSome = true := by
  have h' : s.chosen.op? g.id o.id = some (g, o) := h
  simp only [State.own, State.stepCopy, h', hb, hs, hf, and_self, if_true]
  have hg (n : Nat) : ∀ p : Nat → Bool, (∀ n, p n = true → n < c.units ∨ (c.out[n - c.units]?).isSome = true) → (∃ k, k < c.units + c.out.length ∧ p k = true) →
      ((firstFrom (c.units + c.out.length) n p).bind fun n => if n < c.units then some (s.chosen.moveUnit g o.id c n)
        else (c.out[n - c.units]?).map (s.chosen.writeByte g o.id c (n - c.units))).isSome = true := by
    rintro p hp ⟨k, hk, hpk⟩
    have := firstFrom_isSome (start := n) k hk hpk
    cases hx : firstFrom (c.units + c.out.length) n p with
    | none => simp [hx] at this
    | some m =>
      rcases hp m (by rw [firstFrom] at hx; exact List.find?_some hx) with hl | hl
      · simp [hl]
      · by_cases hl' : m < c.units
        · simp [hl']
        · simp only [Option.bind_some, hl', if_false, Option.isSome_map, hl]
  refine hg _ _ (fun n hn => ?_) ?_
  · by_cases hl : n < c.units
    · exact .inl hl
    · simp only [hl, if_false] at hn
      cases he : c.out[n - c.units]? with
      | none => simp [he] at hn
      | some e => exact .inr rfl
  · rcases hm with ⟨n, hn, hp⟩ | ⟨e, he, hp⟩
    · exact ⟨n, by omega, by simp [hn, hp]⟩
    · have := (List.getElem?_eq_some_iff.mp he).1
      exact ⟨c.units, by omega, by simp [he, hp]⟩

end Sys2Proof.Machine
end
end

