-- ==== Sys2Proof/Laws/Exec.lean ====
section
/-!
SUPPORT. One equation per row of the opcode table: the meaning that `exec` gives it. A proof rewrites with these and never unfolds `exec`.
-/
namespace Sys2Proof.Machine

theorem exec_clauseHeader (b : BitVec 4) (a : BitVec 4) (w : BitVec 12) (n : BitVec 5) (s : State) : exec (.clauseHeader b a w n) s = execClauseHeader b a w n s := rfl
theorem exec_stalledWordResume (g : Nat) (s : State) : exec (.stalledWordResume g) s = execStalledWordResume g s := rfl
theorem exec_movShort (imm : BitVec 1) (b : BitVec 5) (d : BitVec 5) (s : State) : exec (.movShort imm b d) s = execMovShort imm b d s := rfl
theorem exec_addI32Short (imm : BitVec 1) (b : BitVec 5) (d : BitVec 5) (s : State) : exec (.addI32Short imm b d) s = execAddI32Short imm b d s := rfl
theorem exec_subI32Short (imm : BitVec 1) (b : BitVec 5) (d : BitVec 5) (s : State) : exec (.subI32Short imm b d) s = execSubI32Short imm b d s := rfl
theorem exec_mulI32Short (imm : BitVec 1) (b : BitVec 5) (d : BitVec 5) (s : State) : exec (.mulI32Short imm b d) s = execMulI32Short imm b d s := rfl
theorem exec_andShort (imm : BitVec 1) (b : BitVec 5) (d : BitVec 5) (s : State) : exec (.andShort imm b d) s = execAndShort imm b d s := rfl
theorem exec_orShort (imm : BitVec 1) (b : BitVec 5) (d : BitVec 5) (s : State) : exec (.orShort imm b d) s = execOrShort imm b d s := rfl
theorem exec_xorShort (imm : BitVec 1) (b : BitVec 5) (d : BitVec 5) (s : State) : exec (.xorShort imm b d) s = execXorShort imm b d s := rfl
theorem exec_shlShort (imm : BitVec 1) (b : BitVec 5) (d : BitVec 5) (s : State) : exec (.shlShort imm b d) s = execShlShort imm b d s := rfl
theorem exec_shrShort (imm : BitVec 1) (b : BitVec 5) (d : BitVec 5) (s : State) : exec (.shrShort imm b d) s = execShrShort imm b d s := rfl
theorem exec_sarShort (imm : BitVec 1) (b : BitVec 5) (d : BitVec 5) (s : State) : exec (.sarShort imm b d) s = execSarShort imm b d s := rfl
theorem exec_addF32Short (imm : BitVec 1) (b : BitVec 5) (d : BitVec 5) (s : State) : exec (.addF32Short imm b d) s = execAddF32Short imm b d s := rfl
theorem exec_subF32Short (imm : BitVec 1) (b : BitVec 5) (d : BitVec 5) (s : State) : exec (.subF32Short imm b d) s = execSubF32Short imm b d s := rfl
theorem exec_mulF32Short (imm : BitVec 1) (b : BitVec 5) (d : BitVec 5) (s : State) : exec (.mulF32Short imm b d) s = execMulF32Short imm b d s := rfl
theorem exec_minF32Short (imm : BitVec 1) (b : BitVec 5) (d : BitVec 5) (s : State) : exec (.minF32Short imm b d) s = execMinF32Short imm b d s := rfl
theorem exec_maxF32Short (imm : BitVec 1) (b : BitVec 5) (d : BitVec 5) (s : State) : exec (.maxF32Short imm b d) s = execMaxF32Short imm b d s := rfl
theorem exec_nop (s : State) : exec .nop s = execNop s := rfl
theorem exec_addI32 (b : BitVec 7) (a : BitVec 7) (d : BitVec 7) (s : State) : exec (.addI32 b a d) s = execAddI32 b a d s := rfl
theorem exec_subI32 (b : BitVec 7) (a : BitVec 7) (d : BitVec 7) (s : State) : exec (.subI32 b a d) s = execSubI32 b a d s := rfl
theorem exec_mulI32 (b : BitVec 7) (a : BitVec 7) (d : BitVec 7) (s : State) : exec (.mulI32 b a d) s = execMulI32 b a d s := rfl
theorem exec_mulhiI32 (b : BitVec 7) (a : BitVec 7) (d : BitVec 7) (s : State) : exec (.mulhiI32 b a d) s = execMulhiI32 b a d s := rfl
theorem exec_mulhiN32 (b : BitVec 7) (a : BitVec 7) (d : BitVec 7) (s : State) : exec (.mulhiN32 b a d) s = execMulhiN32 b a d s := rfl
theorem exec_madI32 (b : BitVec 7) (a : BitVec 7) (d : BitVec 7) (s : State) : exec (.madI32 b a d) s = execMadI32 b a d s := rfl
theorem exec_minI32 (b : BitVec 7) (a : BitVec 7) (d : BitVec 7) (s : State) : exec (.minI32 b a d) s = execMinI32 b a d s := rfl
theorem exec_maxI32 (b : BitVec 7) (a : BitVec 7) (d : BitVec 7) (s : State) : exec (.maxI32 b a d) s = execMaxI32 b a d s := rfl
theorem exec_minN32 (b : BitVec 7) (a : BitVec 7) (d : BitVec 7) (s : State) : exec (.minN32 b a d) s = execMinN32 b a d s := rfl
theorem exec_maxN32 (b : BitVec 7) (a : BitVec 7) (d : BitVec 7) (s : State) : exec (.maxN32 b a d) s = execMaxN32 b a d s := rfl
theorem exec_and (b : BitVec 7) (a : BitVec 7) (d : BitVec 7) (s : State) : exec (.and b a d) s = execAnd b a d s := rfl
theorem exec_or (b : BitVec 7) (a : BitVec 7) (d : BitVec 7) (s : State) : exec (.or b a d) s = execOr b a d s := rfl
theorem exec_xor (b : BitVec 7) (a : BitVec 7) (d : BitVec 7) (s : State) : exec (.xor b a d) s = execXor b a d s := rfl
theorem exec_shl (b : BitVec 7) (a : BitVec 7) (d : BitVec 7) (s : State) : exec (.shl b a d) s = execShl b a d s := rfl
theorem exec_shr (b : BitVec 7) (a : BitVec 7) (d : BitVec 7) (s : State) : exec (.shr b a d) s = execShr b a d s := rfl
theorem exec_sar (b : BitVec 7) (a : BitVec 7) (d : BitVec 7) (s : State) : exec (.sar b a d) s = execSar b a d s := rfl
theorem exec_addi (imm : BitVec 11) (a : BitVec 7) (d : BitVec 7) (s : State) : exec (.addi imm a d) s = execAddi imm a d s := rfl
theorem exec_muli (imm : BitVec 11) (a : BitVec 7) (d : BitVec 7) (s : State) : exec (.muli imm a d) s = execMuli imm a d s := rfl
theorem exec_andi (imm : BitVec 11) (a : BitVec 7) (d : BitVec 7) (s : State) : exec (.andi imm a d) s = execAndi imm a d s := rfl
theorem exec_ori (imm : BitVec 11) (a : BitVec 7) (d : BitVec 7) (s : State) : exec (.ori imm a d) s = execOri imm a d s := rfl
theorem exec_xori (imm : BitVec 11) (a : BitVec 7) (d : BitVec 7) (s : State) : exec (.xori imm a d) s = execXori imm a d s := rfl
theorem exec_shiShl (n : BitVec 5) (a : BitVec 7) (d : BitVec 7) (s : State) : exec (.shiShl n a d) s = execShiShl n a d s := rfl
theorem exec_shiShr (n : BitVec 5) (a : BitVec 7) (d : BitVec 7) (s : State) : exec (.shiShr n a d) s = execShiShr n a d s := rfl
theorem exec_shiSar (n : BitVec 5) (a : BitVec 7) (d : BitVec 7) (s : State) : exec (.shiSar n a d) s = execShiSar n a d s := rfl
theorem exec_rol (n : BitVec 5) (a : BitVec 7) (d : BitVec 7) (s : State) : exec (.rol n a d) s = execRol n a d s := rfl
theorem exec_not (a : BitVec 7) (d : BitVec 7) (s : State) : exec (.not a d) s = execNot a d s := rfl
theorem exec_negI32 (a : BitVec 7) (d : BitVec 7) (s : State) : exec (.negI32 a d) s = execNegI32 a d s := rfl
theorem exec_absI32 (a : BitVec 7) (d : BitVec 7) (s : State) : exec (.absI32 a d) s = execAbsI32 a d s := rfl
theorem exec_popc (a : BitVec 7) (d : BitVec 7) (s : State) : exec (.popc a d) s = execPopc a d s := rfl
theorem exec_clz (a : BitVec 7) (d : BitVec 7) (s : State) : exec (.clz a d) s = execClz a d s := rfl
theorem exec_ctz (a : BitVec 7) (d : BitVec 7) (s : State) : exec (.ctz a d) s = execCtz a d s := rfl
theorem exec_brev (a : BitVec 7) (d : BitVec 7) (s : State) : exec (.brev a d) s = execBrev a d s := rfl
theorem exec_sxt8 (a : BitVec 7) (d : BitVec 7) (s : State) : exec (.sxt8 a d) s = execSxt8 a d s := rfl
theorem exec_sxt16 (a : BitVec 7) (d : BitVec 7) (s : State) : exec (.sxt16 a d) s = execSxt16 a d s := rfl
theorem exec_zxt8 (a : BitVec 7) (d : BitVec 7) (s : State) : exec (.zxt8 a d) s = execZxt8 a d s := rfl
theorem exec_zxt16 (a : BitVec 7) (d : BitVec 7) (s : State) : exec (.zxt16 a d) s = execZxt16 a d s := rfl
theorem exec_bfeN (w : BitVec 5) (p : BitVec 5) (a : BitVec 7) (d : BitVec 7) (s : State) : exec (.bfeN w p a d) s = execBfeN w p a d s := rfl
theorem exec_bfeI (w : BitVec 5) (p : BitVec 5) (a : BitVec 7) (d : BitVec 7) (s : State) : exec (.bfeI w p a d) s = execBfeI w p a d s := rfl
theorem exec_bfi (w : BitVec 5) (p : BitVec 5) (a : BitVec 7) (d : BitVec 7) (s : State) : exec (.bfi w p a d) s = execBfi w p a d s := rfl
theorem exec_icmpEq (b : BitVec 7) (a : BitVec 7) (m : BitVec 4) (s : State) : exec (.icmpEq b a m) s = execIcmpEq b a m s := rfl
theorem exec_icmpNe (b : BitVec 7) (a : BitVec 7) (m : BitVec 4) (s : State) : exec (.icmpNe b a m) s = execIcmpNe b a m s := rfl
theorem exec_icmpLtI (b : BitVec 7) (a : BitVec 7) (m : BitVec 4) (s : State) : exec (.icmpLtI b a m) s = execIcmpLtI b a m s := rfl
theorem exec_icmpLeI (b : BitVec 7) (a : BitVec 7) (m : BitVec 4) (s : State) : exec (.icmpLeI b a m) s = execIcmpLeI b a m s := rfl
theorem exec_icmpGtI (b : BitVec 7) (a : BitVec 7) (m : BitVec 4) (s : State) : exec (.icmpGtI b a m) s = execIcmpGtI b a m s := rfl
theorem exec_icmpGeI (b : BitVec 7) (a : BitVec 7) (m : BitVec 4) (s : State) : exec (.icmpGeI b a m) s = execIcmpGeI b a m s := rfl
theorem exec_icmpLtN (b : BitVec 7) (a : BitVec 7) (m : BitVec 4) (s : State) : exec (.icmpLtN b a m) s = execIcmpLtN b a m s := rfl
theorem exec_icmpLeN (b : BitVec 7) (a : BitVec 7) (m : BitVec 4) (s : State) : exec (.icmpLeN b a m) s = execIcmpLeN b a m s := rfl
theorem exec_icmpGtN (b : BitVec 7) (a : BitVec 7) (m : BitVec 4) (s : State) : exec (.icmpGtN b a m) s = execIcmpGtN b a m s := rfl
theorem exec_icmpGeN (b : BitVec 7) (a : BitVec 7) (m : BitVec 4) (s : State) : exec (.icmpGeN b a m) s = execIcmpGeN b a m s := rfl
theorem exec_sel (m : BitVec 4) (b : BitVec 7) (a : BitVec 7) (d : BitVec 7) (s : State) : exec (.sel m b a d) s = execSel m b a d s := rfl
theorem exec_li (imm : BitVec 18) (d : BitVec 7) (s : State) : exec (.li imm d) s = execLi imm d s := rfl
theorem exec_liu (imm : BitVec 18) (d : BitVec 7) (s : State) : exec (.liu imm d) s = execLiu imm d s := rfl
theorem exec_addF32 (b : BitVec 7) (a : BitVec 7) (d : BitVec 7) (s : State) : exec (.addF32 b a d) s = execAddF32 b a d s := rfl
theorem exec_subF32 (b : BitVec 7) (a : BitVec 7) (d : BitVec 7) (s : State) : exec (.subF32 b a d) s = execSubF32 b a d s := rfl
theorem exec_mulF32 (b : BitVec 7) (a : BitVec 7) (d : BitVec 7) (s : State) : exec (.mulF32 b a d) s = execMulF32 b a d s := rfl
theorem exec_fmaF32 (b : BitVec 7) (a : BitVec 7) (d : BitVec 7) (s : State) : exec (.fmaF32 b a d) s = execFmaF32 b a d s := rfl
theorem exec_fmsF32 (b : BitVec 7) (a : BitVec 7) (d : BitVec 7) (s : State) : exec (.fmsF32 b a d) s = execFmsF32 b a d s := rfl
theorem exec_fnmaF32 (b : BitVec 7) (a : BitVec 7) (d : BitVec 7) (s : State) : exec (.fnmaF32 b a d) s = execFnmaF32 b a d s := rfl
theorem exec_minF32 (b : BitVec 7) (a : BitVec 7) (d : BitVec 7) (s : State) : exec (.minF32 b a d) s = execMinF32 b a d s := rfl
theorem exec_maxF32 (b : BitVec 7) (a : BitVec 7) (d : BitVec 7) (s : State) : exec (.maxF32 b a d) s = execMaxF32 b a d s := rfl
theorem exec_copysignF32 (b : BitVec 7) (a : BitVec 7) (d : BitVec 7) (s : State) : exec (.copysignF32 b a d) s = execCopysignF32 b a d s := rfl
theorem exec_scaleF32 (b : BitVec 7) (a : BitVec 7) (d : BitVec 7) (s : State) : exec (.scaleF32 b a d) s = execScaleF32 b a d s := rfl
theorem exec_getexpF32 (a : BitVec 7) (d : BitVec 7) (s : State) : exec (.getexpF32 a d) s = execGetexpF32 a d s := rfl
theorem exec_fcmpEq (b : BitVec 7) (a : BitVec 7) (m : BitVec 4) (s : State) : exec (.fcmpEq b a m) s = execFcmpEq b a m s := rfl
theorem exec_fcmpNe (b : BitVec 7) (a : BitVec 7) (m : BitVec 4) (s : State) : exec (.fcmpNe b a m) s = execFcmpNe b a m s := rfl
theorem exec_fcmpLt (b : BitVec 7) (a : BitVec 7) (m : BitVec 4) (s : State) : exec (.fcmpLt b a m) s = execFcmpLt b a m s := rfl
theorem exec_fcmpLe (b : BitVec 7) (a : BitVec 7) (m : BitVec 4) (s : State) : exec (.fcmpLe b a m) s = execFcmpLe b a m s := rfl
theorem exec_fcmpGt (b : BitVec 7) (a : BitVec 7) (m : BitVec 4) (s : State) : exec (.fcmpGt b a m) s = execFcmpGt b a m s := rfl
theorem exec_fcmpGe (b : BitVec 7) (a : BitVec 7) (m : BitVec 4) (s : State) : exec (.fcmpGe b a m) s = execFcmpGe b a m s := rfl
theorem exec_fcmpUno (b : BitVec 7) (a : BitVec 7) (m : BitVec 4) (s : State) : exec (.fcmpUno b a m) s = execFcmpUno b a m s := rfl
theorem exec_fcmpOrd (b : BitVec 7) (a : BitVec 7) (m : BitVec 4) (s : State) : exec (.fcmpOrd b a m) s = execFcmpOrd b a m s := rfl
theorem exec_absF32 (a : BitVec 7) (d : BitVec 7) (s : State) : exec (.absF32 a d) s = execAbsF32 a d s := rfl
theorem exec_negF32 (a : BitVec 7) (d : BitVec 7) (s : State) : exec (.negF32 a d) s = execNegF32 a d s := rfl
theorem exec_rcpF32 (a : BitVec 7) (d : BitVec 7) (s : State) : exec (.rcpF32 a d) s = execRcpF32 a d s := rfl
theorem exec_rsqF32 (a : BitVec 7) (d : BitVec 7) (s : State) : exec (.rsqF32 a d) s = execRsqF32 a d s := rfl
theorem exec_sqrtF32 (a : BitVec 7) (d : BitVec 7) (s : State) : exec (.sqrtF32 a d) s = execSqrtF32 a d s := rfl
theorem exec_exp2F32 (a : BitVec 7) (d : BitVec 7) (s : State) : exec (.exp2F32 a d) s = execExp2F32 a d s := rfl
theorem exec_log2F32 (a : BitVec 7) (d : BitVec 7) (s : State) : exec (.log2F32 a d) s = execLog2F32 a d s := rfl
theorem exec_sinF32 (a : BitVec 7) (d : BitVec 7) (s : State) : exec (.sinF32 a d) s = execSinF32 a d s := rfl
theorem exec_cosF32 (a : BitVec 7) (d : BitVec 7) (s : State) : exec (.cosF32 a d) s = execCosF32 a d s := rfl
theorem exec_floorF32 (a : BitVec 7) (d : BitVec 7) (s : State) : exec (.floorF32 a d) s = execFloorF32 a d s := rfl
theorem exec_ceilF32 (a : BitVec 7) (d : BitVec 7) (s : State) : exec (.ceilF32 a d) s = execCeilF32 a d s := rfl
theorem exec_truncF32 (a : BitVec 7) (d : BitVec 7) (s : State) : exec (.truncF32 a d) s = execTruncF32 a d s := rfl
theorem exec_rintF32 (a : BitVec 7) (d : BitVec 7) (s : State) : exec (.rintF32 a d) s = execRintF32 a d s := rfl
theorem exec_fracF32 (a : BitVec 7) (d : BitVec 7) (s : State) : exec (.fracF32 a d) s = execFracF32 a d s := rfl
theorem exec_classF32 (a : BitVec 7) (d : BitVec 7) (s : State) : exec (.classF32 a d) s = execClassF32 a d s := rfl
theorem exec_addF16x2 (b : BitVec 7) (a : BitVec 7) (d : BitVec 7) (s : State) : exec (.addF16x2 b a d) s = execAddF16x2 b a d s := rfl
theorem exec_mulF16x2 (b : BitVec 7) (a : BitVec 7) (d : BitVec 7) (s : State) : exec (.mulF16x2 b a d) s = execMulF16x2 b a d s := rfl
theorem exec_fmaF16x2 (b : BitVec 7) (a : BitVec 7) (d : BitVec 7) (s : State) : exec (.fmaF16x2 b a d) s = execFmaF16x2 b a d s := rfl
theorem exec_minF16x2 (b : BitVec 7) (a : BitVec 7) (d : BitVec 7) (s : State) : exec (.minF16x2 b a d) s = execMinF16x2 b a d s := rfl
theorem exec_maxF16x2 (b : BitVec 7) (a : BitVec 7) (d : BitVec 7) (s : State) : exec (.maxF16x2 b a d) s = execMaxF16x2 b a d s := rfl
theorem exec_addBf16x2 (b : BitVec 7) (a : BitVec 7) (d : BitVec 7) (s : State) : exec (.addBf16x2 b a d) s = execAddBf16x2 b a d s := rfl
theorem exec_mulBf16x2 (b : BitVec 7) (a : BitVec 7) (d : BitVec 7) (s : State) : exec (.mulBf16x2 b a d) s = execMulBf16x2 b a d s := rfl
theorem exec_fmaBf16x2 (b : BitVec 7) (a : BitVec 7) (d : BitVec 7) (s : State) : exec (.fmaBf16x2 b a d) s = execFmaBf16x2 b a d s := rfl
theorem exec_minBf16x2 (b : BitVec 7) (a : BitVec 7) (d : BitVec 7) (s : State) : exec (.minBf16x2 b a d) s = execMinBf16x2 b a d s := rfl
theorem exec_maxBf16x2 (b : BitVec 7) (a : BitVec 7) (d : BitVec 7) (s : State) : exec (.maxBf16x2 b a d) s = execMaxBf16x2 b a d s := rfl
theorem exec_dot4I8 (b : BitVec 7) (a : BitVec 7) (d : BitVec 7) (s : State) : exec (.dot4I8 b a d) s = execDot4I8 b a d s := rfl
theorem exec_dot4N8 (b : BitVec 7) (a : BitVec 7) (d : BitVec 7) (s : State) : exec (.dot4N8 b a d) s = execDot4N8 b a d s := rfl
theorem exec_dot2F16 (b : BitVec 7) (a : BitVec 7) (d : BitVec 7) (s : State) : exec (.dot2F16 b a d) s = execDot2F16 b a d s := rfl
theorem exec_dot2Bf16 (b : BitVec 7) (a : BitVec 7) (d : BitVec 7) (s : State) : exec (.dot2Bf16 b a d) s = execDot2Bf16 b a d s := rfl
theorem exec_dot8I4 (b : BitVec 7) (a : BitVec 7) (d : BitVec 7) (s : State) : exec (.dot8I4 b a d) s = execDot8I4 b a d s := rfl
theorem exec_cvt (sl : BitVec 1) (r : BitVec 2) (u : BitVec 1) (c : BitVec 3) (t : BitVec 4) (a : BitVec 7) (d : BitVec 7) (s : State) : exec (.cvt sl r u c t a d) s = execCvt sl r u c t a d s := rfl
theorem exec_cvtpByte (sl : BitVec 1) (r : BitVec 2) (t : BitVec 2) (h : BitVec 1) (l : BitVec 1) (a : BitVec 7) (d : BitVec 7) (s : State) : exec (.cvtpByte sl r t h l a d) s = execCvtpByte sl r t h l a d s := rfl
theorem exec_cvtpF16 (sl : BitVec 1) (r : BitVec 2) (h : BitVec 1) (a : BitVec 7) (d : BitVec 7) (s : State) : exec (.cvtpF16 sl r h a d) s = execCvtpF16 sl r h a d s := rfl
theorem exec_cvtpBf16 (sl : BitVec 1) (r : BitVec 2) (h : BitVec 1) (a : BitVec 7) (d : BitVec 7) (s : State) : exec (.cvtpBf16 sl r h a d) s = execCvtpBf16 sl r h a d s := rfl
theorem exec_sbdecSb4 (b : BitVec 7) (a : BitVec 7) (d : BitVec 7) (s : State) : exec (.sbdecSb4 b a d) s = execSbdecSb4 b a d s := rfl
theorem exec_sbdecSb8 (b : BitVec 7) (a : BitVec 7) (d : BitVec 7) (s : State) : exec (.sbdecSb8 b a d) s = execSbdecSb8 b a d s := rfl
theorem exec_shfl (p : BitVec 4) (b : BitVec 7) (a : BitVec 7) (d : BitVec 7) (s : State) : exec (.shfl p b a d) s = execShfl p b a d s := rfl
theorem exec_shflkUp (p : BitVec 4) (k : BitVec 6) (a : BitVec 7) (d : BitVec 7) (s : State) : exec (.shflkUp p k a d) s = execShflkUp p k a d s := rfl
theorem exec_shflkDn (p : BitVec 4) (k : BitVec 6) (a : BitVec 7) (d : BitVec 7) (s : State) : exec (.shflkDn p k a d) s = execShflkDn p k a d s := rfl
theorem exec_shflxXor (p : BitVec 4) (c : BitVec 6) (a : BitVec 7) (d : BitVec 7) (s : State) : exec (.shflxXor p c a d) s = execShflxXor p c a d s := rfl
theorem exec_shflxIdx (p : BitVec 4) (c : BitVec 6) (a : BitVec 7) (d : BitVec 7) (s : State) : exec (.shflxIdx p c a d) s = execShflxIdx p c a d s := rfl
theorem exec_xredSumI32 (p : BitVec 4) (a : BitVec 7) (d : BitVec 7) (s : State) : exec (.xredSumI32 p a d) s = execXredSumI32 p a d s := rfl
theorem exec_xredMinI32 (p : BitVec 4) (a : BitVec 7) (d : BitVec 7) (s : State) : exec (.xredMinI32 p a d) s = execXredMinI32 p a d s := rfl
theorem exec_xredMaxI32 (p : BitVec 4) (a : BitVec 7) (d : BitVec 7) (s : State) : exec (.xredMaxI32 p a d) s = execXredMaxI32 p a d s := rfl
theorem exec_xredSumF32 (p : BitVec 4) (a : BitVec 7) (d : BitVec 7) (s : State) : exec (.xredSumF32 p a d) s = execXredSumF32 p a d s := rfl
theorem exec_xredMinF32 (p : BitVec 4) (a : BitVec 7) (d : BitVec 7) (s : State) : exec (.xredMinF32 p a d) s = execXredMinF32 p a d s := rfl
theorem exec_xredMaxF32 (p : BitVec 4) (a : BitVec 7) (d : BitVec 7) (s : State) : exec (.xredMaxF32 p a d) s = execXredMaxF32 p a d s := rfl
theorem exec_xredScanI32 (p : BitVec 4) (a : BitVec 7) (d : BitVec 7) (s : State) : exec (.xredScanI32 p a d) s = execXredScanI32 p a d s := rfl
theorem exec_xredScanF32 (p : BitVec 4) (a : BitVec 7) (d : BitVec 7) (s : State) : exec (.xredScanF32 p a d) s = execXredScanF32 p a d s := rfl
theorem exec_voteAny (p : BitVec 4) (a : BitVec 7) (d : BitVec 7) (s : State) : exec (.voteAny p a d) s = execVoteAny p a d s := rfl
theorem exec_voteAll (p : BitVec 4) (a : BitVec 7) (d : BitVec 7) (s : State) : exec (.voteAll p a d) s = execVoteAll p a d s := rfl
theorem exec_voteBallot (p : BitVec 4) (a : BitVec 7) (d : BitVec 7) (s : State) : exec (.voteBallot p a d) s = execVoteBallot p a d s := rfl
theorem exec_voteBallotMask (p : BitVec 4) (a : BitVec 7) (m : BitVec 4) (s : State) : exec (.voteBallotMask p a m) s = execVoteBallotMask p a m s := rfl
theorem exec_bra (o : BitVec 18) (m : BitVec 4) (s : State) : exec (.bra o m) s = execBra o m s := rfl
theorem exec_braAny (o : BitVec 18) (m : BitVec 4) (s : State) : exec (.braAny o m) s = execBraAny o m s := rfl
theorem exec_braAll (o : BitVec 18) (m : BitVec 4) (s : State) : exec (.braAll o m) s = execBraAll o m s := rfl
theorem exec_braNone (o : BitVec 18) (m : BitVec 4) (s : State) : exec (.braNone o m) s = execBraNone o m s := rfl
theorem exec_braSet (o : BitVec 18) (m : BitVec 4) (s : State) : exec (.braSet o m) s = execBraSet o m s := rfl
theorem exec_braClr (o : BitVec 18) (m : BitVec 4) (s : State) : exec (.braClr o m) s = execBraClr o m s := rfl
theorem exec_jmp (o : BitVec 18) (s : State) : exec (.jmp o) s = execJmp o s := rfl
theorem exec_call (o : BitVec 18) (s : State) : exec (.call o) s = execCall o s := rfl
theorem exec_jmpS (a : BitVec 7) (s : State) : exec (.jmpS a) s = execJmpS a s := rfl
theorem exec_callS (a : BitVec 7) (s : State) : exec (.callS a) s = execCallS a s := rfl
theorem exec_ret (s : State) : exec .ret s = execRet s := rfl
theorem exec_jmpV (a : BitVec 7) (s : State) : exec (.jmpV a) s = execJmpV a s := rfl
theorem exec_jmpt (sl : BitVec 6) (a : BitVec 7) (s : State) : exec (.jmpt sl a) s = execJmpt sl a s := rfl
theorem exec_join (m : BitVec 4) (s : State) : exec (.join m) s = execJoin m s := rfl
theorem exec_leave (m : BitVec 4) (s : State) : exec (.leave m) s = execLeave m s := rfl
theorem exec_wait (m : BitVec 4) (s : State) : exec (.wait m) s = execWait m s := rfl
theorem exec_mset (a : BitVec 7) (m : BitVec 4) (s : State) : exec (.mset a m) s = execMset a m s := rfl
theorem exec_mget (a : BitVec 4) (d : BitVec 7) (s : State) : exec (.mget a d) s = execMget a d s := rfl
theorem exec_mand (b : BitVec 4) (a : BitVec 4) (d : BitVec 4) (s : State) : exec (.mand b a d) s = execMand b a d s := rfl
theorem exec_mor (b : BitVec 4) (a : BitVec 4) (d : BitVec 4) (s : State) : exec (.mor b a d) s = execMor b a d s := rfl
theorem exec_mxor (b : BitVec 4) (a : BitVec 4) (d : BitVec 4) (s : State) : exec (.mxor b a d) s = execMxor b a d s := rfl
theorem exec_mnot (a : BitVec 4) (d : BitVec 4) (s : State) : exec (.mnot a d) s = execMnot a d s := rfl
theorem exec_mcpy (a : BitVec 4) (d : BitVec 4) (s : State) : exec (.mcpy a d) s = execMcpy a d s := rfl
theorem exec_mpop (a : BitVec 4) (d : BitVec 7) (s : State) : exec (.mpop a d) s = execMpop a d s := rfl
theorem exec_mfirst (a : BitVec 4) (d : BitVec 7) (s : State) : exec (.mfirst a d) s = execMfirst a d s := rfl
theorem exec_mlive (d : BitVec 4) (s : State) : exec (.mlive d) s = execMlive d s := rfl
theorem exec_msub (d : BitVec 4) (s : State) : exec (.msub d) s = execMsub d s := rfl
theorem exec_exit (s : State) : exec .exit s = execExit s := rfl
theorem exec_yield (s : State) : exec .yield s = execYield s := rfl
theorem exec_nop32 (s : State) : exec .nop32 s = execNop32 s := rfl
theorem exec_sadd (b : BitVec 7) (a : BitVec 7) (d : BitVec 7) (s : State) : exec (.sadd b a d) s = execSadd b a d s := rfl
theorem exec_ssub (b : BitVec 7) (a : BitVec 7) (d : BitVec 7) (s : State) : exec (.ssub b a d) s = execSsub b a d s := rfl
theorem exec_smul (b : BitVec 7) (a : BitVec 7) (d : BitVec 7) (s : State) : exec (.smul b a d) s = execSmul b a d s := rfl
theorem exec_smulhiI64 (b : BitVec 7) (a : BitVec 7) (d : BitVec 7) (s : State) : exec (.smulhiI64 b a d) s = execSmulhiI64 b a d s := rfl
theorem exec_sand (b : BitVec 7) (a : BitVec 7) (d : BitVec 7) (s : State) : exec (.sand b a d) s = execSand b a d s := rfl
theorem exec_sor (b : BitVec 7) (a : BitVec 7) (d : BitVec 7) (s : State) : exec (.sor b a d) s = execSor b a d s := rfl
theorem exec_sxor (b : BitVec 7) (a : BitVec 7) (d : BitVec 7) (s : State) : exec (.sxor b a d) s = execSxor b a d s := rfl
theorem exec_sshl (b : BitVec 7) (a : BitVec 7) (d : BitVec 7) (s : State) : exec (.sshl b a d) s = execSshl b a d s := rfl
theorem exec_sshr (b : BitVec 7) (a : BitVec 7) (d : BitVec 7) (s : State) : exec (.sshr b a d) s = execSshr b a d s := rfl
theorem exec_ssar (b : BitVec 7) (a : BitVec 7) (d : BitVec 7) (s : State) : exec (.ssar b a d) s = execSsar b a d s := rfl
theorem exec_sminI64 (b : BitVec 7) (a : BitVec 7) (d : BitVec 7) (s : State) : exec (.sminI64 b a d) s = execSminI64 b a d s := rfl
theorem exec_smaxI64 (b : BitVec 7) (a : BitVec 7) (d : BitVec 7) (s : State) : exec (.smaxI64 b a d) s = execSmaxI64 b a d s := rfl
theorem exec_sminN64 (b : BitVec 7) (a : BitVec 7) (d : BitVec 7) (s : State) : exec (.sminN64 b a d) s = execSminN64 b a d s := rfl
theorem exec_smaxN64 (b : BitVec 7) (a : BitVec 7) (d : BitVec 7) (s : State) : exec (.smaxN64 b a d) s = execSmaxN64 b a d s := rfl
theorem exec_sdivN64 (b : BitVec 7) (a : BitVec 7) (d : BitVec 7) (s : State) : exec (.sdivN64 b a d) s = execSdivN64 b a d s := rfl
theorem exec_sremN64 (b : BitVec 7) (a : BitVec 7) (d : BitVec 7) (s : State) : exec (.sremN64 b a d) s = execSremN64 b a d s := rfl
theorem exec_saddi (imm : BitVec 11) (a : BitVec 7) (d : BitVec 7) (s : State) : exec (.saddi imm a d) s = execSaddi imm a d s := rfl
theorem exec_sli (imm : BitVec 18) (sl : BitVec 6) (s : State) : exec (.sli imm sl) s = execSli imm sl s := rfl
theorem exec_sliu (imm : BitVec 18) (sl : BitVec 6) (s : State) : exec (.sliu imm sl) s = execSliu imm sl s := rfl
theorem exec_slih (imm : BitVec 14) (sl : BitVec 6) (s : State) : exec (.slih imm sl) s = execSlih imm sl s := rfl
theorem exec_slihu (imm : BitVec 18) (sl : BitVec 6) (s : State) : exec (.slihu imm sl) s = execSlihu imm sl s := rfl
theorem exec_scmpEq (b : BitVec 7) (a : BitVec 7) (d : BitVec 7) (s : State) : exec (.scmpEq b a d) s = execScmpEq b a d s := rfl
theorem exec_scmpNe (b : BitVec 7) (a : BitVec 7) (d : BitVec 7) (s : State) : exec (.scmpNe b a d) s = execScmpNe b a d s := rfl
theorem exec_scmpLtI (b : BitVec 7) (a : BitVec 7) (d : BitVec 7) (s : State) : exec (.scmpLtI b a d) s = execScmpLtI b a d s := rfl
theorem exec_scmpLeI (b : BitVec 7) (a : BitVec 7) (d : BitVec 7) (s : State) : exec (.scmpLeI b a d) s = execScmpLeI b a d s := rfl
theorem exec_scmpGtI (b : BitVec 7) (a : BitVec 7) (d : BitVec 7) (s : State) : exec (.scmpGtI b a d) s = execScmpGtI b a d s := rfl
theorem exec_scmpGeI (b : BitVec 7) (a : BitVec 7) (d : BitVec 7) (s : State) : exec (.scmpGeI b a d) s = execScmpGeI b a d s := rfl
theorem exec_scmpLtN (b : BitVec 7) (a : BitVec 7) (d : BitVec 7) (s : State) : exec (.scmpLtN b a d) s = execScmpLtN b a d s := rfl
theorem exec_scmpLeN (b : BitVec 7) (a : BitVec 7) (d : BitVec 7) (s : State) : exec (.scmpLeN b a d) s = execScmpLeN b a d s := rfl
theorem exec_scmpGtN (b : BitVec 7) (a : BitVec 7) (d : BitVec 7) (s : State) : exec (.scmpGtN b a d) s = execScmpGtN b a d s := rfl
theorem exec_scmpGeN (b : BitVec 7) (a : BitVec 7) (d : BitVec 7) (s : State) : exec (.scmpGeN b a d) s = execScmpGeN b a d s := rfl
theorem exec_vbc (b : BitVec 7) (d : BitVec 7) (s : State) : exec (.vbc b d) s = execVbc b d s := rfl
theorem exec_vbch (b : BitVec 7) (d : BitVec 7) (s : State) : exec (.vbch b d) s = execVbch b d s := rfl
theorem exec_vget (n : BitVec 6) (a : BitVec 7) (d : BitVec 7) (s : State) : exec (.vget n a d) s = execVget n a d s := rfl
theorem exec_vsr (a : BitVec 7) (d : BitVec 7) (s : State) : exec (.vsr a d) s = execVsr a d s := rfl
theorem exec_ssr (a : BitVec 7) (d : BitVec 7) (s : State) : exec (.ssr a d) s = execSsr a d s := rfl
theorem exec_wsr (a : BitVec 7) (d : BitVec 7) (s : State) : exec (.wsr a d) s = execWsr a d s := rfl
theorem exec_ldg (l : BitVec 1) (t : BitVec 3) (e : BitVec 1) (sl : BitVec 6) (a : BitVec 7) (d : BitVec 7) (s : State) : exec (.ldg l t e sl a d) s = execLdg l t e sl a d s := rfl
theorem exec_stg (l : BitVec 1) (t : BitVec 3) (e : BitVec 1) (sl : BitVec 6) (a : BitVec 7) (d : BitVec 7) (s : State) : exec (.stg l t e sl a d) s = execStg l t e sl a d s := rfl
theorem exec_lds (l : BitVec 1) (t : BitVec 3) (e : BitVec 1) (sl : BitVec 6) (a : BitVec 7) (d : BitVec 7) (s : State) : exec (.lds l t e sl a d) s = execLds l t e sl a d s := rfl
theorem exec_sts (l : BitVec 1) (t : BitVec 3) (e : BitVec 1) (sl : BitVec 6) (a : BitVec 7) (d : BitVec 7) (s : State) : exec (.sts l t e sl a d) s = execSts l t e sl a d s := rfl
theorem exec_ldc (l : BitVec 1) (t : BitVec 3) (e : BitVec 1) (sl : BitVec 6) (a : BitVec 7) (d : BitVec 7) (s : State) : exec (.ldc l t e sl a d) s = execLdc l t e sl a d s := rfl
theorem exec_stc (l : BitVec 1) (t : BitVec 3) (e : BitVec 1) (sl : BitVec 6) (a : BitVec 7) (d : BitVec 7) (s : State) : exec (.stc l t e sl a d) s = execStc l t e sl a d s := rfl
theorem exec_ldx (l : BitVec 1) (t : BitVec 3) (e : BitVec 1) (sl : BitVec 6) (a : BitVec 7) (d : BitVec 7) (s : State) : exec (.ldx l t e sl a d) s = execLdx l t e sl a d s := rfl
theorem exec_stx (l : BitVec 1) (t : BitVec 3) (e : BitVec 1) (sl : BitVec 6) (a : BitVec 7) (d : BitVec 7) (s : State) : exec (.stx l t e sl a d) s = execStx l t e sl a d s := rfl
theorem exec_memoryOpComplete (g : Nat) (o : Nat) (s : State) : exec (.memoryOpComplete g o) s = execMemoryOpComplete g o s := rfl
theorem exec_ldAcq (c : BitVec 3) (e : BitVec 1) (sl : BitVec 6) (a : BitVec 7) (d : BitVec 7) (s : State) : exec (.ldAcq c e sl a d) s = execLdAcq c e sl a d s := rfl
theorem exec_stRel (c : BitVec 3) (e : BitVec 1) (sl : BitVec 6) (a : BitVec 7) (d : BitVec 7) (s : State) : exec (.stRel c e sl a d) s = execStRel c e sl a d s := rfl
theorem exec_fence (sl : BitVec 3) (s : State) : exec (.fence sl) s = execFence sl s := rfl
theorem exec_fenceAcq (sl : BitVec 3) (s : State) : exec (.fenceAcq sl) s = execFenceAcq sl s := rfl
theorem exec_fenceRel (sl : BitVec 3) (s : State) : exec (.fenceRel sl) s = execFenceRel sl s := rfl
theorem exec_atomAddI32 (e : BitVec 1) (sl : BitVec 6) (a : BitVec 7) (d : BitVec 7) (s : State) : exec (.atomAddI32 e sl a d) s = execAtomAddI32 e sl a d s := rfl
theorem exec_atomMinI32 (e : BitVec 1) (sl : BitVec 6) (a : BitVec 7) (d : BitVec 7) (s : State) : exec (.atomMinI32 e sl a d) s = execAtomMinI32 e sl a d s := rfl
theorem exec_atomMaxI32 (e : BitVec 1) (sl : BitVec 6) (a : BitVec 7) (d : BitVec 7) (s : State) : exec (.atomMaxI32 e sl a d) s = execAtomMaxI32 e sl a d s := rfl
theorem exec_atomMinN32 (e : BitVec 1) (sl : BitVec 6) (a : BitVec 7) (d : BitVec 7) (s : State) : exec (.atomMinN32 e sl a d) s = execAtomMinN32 e sl a d s := rfl
theorem exec_atomMaxN32 (e : BitVec 1) (sl : BitVec 6) (a : BitVec 7) (d : BitVec 7) (s : State) : exec (.atomMaxN32 e sl a d) s = execAtomMaxN32 e sl a d s := rfl
theorem exec_atomAnd (e : BitVec 1) (sl : BitVec 6) (a : BitVec 7) (d : BitVec 7) (s : State) : exec (.atomAnd e sl a d) s = execAtomAnd e sl a d s := rfl
theorem exec_atomOr (e : BitVec 1) (sl : BitVec 6) (a : BitVec 7) (d : BitVec 7) (s : State) : exec (.atomOr e sl a d) s = execAtomOr e sl a d s := rfl
theorem exec_atomXor (e : BitVec 1) (sl : BitVec 6) (a : BitVec 7) (d : BitVec 7) (s : State) : exec (.atomXor e sl a d) s = execAtomXor e sl a d s := rfl
theorem exec_atomXchg (e : BitVec 1) (sl : BitVec 6) (a : BitVec 7) (d : BitVec 7) (s : State) : exec (.atomXchg e sl a d) s = execAtomXchg e sl a d s := rfl
theorem exec_atomCas32 (e : BitVec 1) (sl : BitVec 6) (a : BitVec 7) (d : BitVec 7) (s : State) : exec (.atomCas32 e sl a d) s = execAtomCas32 e sl a d s := rfl
theorem exec_atomAddF32 (e : BitVec 1) (sl : BitVec 6) (a : BitVec 7) (d : BitVec 7) (s : State) : exec (.atomAddF32 e sl a d) s = execAtomAddF32 e sl a d s := rfl
theorem exec_atomMinF32 (e : BitVec 1) (sl : BitVec 6) (a : BitVec 7) (d : BitVec 7) (s : State) : exec (.atomMinF32 e sl a d) s = execAtomMinF32 e sl a d s := rfl
theorem exec_atomMaxF32 (e : BitVec 1) (sl : BitVec 6) (a : BitVec 7) (d : BitVec 7) (s : State) : exec (.atomMaxF32 e sl a d) s = execAtomMaxF32 e sl a d s := rfl
theorem exec_atomCas64 (e : BitVec 1) (sl : BitVec 6) (a : BitVec 7) (d : BitVec 7) (s : State) : exec (.atomCas64 e sl a d) s = execAtomCas64 e sl a d s := rfl
theorem exec_atomicPerform (g : Nat) (o : Nat) (s : State) : exec (.atomicPerform g o) s = execAtomicPerform g o s := rfl
theorem exec_redAddI32 (e : BitVec 1) (sl : BitVec 6) (a : BitVec 7) (d : BitVec 7) (s : State) : exec (.redAddI32 e sl a d) s = execRedAddI32 e sl a d s := rfl
theorem exec_redMinI32 (e : BitVec 1) (sl : BitVec 6) (a : BitVec 7) (d : BitVec 7) (s : State) : exec (.redMinI32 e sl a d) s = execRedMinI32 e sl a d s := rfl
theorem exec_redMaxI32 (e : BitVec 1) (sl : BitVec 6) (a : BitVec 7) (d : BitVec 7) (s : State) : exec (.redMaxI32 e sl a d) s = execRedMaxI32 e sl a d s := rfl
theorem exec_redMinN32 (e : BitVec 1) (sl : BitVec 6) (a : BitVec 7) (d : BitVec 7) (s : State) : exec (.redMinN32 e sl a d) s = execRedMinN32 e sl a d s := rfl
theorem exec_redMaxN32 (e : BitVec 1) (sl : BitVec 6) (a : BitVec 7) (d : BitVec 7) (s : State) : exec (.redMaxN32 e sl a d) s = execRedMaxN32 e sl a d s := rfl
theorem exec_redAnd (e : BitVec 1) (sl : BitVec 6) (a : BitVec 7) (d : BitVec 7) (s : State) : exec (.redAnd e sl a d) s = execRedAnd e sl a d s := rfl
theorem exec_redOr (e : BitVec 1) (sl : BitVec 6) (a : BitVec 7) (d : BitVec 7) (s : State) : exec (.redOr e sl a d) s = execRedOr e sl a d s := rfl
theorem exec_redXor (e : BitVec 1) (sl : BitVec 6) (a : BitVec 7) (d : BitVec 7) (s : State) : exec (.redXor e sl a d) s = execRedXor e sl a d s := rfl
theorem exec_redAddF32 (e : BitVec 1) (sl : BitVec 6) (a : BitVec 7) (d : BitVec 7) (s : State) : exec (.redAddF32 e sl a d) s = execRedAddF32 e sl a d s := rfl
theorem exec_redMinF32 (e : BitVec 1) (sl : BitVec 6) (a : BitVec 7) (d : BitVec 7) (s : State) : exec (.redMinF32 e sl a d) s = execRedMinF32 e sl a d s := rfl
theorem exec_redMaxF32 (e : BitVec 1) (sl : BitVec 6) (a : BitVec 7) (d : BitVec 7) (s : State) : exec (.redMaxF32 e sl a d) s = execRedMaxF32 e sl a d s := rfl
theorem exec_redAxpyF32 (e : BitVec 1) (sl : BitVec 6) (a : BitVec 7) (d : BitVec 7) (s : State) : exec (.redAxpyF32 e sl a d) s = execRedAxpyF32 e sl a d s := rfl
theorem exec_reductionApply (r : Nat) (s : State) : exec (.reductionApply r) s = execReductionApply r s := rfl
theorem exec_rwlTryrd (e : BitVec 1) (sl : BitVec 6) (a : BitVec 7) (d : BitVec 7) (s : State) : exec (.rwlTryrd e sl a d) s = execRwlTryrd e sl a d s := rfl
theorem exec_rwlTrywr (e : BitVec 1) (sl : BitVec 6) (a : BitVec 7) (d : BitVec 7) (s : State) : exec (.rwlTrywr e sl a d) s = execRwlTrywr e sl a d s := rfl
theorem exec_rwlRelrd (e : BitVec 1) (sl : BitVec 6) (a : BitVec 7) (d : BitVec 7) (s : State) : exec (.rwlRelrd e sl a d) s = execRwlRelrd e sl a d s := rfl
theorem exec_rwlRelwr (e : BitVec 1) (sl : BitVec 6) (a : BitVec 7) (d : BitVec 7) (s : State) : exec (.rwlRelwr e sl a d) s = execRwlRelwr e sl a d s := rfl
theorem exec_rwlSetpref (e : BitVec 1) (sl : BitVec 6) (a : BitVec 7) (d : BitVec 7) (s : State) : exec (.rwlSetpref e sl a d) s = execRwlSetpref e sl a d s := rfl
theorem exec_togen (p : BitVec 3) (a : BitVec 7) (d : BitVec 7) (s : State) : exec (.togen p a d) s = execTogen p a d s := rfl
theorem exec_ofgen (p : BitVec 3) (a : BitVec 7) (d : BitVec 7) (s : State) : exec (.ofgen p a d) s = execOfgen p a d s := rfl
theorem exec_isin (p : BitVec 3) (a : BitVec 7) (m : BitVec 4) (s : State) : exec (.isin p a m) s = execIsin p a m s := rfl
theorem exec_barInit (a : BitVec 7) (n : BitVec 4) (s : State) : exec (.barInit a n) s = execBarInit a n s := rfl
theorem exec_barArrive (a : BitVec 7) (n : BitVec 4) (s : State) : exec (.barArrive a n) s = execBarArrive a n s := rfl
theorem exec_barArrwait (a : BitVec 7) (n : BitVec 4) (s : State) : exec (.barArrwait a n) s = execBarArrwait a n s := rfl
theorem exec_barWait (n : BitVec 4) (s : State) : exec (.barWait n) s = execBarWait n s := rfl
theorem exec_barRarrive (b : BitVec 7) (a : BitVec 7) (n : BitVec 4) (s : State) : exec (.barRarrive b a n) s = execBarRarrive b a n s := rfl
theorem exec_barQuery (a : BitVec 7) (n : BitVec 4) (s : State) : exec (.barQuery a n) s = execBarQuery a n s := rfl
theorem exec_copy (x : BitVec 3) (l : BitVec 1) (c : BitVec 4) (m : BitVec 2) (f : BitVec 1) (g : BitVec 3) (h : BitVec 3) (s : State) : exec (.copy x l c m f g h) s = execCopy x l c m f g h s := rfl
theorem exec_sealBatch (d : BitVec 7) (s : State) : exec (.sealBatch d) s = execSeal d s := rfl
theorem exec_cwait (a : BitVec 7) (d : BitVec 7) (s : State) : exec (.cwait a d) s = execCwait a d s := rfl
theorem exec_lyset (a : BitVec 7) (r : BitVec 3) (s : State) : exec (.lyset a r) s = execLyset a r s := rfl
theorem exec_carcfg (a : BitVec 7) (c : BitVec 4) (s : State) : exec (.carcfg a c) s = execCarcfg a c s := rfl
theorem exec_ctake (b : BitVec 7) (a : BitVec 7) (c : BitVec 4) (s : State) : exec (.ctake b a c) s = execCtake b a c s := rfl
theorem exec_cfree (a : BitVec 7) (c : BitVec 4) (s : State) : exec (.cfree a c) s = execCfree a c s := rfl
theorem exec_bccrd (d : BitVec 7) (s : State) : exec (.bccrd d) s = execBccrd d s := rfl
theorem exec_fcopyTo (sl : BitVec 6) (l : BitVec 1) (r : BitVec 3) (g : BitVec 3) (s : State) : exec (.fcopyTo sl l r g) s = execFcopyTo sl l r g s := rfl
theorem exec_fcopyFrom (sl : BitVec 6) (l : BitVec 1) (r : BitVec 3) (g : BitVec 3) (s : State) : exec (.fcopyFrom sl l r g) s = execFcopyFrom sl l r g s := rfl
theorem exec_copyEngineStart (g : Nat) (o : Nat) (s : State) : exec (.copyEngineStart g o) s = execCopyEngineStart g o s := rfl
theorem exec_copyDataLanded (g : Nat) (o : Nat) (s : State) : exec (.copyDataLanded g o) s = execCopyDataLanded g o s := rfl
theorem exec_copyComplete (g : Nat) (o : Nat) (s : State) : exec (.copyComplete g o) s = execCopyComplete g o s := rfl
theorem exec_cwaitComplete (g : Nat) (o : Nat) (s : State) : exec (.cwaitComplete g o) s = execCwaitComplete g o s := rfl
theorem exec_fcopyAck (g : Nat) (o : Nat) (s : State) : exec (.fcopyAck g o) s = execFcopyAck g o s := rfl
theorem exec_fabricWritePerform (flow : W64) (asid : BitVec 8) (va : W64) (bytes : List Byte) (s : State) : exec (.fabricWritePerform flow asid va bytes) s = execFabricWritePerform flow asid va bytes s := rfl
theorem exec_uetPacketDrop (die : Nat) (s : State) : exec (.uetPacketDrop die) s = execUetPacketDrop die s := rfl
theorem exec_msetSlot (a : BitVec 7) (sl : BitVec 2) (s : State) : exec (.msetSlot a sl) s = execMsetSlot a sl s := rfl
theorem exec_mloadb (l : BitVec 3) (sl : BitVec 2) (s : State) : exec (.mloadb l sl) s = execMloadb l sl s := rfl
theorem exec_mmul (sl : BitVec 2) (s : State) : exec (.mmul sl) s = execMmul sl s := rfl
theorem exec_scacc (sl : BitVec 2) (s : State) : exec (.scacc sl) s = execScacc sl s := rfl
theorem exec_mrel (a : BitVec 7) (s : State) : exec (.mrel a) s = execMrel a s := rfl
theorem exec_mstat (d : BitVec 7) (s : State) : exec (.mstat d) s = execMstat d s := rfl
theorem exec_matrixCommandComplete (g : Nat) (o : Nat) (s : State) : exec (.matrixCommandComplete g o) s = execMatrixCommandComplete g o s := rfl
theorem exec_gadde (b : BitVec 7) (a : BitVec 7) (d : BitVec 7) (s : State) : exec (.gadde b a d) s = execGadde b a d s := rfl
theorem exec_grme (b : BitVec 7) (a : BitVec 7) (d : BitVec 7) (s : State) : exec (.grme b a d) s = execGrme b a d s := rfl
theorem exec_gsetw (b : BitVec 7) (a : BitVec 7) (d : BitVec 7) (s : State) : exec (.gsetw b a d) s = execGsetw b a d s := rfl
theorem exec_gdegOut (a : BitVec 7) (d : BitVec 7) (s : State) : exec (.gdegOut a d) s = execGdegOut a d s := rfl
theorem exec_gdegIn (a : BitVec 7) (d : BitVec 7) (s : State) : exec (.gdegIn a d) s = execGdegIn a d s := rfl
theorem exec_gldOut (b : BitVec 7) (a : BitVec 7) (d : BitVec 7) (s : State) : exec (.gldOut b a d) s = execGldOut b a d s := rfl
theorem exec_gldIn (b : BitVec 7) (a : BitVec 7) (d : BitVec 7) (s : State) : exec (.gldIn b a d) s = execGldIn b a d s := rfl
theorem exec_gfindOut (b : BitVec 7) (a : BitVec 7) (d : BitVec 7) (s : State) : exec (.gfindOut b a d) s = execGfindOut b a d s := rfl
theorem exec_gfindIn (b : BitVec 7) (a : BitVec 7) (d : BitVec 7) (s : State) : exec (.gfindIn b a d) s = execGfindIn b a d s := rfl
theorem exec_gvld (a : BitVec 7) (d : BitVec 7) (s : State) : exec (.gvld a d) s = execGvld a d s := rfl
theorem exec_gvst (a : BitVec 7) (d : BitVec 7) (s : State) : exec (.gvst a d) s = execGvst a d s := rfl
theorem exec_copenOut (c : BitVec 3) (a : BitVec 7) (d : BitVec 7) (s : State) : exec (.copenOut c a d) s = execCopenOut c a d s := rfl
theorem exec_copenIn (c : BitVec 3) (a : BitVec 7) (d : BitVec 7) (s : State) : exec (.copenIn c a d) s = execCopenIn c a d s := rfl
theorem exec_cnext (c : BitVec 3) (d : BitVec 7) (s : State) : exec (.cnext c d) s = execCnext c d s := rfl
theorem exec_cseek (c : BitVec 3) (a : BitVec 7) (s : State) : exec (.cseek c a) s = execCseek c a s := rfl
theorem exec_cclose (c : BitVec 3) (s : State) : exec (.cclose c) s = execCclose c s := rfl
theorem exec_crank (c : BitVec 3) (d : BitVec 7) (s : State) : exec (.crank c d) s = execCrank c d s := rfl
theorem exec_graphOpComplete (g : Nat) (o : Nat) (s : State) : exec (.graphOpComplete g o) s = execGraphOpComplete g o s := rfl
theorem exec_versionReclaim (gr : Nat) (s : State) : exec (.versionReclaim gr) s = execVersionReclaim gr s := rfl
theorem exec_gnew (b : BitVec 7) (a : BitVec 7) (d : BitVec 7) (s : State) : exec (.gnew b a d) s = execGnew b a d s := rfl
theorem exec_gfree (a : BitVec 7) (s : State) : exec (.gfree a) s = execGfree a s := rfl
theorem exec_gsel (a : BitVec 7) (s : State) : exec (.gsel a) s = execGsel a s := rfl
theorem exec_gstat (a : BitVec 7) (d : BitVec 7) (s : State) : exec (.gstat a d) s = execGstat a d s := rfl
theorem exec_spawnV (a : BitVec 7) (s : State) : exec (.spawnV a) s = execSpawnV a s := rfl
theorem exec_spawnS (a : BitVec 7) (s : State) : exec (.spawnS a) s = execSpawnS a s := rfl
theorem exec_dequeRefill (cu : Nat) (s : State) : exec (.dequeRefill cu) s = execDequeRefill cu s := rfl
theorem exec_jcadd (b : BitVec 7) (a : BitVec 7) (d : BitVec 7) (s : State) : exec (.jcadd b a d) s = execJcadd b a d s := rfl
theorem exec_jcaddPerform (g : Nat) (o : Nat) (s : State) : exec (.jcaddPerform g o) s = execJcaddPerform g o s := rfl
theorem exec_launch (b : BitVec 7) (a : BitVec 7) (d : BitVec 7) (s : State) : exec (.launch b a d) s = execLaunch b a d s := rfl
theorem exec_cancelLaunch (a : BitVec 7) (s : State) : exec (.cancelLaunch a) s = execCancelLaunch a s := rfl
theorem exec_cancelChain (a : BitVec 7) (s : State) : exec (.cancelChain a) s = execCancelChain a s := rfl
theorem exec_cancelPhase (a : BitVec 7) (s : State) : exec (.cancelPhase a) s = execCancelPhase a s := rfl
theorem exec_cancelJob (a : BitVec 7) (s : State) : exec (.cancelJob a) s = execCancelJob a s := rfl
theorem exec_lvwait (a : BitVec 7) (s : State) : exec (.lvwait a) s = execLvwait a s := rfl
theorem exec_lvwaitComplete (g : Nat) (o : Nat) (s : State) : exec (.lvwaitComplete g o) s = execLvwaitComplete g o s := rfl
theorem exec_setprio (a : BitVec 7) (s : State) : exec (.setprio a) s = execSetprio a s := rfl
theorem exec_launchAccept (q : Nat) (s : State) : exec (.launchAccept q) s = execLaunchAccept q s := rfl
theorem exec_placementDecision (cu : Nat) (s : State) : exec (.placementDecision cu) s = execPlacementDecision cu s := rfl
theorem exec_dispatch (cu : Nat) (s : State) : exec (.dispatch cu) s = execDispatch cu s := rfl
theorem exec_gangRetirement (g : Nat) (s : State) : exec (.gangRetirement g) s = execGangRetirement g s := rfl
theorem exec_rpub (b : BitVec 7) (a : BitVec 7) (sl : BitVec 3) (s : State) : exec (.rpub b a sl) s = execRpub b a sl s := rfl
theorem exec_rpubk (b : BitVec 7) (a : BitVec 7) (sl : BitVec 3) (s : State) : exec (.rpubk b a sl) s = execRpubk b a sl s := rfl
theorem exec_rread (b : BitVec 7) (a : BitVec 7) (sl : BitVec 3) (s : State) : exec (.rread b a sl) s = execRread b a sl s := rfl
theorem exec_rver (a : BitVec 7) (d : BitVec 7) (s : State) : exec (.rver a d) s = execRver a d s := rfl
theorem exec_rsubRerun (b : BitVec 7) (a : BitVec 7) (s : State) : exec (.rsubRerun b a) s = execRsubRerun b a s := rfl
theorem exec_rsubCancel (b : BitVec 7) (a : BitVec 7) (s : State) : exec (.rsubCancel b a) s = execRsubCancel b a s := rfl
theorem exec_runsub (b : BitVec 7) (a : BitVec 7) (s : State) : exec (.runsub b a) s = execRunsub b a s := rfl
theorem exec_rstop (a : BitVec 7) (s : State) : exec (.rstop a) s = execRstop a s := rfl
theorem exec_rsettle (a : BitVec 7) (s : State) : exec (.rsettle a) s = execRsettle a s := rfl
theorem exec_rinit (b : BitVec 7) (a : BitVec 7) (k : BitVec 3) (s : State) : exec (.rinit b a k) s = execRinit b a k s := rfl
theorem exec_refOpPerform (g : Nat) (o : Nat) (s : State) : exec (.refOpPerform g o) s = execRefOpPerform g o s := rfl
theorem exec_rsettleComplete (g : Nat) (o : Nat) (s : State) : exec (.rsettleComplete g o) s = execRsettleComplete g o s := rfl
theorem exec_embcfg (a : BitVec 7) (t : BitVec 4) (s : State) : exec (.embcfg a t) s = execEmbcfg a t s := rfl
theorem exec_embag (b : BitVec 7) (a : BitVec 7) (t : BitVec 4) (s : State) : exec (.embag b a t) s = execEmbag b a t s := rfl
theorem exec_embagComplete (g : Nat) (o : Nat) (s : State) : exec (.embagComplete g o) s = execEmbagComplete g o s := rfl
theorem exec_trap (n : BitVec 7) (s : State) : exec (.trap n) s = execTrap n s := rfl
theorem exec_brk (s : State) : exec .brk s = execBrk s := rfl
theorem exec_tret (s : State) : exec .tret s = execTret s := rfl
theorem exec_tretNext (s : State) : exec .tretNext s = execTretNext s := rfl
theorem exec_sretResume (b : BitVec 7) (a : BitVec 7) (s : State) : exec (.sretResume b a) s = execSretResume b a s := rfl
theorem exec_sretRefuse (b : BitVec 7) (a : BitVec 7) (s : State) : exec (.sretRefuse b a) s = execSretRefuse b a s := rfl
theorem exec_sretKill (b : BitVec 7) (a : BitVec 7) (s : State) : exec (.sretKill b a) s = execSretKill b a s := rfl
theorem exec_sretSave (b : BitVec 7) (a : BitVec 7) (s : State) : exec (.sretSave b a) s = execSretSave b a s := rfl
theorem exec_sretRestore (b : BitVec 7) (a : BitVec 7) (s : State) : exec (.sretRestore b a) s = execSretRestore b a s := rfl
theorem exec_sretRollback (b : BitVec 7) (a : BitVec 7) (s : State) : exec (.sretRollback b a) s = execSretRollback b a s := rfl
theorem exec_rdcyc (d : BitVec 7) (s : State) : exec (.rdcyc d) s = execRdcyc d s := rfl
theorem exec_rdperf (a : BitVec 7) (d : BitVec 7) (s : State) : exec (.rdperf a d) s = execRdperf a d s := rfl
theorem exec_fsclr (s : State) : exec .fsclr s = execFsclr s := rfl
theorem exec_tlbinvPage (b : BitVec 7) (a : BitVec 7) (c : BitVec 1) (s : State) : exec (.tlbinvPage b a c) s = execTlbinvPage b a c s := rfl
theorem exec_tlbinvAsid (b : BitVec 7) (a : BitVec 7) (c : BitVec 1) (s : State) : exec (.tlbinvAsid b a c) s = execTlbinvAsid b a c s := rfl
theorem exec_tlbinvAll (b : BitVec 7) (a : BitVec 7) (c : BitVec 1) (s : State) : exec (.tlbinvAll b a c) s = execTlbinvAll b a c s := rfl
theorem exec_tlbinvComplete (g : Nat) (o : Nat) (s : State) : exec (.tlbinvComplete g o) s = execTlbinvComplete g o s := rfl
theorem exec_halt (s : State) : exec .halt s = execHalt s := rfl
theorem exec_haltComplete (g : Nat) (o : Nat) (s : State) : exec (.haltComplete g o) s = execHaltComplete g o s := rfl
theorem exec_pfetch (e : BitVec 1) (sl : BitVec 6) (a : BitVec 7) (t : BitVec 2) (s : State) : exec (.pfetch e sl a t) s = execPfetch e sl a t s := rfl
theorem exec_saveStream (area : W64) (s : State) : exec (.saveStream area) s = execSaveStream area s := rfl
theorem exec_deadlineOverrun (area : W64) (s : State) : exec (.deadlineOverrun area) s = execDeadlineOverrun area s := rfl
theorem exec_qput (conn : Nat) (q : W64) (tag : W64) (packet : BitVec 512) (s : State) : exec (.qput conn q tag packet) s = execQput conn q tag packet s := rfl
theorem exec_write (conn : Nat) (asid : BitVec 8) (va : W64) (bytes : List Byte) (s : State) : exec (.write conn asid va bytes) s = execWrite conn asid va bytes s := rfl
theorem exec_read (conn : Nat) (asid : BitVec 8) (va : W64) (len : Nat) (s : State) : exec (.read conn asid va len) s = execRead conn asid va len s := rfl
theorem exec_cread (conn : Nat) (job : BitVec 16) (s : State) : exec (.cread conn job) s = execCread conn job s := rfl
theorem exec_phase (conn : Nat) (job : BitVec 16) (p : BitVec 12) (s : State) : exec (.phase conn job p) s = execPhase conn job p s := rfl
theorem exec_phaseBoundary (job : BitVec 16) (p : BitVec 12) (s : State) : exec (.phaseBoundary job p) s = execPhaseBoundary job p s := rfl
theorem exec_debugHalt (h : W64) (idx : Nat) (s : State) : exec (.debugHalt h idx) s = execDebugHalt h idx s := rfl
theorem exec_debugStep (h : W64) (idx : Nat) (s : State) : exec (.debugStep h idx) s = execDebugStep h idx s := rfl
theorem exec_debugResume (h : W64) (idx : Nat) (past : Bool) (s : State) : exec (.debugResume h idx past) s = execDebugResume h idx past s := rfl
theorem exec_debugInspect (h : W64) (idx : Nat) (what : DebugReg) (s : State) : exec (.debugInspect h idx what) s = execDebugInspect h idx what s := rfl
theorem exec_debugWrite (h : W64) (idx : Nat) (what : DebugReg) (v : BitVec 256) (s : State) : exec (.debugWrite h idx what v) s = execDebugWrite h idx what v s := rfl
theorem exec_debugWatchSet (die : Nat) (n : Nat) (w : Option Watch) (s : State) : exec (.debugWatchSet die n w) s = execDebugWatchSet die n w s := rfl
theorem exec_measurementRead (die : Nat) (asid : BitVec 8) (va : W64) (len : Nat) (s : State) : exec (.measurementRead die asid va len) s = execMeasurementRead die asid va len s := rfl
theorem exec_markExecutable (die : Nat) (seg : Segment) (s : State) : exec (.markExecutable die seg) s = execMarkExecutable die seg s := rfl
theorem exec_spdmMeasurement (job : BitVec 16) (s : State) : exec (.spdmMeasurement job) s = execSpdmMeasurement job s := rfl
theorem exec_telemetryRead (die : Nat) (s : State) : exec (.telemetryRead die) s = execTelemetryRead die s := rfl
theorem exec_powerCapSet (die : Nat) (watts : Nat) (s : State) : exec (.powerCapSet die watts) s = execPowerCapSet die watts s := rfl
theorem exec_retrainRequest (stack : Nat) (rate : Nat) (s : State) : exec (.retrainRequest stack rate) s = execRetrainRequest stack rate s := rfl
theorem exec_retrainTimeout (stack : Nat) (s : State) : exec (.retrainTimeout stack) s = execRetrainTimeout stack s := rfl
theorem exec_droopDetected (die : Nat) (s : State) : exec (.droopDetected die) s = execDroopDetected die s := rfl
theorem exec_powerCapExceeded (die : Nat) (s : State) : exec (.powerCapExceeded die) s = execPowerCapExceeded die s := rfl
theorem exec_correctedSoftError (die : Nat) (arr : Nat) (s : State) : exec (.correctedSoftError die arr) s = execCorrectedSoftError die arr s := rfl
theorem exec_uncorrectableError (die : Nat) (loc : ErrorLoc) (s : State) : exec (.uncorrectableError die loc) s = execUncorrectableError die loc s := rfl
theorem exec_dieReset (die : Nat) (s : State) : exec (.dieReset die) s = execDieReset die s := rfl
theorem exec_retrainEnd (stack : Nat) (s : State) : exec (.retrainEnd stack) s = execRetrainEnd stack s := rfl
theorem exec_stretchEnd (die : Nat) (s : State) : exec (.stretchEnd die) s = execStretchEnd die s := rfl
theorem exec_deliveryFailure (what : Undelivered) (s : State) : exec (.deliveryFailure what) s = execDeliveryFailure what s := rfl
theorem exec_fcopyFromRemoteRead (flow : W64) (asid : BitVec 8) (va : W64) (len : Nat) (s : State) : exec (.fcopyFromRemoteRead flow asid va len) s = execFcopyFromRemoteRead flow asid va len s := rfl
theorem exec_deviceRuntimeRestart (die : Nat) (s : State) : exec (.deviceRuntimeRestart die) s = execDeviceRuntimeRestart die s := rfl

end Sys2Proof.Machine
end

