-- ==== Sys2Proof/Laws/Operands.lean ====
section
/-!
SUPPORT. What the register reads of a gang see after its register writes, and what the moves of a gang's threads keep.
-/
namespace Sys2Proof.Machine

/-! ## Threads -/

theorem thread_mapLanes (g : Gang) (s : Lanes) (f : Nat → Thread → Thread) (l : Nat) :
    (g.mapLanes s f).thread l = if s.getLsbD l = true ∧ l < g.threads.length then f l (g.thread l) else g.thread l := by
  simp only [Gang.thread, Gang.mapLanes, mapFrom_getD]
  by_cases h : l < g.threads.length
  · simp [h]
  · rw [if_neg h, if_neg (fun hh => h hh.2)]; simp [List.getD, List.getElem?_eq_none (Nat.le_of_not_lt h)]

theorem threads_mapLanes (g : Gang) (s : Lanes) (f : Nat → Thread → Thread) : (g.mapLanes s f).threads.length = g.threads.length := by
  simp [Gang.mapLanes, mapFrom_length]

/-- A lane outside the set keeps its thread. -/
theorem thread_mapLanes_other (g : Gang) (s : Lanes) (f : Nat → Thread → Thread) (l : Nat) (h : s.getLsbD l = false) :
    (g.mapLanes s f).thread l = g.thread l := by simp [thread_mapLanes, h]

/-- A field of the threads that the change leaves alone is as before in every lane. -/
theorem thread_mapLanes_same {α : Type} (p : Thread → α) (g : Gang) (s : Lanes) (f : Nat → Thread → Thread) (l : Nat)
    (h : ∀ k t, p (f k t) = p t) : p ((g.mapLanes s f).thread l) = p (g.thread l) := by
  rw [thread_mapLanes]; split
  · exact h _ _
  · rfl

/-! ## What a debugger has written (R360) -/

/-- A register that no debugger has written shows what the gang is. -/
theorem showing_own {g : Gang} {n : Nat} (h : entry? g.shown n = none) (v : W64) : g.showing n v = v := by simp [Gang.showing, h]

theorem launchOf_own {s : State} {g : Gang} (h : entry? g.shown 4 = none) : s.launchOf g = (s.teamOf g).origin.id := by
  simp [State.launchOf, showing_own h]

theorem chainOf_own {s : State} {g : Gang} (h : entry? g.shown 5 = none) : s.chainOf g = (s.teamOf g).chain := by
  simp [State.chainOf, showing_own h]

theorem phaseOf_own {s : State} {g : Gang} (h : entry? g.shown 6 = none) : s.phaseOf g = pktPhase (s.teamOf g).origin.packet := by
  simp [State.phaseOf, showing_own h]

theorem jobOf_own {s : State} {g : Gang} (h : entry? g.shown 7 = none) : s.jobOf g = pktJob (s.teamOf g).origin.packet := by
  simp [State.jobOf, showing_own h]

/-! ## Registers -/

/-- A vector write gives the lanes of its set the new value in its register; every other lane and register is as before. -/
theorem vreg_setVreg (g : Gang) (s : Lanes) (n : Nat) (f : Nat → W32) (l k : Nat) :
    (g.setVreg s n f).vreg l k = if (s.getLsbD l = true ∧ l < g.threads.length) ∧ n = k then f l else g.vreg l k := by
  simp only [Gang.vreg, Gang.setVreg, thread_mapLanes]
  by_cases h : s.getLsbD l = true ∧ l < g.threads.length
  · simp [h, Thread.setReg, look_put]
  · simp [h]

/-- A scalar write gives its register the new value, but s0 stays 0; every other scalar is as before (R90). -/
theorem sreg_setSreg (g : Gang) (n : Nat) (v : W64) (k : Nat) :
    (g.setSreg n v).sreg k = if k = 0 then 0 else if n = k then v else g.sreg k := by
  simp only [Gang.sreg, Gang.setSreg]
  by_cases h : n = 0
  · subst h; grind
  · simp only [h, if_false, look_put]; grind

@[simp] theorem sreg_zero (g : Gang) : g.sreg 0 = 0 := rfl

/-- A mask write gives its mask the new value below the width; every other mask is as before (R141). -/
theorem mreg_setMask (g : Gang) (n : Nat) (v : Lanes) (k : Nat) :
    (g.setMask n v).mreg k = if n = k then v &&& g.lanes else g.mreg k := by
  simp [Gang.mreg, Gang.setMask, look_put]

theorem mreg_setMaskLanes (g : Gang) (s : Lanes) (n : Nat) (v : Lanes) (k : Nat) :
    (g.setMaskLanes s n v).mreg k = if n = k then ((g.mreg n &&& ~~~s) ||| (v &&& s)) &&& g.lanes else g.mreg k := by
  simp [Gang.setMaskLanes, mreg_setMask]

end Sys2Proof.Machine
end

