-- ==== Sys2Proof/Laws/Settle.lean ====
section
/-!
SUPPORT. What the releases at the end of an issue (`Gang.settle`: R142, R149, R152) can change, said once.
-/
namespace Sys2Proof.Machine

/-- What every release keeps: threads that stand neither blocked nor withheld, registers of every lane that does not wait at a membership word, and
all that `Gang.remainder` holds; with no lane at a membership word or a mask wait, the scalars, the masks and the flags too. -/
structure Gang.Kept (g h : Gang) : Prop where
  count : h.threads.length = g.threads.length
  idle : ∀ l, (∀ x, (g.thread l).status ≠ .blocked x) → (∀ x, (g.thread l).status ≠ .withheld x) → h.thread l = g.thread l
  regs : ∀ l, (g.thread l).gathers = false →
    (h.thread l).vregs = (g.thread l).vregs ∧ (h.thread l).cursors = (g.thread l).cursors ∧ (h.thread l).delivery = (g.thread l).delivery ∧
    (h.thread l).gathers = false
  rest : h.remainder = g.remainder
  ops : h.ops = g.ops
  flight : h.flight = g.flight
  counts : h.words = g.words ∧ h.laneOps = g.laneOps
  files : (∀ l, (g.thread l).gathers = false) → h.sregs = g.sregs ∧ h.masks = g.masks ∧ h.fstat = g.fstat

theorem Gang.Kept.refl (g : Gang) : g.Kept g := ⟨rfl, fun _ _ _ => rfl, fun _ h => ⟨rfl, rfl, rfl, h⟩, rfl, rfl, rfl, ⟨rfl, rfl⟩, fun _ => ⟨rfl, rfl, rfl⟩⟩

theorem Gang.Kept.trans {a b c : Gang} (h : a.Kept b) (k : b.Kept c) : a.Kept c where
  count := k.count.trans h.count
  idle l h1 h2 := by
    have e := h.idle l h1 h2
    rw [k.idle l (by rwa [e]) (by rwa [e]), e]
  regs l hg := by
    obtain ⟨r1, r2, r3, r4⟩ := h.regs l hg
    obtain ⟨q1, q2, q3, q4⟩ := k.regs l r4
    exact ⟨q1.trans r1, q2.trans r2, q3.trans r3, q4⟩
  rest := k.rest.trans h.rest
  ops := k.ops.trans h.ops
  flight := k.flight.trans h.flight
  counts := ⟨k.counts.1.trans h.counts.1, k.counts.2.trans h.counts.2⟩
  files hg := by
    obtain ⟨r1, r2, r3⟩ := h.files hg
    obtain ⟨q1, q2, q3⟩ := k.files fun l => (h.regs l (hg l)).2.2.2
    exact ⟨q1.trans r1, q2.trans r2, q3.trans r3⟩

/-- Lanes that a set names for their status hold that status. -/
theorem lanesFor_status (g : Gang) (p : Thread → Bool) (l : Nat) (h : (g.lanesFor p).getLsbD l = true) : p (g.thread l) = true := by
  simp only [Gang.lanesFor, getLsbD_lanesWhere, Bool.and_eq_true] at h; exact h.2

theorem release_kept (g : Gang) (s : Lanes) (hs : ∀ l, s.getLsbD l = true → ∃ x, (g.thread l).status = .blocked x) : g.Kept (g.release s) where
  count := by simp [Gang.release, threads_mapLanes]
  idle l h1 _ := by
    unfold Gang.release; rw [thread_mapLanes, if_neg]; rintro ⟨h, -⟩; obtain ⟨x, hx⟩ := hs l h; exact h1 x hx
  regs l hg := by
    unfold Gang.release; rw [thread_mapLanes]; split
    · exact ⟨rfl, rfl, rfl, rfl⟩
    · exact ⟨rfl, rfl, rfl, hg⟩
  rest := rfl
  ops := rfl
  flight := rfl
  counts := ⟨rfl, rfl⟩
  files _ := ⟨rfl, rfl, rfl⟩

theorem stepWait_kept (g h : Gang) (m : Nat) (e : g.stepWait m = some h) : g.Kept h := by
  unfold Gang.stepWait at e
  split at e
  · cases e
    apply release_kept
    intro l hl
    exact ⟨_, of_decide_eq_true (lanesFor_status g _ l hl)⟩
  · cases e

theorem stepWithheld_kept (g h : Gang) (e : g.stepWithheld = some h) : g.Kept h := by
  unfold Gang.stepWithheld at e
  split at e
  · next w _ =>
    cases e
    refine ⟨by simp [threads_mapLanes], ?_, ?_, rfl, rfl, rfl, ⟨rfl, rfl⟩, fun _ => ⟨rfl, rfl, rfl⟩⟩
    · intro l _ h2
      have := thread_mapLanes g w.lanes (fun _ t => if t.status = .withheld w.id then { t with status := .ready, waited := 0 } else t) l
      simp only [h2 w.id, if_false, ite_self] at this; exact this
    · intro l hg
      have := thread_mapLanes g w.lanes (fun _ t => if t.status = .withheld w.id then { t with status := .ready, waited := 0 } else t) l
      generalize hm : (g.mapLanes w.lanes fun _ t => if t.status = .withheld w.id then { t with status := .ready, waited := 0 } else t).thread l = q at this
      change ((g.mapLanes w.lanes _).thread l).vregs = _ ∧ ((g.mapLanes w.lanes _).thread l).cursors = _ ∧
        ((g.mapLanes w.lanes _).thread l).delivery = _ ∧ ((g.mapLanes w.lanes _).thread l).gathers = _
      rw [hm, this]
      by_cases h1 : w.lanes.getLsbD l = true ∧ l < g.threads.length
      · by_cases h2 : (g.thread l).status = .withheld w.id
        · rw [if_pos h1, if_pos h2]; exact ⟨rfl, rfl, rfl, rfl⟩
        · rw [if_pos h1, if_neg h2]; exact ⟨rfl, rfl, rfl, hg⟩
      · rw [if_neg h1]; exact ⟨rfl, rfl, rfl, hg⟩
  · cases e

theorem exchange_rest (g : Gang) (f p : Lanes) (k : MemberKind) :
    (g.exchange f p k).remainder = g.remainder ∧ (g.exchange f p k).ops = g.ops ∧ (g.exchange f p k).flight = g.flight ∧
    (g.exchange f p k).words = g.words ∧ (g.exchange f p k).laneOps = g.laneOps ∧
    (g.exchange f p k).threads.length = g.threads.length := by
  cases k with
  | shfl b a d => simp [Gang.exchange, Gang.setVreg, threads_mapLanes]; simp [Gang.mapLanes, Gang.remainder]
  | shflk dn k a d => simp [Gang.exchange, Gang.setVreg, threads_mapLanes]; simp [Gang.mapLanes, Gang.remainder]
  | shflx ix c a d => simp [Gang.exchange, Gang.setVreg, threads_mapLanes]; simp [Gang.mapLanes, Gang.remainder]
  | xred x a d => simp [Gang.exchange, Gang.setVreg, Gang.merge, Gang.mapLanes, mapFrom_length, Gang.remainder]
  | vote x a d =>
    simp only [Gang.exchange]
    split <;> simp [Gang.setSreg, Gang.setMask] <;> (try split) <;> simp [Gang.remainder]

theorem exchange_thread (g : Gang) (f p : Lanes) (k : MemberKind) (l : Nat) (h : f.getLsbD l = false) :
    (g.exchange f p k).thread l = g.thread l := by
  cases k with
  | shfl b a d => exact thread_mapLanes_other _ _ _ _ h
  | shflk dn k a d => exact thread_mapLanes_other _ _ _ _ h
  | shflx ix c a d => exact thread_mapLanes_other _ _ _ _ h
  | xred x a d => exact thread_mapLanes_other g (p &&& f) _ l (by simp [h])
  | vote x a d =>
    simp only [Gang.exchange]
    split <;> simp only [Gang.setSreg, Gang.setMask] <;> (try split) <;> rfl

theorem exchange_status (g : Gang) (f p : Lanes) (k : MemberKind) (l : Nat) : ((g.exchange f p k).thread l).status = (g.thread l).status := by
  cases k with
  | shfl b a d => exact thread_mapLanes_same Thread.status _ _ _ _ fun _ _ => rfl
  | shflk dn k a d => exact thread_mapLanes_same Thread.status _ _ _ _ fun _ _ => rfl
  | shflx ix c a d => exact thread_mapLanes_same Thread.status _ _ _ _ fun _ _ => rfl
  | xred x a d => exact thread_mapLanes_same Thread.status _ _ _ _ fun _ _ => rfl
  | vote x a d =>
    simp only [Gang.exchange]
    split <;> simp only [Gang.setSreg, Gang.setMask] <;> (try split) <;> rfl

theorem stepMember_kept (g h : Gang) (l0 : Nat) (e : g.stepMember l0 = some h) : g.Kept h := by
  unfold Gang.stepMember at e
  split at e
  · next p k hst =>
    simp only at e
    split at e
    · cases e
      have hf : ∀ l, (g.gathered (g.thread l0).pc p k).getLsbD l = true → (g.thread l).status = .blocked (.member p k) := by
        intro l hl
        have := lanesFor_status g _ l hl
        simp only [Bool.and_eq_true, decide_eq_true_eq] at this; exact this.1
      obtain ⟨r1, r2, r3, r4, r5, r6⟩ := exchange_rest g (g.gathered (g.thread l0).pc p k) (g.mreg p) k
      have hk := release_kept (g.exchange (g.gathered (g.thread l0).pc p k) (g.mreg p) k) (g.gathered (g.thread l0).pc p k)
        fun l hl => ⟨_, by rw [exchange_status]; exact hf l hl⟩
      have hlane : ∀ l, (g.thread l).gathers = false → (g.gathered (g.thread l0).pc p k).getLsbD l = false := by
        intro l hl
        refine Bool.eq_false_iff.mpr fun hne => ?_
        have := hf l hne
        simp [Thread.gathers, this] at hl
      refine ⟨hk.count.trans r6, ?_, ?_, hk.rest.trans r1, hk.ops.trans r2, hk.flight.trans r3, ⟨hk.counts.1.trans r4, hk.counts.2.trans r5⟩, ?_⟩
      · intro l h1 h2
        have hl : (g.gathered (g.thread l0).pc p k).getLsbD l = false := by
          exact Bool.eq_false_iff.mpr fun hne => h1 _ (hf l hne)
        rw [hk.idle l (by rw [exchange_status]; exact h1) (by rw [exchange_status]; exact h2), exchange_thread _ _ _ _ _ hl]
      · intro l hl
        have ht := exchange_thread g (g.gathered (g.thread l0).pc p k) (g.mreg p) k l (hlane l hl)
        have := hk.regs l (by rw [ht]; exact hl)
        rw [ht] at this; exact this
      · intro hall
        have := hall l0; simp [Thread.gathers, hst] at this
    · cases e
  · cases e

theorem settleOne_kept (g h : Gang) (e : g.settleOne = some h) : g.Kept h := by
  unfold Gang.settleOne at e
  rcases hw : g.stepWithheld with _ | w
  · rw [hw] at e
    simp only [Option.none_or] at e
    rcases hx : (List.range 12).findSome? g.stepWait with _ | w
    · rw [hx] at e
      simp only [Option.none_or] at e
      split at e
      · obtain ⟨l, -, hl⟩ := List.exists_of_findSome?_eq_some e
        exact stepMember_kept g h l hl
      · cases e
    · rw [hx] at e
      simp only [Option.some_or, Option.some.injEq] at e; subst e
      obtain ⟨m, -, hm⟩ := List.exists_of_findSome?_eq_some hx
      exact stepWait_kept g _ m hm
  · rw [hw] at e
    simp only [Option.some_or, Option.some.injEq] at e; subst e
    exact stepWithheld_kept g _ hw

theorem exhaust_kept (n : Nat) (g : Gang) : g.Kept (exhaust Gang.settleOne n g) := by
  induction n generalizing g with
  | zero => exact .refl g
  | succ n ih =>
    simp only [exhaust]
    split
    · next h e => exact (settleOne_kept g h e).trans (ih h)
    · exact .refl g

/-- The releases at the end of an issue keep what `Gang.Kept` says. -/
theorem settle_kept (g : Gang) : g.Kept g.settle := by
  unfold Gang.settle; split
  · exact exhaust_kept 128 g
  · exact .refl g

/-- With nothing withheld and no lane at a mask wait or a membership word, nothing is released. -/
theorem settle_quiet (g : Gang) (h : g.withheld = []) (k : ∀ t ∈ g.threads, t.gathers = false) : g.settle = g := by
  unfold Gang.settle
  rw [if_neg]
  rintro (h1 | h1)
  · exact h1 h
  · simp only [List.any_eq_true] at h1; obtain ⟨t, ht, hh⟩ := h1; rw [k t ht] at hh; cases hh

end Sys2Proof.Machine
end

