-- ==== Sys2Proof/Laws/Issue.lean ====
section
/-!
SUPPORT. What issuing a word does, said once: a word that passes IssueCheck runs its own meaning; what the end of a word keeps of the gang and of the
state around it.
-/
namespace Sys2Proof.Machine

/-! ## IssueCheck -/

/-- A word that passes IssueCheck runs its own meaning. -/
theorem issue_passes (sig : Sig) (s : State) (g : Gang) (f : Flight) (b : BodyAt) (k : Issue → Result)
    (h1 : s.focus = some g.id) (h2 : s.gang? g.id = some g) (h3 : g.flight = some f) (h4 : f.place = some b) (h5 : sig.ops.all Operand.ok = true)
    (h6 : sig.last = true → b.left = 1) (h7 : sig.sys = true → s.system g = true) (h8 : ∀ o ∈ sig.ops, o.beyond g.vcount = false) :
    issue sig s k = k ⟨s, g, f, b, sig.size⟩ := by
  have h9 : (sig.ops.any (Operand.beyond g.vcount)) = false := by
    simp only [List.any_eq_false]; intro o ho; simp [h8 o ho]
  have h10 : (sig.last && decide (b.left ≠ 1)) = false := by
    cases hl : sig.last
    · rfl
    · simp [h6 hl]
  have h11 : (sig.sys && !s.system g) = false := by
    cases hl : sig.sys
    · rfl
    · simp [h7 hl]
  simp only [issue, h1, Option.bind_some, h2, h3, h4, h5, h9, h10, h11, Bool.not_true, Bool.false_eq_true, if_false]

/-- A well-formed word has assigned operand codes. -/
theorem sig_ok (i : Instr) (h : i.wf = true) : i.sig.ops.all Operand.ok = true := by
  unfold Instr.wf at h; simp only [Bool.and_eq_true] at h; first | exact h | exact h.1 | exact h.2

/-- An issuing lane is a lane the gang has. -/
theorem Issues.has {i : Instr} {s : State} {g : Gang} {f : Flight} {b : BodyAt} (h : Issues i s g f b) (l : Nat) (hl : f.lanes.getLsbD l = true) :
    l < g.threads.length := by
  rcases Nat.lt_or_ge l g.threads.length with h1 | h1
  · exact h1
  · have := h.ready l hl
    simp [Gang.thread, List.getD, List.getElem?_eq_none h1] at this

theorem Issues.runs {i : Instr} {s : State} {g : Gang} {f : Flight} {b : BodyAt} (h : Issues i s g f b) (k : Issue → Result) :
    issue i.sig s k = k ⟨s, g, f, b, i.sig.size⟩ :=
  issue_passes i.sig s g f b k h.focus h.gang h.flight h.place (sig_ok i h.codes) h.alone h.mode h.allotted

/-- A word's meaning, written as `issue` of the word's signature, runs its own part. -/
theorem Issues.next {i : Instr} {s : State} {g : Gang} {f : Flight} {b : BodyAt} (h : Issues i s g f b) (sig : Sig) (e : i.sig = sig) (k : Issue → Result) :
    issue sig s k = k ⟨s, g, f, b, sig.size⟩ := by subst e; exact h.runs k

/-! ## The end of a word -/

theorem counted_thread (g : Gang) (f : Flight) (l : Nat) : (g.counted f).thread l = g.thread l := rfl

theorem advance_threads (g : Gang) (f : Flight) (n : Nat) : (g.advance f n).threads.length = g.threads.length := by
  unfold Gang.advance; simp only; split
  · rfl
  · simp [threads_mapLanes, Gang.counted]

/-- Going on to the next word keeps the registers, the cursors and the trap records of every lane. -/
theorem advance_regs (g : Gang) (f : Flight) (n l : Nat) :
    ((g.advance f n).thread l).vregs = (g.thread l).vregs ∧ ((g.advance f n).thread l).cursors = (g.thread l).cursors ∧
    ((g.advance f n).thread l).delivery = (g.thread l).delivery := by
  unfold Gang.advance; simp only; split
  · exact ⟨rfl, rfl, rfl⟩
  · exact ⟨thread_mapLanes_same Thread.vregs (g.counted f) _ _ l fun _ _ => rfl, thread_mapLanes_same Thread.cursors (g.counted f) _ _ l fun _ _ => rfl,
      thread_mapLanes_same Thread.delivery (g.counted f) _ _ l fun _ _ => rfl⟩

theorem advance_gathers (g : Gang) (f : Flight) (n l : Nat) (h : (g.thread l).gathers = false) : ((g.advance f n).thread l).gathers = false := by
  unfold Gang.advance; simp only; split
  · exact h
  · have := thread_mapLanes (g.counted f) f.lanes (fun _ t => { t with pc := (nextAt f n).1, place := none, status := .ready, via := 0, clause := 0 }) l
    generalize hq : ((g.counted f).mapLanes f.lanes fun _ t => { t with pc := (nextAt f n).1, place := none, status := .ready, via := 0, clause := 0 }).thread l = q at this
    change (((g.counted f).mapLanes f.lanes _).thread l).gathers = _
    rw [hq, this]; split
    · rfl
    · exact h

theorem advance_files (g : Gang) (f : Flight) (n : Nat) :
    (g.advance f n).sregs = g.sregs ∧ (g.advance f n).masks = g.masks ∧ (g.advance f n).fstat = g.fstat ∧ (g.advance f n).ops = g.ops ∧
    (g.advance f n).remainder = g.remainder ∧ (g.advance f n).id = g.id := by
  unfold Gang.advance; simp only; split <;> exact ⟨rfl, rfl, rfl, rfl, rfl, rfl⟩

/-- The gang at the end of a word: what the end of the word and the releases keep of the gang that the word's effect left. -/
theorem ended_regs (g : Gang) (f : Flight) (n l : Nat) (h : (g.thread l).gathers = false) :
    ((g.advance f n).settle.thread l).vregs = (g.thread l).vregs ∧ ((g.advance f n).settle.thread l).cursors = (g.thread l).cursors ∧
    ((g.advance f n).settle.thread l).delivery = (g.thread l).delivery := by
  obtain ⟨a1, a2, a3⟩ := advance_regs g f n l
  obtain ⟨b1, b2, b3, -⟩ := (settle_kept (g.advance f n)).regs l (advance_gathers g f n l h)
  exact ⟨b1.trans a1, b2.trans a2, b3.trans a3⟩

theorem ended_vreg (g : Gang) (f : Flight) (n l k : Nat) (h : (g.thread l).gathers = false) :
    (g.advance f n).settle.vreg l k = g.vreg l k := by
  simp only [Gang.vreg, (ended_regs g f n l h).1]

theorem ended_files (g : Gang) (f : Flight) (n : Nat) (h : ∀ l, (g.thread l).gathers = false) :
    (g.advance f n).settle.sregs = g.sregs ∧ (g.advance f n).settle.masks = g.masks ∧ (g.advance f n).settle.fstat = g.fstat := by
  obtain ⟨a1, a2, a3, -⟩ := advance_files g f n
  obtain ⟨b1, b2, b3⟩ := (settle_kept (g.advance f n)).files fun l => advance_gathers g f n l (h l)
  exact ⟨b1.trans a1, b2.trans a2, b3.trans a3⟩

theorem ended_rest (g : Gang) (f : Flight) (n : Nat) :
    (g.advance f n).settle.ops = g.ops ∧ (g.advance f n).settle.remainder = g.remainder ∧ (g.advance f n).settle.id = g.id ∧
    (g.advance f n).settle.threads.length = g.threads.length := by
  obtain ⟨-, -, -, a4, a5, a6⟩ := advance_files g f n
  have k := settle_kept (g.advance f n)
  have r := k.rest.trans a5
  exact ⟨k.ops.trans a4, r, (congrArg Gang.id r : (g.advance f n).settle.remainder.id = g.remainder.id), k.count.trans (advance_threads g f n)⟩

/-! ## The state around a gang -/

theorem gang?_id (s : State) (j : Nat) (g : Gang) (h : s.gang? j = some g) : g.id = j := by
  have := List.find?_some h; simpa using this

theorem gang?_setGang (s : State) (h : Gang) (j : Nat) :
    (s.setGang h).gang? j = if j = h.id then (s.gang? j).map fun _ => h else s.gang? j := by
  simp only [State.gang?, State.setGang]
  induction s.gangs with
  | nil => simp
  | cons x r ih =>
    simp only [List.map_cons, List.find?_cons]
    by_cases h1 : x.id = h.id
    · rw [if_pos h1]
      by_cases h2 : j = h.id
      · subst h2; simp [h1]
      · have h3 : ¬ h.id = j := fun e => h2 e.symm
        have h4 : ¬ x.id = j := fun e => h3 (h1.symm.trans e)
        simp only [h3, h4, decide_false, ih]
    · rw [if_neg h1]
      by_cases h2 : x.id = j
      · have h3 : ¬ j = h.id := fun e => h1 (h2.trans e)
        simp [h2, h3]
      · simp only [h2, decide_false, ih]

theorem gang?_setGang_self (s : State) (g h : Gang) (e : s.gang? g.id = some g) (hi : h.id = g.id) : (s.setGang h).gang? g.id = some h := by
  rw [gang?_setGang, if_pos hi.symm, e]; rfl

theorem viewBytes_gangs (s : State) (gs : List Gang) (cu : Nat) (p : Place) (n : Nat) :
    ({ s with gangs := gs }).viewBytes cu p n = s.viewBytes cu p n := by
  cases p <;> rfl

theorem homeBytes_gangs (s : State) (gs : List Gang) (p : Place) (n : Nat) : ({ s with gangs := gs }).homeBytes p n = s.homeBytes p n := by
  cases p <;> rfl

/-- Storing a gang changes nothing else, in any view of memory. -/
theorem frame_setGang (k : Touch) (s : State) (g h : Gang) (e : s.gang? g.id = some g) (hi : h.id = g.id) (hf : GangFrame k g h) :
    Frame k s (s.setGang h) g where
  bytes cu p := viewBytes_gangs s _ cu p 1
  homes p := homeBytes_gangs s _ p 1
  outside := rfl
  others j hj := by rw [gang?_setGang, if_neg (by rw [hi]; exact hj)]
  gang := ⟨h, gang?_setGang_self s g h e hi, hf⟩

/-- The frame of a word that changes only what `k` names in its gang: `m` is the gang that its effect left. -/
theorem frame_ended (k : Touch) (g m : Gang) (f : Flight) (n : Nat)
    (hs : ∀ l, (m.thread l).gathers = (g.thread l).gathers)
    (hv : ∀ l r, ¬k.vreg l r → m.vreg l r = g.vreg l r)
    (hc : ∀ l, ¬k.lane l → (m.thread l).cursors = (g.thread l).cursors)
    (ht : ∀ l, ¬k.lane l → (m.thread l).delivery = (g.thread l).delivery)
    (hr : ∀ r, ¬k.sreg r → m.sreg r = g.sreg r)
    (hm : ∀ r, ¬k.mask r → m.mreg r = g.mreg r)
    (hf : ¬k.fstat → m.fstat = g.fstat)
    (ho : ¬k.ops → m.ops = g.ops)
    (hq : m.remainder = g.remainder) : GangFrame k g (m.advance f n).settle where
  vregs l r hl hn := by rw [ended_vreg m f n l r (by rw [hs]; exact hl)]; exact hv l r hn
  cursors l hl hn := by rw [(ended_regs m f n l (by rw [hs]; exact hl)).2.1]; exact hc l hn
  traps l hl hn := by rw [(ended_regs m f n l (by rw [hs]; exact hl)).2.2]; exact ht l hn
  sregs hl r hn := by
    have := (ended_files m f n fun l => by rw [hs]; exact hl l).1
    simp only [Gang.sreg, this]; exact hr r hn
  masks hl r hn := by
    have := (ended_files m f n fun l => by rw [hs]; exact hl l).2.1
    simp only [Gang.mreg, this]; exact hm r hn
  fstat hl hn := by rw [(ended_files m f n fun l => by rw [hs]; exact hl l).2.2]; exact hf hn
  ops hn := by rw [(ended_rest m f n).1]; exact ho hn
  remainder := (ended_rest m f n).2.1.trans hq

end Sys2Proof.Machine
end

