-- ==== Sys2Proof/Laws/State.lean ====
section
/-!
SUPPORT. The small laws of the updates: for each update of the module or of a gang, what each field holds after it. Every one is true by
unfolding, so that no proof needs to unfold an update. The same for the accessors of CUs, dies and teams.
-/
namespace Sys2Proof.Machine

/-! ### State.setGang -/

@[simp] theorem setGang_gangs (s : State) (g : Gang) : (s.setGang g).gangs = (s.gangs.map fun x => if x.id = g.id then g else x) := rfl
@[simp] theorem setGang_teams (s : State) (g : Gang) : (s.setGang g).teams = s.teams := rfl
@[simp] theorem setGang_focus (s : State) (g : Gang) : (s.setGang g).focus = s.focus := rfl
@[simp] theorem setGang_cus (s : State) (g : Gang) : (s.setGang g).cus = s.cus := rfl
@[simp] theorem setGang_dies (s : State) (g : Gang) : (s.setGang g).dies = s.dies := rfl
@[simp] theorem setGang_phys (s : State) (g : Gang) : (s.setGang g).phys = s.phys := rfl
@[simp] theorem setGang_common (s : State) (g : Gang) : (s.setGang g).common = s.common := rfl
@[simp] theorem setGang_grants (s : State) (g : Gang) : (s.setGang g).grants = s.grants := rfl
@[simp] theorem setGang_graph (s : State) (g : Gang) : (s.setGang g).graph = s.graph := rfl
@[simp] theorem setGang_slots (s : State) (g : Gang) : (s.setGang g).slots = s.slots := rfl
@[simp] theorem setGang_mirrors (s : State) (g : Gang) : (s.setGang g).mirrors = s.mirrors := rfl
@[simp] theorem setGang_reds (s : State) (g : Gang) : (s.setGang g).reds = s.reds := rfl
@[simp] theorem setGang_queues (s : State) (g : Gang) : (s.setGang g).queues = s.queues := rfl
@[simp] theorem setGang_launches (s : State) (g : Gang) : (s.setGang g).launches = s.launches := rfl
@[simp] theorem setGang_served (s : State) (g : Gang) : (s.setGang g).served = s.served := rfl
@[simp] theorem setGang_restores (s : State) (g : Gang) : (s.setGang g).restores = s.restores := rfl
@[simp] theorem setGang_savings (s : State) (g : Gang) : (s.setGang g).savings = s.savings := rfl
@[simp] theorem setGang_saved (s : State) (g : Gang) : (s.setGang g).saved = s.saved := rfl
@[simp] theorem setGang_reserved (s : State) (g : Gang) : (s.setGang g).reserved = s.reserved := rfl
@[simp] theorem setGang_phases (s : State) (g : Gang) : (s.setGang g).phases = s.phases := rfl
@[simp] theorem setGang_requests (s : State) (g : Gang) : (s.setGang g).requests = s.requests := rfl
@[simp] theorem setGang_flows (s : State) (g : Gang) : (s.setGang g).flows = s.flows := rfl
@[simp] theorem setGang_commands (s : State) (g : Gang) : (s.setGang g).commands = s.commands := rfl
@[simp] theorem setGang_held (s : State) (g : Gang) : (s.setGang g).held = s.held := rfl
@[simp] theorem setGang_released (s : State) (g : Gang) : (s.setGang g).released = s.released := rfl
@[simp] theorem setGang_sessions (s : State) (g : Gang) : (s.setGang g).sessions = s.sessions := rfl
@[simp] theorem setGang_attest (s : State) (g : Gang) : (s.setGang g).attest = s.attest := rfl
@[simp] theorem setGang_keys (s : State) (g : Gang) : (s.setGang g).keys = s.keys := rfl
@[simp] theorem setGang_hbmStacks (s : State) (g : Gang) : (s.setGang g).hbmStacks = s.hbmStacks := rfl
@[simp] theorem setGang_poisoned (s : State) (g : Gang) : (s.setGang g).poisoned = s.poisoned := rfl
@[simp] theorem setGang_ptbase (s : State) (g : Gang) : (s.setGang g).ptbase = s.ptbase := rfl
@[simp] theorem setGang_ulog (s : State) (g : Gang) : (s.setGang g).ulog = s.ulog := rfl
@[simp] theorem setGang_undo (s : State) (g : Gang) : (s.setGang g).undo = s.undo := rfl
@[simp] theorem setGang_outbox (s : State) (g : Gang) : (s.setGang g).outbox = s.outbox := rfl
@[simp] theorem setGang_inputs (s : State) (g : Gang) : (s.setGang g).inputs = s.inputs := rfl
@[simp] theorem setGang_tick (s : State) (g : Gang) : (s.setGang g).tick = s.tick := rfl
@[simp] theorem setGang_serial (s : State) (g : Gang) : (s.setGang g).serial = s.serial := rfl
@[simp] theorem setGang_named (s : State) (g : Gang) : (s.setGang g).named = s.named := rfl
@[simp] theorem setGang_cu (s : State) (g : Gang) (k : Nat) : (s.setGang g).cu k = s.cu k := rfl
@[simp] theorem setGang_die (s : State) (g : Gang) (k : Nat) : (s.setGang g).die k = s.die k := rfl
@[simp] theorem setGang_teamAt (s : State) (g : Gang) (k : Nat) : (s.setGang g).team? k = s.team? k := rfl
@[simp] theorem setGang_queueAt (s : State) (g : Gang) (k : Nat) : (s.setGang g).queue? k = s.queue? k := rfl

/-! ### State.onGang -/

@[simp] theorem onGang_gangs (s : State) (i : Nat) (f : Gang → Gang) : (s.onGang i f).gangs = (s.gangs.map fun x => if x.id = i then f x else x) := rfl
@[simp] theorem onGang_teams (s : State) (i : Nat) (f : Gang → Gang) : (s.onGang i f).teams = s.teams := rfl
@[simp] theorem onGang_focus (s : State) (i : Nat) (f : Gang → Gang) : (s.onGang i f).focus = s.focus := rfl
@[simp] theorem onGang_cus (s : State) (i : Nat) (f : Gang → Gang) : (s.onGang i f).cus = s.cus := rfl
@[simp] theorem onGang_dies (s : State) (i : Nat) (f : Gang → Gang) : (s.onGang i f).dies = s.dies := rfl
@[simp] theorem onGang_phys (s : State) (i : Nat) (f : Gang → Gang) : (s.onGang i f).phys = s.phys := rfl
@[simp] theorem onGang_common (s : State) (i : Nat) (f : Gang → Gang) : (s.onGang i f).common = s.common := rfl
@[simp] theorem onGang_grants (s : State) (i : Nat) (f : Gang → Gang) : (s.onGang i f).grants = s.grants := rfl
@[simp] theorem onGang_graph (s : State) (i : Nat) (f : Gang → Gang) : (s.onGang i f).graph = s.graph := rfl
@[simp] theorem onGang_slots (s : State) (i : Nat) (f : Gang → Gang) : (s.onGang i f).slots = s.slots := rfl
@[simp] theorem onGang_mirrors (s : State) (i : Nat) (f : Gang → Gang) : (s.onGang i f).mirrors = s.mirrors := rfl
@[simp] theorem onGang_reds (s : State) (i : Nat) (f : Gang → Gang) : (s.onGang i f).reds = s.reds := rfl
@[simp] theorem onGang_queues (s : State) (i : Nat) (f : Gang → Gang) : (s.onGang i f).queues = s.queues := rfl
@[simp] theorem onGang_launches (s : State) (i : Nat) (f : Gang → Gang) : (s.onGang i f).launches = s.launches := rfl
@[simp] theorem onGang_served (s : State) (i : Nat) (f : Gang → Gang) : (s.onGang i f).served = s.served := rfl
@[simp] theorem onGang_restores (s : State) (i : Nat) (f : Gang → Gang) : (s.onGang i f).restores = s.restores := rfl
@[simp] theorem onGang_savings (s : State) (i : Nat) (f : Gang → Gang) : (s.onGang i f).savings = s.savings := rfl
@[simp] theorem onGang_saved (s : State) (i : Nat) (f : Gang → Gang) : (s.onGang i f).saved = s.saved := rfl
@[simp] theorem onGang_reserved (s : State) (i : Nat) (f : Gang → Gang) : (s.onGang i f).reserved = s.reserved := rfl
@[simp] theorem onGang_phases (s : State) (i : Nat) (f : Gang → Gang) : (s.onGang i f).phases = s.phases := rfl
@[simp] theorem onGang_requests (s : State) (i : Nat) (f : Gang → Gang) : (s.onGang i f).requests = s.requests := rfl
@[simp] theorem onGang_flows (s : State) (i : Nat) (f : Gang → Gang) : (s.onGang i f).flows = s.flows := rfl
@[simp] theorem onGang_commands (s : State) (i : Nat) (f : Gang → Gang) : (s.onGang i f).commands = s.commands := rfl
@[simp] theorem onGang_held (s : State) (i : Nat) (f : Gang → Gang) : (s.onGang i f).held = s.held := rfl
@[simp] theorem onGang_released (s : State) (i : Nat) (f : Gang → Gang) : (s.onGang i f).released = s.released := rfl
@[simp] theorem onGang_sessions (s : State) (i : Nat) (f : Gang → Gang) : (s.onGang i f).sessions = s.sessions := rfl
@[simp] theorem onGang_attest (s : State) (i : Nat) (f : Gang → Gang) : (s.onGang i f).attest = s.attest := rfl
@[simp] theorem onGang_keys (s : State) (i : Nat) (f : Gang → Gang) : (s.onGang i f).keys = s.keys := rfl
@[simp] theorem onGang_hbmStacks (s : State) (i : Nat) (f : Gang → Gang) : (s.onGang i f).hbmStacks = s.hbmStacks := rfl
@[simp] theorem onGang_poisoned (s : State) (i : Nat) (f : Gang → Gang) : (s.onGang i f).poisoned = s.poisoned := rfl
@[simp] theorem onGang_ptbase (s : State) (i : Nat) (f : Gang → Gang) : (s.onGang i f).ptbase = s.ptbase := rfl
@[simp] theorem onGang_ulog (s : State) (i : Nat) (f : Gang → Gang) : (s.onGang i f).ulog = s.ulog := rfl
@[simp] theorem onGang_undo (s : State) (i : Nat) (f : Gang → Gang) : (s.onGang i f).undo = s.undo := rfl
@[simp] theorem onGang_outbox (s : State) (i : Nat) (f : Gang → Gang) : (s.onGang i f).outbox = s.outbox := rfl
@[simp] theorem onGang_inputs (s : State) (i : Nat) (f : Gang → Gang) : (s.onGang i f).inputs = s.inputs := rfl
@[simp] theorem onGang_tick (s : State) (i : Nat) (f : Gang → Gang) : (s.onGang i f).tick = s.tick := rfl
@[simp] theorem onGang_serial (s : State) (i : Nat) (f : Gang → Gang) : (s.onGang i f).serial = s.serial := rfl
@[simp] theorem onGang_named (s : State) (i : Nat) (f : Gang → Gang) : (s.onGang i f).named = s.named := rfl
@[simp] theorem onGang_cu (s : State) (i : Nat) (f : Gang → Gang) (k : Nat) : (s.onGang i f).cu k = s.cu k := rfl
@[simp] theorem onGang_die (s : State) (i : Nat) (f : Gang → Gang) (k : Nat) : (s.onGang i f).die k = s.die k := rfl
@[simp] theorem onGang_teamAt (s : State) (i : Nat) (f : Gang → Gang) (k : Nat) : (s.onGang i f).team? k = s.team? k := rfl
@[simp] theorem onGang_queueAt (s : State) (i : Nat) (f : Gang → Gang) (k : Nat) : (s.onGang i f).queue? k = s.queue? k := rfl

/-! ### State.onTeam -/

@[simp] theorem onTeam_gangs (s : State) (i : Nat) (f : Team → Team) : (s.onTeam i f).gangs = s.gangs := rfl
@[simp] theorem onTeam_teams (s : State) (i : Nat) (f : Team → Team) : (s.onTeam i f).teams = (s.teams.map fun x => if x.id = i then f x else x) := rfl
@[simp] theorem onTeam_focus (s : State) (i : Nat) (f : Team → Team) : (s.onTeam i f).focus = s.focus := rfl
@[simp] theorem onTeam_cus (s : State) (i : Nat) (f : Team → Team) : (s.onTeam i f).cus = s.cus := rfl
@[simp] theorem onTeam_dies (s : State) (i : Nat) (f : Team → Team) : (s.onTeam i f).dies = s.dies := rfl
@[simp] theorem onTeam_phys (s : State) (i : Nat) (f : Team → Team) : (s.onTeam i f).phys = s.phys := rfl
@[simp] theorem onTeam_common (s : State) (i : Nat) (f : Team → Team) : (s.onTeam i f).common = s.common := rfl
@[simp] theorem onTeam_grants (s : State) (i : Nat) (f : Team → Team) : (s.onTeam i f).grants = s.grants := rfl
@[simp] theorem onTeam_graph (s : State) (i : Nat) (f : Team → Team) : (s.onTeam i f).graph = s.graph := rfl
@[simp] theorem onTeam_slots (s : State) (i : Nat) (f : Team → Team) : (s.onTeam i f).slots = s.slots := rfl
@[simp] theorem onTeam_mirrors (s : State) (i : Nat) (f : Team → Team) : (s.onTeam i f).mirrors = s.mirrors := rfl
@[simp] theorem onTeam_reds (s : State) (i : Nat) (f : Team → Team) : (s.onTeam i f).reds = s.reds := rfl
@[simp] theorem onTeam_queues (s : State) (i : Nat) (f : Team → Team) : (s.onTeam i f).queues = s.queues := rfl
@[simp] theorem onTeam_launches (s : State) (i : Nat) (f : Team → Team) : (s.onTeam i f).launches = s.launches := rfl
@[simp] theorem onTeam_served (s : State) (i : Nat) (f : Team → Team) : (s.onTeam i f).served = s.served := rfl
@[simp] theorem onTeam_restores (s : State) (i : Nat) (f : Team → Team) : (s.onTeam i f).restores = s.restores := rfl
@[simp] theorem onTeam_savings (s : State) (i : Nat) (f : Team → Team) : (s.onTeam i f).savings = s.savings := rfl
@[simp] theorem onTeam_saved (s : State) (i : Nat) (f : Team → Team) : (s.onTeam i f).saved = s.saved := rfl
@[simp] theorem onTeam_reserved (s : State) (i : Nat) (f : Team → Team) : (s.onTeam i f).reserved = s.reserved := rfl
@[simp] theorem onTeam_phases (s : State) (i : Nat) (f : Team → Team) : (s.onTeam i f).phases = s.phases := rfl
@[simp] theorem onTeam_requests (s : State) (i : Nat) (f : Team → Team) : (s.onTeam i f).requests = s.requests := rfl
@[simp] theorem onTeam_flows (s : State) (i : Nat) (f : Team → Team) : (s.onTeam i f).flows = s.flows := rfl
@[simp] theorem onTeam_commands (s : State) (i : Nat) (f : Team → Team) : (s.onTeam i f).commands = s.commands := rfl
@[simp] theorem onTeam_held (s : State) (i : Nat) (f : Team → Team) : (s.onTeam i f).held = s.held := rfl
@[simp] theorem onTeam_released (s : State) (i : Nat) (f : Team → Team) : (s.onTeam i f).released = s.released := rfl
@[simp] theorem onTeam_sessions (s : State) (i : Nat) (f : Team → Team) : (s.onTeam i f).sessions = s.sessions := rfl
@[simp] theorem onTeam_attest (s : State) (i : Nat) (f : Team → Team) : (s.onTeam i f).attest = s.attest := rfl
@[simp] theorem onTeam_keys (s : State) (i : Nat) (f : Team → Team) : (s.onTeam i f).keys = s.keys := rfl
@[simp] theorem onTeam_hbmStacks (s : State) (i : Nat) (f : Team → Team) : (s.onTeam i f).hbmStacks = s.hbmStacks := rfl
@[simp] theorem onTeam_poisoned (s : State) (i : Nat) (f : Team → Team) : (s.onTeam i f).poisoned = s.poisoned := rfl
@[simp] theorem onTeam_ptbase (s : State) (i : Nat) (f : Team → Team) : (s.onTeam i f).ptbase = s.ptbase := rfl
@[simp] theorem onTeam_ulog (s : State) (i : Nat) (f : Team → Team) : (s.onTeam i f).ulog = s.ulog := rfl
@[simp] theorem onTeam_undo (s : State) (i : Nat) (f : Team → Team) : (s.onTeam i f).undo = s.undo := rfl
@[simp] theorem onTeam_outbox (s : State) (i : Nat) (f : Team → Team) : (s.onTeam i f).outbox = s.outbox := rfl
@[simp] theorem onTeam_inputs (s : State) (i : Nat) (f : Team → Team) : (s.onTeam i f).inputs = s.inputs := rfl
@[simp] theorem onTeam_tick (s : State) (i : Nat) (f : Team → Team) : (s.onTeam i f).tick = s.tick := rfl
@[simp] theorem onTeam_serial (s : State) (i : Nat) (f : Team → Team) : (s.onTeam i f).serial = s.serial := rfl
@[simp] theorem onTeam_named (s : State) (i : Nat) (f : Team → Team) : (s.onTeam i f).named = s.named := rfl
@[simp] theorem onTeam_cu (s : State) (i : Nat) (f : Team → Team) (k : Nat) : (s.onTeam i f).cu k = s.cu k := rfl
@[simp] theorem onTeam_die (s : State) (i : Nat) (f : Team → Team) (k : Nat) : (s.onTeam i f).die k = s.die k := rfl
@[simp] theorem onTeam_gangAt (s : State) (i : Nat) (f : Team → Team) (k : Nat) : (s.onTeam i f).gang? k = s.gang? k := rfl
@[simp] theorem onTeam_queueAt (s : State) (i : Nat) (f : Team → Team) (k : Nat) : (s.onTeam i f).queue? k = s.queue? k := rfl

/-! ### State.onCu -/

@[simp] theorem onCu_gangs (s : State) (n : Nat) (f : Cu → Cu) : (s.onCu n f).gangs = s.gangs := rfl
@[simp] theorem onCu_teams (s : State) (n : Nat) (f : Cu → Cu) : (s.onCu n f).teams = s.teams := rfl
@[simp] theorem onCu_focus (s : State) (n : Nat) (f : Cu → Cu) : (s.onCu n f).focus = s.focus := rfl
@[simp] theorem onCu_cus (s : State) (n : Nat) (f : Cu → Cu) : (s.onCu n f).cus = (setEntry s.cus n (f (s.cu n))) := rfl
@[simp] theorem onCu_dies (s : State) (n : Nat) (f : Cu → Cu) : (s.onCu n f).dies = s.dies := rfl
@[simp] theorem onCu_phys (s : State) (n : Nat) (f : Cu → Cu) : (s.onCu n f).phys = s.phys := rfl
@[simp] theorem onCu_common (s : State) (n : Nat) (f : Cu → Cu) : (s.onCu n f).common = s.common := rfl
@[simp] theorem onCu_grants (s : State) (n : Nat) (f : Cu → Cu) : (s.onCu n f).grants = s.grants := rfl
@[simp] theorem onCu_graph (s : State) (n : Nat) (f : Cu → Cu) : (s.onCu n f).graph = s.graph := rfl
@[simp] theorem onCu_slots (s : State) (n : Nat) (f : Cu → Cu) : (s.onCu n f).slots = s.slots := rfl
@[simp] theorem onCu_mirrors (s : State) (n : Nat) (f : Cu → Cu) : (s.onCu n f).mirrors = s.mirrors := rfl
@[simp] theorem onCu_reds (s : State) (n : Nat) (f : Cu → Cu) : (s.onCu n f).reds = s.reds := rfl
@[simp] theorem onCu_queues (s : State) (n : Nat) (f : Cu → Cu) : (s.onCu n f).queues = s.queues := rfl
@[simp] theorem onCu_launches (s : State) (n : Nat) (f : Cu → Cu) : (s.onCu n f).launches = s.launches := rfl
@[simp] theorem onCu_served (s : State) (n : Nat) (f : Cu → Cu) : (s.onCu n f).served = s.served := rfl
@[simp] theorem onCu_restores (s : State) (n : Nat) (f : Cu → Cu) : (s.onCu n f).restores = s.restores := rfl
@[simp] theorem onCu_savings (s : State) (n : Nat) (f : Cu → Cu) : (s.onCu n f).savings = s.savings := rfl
@[simp] theorem onCu_saved (s : State) (n : Nat) (f : Cu → Cu) : (s.onCu n f).saved = s.saved := rfl
@[simp] theorem onCu_reserved (s : State) (n : Nat) (f : Cu → Cu) : (s.onCu n f).reserved = s.reserved := rfl
@[simp] theorem onCu_phases (s : State) (n : Nat) (f : Cu → Cu) : (s.onCu n f).phases = s.phases := rfl
@[simp] theorem onCu_requests (s : State) (n : Nat) (f : Cu → Cu) : (s.onCu n f).requests = s.requests := rfl
@[simp] theorem onCu_flows (s : State) (n : Nat) (f : Cu → Cu) : (s.onCu n f).flows = s.flows := rfl
@[simp] theorem onCu_commands (s : State) (n : Nat) (f : Cu → Cu) : (s.onCu n f).commands = s.commands := rfl
@[simp] theorem onCu_held (s : State) (n : Nat) (f : Cu → Cu) : (s.onCu n f).held = s.held := rfl
@[simp] theorem onCu_released (s : State) (n : Nat) (f : Cu → Cu) : (s.onCu n f).released = s.released := rfl
@[simp] theorem onCu_sessions (s : State) (n : Nat) (f : Cu → Cu) : (s.onCu n f).sessions = s.sessions := rfl
@[simp] theorem onCu_attest (s : State) (n : Nat) (f : Cu → Cu) : (s.onCu n f).attest = s.attest := rfl
@[simp] theorem onCu_keys (s : State) (n : Nat) (f : Cu → Cu) : (s.onCu n f).keys = s.keys := rfl
@[simp] theorem onCu_hbmStacks (s : State) (n : Nat) (f : Cu → Cu) : (s.onCu n f).hbmStacks = s.hbmStacks := rfl
@[simp] theorem onCu_poisoned (s : State) (n : Nat) (f : Cu → Cu) : (s.onCu n f).poisoned = s.poisoned := rfl
@[simp] theorem onCu_ptbase (s : State) (n : Nat) (f : Cu → Cu) : (s.onCu n f).ptbase = s.ptbase := rfl
@[simp] theorem onCu_ulog (s : State) (n : Nat) (f : Cu → Cu) : (s.onCu n f).ulog = s.ulog := rfl
@[simp] theorem onCu_undo (s : State) (n : Nat) (f : Cu → Cu) : (s.onCu n f).undo = s.undo := rfl
@[simp] theorem onCu_outbox (s : State) (n : Nat) (f : Cu → Cu) : (s.onCu n f).outbox = s.outbox := rfl
@[simp] theorem onCu_inputs (s : State) (n : Nat) (f : Cu → Cu) : (s.onCu n f).inputs = s.inputs := rfl
@[simp] theorem onCu_tick (s : State) (n : Nat) (f : Cu → Cu) : (s.onCu n f).tick = s.tick := rfl
@[simp] theorem onCu_serial (s : State) (n : Nat) (f : Cu → Cu) : (s.onCu n f).serial = s.serial := rfl
@[simp] theorem onCu_named (s : State) (n : Nat) (f : Cu → Cu) : (s.onCu n f).named = s.named := rfl
@[simp] theorem onCu_die (s : State) (n : Nat) (f : Cu → Cu) (k : Nat) : (s.onCu n f).die k = s.die k := rfl
@[simp] theorem onCu_teamAt (s : State) (n : Nat) (f : Cu → Cu) (k : Nat) : (s.onCu n f).team? k = s.team? k := rfl
@[simp] theorem onCu_gangAt (s : State) (n : Nat) (f : Cu → Cu) (k : Nat) : (s.onCu n f).gang? k = s.gang? k := rfl
@[simp] theorem onCu_queueAt (s : State) (n : Nat) (f : Cu → Cu) (k : Nat) : (s.onCu n f).queue? k = s.queue? k := rfl

/-! ### State.onDie -/

@[simp] theorem onDie_gangs (s : State) (n : Nat) (f : Die → Die) : (s.onDie n f).gangs = s.gangs := rfl
@[simp] theorem onDie_teams (s : State) (n : Nat) (f : Die → Die) : (s.onDie n f).teams = s.teams := rfl
@[simp] theorem onDie_focus (s : State) (n : Nat) (f : Die → Die) : (s.onDie n f).focus = s.focus := rfl
@[simp] theorem onDie_cus (s : State) (n : Nat) (f : Die → Die) : (s.onDie n f).cus = s.cus := rfl
@[simp] theorem onDie_dies (s : State) (n : Nat) (f : Die → Die) : (s.onDie n f).dies = (setEntry s.dies n (f (s.die n))) := rfl
@[simp] theorem onDie_phys (s : State) (n : Nat) (f : Die → Die) : (s.onDie n f).phys = s.phys := rfl
@[simp] theorem onDie_common (s : State) (n : Nat) (f : Die → Die) : (s.onDie n f).common = s.common := rfl
@[simp] theorem onDie_grants (s : State) (n : Nat) (f : Die → Die) : (s.onDie n f).grants = s.grants := rfl
@[simp] theorem onDie_graph (s : State) (n : Nat) (f : Die → Die) : (s.onDie n f).graph = s.graph := rfl
@[simp] theorem onDie_slots (s : State) (n : Nat) (f : Die → Die) : (s.onDie n f).slots = s.slots := rfl
@[simp] theorem onDie_mirrors (s : State) (n : Nat) (f : Die → Die) : (s.onDie n f).mirrors = s.mirrors := rfl
@[simp] theorem onDie_reds (s : State) (n : Nat) (f : Die → Die) : (s.onDie n f).reds = s.reds := rfl
@[simp] theorem onDie_queues (s : State) (n : Nat) (f : Die → Die) : (s.onDie n f).queues = s.queues := rfl
@[simp] theorem onDie_launches (s : State) (n : Nat) (f : Die → Die) : (s.onDie n f).launches = s.launches := rfl
@[simp] theorem onDie_served (s : State) (n : Nat) (f : Die → Die) : (s.onDie n f).served = s.served := rfl
@[simp] theorem onDie_restores (s : State) (n : Nat) (f : Die → Die) : (s.onDie n f).restores = s.restores := rfl
@[simp] theorem onDie_savings (s : State) (n : Nat) (f : Die → Die) : (s.onDie n f).savings = s.savings := rfl
@[simp] theorem onDie_saved (s : State) (n : Nat) (f : Die → Die) : (s.onDie n f).saved = s.saved := rfl
@[simp] theorem onDie_reserved (s : State) (n : Nat) (f : Die → Die) : (s.onDie n f).reserved = s.reserved := rfl
@[simp] theorem onDie_phases (s : State) (n : Nat) (f : Die → Die) : (s.onDie n f).phases = s.phases := rfl
@[simp] theorem onDie_requests (s : State) (n : Nat) (f : Die → Die) : (s.onDie n f).requests = s.requests := rfl
@[simp] theorem onDie_flows (s : State) (n : Nat) (f : Die → Die) : (s.onDie n f).flows = s.flows := rfl
@[simp] theorem onDie_commands (s : State) (n : Nat) (f : Die → Die) : (s.onDie n f).commands = s.commands := rfl
@[simp] theorem onDie_held (s : State) (n : Nat) (f : Die → Die) : (s.onDie n f).held = s.held := rfl
@[simp] theorem onDie_released (s : State) (n : Nat) (f : Die → Die) : (s.onDie n f).released = s.released := rfl
@[simp] theorem onDie_sessions (s : State) (n : Nat) (f : Die → Die) : (s.onDie n f).sessions = s.sessions := rfl
@[simp] theorem onDie_attest (s : State) (n : Nat) (f : Die → Die) : (s.onDie n f).attest = s.attest := rfl
@[simp] theorem onDie_keys (s : State) (n : Nat) (f : Die → Die) : (s.onDie n f).keys = s.keys := rfl
@[simp] theorem onDie_hbmStacks (s : State) (n : Nat) (f : Die → Die) : (s.onDie n f).hbmStacks = s.hbmStacks := rfl
@[simp] theorem onDie_poisoned (s : State) (n : Nat) (f : Die → Die) : (s.onDie n f).poisoned = s.poisoned := rfl
@[simp] theorem onDie_ptbase (s : State) (n : Nat) (f : Die → Die) : (s.onDie n f).ptbase = s.ptbase := rfl
@[simp] theorem onDie_ulog (s : State) (n : Nat) (f : Die → Die) : (s.onDie n f).ulog = s.ulog := rfl
@[simp] theorem onDie_undo (s : State) (n : Nat) (f : Die → Die) : (s.onDie n f).undo = s.undo := rfl
@[simp] theorem onDie_outbox (s : State) (n : Nat) (f : Die → Die) : (s.onDie n f).outbox = s.outbox := rfl
@[simp] theorem onDie_inputs (s : State) (n : Nat) (f : Die → Die) : (s.onDie n f).inputs = s.inputs := rfl
@[simp] theorem onDie_tick (s : State) (n : Nat) (f : Die → Die) : (s.onDie n f).tick = s.tick := rfl
@[simp] theorem onDie_serial (s : State) (n : Nat) (f : Die → Die) : (s.onDie n f).serial = s.serial := rfl
@[simp] theorem onDie_named (s : State) (n : Nat) (f : Die → Die) : (s.onDie n f).named = s.named := rfl
@[simp] theorem onDie_cu (s : State) (n : Nat) (f : Die → Die) (k : Nat) : (s.onDie n f).cu k = s.cu k := rfl
@[simp] theorem onDie_teamAt (s : State) (n : Nat) (f : Die → Die) (k : Nat) : (s.onDie n f).team? k = s.team? k := rfl
@[simp] theorem onDie_gangAt (s : State) (n : Nat) (f : Die → Die) (k : Nat) : (s.onDie n f).gang? k = s.gang? k := rfl
@[simp] theorem onDie_queueAt (s : State) (n : Nat) (f : Die → Die) (k : Nat) : (s.onDie n f).queue? k = s.queue? k := rfl

/-! ### State.bump -/

@[simp] theorem bump_gangs (s : State) : (s.bump).gangs = s.gangs := rfl
@[simp] theorem bump_teams (s : State) : (s.bump).teams = s.teams := rfl
@[simp] theorem bump_focus (s : State) : (s.bump).focus = s.focus := rfl
@[simp] theorem bump_cus (s : State) : (s.bump).cus = s.cus := rfl
@[simp] theorem bump_dies (s : State) : (s.bump).dies = s.dies := rfl
@[simp] theorem bump_phys (s : State) : (s.bump).phys = s.phys := rfl
@[simp] theorem bump_common (s : State) : (s.bump).common = s.common := rfl
@[simp] theorem bump_grants (s : State) : (s.bump).grants = s.grants := rfl
@[simp] theorem bump_graph (s : State) : (s.bump).graph = s.graph := rfl
@[simp] theorem bump_slots (s : State) : (s.bump).slots = s.slots := rfl
@[simp] theorem bump_mirrors (s : State) : (s.bump).mirrors = s.mirrors := rfl
@[simp] theorem bump_reds (s : State) : (s.bump).reds = s.reds := rfl
@[simp] theorem bump_queues (s : State) : (s.bump).queues = s.queues := rfl
@[simp] theorem bump_launches (s : State) : (s.bump).launches = s.launches := rfl
@[simp] theorem bump_served (s : State) : (s.bump).served = s.served := rfl
@[simp] theorem bump_restores (s : State) : (s.bump).restores = s.restores := rfl
@[simp] theorem bump_savings (s : State) : (s.bump).savings = s.savings := rfl
@[simp] theorem bump_saved (s : State) : (s.bump).saved = s.saved := rfl
@[simp] theorem bump_reserved (s : State) : (s.bump).reserved = s.reserved := rfl
@[simp] theorem bump_phases (s : State) : (s.bump).phases = s.phases := rfl
@[simp] theorem bump_requests (s : State) : (s.bump).requests = s.requests := rfl
@[simp] theorem bump_flows (s : State) : (s.bump).flows = s.flows := rfl
@[simp] theorem bump_commands (s : State) : (s.bump).commands = s.commands := rfl
@[simp] theorem bump_held (s : State) : (s.bump).held = s.held := rfl
@[simp] theorem bump_released (s : State) : (s.bump).released = s.released := rfl
@[simp] theorem bump_sessions (s : State) : (s.bump).sessions = s.sessions := rfl
@[simp] theorem bump_attest (s : State) : (s.bump).attest = s.attest := rfl
@[simp] theorem bump_keys (s : State) : (s.bump).keys = s.keys := rfl
@[simp] theorem bump_hbmStacks (s : State) : (s.bump).hbmStacks = s.hbmStacks := rfl
@[simp] theorem bump_poisoned (s : State) : (s.bump).poisoned = s.poisoned := rfl
@[simp] theorem bump_ptbase (s : State) : (s.bump).ptbase = s.ptbase := rfl
@[simp] theorem bump_ulog (s : State) : (s.bump).ulog = s.ulog := rfl
@[simp] theorem bump_undo (s : State) : (s.bump).undo = s.undo := rfl
@[simp] theorem bump_outbox (s : State) : (s.bump).outbox = s.outbox := rfl
@[simp] theorem bump_inputs (s : State) : (s.bump).inputs = s.inputs := rfl
@[simp] theorem bump_tick (s : State) : (s.bump).tick = s.tick := rfl
@[simp] theorem bump_serial (s : State) : (s.bump).serial = (s.serial + 1) := rfl
@[simp] theorem bump_named (s : State) : (s.bump).named = s.named := rfl
@[simp] theorem bump_cu (s : State) (k : Nat) : (s.bump).cu k = s.cu k := rfl
@[simp] theorem bump_die (s : State) (k : Nat) : (s.bump).die k = s.die k := rfl
@[simp] theorem bump_teamAt (s : State) (k : Nat) : (s.bump).team? k = s.team? k := rfl
@[simp] theorem bump_gangAt (s : State) (k : Nat) : (s.bump).gang? k = s.gang? k := rfl
@[simp] theorem bump_queueAt (s : State) (k : Nat) : (s.bump).queue? k = s.queue? k := rfl

/-! ### State.send -/

@[simp] theorem send_gangs (s : State) (m : Message) : (s.send m).gangs = s.gangs := rfl
@[simp] theorem send_teams (s : State) (m : Message) : (s.send m).teams = s.teams := rfl
@[simp] theorem send_focus (s : State) (m : Message) : (s.send m).focus = s.focus := rfl
@[simp] theorem send_cus (s : State) (m : Message) : (s.send m).cus = s.cus := rfl
@[simp] theorem send_dies (s : State) (m : Message) : (s.send m).dies = s.dies := rfl
@[simp] theorem send_phys (s : State) (m : Message) : (s.send m).phys = s.phys := rfl
@[simp] theorem send_common (s : State) (m : Message) : (s.send m).common = s.common := rfl
@[simp] theorem send_grants (s : State) (m : Message) : (s.send m).grants = s.grants := rfl
@[simp] theorem send_graph (s : State) (m : Message) : (s.send m).graph = s.graph := rfl
@[simp] theorem send_slots (s : State) (m : Message) : (s.send m).slots = s.slots := rfl
@[simp] theorem send_mirrors (s : State) (m : Message) : (s.send m).mirrors = s.mirrors := rfl
@[simp] theorem send_reds (s : State) (m : Message) : (s.send m).reds = s.reds := rfl
@[simp] theorem send_queues (s : State) (m : Message) : (s.send m).queues = s.queues := rfl
@[simp] theorem send_launches (s : State) (m : Message) : (s.send m).launches = s.launches := rfl
@[simp] theorem send_served (s : State) (m : Message) : (s.send m).served = s.served := rfl
@[simp] theorem send_restores (s : State) (m : Message) : (s.send m).restores = s.restores := rfl
@[simp] theorem send_savings (s : State) (m : Message) : (s.send m).savings = s.savings := rfl
@[simp] theorem send_saved (s : State) (m : Message) : (s.send m).saved = s.saved := rfl
@[simp] theorem send_reserved (s : State) (m : Message) : (s.send m).reserved = s.reserved := rfl
@[simp] theorem send_phases (s : State) (m : Message) : (s.send m).phases = s.phases := rfl
@[simp] theorem send_requests (s : State) (m : Message) : (s.send m).requests = s.requests := rfl
@[simp] theorem send_flows (s : State) (m : Message) : (s.send m).flows = s.flows := rfl
@[simp] theorem send_commands (s : State) (m : Message) : (s.send m).commands = s.commands := rfl
@[simp] theorem send_held (s : State) (m : Message) : (s.send m).held = s.held := rfl
@[simp] theorem send_released (s : State) (m : Message) : (s.send m).released = s.released := rfl
@[simp] theorem send_sessions (s : State) (m : Message) : (s.send m).sessions = s.sessions := rfl
@[simp] theorem send_attest (s : State) (m : Message) : (s.send m).attest = s.attest := rfl
@[simp] theorem send_keys (s : State) (m : Message) : (s.send m).keys = s.keys := rfl
@[simp] theorem send_hbmStacks (s : State) (m : Message) : (s.send m).hbmStacks = s.hbmStacks := rfl
@[simp] theorem send_poisoned (s : State) (m : Message) : (s.send m).poisoned = s.poisoned := rfl
@[simp] theorem send_ptbase (s : State) (m : Message) : (s.send m).ptbase = s.ptbase := rfl
@[simp] theorem send_ulog (s : State) (m : Message) : (s.send m).ulog = s.ulog := rfl
@[simp] theorem send_undo (s : State) (m : Message) : (s.send m).undo = s.undo := rfl
@[simp] theorem send_outbox (s : State) (m : Message) : (s.send m).outbox = (s.outbox ++ [m]) := rfl
@[simp] theorem send_inputs (s : State) (m : Message) : (s.send m).inputs = s.inputs := rfl
@[simp] theorem send_tick (s : State) (m : Message) : (s.send m).tick = s.tick := rfl
@[simp] theorem send_serial (s : State) (m : Message) : (s.send m).serial = s.serial := rfl
@[simp] theorem send_named (s : State) (m : Message) : (s.send m).named = s.named := rfl
@[simp] theorem send_cu (s : State) (m : Message) (k : Nat) : (s.send m).cu k = s.cu k := rfl
@[simp] theorem send_die (s : State) (m : Message) (k : Nat) : (s.send m).die k = s.die k := rfl
@[simp] theorem send_teamAt (s : State) (m : Message) (k : Nat) : (s.send m).team? k = s.team? k := rfl
@[simp] theorem send_gangAt (s : State) (m : Message) (k : Nat) : (s.send m).gang? k = s.gang? k := rfl
@[simp] theorem send_queueAt (s : State) (m : Message) (k : Nat) : (s.send m).queue? k = s.queue? k := rfl

/-! ### State.chosen -/

@[simp] theorem chosen_gangs (s : State) : (s.chosen).gangs = s.gangs := rfl
@[simp] theorem chosen_teams (s : State) : (s.chosen).teams = s.teams := rfl
@[simp] theorem chosen_focus (s : State) : (s.chosen).focus = s.focus := rfl
@[simp] theorem chosen_cus (s : State) : (s.chosen).cus = s.cus := rfl
@[simp] theorem chosen_dies (s : State) : (s.chosen).dies = s.dies := rfl
@[simp] theorem chosen_phys (s : State) : (s.chosen).phys = s.phys := rfl
@[simp] theorem chosen_common (s : State) : (s.chosen).common = s.common := rfl
@[simp] theorem chosen_grants (s : State) : (s.chosen).grants = s.grants := rfl
@[simp] theorem chosen_graph (s : State) : (s.chosen).graph = s.graph := rfl
@[simp] theorem chosen_slots (s : State) : (s.chosen).slots = s.slots := rfl
@[simp] theorem chosen_mirrors (s : State) : (s.chosen).mirrors = s.mirrors := rfl
@[simp] theorem chosen_reds (s : State) : (s.chosen).reds = s.reds := rfl
@[simp] theorem chosen_queues (s : State) : (s.chosen).queues = s.queues := rfl
@[simp] theorem chosen_launches (s : State) : (s.chosen).launches = s.launches := rfl
@[simp] theorem chosen_served (s : State) : (s.chosen).served = s.served := rfl
@[simp] theorem chosen_restores (s : State) : (s.chosen).restores = s.restores := rfl
@[simp] theorem chosen_savings (s : State) : (s.chosen).savings = s.savings := rfl
@[simp] theorem chosen_saved (s : State) : (s.chosen).saved = s.saved := rfl
@[simp] theorem chosen_reserved (s : State) : (s.chosen).reserved = s.reserved := rfl
@[simp] theorem chosen_phases (s : State) : (s.chosen).phases = s.phases := rfl
@[simp] theorem chosen_requests (s : State) : (s.chosen).requests = s.requests := rfl
@[simp] theorem chosen_flows (s : State) : (s.chosen).flows = s.flows := rfl
@[simp] theorem chosen_commands (s : State) : (s.chosen).commands = s.commands := rfl
@[simp] theorem chosen_held (s : State) : (s.chosen).held = s.held := rfl
@[simp] theorem chosen_released (s : State) : (s.chosen).released = s.released := rfl
@[simp] theorem chosen_sessions (s : State) : (s.chosen).sessions = s.sessions := rfl
@[simp] theorem chosen_attest (s : State) : (s.chosen).attest = s.attest := rfl
@[simp] theorem chosen_keys (s : State) : (s.chosen).keys = s.keys := rfl
@[simp] theorem chosen_hbmStacks (s : State) : (s.chosen).hbmStacks = s.hbmStacks := rfl
@[simp] theorem chosen_poisoned (s : State) : (s.chosen).poisoned = s.poisoned := rfl
@[simp] theorem chosen_ptbase (s : State) : (s.chosen).ptbase = s.ptbase := rfl
@[simp] theorem chosen_ulog (s : State) : (s.chosen).ulog = s.ulog := rfl
@[simp] theorem chosen_undo (s : State) : (s.chosen).undo = s.undo := rfl
@[simp] theorem chosen_outbox (s : State) : (s.chosen).outbox = s.outbox := rfl
@[simp] theorem chosen_inputs (s : State) : (s.chosen).inputs = s.inputs := rfl
@[simp] theorem chosen_tick (s : State) : (s.chosen).tick = (s.tick + 1) := rfl
@[simp] theorem chosen_serial (s : State) : (s.chosen).serial = s.serial := rfl
@[simp] theorem chosen_named (s : State) : (s.chosen).named = s.named := rfl
@[simp] theorem chosen_cu (s : State) (k : Nat) : (s.chosen).cu k = s.cu k := rfl
@[simp] theorem chosen_die (s : State) (k : Nat) : (s.chosen).die k = s.die k := rfl
@[simp] theorem chosen_teamAt (s : State) (k : Nat) : (s.chosen).team? k = s.team? k := rfl
@[simp] theorem chosen_gangAt (s : State) (k : Nat) : (s.chosen).gang? k = s.gang? k := rfl
@[simp] theorem chosen_queueAt (s : State) (k : Nat) : (s.chosen).queue? k = s.queue? k := rfl

/-! ### State.onLaunch -/

@[simp] theorem onLaunch_gangs (s : State) (id : W32) (f : Launch → Launch) : (s.onLaunch id f).gangs = s.gangs := rfl
@[simp] theorem onLaunch_teams (s : State) (id : W32) (f : Launch → Launch) : (s.onLaunch id f).teams = s.teams := rfl
@[simp] theorem onLaunch_focus (s : State) (id : W32) (f : Launch → Launch) : (s.onLaunch id f).focus = s.focus := rfl
@[simp] theorem onLaunch_cus (s : State) (id : W32) (f : Launch → Launch) : (s.onLaunch id f).cus = s.cus := rfl
@[simp] theorem onLaunch_dies (s : State) (id : W32) (f : Launch → Launch) : (s.onLaunch id f).dies = s.dies := rfl
@[simp] theorem onLaunch_phys (s : State) (id : W32) (f : Launch → Launch) : (s.onLaunch id f).phys = s.phys := rfl
@[simp] theorem onLaunch_common (s : State) (id : W32) (f : Launch → Launch) : (s.onLaunch id f).common = s.common := rfl
@[simp] theorem onLaunch_grants (s : State) (id : W32) (f : Launch → Launch) : (s.onLaunch id f).grants = s.grants := rfl
@[simp] theorem onLaunch_graph (s : State) (id : W32) (f : Launch → Launch) : (s.onLaunch id f).graph = s.graph := rfl
@[simp] theorem onLaunch_slots (s : State) (id : W32) (f : Launch → Launch) : (s.onLaunch id f).slots = s.slots := rfl
@[simp] theorem onLaunch_mirrors (s : State) (id : W32) (f : Launch → Launch) : (s.onLaunch id f).mirrors = s.mirrors := rfl
@[simp] theorem onLaunch_reds (s : State) (id : W32) (f : Launch → Launch) : (s.onLaunch id f).reds = s.reds := rfl
@[simp] theorem onLaunch_queues (s : State) (id : W32) (f : Launch → Launch) : (s.onLaunch id f).queues = s.queues := rfl
@[simp] theorem onLaunch_served (s : State) (id : W32) (f : Launch → Launch) : (s.onLaunch id f).served = s.served := rfl
@[simp] theorem onLaunch_restores (s : State) (id : W32) (f : Launch → Launch) : (s.onLaunch id f).restores = s.restores := rfl
@[simp] theorem onLaunch_savings (s : State) (id : W32) (f : Launch → Launch) : (s.onLaunch id f).savings = s.savings := rfl
@[simp] theorem onLaunch_saved (s : State) (id : W32) (f : Launch → Launch) : (s.onLaunch id f).saved = s.saved := rfl
@[simp] theorem onLaunch_reserved (s : State) (id : W32) (f : Launch → Launch) : (s.onLaunch id f).reserved = s.reserved := rfl
@[simp] theorem onLaunch_phases (s : State) (id : W32) (f : Launch → Launch) : (s.onLaunch id f).phases = s.phases := rfl
@[simp] theorem onLaunch_requests (s : State) (id : W32) (f : Launch → Launch) : (s.onLaunch id f).requests = s.requests := rfl
@[simp] theorem onLaunch_flows (s : State) (id : W32) (f : Launch → Launch) : (s.onLaunch id f).flows = s.flows := rfl
@[simp] theorem onLaunch_commands (s : State) (id : W32) (f : Launch → Launch) : (s.onLaunch id f).commands = s.commands := rfl
@[simp] theorem onLaunch_held (s : State) (id : W32) (f : Launch → Launch) : (s.onLaunch id f).held = s.held := rfl
@[simp] theorem onLaunch_released (s : State) (id : W32) (f : Launch → Launch) : (s.onLaunch id f).released = s.released := rfl
@[simp] theorem onLaunch_sessions (s : State) (id : W32) (f : Launch → Launch) : (s.onLaunch id f).sessions = s.sessions := rfl
@[simp] theorem onLaunch_attest (s : State) (id : W32) (f : Launch → Launch) : (s.onLaunch id f).attest = s.attest := rfl
@[simp] theorem onLaunch_keys (s : State) (id : W32) (f : Launch → Launch) : (s.onLaunch id f).keys = s.keys := rfl
@[simp] theorem onLaunch_hbmStacks (s : State) (id : W32) (f : Launch → Launch) : (s.onLaunch id f).hbmStacks = s.hbmStacks := rfl
@[simp] theorem onLaunch_poisoned (s : State) (id : W32) (f : Launch → Launch) : (s.onLaunch id f).poisoned = s.poisoned := rfl
@[simp] theorem onLaunch_ptbase (s : State) (id : W32) (f : Launch → Launch) : (s.onLaunch id f).ptbase = s.ptbase := rfl
@[simp] theorem onLaunch_ulog (s : State) (id : W32) (f : Launch → Launch) : (s.onLaunch id f).ulog = s.ulog := rfl
@[simp] theorem onLaunch_undo (s : State) (id : W32) (f : Launch → Launch) : (s.onLaunch id f).undo = s.undo := rfl
@[simp] theorem onLaunch_outbox (s : State) (id : W32) (f : Launch → Launch) : (s.onLaunch id f).outbox = s.outbox := rfl
@[simp] theorem onLaunch_inputs (s : State) (id : W32) (f : Launch → Launch) : (s.onLaunch id f).inputs = s.inputs := rfl
@[simp] theorem onLaunch_tick (s : State) (id : W32) (f : Launch → Launch) : (s.onLaunch id f).tick = s.tick := rfl
@[simp] theorem onLaunch_serial (s : State) (id : W32) (f : Launch → Launch) : (s.onLaunch id f).serial = s.serial := rfl
@[simp] theorem onLaunch_named (s : State) (id : W32) (f : Launch → Launch) : (s.onLaunch id f).named = s.named := rfl
@[simp] theorem onLaunch_cu (s : State) (id : W32) (f : Launch → Launch) (k : Nat) : (s.onLaunch id f).cu k = s.cu k := rfl
@[simp] theorem onLaunch_die (s : State) (id : W32) (f : Launch → Launch) (k : Nat) : (s.onLaunch id f).die k = s.die k := rfl
@[simp] theorem onLaunch_teamAt (s : State) (id : W32) (f : Launch → Launch) (k : Nat) : (s.onLaunch id f).team? k = s.team? k := rfl
@[simp] theorem onLaunch_gangAt (s : State) (id : W32) (f : Launch → Launch) (k : Nat) : (s.onLaunch id f).gang? k = s.gang? k := rfl
@[simp] theorem onLaunch_queueAt (s : State) (id : W32) (f : Launch → Launch) (k : Nat) : (s.onLaunch id f).queue? k = s.queue? k := rfl

/-! ### State.onEntries -/

@[simp] theorem onEntries_gangs (s : State) (f : List Entry → List Entry) : (s.onEntries f).gangs = s.gangs := rfl
@[simp] theorem onEntries_teams (s : State) (f : List Entry → List Entry) : (s.onEntries f).teams = s.teams := rfl
@[simp] theorem onEntries_focus (s : State) (f : List Entry → List Entry) : (s.onEntries f).focus = s.focus := rfl
@[simp] theorem onEntries_cus (s : State) (f : List Entry → List Entry) : (s.onEntries f).cus = s.cus := rfl
@[simp] theorem onEntries_dies (s : State) (f : List Entry → List Entry) : (s.onEntries f).dies = s.dies := rfl
@[simp] theorem onEntries_phys (s : State) (f : List Entry → List Entry) : (s.onEntries f).phys = s.phys := rfl
@[simp] theorem onEntries_common (s : State) (f : List Entry → List Entry) : (s.onEntries f).common = s.common := rfl
@[simp] theorem onEntries_grants (s : State) (f : List Entry → List Entry) : (s.onEntries f).grants = s.grants := rfl
@[simp] theorem onEntries_graph (s : State) (f : List Entry → List Entry) : (s.onEntries f).graph = s.graph := rfl
@[simp] theorem onEntries_slots (s : State) (f : List Entry → List Entry) : (s.onEntries f).slots = s.slots := rfl
@[simp] theorem onEntries_mirrors (s : State) (f : List Entry → List Entry) : (s.onEntries f).mirrors = s.mirrors := rfl
@[simp] theorem onEntries_reds (s : State) (f : List Entry → List Entry) : (s.onEntries f).reds = s.reds := rfl
@[simp] theorem onEntries_queues (s : State) (f : List Entry → List Entry) : (s.onEntries f).queues = (s.queues.map fun q => { q with entries := f q.entries }) := rfl
@[simp] theorem onEntries_launches (s : State) (f : List Entry → List Entry) : (s.onEntries f).launches = s.launches := rfl
@[simp] theorem onEntries_served (s : State) (f : List Entry → List Entry) : (s.onEntries f).served = s.served := rfl
@[simp] theorem onEntries_restores (s : State) (f : List Entry → List Entry) : (s.onEntries f).restores = s.restores := rfl
@[simp] theorem onEntries_savings (s : State) (f : List Entry → List Entry) : (s.onEntries f).savings = s.savings := rfl
@[simp] theorem onEntries_saved (s : State) (f : List Entry → List Entry) : (s.onEntries f).saved = s.saved := rfl
@[simp] theorem onEntries_reserved (s : State) (f : List Entry → List Entry) : (s.onEntries f).reserved = s.reserved := rfl
@[simp] theorem onEntries_phases (s : State) (f : List Entry → List Entry) : (s.onEntries f).phases = s.phases := rfl
@[simp] theorem onEntries_requests (s : State) (f : List Entry → List Entry) : (s.onEntries f).requests = s.requests := rfl
@[simp] theorem onEntries_flows (s : State) (f : List Entry → List Entry) : (s.onEntries f).flows = s.flows := rfl
@[simp] theorem onEntries_commands (s : State) (f : List Entry → List Entry) : (s.onEntries f).commands = s.commands := rfl
@[simp] theorem onEntries_held (s : State) (f : List Entry → List Entry) : (s.onEntries f).held = s.held := rfl
@[simp] theorem onEntries_released (s : State) (f : List Entry → List Entry) : (s.onEntries f).released = s.released := rfl
@[simp] theorem onEntries_sessions (s : State) (f : List Entry → List Entry) : (s.onEntries f).sessions = s.sessions := rfl
@[simp] theorem onEntries_attest (s : State) (f : List Entry → List Entry) : (s.onEntries f).attest = s.attest := rfl
@[simp] theorem onEntries_keys (s : State) (f : List Entry → List Entry) : (s.onEntries f).keys = s.keys := rfl
@[simp] theorem onEntries_hbmStacks (s : State) (f : List Entry → List Entry) : (s.onEntries f).hbmStacks = s.hbmStacks := rfl
@[simp] theorem onEntries_poisoned (s : State) (f : List Entry → List Entry) : (s.onEntries f).poisoned = s.poisoned := rfl
@[simp] theorem onEntries_ptbase (s : State) (f : List Entry → List Entry) : (s.onEntries f).ptbase = s.ptbase := rfl
@[simp] theorem onEntries_ulog (s : State) (f : List Entry → List Entry) : (s.onEntries f).ulog = s.ulog := rfl
@[simp] theorem onEntries_undo (s : State) (f : List Entry → List Entry) : (s.onEntries f).undo = s.undo := rfl
@[simp] theorem onEntries_outbox (s : State) (f : List Entry → List Entry) : (s.onEntries f).outbox = s.outbox := rfl
@[simp] theorem onEntries_inputs (s : State) (f : List Entry → List Entry) : (s.onEntries f).inputs = s.inputs := rfl
@[simp] theorem onEntries_tick (s : State) (f : List Entry → List Entry) : (s.onEntries f).tick = s.tick := rfl
@[simp] theorem onEntries_serial (s : State) (f : List Entry → List Entry) : (s.onEntries f).serial = s.serial := rfl
@[simp] theorem onEntries_named (s : State) (f : List Entry → List Entry) : (s.onEntries f).named = s.named := rfl
@[simp] theorem onEntries_cu (s : State) (f : List Entry → List Entry) (k : Nat) : (s.onEntries f).cu k = s.cu k := rfl
@[simp] theorem onEntries_die (s : State) (f : List Entry → List Entry) (k : Nat) : (s.onEntries f).die k = s.die k := rfl
@[simp] theorem onEntries_teamAt (s : State) (f : List Entry → List Entry) (k : Nat) : (s.onEntries f).team? k = s.team? k := rfl
@[simp] theorem onEntries_gangAt (s : State) (f : List Entry → List Entry) (k : Nat) : (s.onEntries f).gang? k = s.gang? k := rfl

/-! ### State.onQueue -/

@[simp] theorem onQueue_gangs (s : State) (n : Nat) (f : Queue → Queue) : (s.onQueue n f).gangs = s.gangs := rfl
@[simp] theorem onQueue_teams (s : State) (n : Nat) (f : Queue → Queue) : (s.onQueue n f).teams = s.teams := rfl
@[simp] theorem onQueue_focus (s : State) (n : Nat) (f : Queue → Queue) : (s.onQueue n f).focus = s.focus := rfl
@[simp] theorem onQueue_cus (s : State) (n : Nat) (f : Queue → Queue) : (s.onQueue n f).cus = s.cus := rfl
@[simp] theorem onQueue_dies (s : State) (n : Nat) (f : Queue → Queue) : (s.onQueue n f).dies = s.dies := rfl
@[simp] theorem onQueue_phys (s : State) (n : Nat) (f : Queue → Queue) : (s.onQueue n f).phys = s.phys := rfl
@[simp] theorem onQueue_common (s : State) (n : Nat) (f : Queue → Queue) : (s.onQueue n f).common = s.common := rfl
@[simp] theorem onQueue_grants (s : State) (n : Nat) (f : Queue → Queue) : (s.onQueue n f).grants = s.grants := rfl
@[simp] theorem onQueue_graph (s : State) (n : Nat) (f : Queue → Queue) : (s.onQueue n f).graph = s.graph := rfl
@[simp] theorem onQueue_slots (s : State) (n : Nat) (f : Queue → Queue) : (s.onQueue n f).slots = s.slots := rfl
@[simp] theorem onQueue_mirrors (s : State) (n : Nat) (f : Queue → Queue) : (s.onQueue n f).mirrors = s.mirrors := rfl
@[simp] theorem onQueue_reds (s : State) (n : Nat) (f : Queue → Queue) : (s.onQueue n f).reds = s.reds := rfl
@[simp] theorem onQueue_queues (s : State) (n : Nat) (f : Queue → Queue) : (s.onQueue n f).queues = (s.queues.map fun q => if q.num = n then f q else q) := rfl
@[simp] theorem onQueue_launches (s : State) (n : Nat) (f : Queue → Queue) : (s.onQueue n f).launches = s.launches := rfl
@[simp] theorem onQueue_served (s : State) (n : Nat) (f : Queue → Queue) : (s.onQueue n f).served = s.served := rfl
@[simp] theorem onQueue_restores (s : State) (n : Nat) (f : Queue → Queue) : (s.onQueue n f).restores = s.restores := rfl
@[simp] theorem onQueue_savings (s : State) (n : Nat) (f : Queue → Queue) : (s.onQueue n f).savings = s.savings := rfl
@[simp] theorem onQueue_saved (s : State) (n : Nat) (f : Queue → Queue) : (s.onQueue n f).saved = s.saved := rfl
@[simp] theorem onQueue_reserved (s : State) (n : Nat) (f : Queue → Queue) : (s.onQueue n f).reserved = s.reserved := rfl
@[simp] theorem onQueue_phases (s : State) (n : Nat) (f : Queue → Queue) : (s.onQueue n f).phases = s.phases := rfl
@[simp] theorem onQueue_requests (s : State) (n : Nat) (f : Queue → Queue) : (s.onQueue n f).requests = s.requests := rfl
@[simp] theorem onQueue_flows (s : State) (n : Nat) (f : Queue → Queue) : (s.onQueue n f).flows = s.flows := rfl
@[simp] theorem onQueue_commands (s : State) (n : Nat) (f : Queue → Queue) : (s.onQueue n f).commands = s.commands := rfl
@[simp] theorem onQueue_held (s : State) (n : Nat) (f : Queue → Queue) : (s.onQueue n f).held = s.held := rfl
@[simp] theorem onQueue_released (s : State) (n : Nat) (f : Queue → Queue) : (s.onQueue n f).released = s.released := rfl
@[simp] theorem onQueue_sessions (s : State) (n : Nat) (f : Queue → Queue) : (s.onQueue n f).sessions = s.sessions := rfl
@[simp] theorem onQueue_attest (s : State) (n : Nat) (f : Queue → Queue) : (s.onQueue n f).attest = s.attest := rfl
@[simp] theorem onQueue_keys (s : State) (n : Nat) (f : Queue → Queue) : (s.onQueue n f).keys = s.keys := rfl
@[simp] theorem onQueue_hbmStacks (s : State) (n : Nat) (f : Queue → Queue) : (s.onQueue n f).hbmStacks = s.hbmStacks := rfl
@[simp] theorem onQueue_poisoned (s : State) (n : Nat) (f : Queue → Queue) : (s.onQueue n f).poisoned = s.poisoned := rfl
@[simp] theorem onQueue_ptbase (s : State) (n : Nat) (f : Queue → Queue) : (s.onQueue n f).ptbase = s.ptbase := rfl
@[simp] theorem onQueue_ulog (s : State) (n : Nat) (f : Queue → Queue) : (s.onQueue n f).ulog = s.ulog := rfl
@[simp] theorem onQueue_undo (s : State) (n : Nat) (f : Queue → Queue) : (s.onQueue n f).undo = s.undo := rfl
@[simp] theorem onQueue_outbox (s : State) (n : Nat) (f : Queue → Queue) : (s.onQueue n f).outbox = s.outbox := rfl
@[simp] theorem onQueue_inputs (s : State) (n : Nat) (f : Queue → Queue) : (s.onQueue n f).inputs = s.inputs := rfl
@[simp] theorem onQueue_tick (s : State) (n : Nat) (f : Queue → Queue) : (s.onQueue n f).tick = s.tick := rfl
@[simp] theorem onQueue_serial (s : State) (n : Nat) (f : Queue → Queue) : (s.onQueue n f).serial = s.serial := rfl
@[simp] theorem onQueue_named (s : State) (n : Nat) (f : Queue → Queue) : (s.onQueue n f).named = s.named := rfl
@[simp] theorem onQueue_cu (s : State) (n : Nat) (f : Queue → Queue) (k : Nat) : (s.onQueue n f).cu k = s.cu k := rfl
@[simp] theorem onQueue_die (s : State) (n : Nat) (f : Queue → Queue) (k : Nat) : (s.onQueue n f).die k = s.die k := rfl
@[simp] theorem onQueue_teamAt (s : State) (n : Nat) (f : Queue → Queue) (k : Nat) : (s.onQueue n f).team? k = s.team? k := rfl
@[simp] theorem onQueue_gangAt (s : State) (n : Nat) (f : Queue → Queue) (k : Nat) : (s.onQueue n f).gang? k = s.gang? k := rfl

/-! ### State.onSlot -/

@[simp] theorem onSlot_gangs (s : State) (off : Nat) (f : Slot → Slot) : (s.onSlot off f).gangs = s.gangs := rfl
@[simp] theorem onSlot_teams (s : State) (off : Nat) (f : Slot → Slot) : (s.onSlot off f).teams = s.teams := rfl
@[simp] theorem onSlot_focus (s : State) (off : Nat) (f : Slot → Slot) : (s.onSlot off f).focus = s.focus := rfl
@[simp] theorem onSlot_cus (s : State) (off : Nat) (f : Slot → Slot) : (s.onSlot off f).cus = s.cus := rfl
@[simp] theorem onSlot_dies (s : State) (off : Nat) (f : Slot → Slot) : (s.onSlot off f).dies = s.dies := rfl
@[simp] theorem onSlot_phys (s : State) (off : Nat) (f : Slot → Slot) : (s.onSlot off f).phys = s.phys := rfl
@[simp] theorem onSlot_common (s : State) (off : Nat) (f : Slot → Slot) : (s.onSlot off f).common = s.common := rfl
@[simp] theorem onSlot_grants (s : State) (off : Nat) (f : Slot → Slot) : (s.onSlot off f).grants = s.grants := rfl
@[simp] theorem onSlot_graph (s : State) (off : Nat) (f : Slot → Slot) : (s.onSlot off f).graph = s.graph := rfl
@[simp] theorem onSlot_slots (s : State) (off : Nat) (f : Slot → Slot) : (s.onSlot off f).slots = (s.slots.map fun x => if x.off = off then f x else x) := rfl
@[simp] theorem onSlot_mirrors (s : State) (off : Nat) (f : Slot → Slot) : (s.onSlot off f).mirrors = s.mirrors := rfl
@[simp] theorem onSlot_reds (s : State) (off : Nat) (f : Slot → Slot) : (s.onSlot off f).reds = s.reds := rfl
@[simp] theorem onSlot_queues (s : State) (off : Nat) (f : Slot → Slot) : (s.onSlot off f).queues = s.queues := rfl
@[simp] theorem onSlot_launches (s : State) (off : Nat) (f : Slot → Slot) : (s.onSlot off f).launches = s.launches := rfl
@[simp] theorem onSlot_served (s : State) (off : Nat) (f : Slot → Slot) : (s.onSlot off f).served = s.served := rfl
@[simp] theorem onSlot_restores (s : State) (off : Nat) (f : Slot → Slot) : (s.onSlot off f).restores = s.restores := rfl
@[simp] theorem onSlot_savings (s : State) (off : Nat) (f : Slot → Slot) : (s.onSlot off f).savings = s.savings := rfl
@[simp] theorem onSlot_saved (s : State) (off : Nat) (f : Slot → Slot) : (s.onSlot off f).saved = s.saved := rfl
@[simp] theorem onSlot_reserved (s : State) (off : Nat) (f : Slot → Slot) : (s.onSlot off f).reserved = s.reserved := rfl
@[simp] theorem onSlot_phases (s : State) (off : Nat) (f : Slot → Slot) : (s.onSlot off f).phases = s.phases := rfl
@[simp] theorem onSlot_requests (s : State) (off : Nat) (f : Slot → Slot) : (s.onSlot off f).requests = s.requests := rfl
@[simp] theorem onSlot_flows (s : State) (off : Nat) (f : Slot → Slot) : (s.onSlot off f).flows = s.flows := rfl
@[simp] theorem onSlot_commands (s : State) (off : Nat) (f : Slot → Slot) : (s.onSlot off f).commands = s.commands := rfl
@[simp] theorem onSlot_held (s : State) (off : Nat) (f : Slot → Slot) : (s.onSlot off f).held = s.held := rfl
@[simp] theorem onSlot_released (s : State) (off : Nat) (f : Slot → Slot) : (s.onSlot off f).released = s.released := rfl
@[simp] theorem onSlot_sessions (s : State) (off : Nat) (f : Slot → Slot) : (s.onSlot off f).sessions = s.sessions := rfl
@[simp] theorem onSlot_attest (s : State) (off : Nat) (f : Slot → Slot) : (s.onSlot off f).attest = s.attest := rfl
@[simp] theorem onSlot_keys (s : State) (off : Nat) (f : Slot → Slot) : (s.onSlot off f).keys = s.keys := rfl
@[simp] theorem onSlot_hbmStacks (s : State) (off : Nat) (f : Slot → Slot) : (s.onSlot off f).hbmStacks = s.hbmStacks := rfl
@[simp] theorem onSlot_poisoned (s : State) (off : Nat) (f : Slot → Slot) : (s.onSlot off f).poisoned = s.poisoned := rfl
@[simp] theorem onSlot_ptbase (s : State) (off : Nat) (f : Slot → Slot) : (s.onSlot off f).ptbase = s.ptbase := rfl
@[simp] theorem onSlot_ulog (s : State) (off : Nat) (f : Slot → Slot) : (s.onSlot off f).ulog = s.ulog := rfl
@[simp] theorem onSlot_undo (s : State) (off : Nat) (f : Slot → Slot) : (s.onSlot off f).undo = s.undo := rfl
@[simp] theorem onSlot_outbox (s : State) (off : Nat) (f : Slot → Slot) : (s.onSlot off f).outbox = s.outbox := rfl
@[simp] theorem onSlot_inputs (s : State) (off : Nat) (f : Slot → Slot) : (s.onSlot off f).inputs = s.inputs := rfl
@[simp] theorem onSlot_tick (s : State) (off : Nat) (f : Slot → Slot) : (s.onSlot off f).tick = s.tick := rfl
@[simp] theorem onSlot_serial (s : State) (off : Nat) (f : Slot → Slot) : (s.onSlot off f).serial = s.serial := rfl
@[simp] theorem onSlot_named (s : State) (off : Nat) (f : Slot → Slot) : (s.onSlot off f).named = s.named := rfl
@[simp] theorem onSlot_cu (s : State) (off : Nat) (f : Slot → Slot) (k : Nat) : (s.onSlot off f).cu k = s.cu k := rfl
@[simp] theorem onSlot_die (s : State) (off : Nat) (f : Slot → Slot) (k : Nat) : (s.onSlot off f).die k = s.die k := rfl
@[simp] theorem onSlot_teamAt (s : State) (off : Nat) (f : Slot → Slot) (k : Nat) : (s.onSlot off f).team? k = s.team? k := rfl
@[simp] theorem onSlot_gangAt (s : State) (off : Nat) (f : Slot → Slot) (k : Nat) : (s.onSlot off f).gang? k = s.gang? k := rfl
@[simp] theorem onSlot_queueAt (s : State) (off : Nat) (f : Slot → Slot) (k : Nat) : (s.onSlot off f).queue? k = s.queue? k := rfl

/-! ### State.setStack -/

@[simp] theorem setStack_gangs (s : State) (h : Nat) (r : Retrain) : (s.setStack h r).gangs = s.gangs := rfl
@[simp] theorem setStack_teams (s : State) (h : Nat) (r : Retrain) : (s.setStack h r).teams = s.teams := rfl
@[simp] theorem setStack_focus (s : State) (h : Nat) (r : Retrain) : (s.setStack h r).focus = s.focus := rfl
@[simp] theorem setStack_cus (s : State) (h : Nat) (r : Retrain) : (s.setStack h r).cus = s.cus := rfl
@[simp] theorem setStack_dies (s : State) (h : Nat) (r : Retrain) : (s.setStack h r).dies = s.dies := rfl
@[simp] theorem setStack_phys (s : State) (h : Nat) (r : Retrain) : (s.setStack h r).phys = s.phys := rfl
@[simp] theorem setStack_common (s : State) (h : Nat) (r : Retrain) : (s.setStack h r).common = s.common := rfl
@[simp] theorem setStack_grants (s : State) (h : Nat) (r : Retrain) : (s.setStack h r).grants = s.grants := rfl
@[simp] theorem setStack_graph (s : State) (h : Nat) (r : Retrain) : (s.setStack h r).graph = s.graph := rfl
@[simp] theorem setStack_slots (s : State) (h : Nat) (r : Retrain) : (s.setStack h r).slots = s.slots := rfl
@[simp] theorem setStack_mirrors (s : State) (h : Nat) (r : Retrain) : (s.setStack h r).mirrors = s.mirrors := rfl
@[simp] theorem setStack_reds (s : State) (h : Nat) (r : Retrain) : (s.setStack h r).reds = s.reds := rfl
@[simp] theorem setStack_queues (s : State) (h : Nat) (r : Retrain) : (s.setStack h r).queues = s.queues := rfl
@[simp] theorem setStack_launches (s : State) (h : Nat) (r : Retrain) : (s.setStack h r).launches = s.launches := rfl
@[simp] theorem setStack_served (s : State) (h : Nat) (r : Retrain) : (s.setStack h r).served = s.served := rfl
@[simp] theorem setStack_restores (s : State) (h : Nat) (r : Retrain) : (s.setStack h r).restores = s.restores := rfl
@[simp] theorem setStack_savings (s : State) (h : Nat) (r : Retrain) : (s.setStack h r).savings = s.savings := rfl
@[simp] theorem setStack_saved (s : State) (h : Nat) (r : Retrain) : (s.setStack h r).saved = s.saved := rfl
@[simp] theorem setStack_reserved (s : State) (h : Nat) (r : Retrain) : (s.setStack h r).reserved = s.reserved := rfl
@[simp] theorem setStack_phases (s : State) (h : Nat) (r : Retrain) : (s.setStack h r).phases = s.phases := rfl
@[simp] theorem setStack_requests (s : State) (h : Nat) (r : Retrain) : (s.setStack h r).requests = s.requests := rfl
@[simp] theorem setStack_flows (s : State) (h : Nat) (r : Retrain) : (s.setStack h r).flows = s.flows := rfl
@[simp] theorem setStack_commands (s : State) (h : Nat) (r : Retrain) : (s.setStack h r).commands = s.commands := rfl
@[simp] theorem setStack_held (s : State) (h : Nat) (r : Retrain) : (s.setStack h r).held = s.held := rfl
@[simp] theorem setStack_released (s : State) (h : Nat) (r : Retrain) : (s.setStack h r).released = s.released := rfl
@[simp] theorem setStack_sessions (s : State) (h : Nat) (r : Retrain) : (s.setStack h r).sessions = s.sessions := rfl
@[simp] theorem setStack_attest (s : State) (h : Nat) (r : Retrain) : (s.setStack h r).attest = s.attest := rfl
@[simp] theorem setStack_keys (s : State) (h : Nat) (r : Retrain) : (s.setStack h r).keys = s.keys := rfl
@[simp] theorem setStack_hbmStacks (s : State) (h : Nat) (r : Retrain) : (s.setStack h r).hbmStacks = (setEntry s.hbmStacks h r) := rfl
@[simp] theorem setStack_poisoned (s : State) (h : Nat) (r : Retrain) : (s.setStack h r).poisoned = s.poisoned := rfl
@[simp] theorem setStack_ptbase (s : State) (h : Nat) (r : Retrain) : (s.setStack h r).ptbase = s.ptbase := rfl
@[simp] theorem setStack_ulog (s : State) (h : Nat) (r : Retrain) : (s.setStack h r).ulog = s.ulog := rfl
@[simp] theorem setStack_undo (s : State) (h : Nat) (r : Retrain) : (s.setStack h r).undo = s.undo := rfl
@[simp] theorem setStack_outbox (s : State) (h : Nat) (r : Retrain) : (s.setStack h r).outbox = s.outbox := rfl
@[simp] theorem setStack_inputs (s : State) (h : Nat) (r : Retrain) : (s.setStack h r).inputs = s.inputs := rfl
@[simp] theorem setStack_tick (s : State) (h : Nat) (r : Retrain) : (s.setStack h r).tick = s.tick := rfl
@[simp] theorem setStack_serial (s : State) (h : Nat) (r : Retrain) : (s.setStack h r).serial = s.serial := rfl
@[simp] theorem setStack_named (s : State) (h : Nat) (r : Retrain) : (s.setStack h r).named = s.named := rfl
@[simp] theorem setStack_cu (s : State) (h : Nat) (r : Retrain) (k : Nat) : (s.setStack h r).cu k = s.cu k := rfl
@[simp] theorem setStack_die (s : State) (h : Nat) (r : Retrain) (k : Nat) : (s.setStack h r).die k = s.die k := rfl
@[simp] theorem setStack_teamAt (s : State) (h : Nat) (r : Retrain) (k : Nat) : (s.setStack h r).team? k = s.team? k := rfl
@[simp] theorem setStack_gangAt (s : State) (h : Nat) (r : Retrain) (k : Nat) : (s.setStack h r).gang? k = s.gang? k := rfl
@[simp] theorem setStack_queueAt (s : State) (h : Nat) (r : Retrain) (k : Nat) : (s.setStack h r).queue? k = s.queue? k := rfl

/-! ### State.answered -/

@[simp] theorem answered_gangs (s : State) (t : W32) : (s.answered t).gangs = s.gangs := rfl
@[simp] theorem answered_teams (s : State) (t : W32) : (s.answered t).teams = s.teams := rfl
@[simp] theorem answered_focus (s : State) (t : W32) : (s.answered t).focus = s.focus := rfl
@[simp] theorem answered_cus (s : State) (t : W32) : (s.answered t).cus = s.cus := rfl
@[simp] theorem answered_dies (s : State) (t : W32) : (s.answered t).dies = s.dies := rfl
@[simp] theorem answered_phys (s : State) (t : W32) : (s.answered t).phys = s.phys := rfl
@[simp] theorem answered_common (s : State) (t : W32) : (s.answered t).common = s.common := rfl
@[simp] theorem answered_grants (s : State) (t : W32) : (s.answered t).grants = s.grants := rfl
@[simp] theorem answered_graph (s : State) (t : W32) : (s.answered t).graph = s.graph := rfl
@[simp] theorem answered_slots (s : State) (t : W32) : (s.answered t).slots = s.slots := rfl
@[simp] theorem answered_mirrors (s : State) (t : W32) : (s.answered t).mirrors = s.mirrors := rfl
@[simp] theorem answered_reds (s : State) (t : W32) : (s.answered t).reds = s.reds := rfl
@[simp] theorem answered_queues (s : State) (t : W32) : (s.answered t).queues = s.queues := rfl
@[simp] theorem answered_launches (s : State) (t : W32) : (s.answered t).launches = s.launches := rfl
@[simp] theorem answered_served (s : State) (t : W32) : (s.answered t).served = s.served := rfl
@[simp] theorem answered_restores (s : State) (t : W32) : (s.answered t).restores = s.restores := rfl
@[simp] theorem answered_savings (s : State) (t : W32) : (s.answered t).savings = s.savings := rfl
@[simp] theorem answered_saved (s : State) (t : W32) : (s.answered t).saved = s.saved := rfl
@[simp] theorem answered_reserved (s : State) (t : W32) : (s.answered t).reserved = s.reserved := rfl
@[simp] theorem answered_phases (s : State) (t : W32) : (s.answered t).phases = s.phases := rfl
@[simp] theorem answered_requests (s : State) (t : W32) : (s.answered t).requests = (s.requests.filter fun r => decide (r.tag ≠ t)) := rfl
@[simp] theorem answered_flows (s : State) (t : W32) : (s.answered t).flows = s.flows := rfl
@[simp] theorem answered_commands (s : State) (t : W32) : (s.answered t).commands = s.commands := rfl
@[simp] theorem answered_held (s : State) (t : W32) : (s.answered t).held = s.held := rfl
@[simp] theorem answered_released (s : State) (t : W32) : (s.answered t).released = s.released := rfl
@[simp] theorem answered_sessions (s : State) (t : W32) : (s.answered t).sessions = s.sessions := rfl
@[simp] theorem answered_attest (s : State) (t : W32) : (s.answered t).attest = s.attest := rfl
@[simp] theorem answered_keys (s : State) (t : W32) : (s.answered t).keys = s.keys := rfl
@[simp] theorem answered_hbmStacks (s : State) (t : W32) : (s.answered t).hbmStacks = s.hbmStacks := rfl
@[simp] theorem answered_poisoned (s : State) (t : W32) : (s.answered t).poisoned = s.poisoned := rfl
@[simp] theorem answered_ptbase (s : State) (t : W32) : (s.answered t).ptbase = s.ptbase := rfl
@[simp] theorem answered_ulog (s : State) (t : W32) : (s.answered t).ulog = s.ulog := rfl
@[simp] theorem answered_undo (s : State) (t : W32) : (s.answered t).undo = s.undo := rfl
@[simp] theorem answered_outbox (s : State) (t : W32) : (s.answered t).outbox = s.outbox := rfl
@[simp] theorem answered_inputs (s : State) (t : W32) : (s.answered t).inputs = s.inputs := rfl
@[simp] theorem answered_tick (s : State) (t : W32) : (s.answered t).tick = s.tick := rfl
@[simp] theorem answered_serial (s : State) (t : W32) : (s.answered t).serial = s.serial := rfl
@[simp] theorem answered_named (s : State) (t : W32) : (s.answered t).named = s.named := rfl
@[simp] theorem answered_cu (s : State) (t : W32) (k : Nat) : (s.answered t).cu k = s.cu k := rfl
@[simp] theorem answered_die (s : State) (t : W32) (k : Nat) : (s.answered t).die k = s.die k := rfl
@[simp] theorem answered_teamAt (s : State) (t : W32) (k : Nat) : (s.answered t).team? k = s.team? k := rfl
@[simp] theorem answered_gangAt (s : State) (t : W32) (k : Nat) : (s.answered t).gang? k = s.gang? k := rfl
@[simp] theorem answered_queueAt (s : State) (t : W32) (k : Nat) : (s.answered t).queue? k = s.queue? k := rfl

/-! ### State.logLines -/

@[simp] theorem logLines_gangs (s : State) (ls : List (Bool × Nat)) : (s.logLines ls).gangs = s.gangs := rfl
@[simp] theorem logLines_teams (s : State) (ls : List (Bool × Nat)) : (s.logLines ls).teams = s.teams := rfl
@[simp] theorem logLines_focus (s : State) (ls : List (Bool × Nat)) : (s.logLines ls).focus = s.focus := rfl
@[simp] theorem logLines_cus (s : State) (ls : List (Bool × Nat)) : (s.logLines ls).cus = s.cus := rfl
@[simp] theorem logLines_dies (s : State) (ls : List (Bool × Nat)) : (s.logLines ls).dies = s.dies := rfl
@[simp] theorem logLines_common (s : State) (ls : List (Bool × Nat)) : (s.logLines ls).common = s.common := rfl
@[simp] theorem logLines_grants (s : State) (ls : List (Bool × Nat)) : (s.logLines ls).grants = s.grants := rfl
@[simp] theorem logLines_graph (s : State) (ls : List (Bool × Nat)) : (s.logLines ls).graph = s.graph := rfl
@[simp] theorem logLines_slots (s : State) (ls : List (Bool × Nat)) : (s.logLines ls).slots = s.slots := rfl
@[simp] theorem logLines_mirrors (s : State) (ls : List (Bool × Nat)) : (s.logLines ls).mirrors = s.mirrors := rfl
@[simp] theorem logLines_reds (s : State) (ls : List (Bool × Nat)) : (s.logLines ls).reds = s.reds := rfl
@[simp] theorem logLines_queues (s : State) (ls : List (Bool × Nat)) : (s.logLines ls).queues = s.queues := rfl
@[simp] theorem logLines_launches (s : State) (ls : List (Bool × Nat)) : (s.logLines ls).launches = s.launches := rfl
@[simp] theorem logLines_served (s : State) (ls : List (Bool × Nat)) : (s.logLines ls).served = s.served := rfl
@[simp] theorem logLines_restores (s : State) (ls : List (Bool × Nat)) : (s.logLines ls).restores = s.restores := rfl
@[simp] theorem logLines_savings (s : State) (ls : List (Bool × Nat)) : (s.logLines ls).savings = s.savings := rfl
@[simp] theorem logLines_saved (s : State) (ls : List (Bool × Nat)) : (s.logLines ls).saved = s.saved := rfl
@[simp] theorem logLines_reserved (s : State) (ls : List (Bool × Nat)) : (s.logLines ls).reserved = s.reserved := rfl
@[simp] theorem logLines_phases (s : State) (ls : List (Bool × Nat)) : (s.logLines ls).phases = s.phases := rfl
@[simp] theorem logLines_requests (s : State) (ls : List (Bool × Nat)) : (s.logLines ls).requests = s.requests := rfl
@[simp] theorem logLines_flows (s : State) (ls : List (Bool × Nat)) : (s.logLines ls).flows = s.flows := rfl
@[simp] theorem logLines_commands (s : State) (ls : List (Bool × Nat)) : (s.logLines ls).commands = s.commands := rfl
@[simp] theorem logLines_held (s : State) (ls : List (Bool × Nat)) : (s.logLines ls).held = s.held := rfl
@[simp] theorem logLines_released (s : State) (ls : List (Bool × Nat)) : (s.logLines ls).released = s.released := rfl
@[simp] theorem logLines_sessions (s : State) (ls : List (Bool × Nat)) : (s.logLines ls).sessions = s.sessions := rfl
@[simp] theorem logLines_attest (s : State) (ls : List (Bool × Nat)) : (s.logLines ls).attest = s.attest := rfl
@[simp] theorem logLines_keys (s : State) (ls : List (Bool × Nat)) : (s.logLines ls).keys = s.keys := rfl
@[simp] theorem logLines_hbmStacks (s : State) (ls : List (Bool × Nat)) : (s.logLines ls).hbmStacks = s.hbmStacks := rfl
@[simp] theorem logLines_poisoned (s : State) (ls : List (Bool × Nat)) : (s.logLines ls).poisoned = s.poisoned := rfl
@[simp] theorem logLines_ptbase (s : State) (ls : List (Bool × Nat)) : (s.logLines ls).ptbase = s.ptbase := rfl
@[simp] theorem logLines_ulog (s : State) (ls : List (Bool × Nat)) : (s.logLines ls).ulog = s.ulog := rfl
@[simp] theorem logLines_outbox (s : State) (ls : List (Bool × Nat)) : (s.logLines ls).outbox = s.outbox := rfl
@[simp] theorem logLines_inputs (s : State) (ls : List (Bool × Nat)) : (s.logLines ls).inputs = s.inputs := rfl
@[simp] theorem logLines_tick (s : State) (ls : List (Bool × Nat)) : (s.logLines ls).tick = s.tick := rfl
@[simp] theorem logLines_serial (s : State) (ls : List (Bool × Nat)) : (s.logLines ls).serial = s.serial := rfl
@[simp] theorem logLines_named (s : State) (ls : List (Bool × Nat)) : (s.logLines ls).named = s.named := rfl
@[simp] theorem logLines_cu (s : State) (ls : List (Bool × Nat)) (k : Nat) : (s.logLines ls).cu k = s.cu k := rfl
@[simp] theorem logLines_die (s : State) (ls : List (Bool × Nat)) (k : Nat) : (s.logLines ls).die k = s.die k := rfl
@[simp] theorem logLines_teamAt (s : State) (ls : List (Bool × Nat)) (k : Nat) : (s.logLines ls).team? k = s.team? k := rfl
@[simp] theorem logLines_gangAt (s : State) (ls : List (Bool × Nat)) (k : Nat) : (s.logLines ls).gang? k = s.gang? k := rfl
@[simp] theorem logLines_queueAt (s : State) (ls : List (Bool × Nat)) (k : Nat) : (s.logLines ls).queue? k = s.queue? k := rfl

/-! ### Gang.mapLanes -/

@[simp] theorem mapLanes_id (g : Gang) (m : Lanes) (f : Nat → Thread → Thread) : (g.mapLanes m f).id = g.id := rfl
@[simp] theorem mapLanes_team (g : Gang) (m : Lanes) (f : Nat → Thread → Thread) : (g.mapLanes m f).team = g.team := rfl
@[simp] theorem mapLanes_index (g : Gang) (m : Lanes) (f : Nat → Thread → Thread) : (g.mapLanes m f).index = g.index := rfl
@[simp] theorem mapLanes_width (g : Gang) (m : Lanes) (f : Nat → Thread → Thread) : (g.mapLanes m f).width = g.width := rfl
@[simp] theorem mapLanes_vcount (g : Gang) (m : Lanes) (f : Nat → Thread → Thread) : (g.mapLanes m f).vcount = g.vcount := rfl
@[simp] theorem mapLanes_quads (g : Gang) (m : Lanes) (f : Nat → Thread → Thread) : (g.mapLanes m f).quads = g.quads := rfl
@[simp] theorem mapLanes_gslot (g : Gang) (m : Lanes) (f : Nat → Thread → Thread) : (g.mapLanes m f).gslot = g.gslot := rfl
@[simp] theorem mapLanes_flight (g : Gang) (m : Lanes) (f : Nat → Thread → Thread) : (g.mapLanes m f).flight = g.flight := rfl
@[simp] theorem mapLanes_sregs (g : Gang) (m : Lanes) (f : Nat → Thread → Thread) : (g.mapLanes m f).sregs = g.sregs := rfl
@[simp] theorem mapLanes_masks (g : Gang) (m : Lanes) (f : Nat → Thread → Thread) : (g.mapLanes m f).masks = g.masks := rfl
@[simp] theorem mapLanes_prio (g : Gang) (m : Lanes) (f : Nat → Thread → Thread) : (g.mapLanes m f).prio = g.prio := rfl
@[simp] theorem mapLanes_fmode (g : Gang) (m : Lanes) (f : Nat → Thread → Thread) : (g.mapLanes m f).fmode = g.fmode := rfl
@[simp] theorem mapLanes_fstat (g : Gang) (m : Lanes) (f : Nat → Thread → Thread) : (g.mapLanes m f).fstat = g.fstat := rfl
@[simp] theorem mapLanes_cvsub (g : Gang) (m : Lanes) (f : Nat → Thread → Thread) : (g.mapLanes m f).cvsub = g.cvsub := rfl
@[simp] theorem mapLanes_lvt0 (g : Gang) (m : Lanes) (f : Nat → Thread → Thread) : (g.mapLanes m f).lvt0 = g.lvt0 := rfl
@[simp] theorem mapLanes_lvt1 (g : Gang) (m : Lanes) (f : Nat → Thread → Thread) : (g.mapLanes m f).lvt1 = g.lvt1 := rfl
@[simp] theorem mapLanes_gcur (g : Gang) (m : Lanes) (f : Nat → Thread → Thread) : (g.mapLanes m f).gcur = g.gcur := rfl
@[simp] theorem mapLanes_tvec (g : Gang) (m : Lanes) (f : Nat → Thread → Thread) : (g.mapLanes m f).tvec = g.tvec := rfl
@[simp] theorem mapLanes_dbsel (g : Gang) (m : Lanes) (f : Nat → Thread → Thread) : (g.mapLanes m f).dbsel = g.dbsel := rfl
@[simp] theorem mapLanes_layouts (g : Gang) (m : Lanes) (f : Nat → Thread → Thread) : (g.mapLanes m f).layouts = g.layouts := rfl
@[simp] theorem mapLanes_slots (g : Gang) (m : Lanes) (f : Nat → Thread → Thread) : (g.mapLanes m f).slots = g.slots := rfl
@[simp] theorem mapLanes_ops (g : Gang) (m : Lanes) (f : Nat → Thread → Thread) : (g.mapLanes m f).ops = g.ops := rfl
@[simp] theorem mapLanes_targets (g : Gang) (m : Lanes) (f : Nat → Thread → Thread) : (g.mapLanes m f).targets = g.targets := rfl
@[simp] theorem mapLanes_sealedNo (g : Gang) (m : Lanes) (f : Nat → Thread → Thread) : (g.mapLanes m f).sealedNo = g.sealedNo := rfl
@[simp] theorem mapLanes_sealedAny (g : Gang) (m : Lanes) (f : Nat → Thread → Thread) : (g.mapLanes m f).sealedAny = g.sealedAny := rfl
@[simp] theorem mapLanes_batches (g : Gang) (m : Lanes) (f : Nat → Thread → Thread) : (g.mapLanes m f).batches = g.batches := rfl
@[simp] theorem mapLanes_loose (g : Gang) (m : Lanes) (f : Nat → Thread → Thread) : (g.mapLanes m f).loose = g.loose := rfl
@[simp] theorem mapLanes_withheld (g : Gang) (m : Lanes) (f : Nat → Thread → Thread) : (g.mapLanes m f).withheld = g.withheld := rfl
@[simp] theorem mapLanes_issues (g : Gang) (m : Lanes) (f : Nat → Thread → Thread) : (g.mapLanes m f).issues = g.issues := rfl
@[simp] theorem mapLanes_words (g : Gang) (m : Lanes) (f : Nat → Thread → Thread) : (g.mapLanes m f).words = g.words := rfl
@[simp] theorem mapLanes_laneOps (g : Gang) (m : Lanes) (f : Nat → Thread → Thread) : (g.mapLanes m f).laneOps = g.laneOps := rfl
@[simp] theorem mapLanes_stalls (g : Gang) (m : Lanes) (f : Nat → Thread → Thread) : (g.mapLanes m f).stalls = g.stalls := rfl
@[simp] theorem mapLanes_stall (g : Gang) (m : Lanes) (f : Nat → Thread → Thread) : (g.mapLanes m f).stall = g.stall := rfl
@[simp] theorem mapLanes_suspended (g : Gang) (m : Lanes) (f : Nat → Thread → Thread) : (g.mapLanes m f).suspended = g.suspended := rfl
@[simp] theorem mapLanes_halt (g : Gang) (m : Lanes) (f : Nat → Thread → Thread) : (g.mapLanes m f).halt = g.halt := rfl
@[simp] theorem mapLanes_pastWatch (g : Gang) (m : Lanes) (f : Nat → Thread → Thread) : (g.mapLanes m f).pastWatch = g.pastWatch := rfl
@[simp] theorem mapLanes_cancelled (g : Gang) (m : Lanes) (f : Nat → Thread → Thread) : (g.mapLanes m f).cancelled = g.cancelled := rfl
@[simp] theorem mapLanes_killed (g : Gang) (m : Lanes) (f : Nat → Thread → Thread) : (g.mapLanes m f).killed = g.killed := rfl
@[simp] theorem mapLanes_saving (g : Gang) (m : Lanes) (f : Nat → Thread → Thread) : (g.mapLanes m f).saving = g.saving := rfl
@[simp] theorem mapLanes_crashed (g : Gang) (m : Lanes) (f : Nat → Thread → Thread) : (g.mapLanes m f).crashed = g.crashed := rfl
@[simp] theorem mapLanes_lastIssue (g : Gang) (m : Lanes) (f : Nat → Thread → Thread) : (g.mapLanes m f).lastIssue = g.lastIssue := rfl
@[simp] theorem mapLanes_packed (g : Gang) (m : Lanes) (f : Nat → Thread → Thread) : (g.mapLanes m f).packed = g.packed := rfl
@[simp] theorem mapLanes_shown (g : Gang) (m : Lanes) (f : Nat → Thread → Thread) : (g.mapLanes m f).shown = g.shown := rfl
@[simp] theorem mapLanes_badScalars (g : Gang) (m : Lanes) (f : Nat → Thread → Thread) : (g.mapLanes m f).badScalars = g.badScalars := rfl
@[simp] theorem mapLanes_badMasks (g : Gang) (m : Lanes) (f : Nat → Thread → Thread) : (g.mapLanes m f).badMasks = g.badMasks := rfl

/-! ### Gang.setVreg -/

@[simp] theorem setVreg_id (g : Gang) (m : Lanes) (n : Nat) (f : Nat → W32) : (g.setVreg m n f).id = g.id := rfl
@[simp] theorem setVreg_team (g : Gang) (m : Lanes) (n : Nat) (f : Nat → W32) : (g.setVreg m n f).team = g.team := rfl
@[simp] theorem setVreg_index (g : Gang) (m : Lanes) (n : Nat) (f : Nat → W32) : (g.setVreg m n f).index = g.index := rfl
@[simp] theorem setVreg_width (g : Gang) (m : Lanes) (n : Nat) (f : Nat → W32) : (g.setVreg m n f).width = g.width := rfl
@[simp] theorem setVreg_vcount (g : Gang) (m : Lanes) (n : Nat) (f : Nat → W32) : (g.setVreg m n f).vcount = g.vcount := rfl
@[simp] theorem setVreg_quads (g : Gang) (m : Lanes) (n : Nat) (f : Nat → W32) : (g.setVreg m n f).quads = g.quads := rfl
@[simp] theorem setVreg_gslot (g : Gang) (m : Lanes) (n : Nat) (f : Nat → W32) : (g.setVreg m n f).gslot = g.gslot := rfl
@[simp] theorem setVreg_flight (g : Gang) (m : Lanes) (n : Nat) (f : Nat → W32) : (g.setVreg m n f).flight = g.flight := rfl
@[simp] theorem setVreg_sregs (g : Gang) (m : Lanes) (n : Nat) (f : Nat → W32) : (g.setVreg m n f).sregs = g.sregs := rfl
@[simp] theorem setVreg_masks (g : Gang) (m : Lanes) (n : Nat) (f : Nat → W32) : (g.setVreg m n f).masks = g.masks := rfl
@[simp] theorem setVreg_prio (g : Gang) (m : Lanes) (n : Nat) (f : Nat → W32) : (g.setVreg m n f).prio = g.prio := rfl
@[simp] theorem setVreg_fmode (g : Gang) (m : Lanes) (n : Nat) (f : Nat → W32) : (g.setVreg m n f).fmode = g.fmode := rfl
@[simp] theorem setVreg_fstat (g : Gang) (m : Lanes) (n : Nat) (f : Nat → W32) : (g.setVreg m n f).fstat = g.fstat := rfl
@[simp] theorem setVreg_cvsub (g : Gang) (m : Lanes) (n : Nat) (f : Nat → W32) : (g.setVreg m n f).cvsub = g.cvsub := rfl
@[simp] theorem setVreg_lvt0 (g : Gang) (m : Lanes) (n : Nat) (f : Nat → W32) : (g.setVreg m n f).lvt0 = g.lvt0 := rfl
@[simp] theorem setVreg_lvt1 (g : Gang) (m : Lanes) (n : Nat) (f : Nat → W32) : (g.setVreg m n f).lvt1 = g.lvt1 := rfl
@[simp] theorem setVreg_gcur (g : Gang) (m : Lanes) (n : Nat) (f : Nat → W32) : (g.setVreg m n f).gcur = g.gcur := rfl
@[simp] theorem setVreg_tvec (g : Gang) (m : Lanes) (n : Nat) (f : Nat → W32) : (g.setVreg m n f).tvec = g.tvec := rfl
@[simp] theorem setVreg_dbsel (g : Gang) (m : Lanes) (n : Nat) (f : Nat → W32) : (g.setVreg m n f).dbsel = g.dbsel := rfl
@[simp] theorem setVreg_layouts (g : Gang) (m : Lanes) (n : Nat) (f : Nat → W32) : (g.setVreg m n f).layouts = g.layouts := rfl
@[simp] theorem setVreg_slots (g : Gang) (m : Lanes) (n : Nat) (f : Nat → W32) : (g.setVreg m n f).slots = g.slots := rfl
@[simp] theorem setVreg_ops (g : Gang) (m : Lanes) (n : Nat) (f : Nat → W32) : (g.setVreg m n f).ops = g.ops := rfl
@[simp] theorem setVreg_targets (g : Gang) (m : Lanes) (n : Nat) (f : Nat → W32) : (g.setVreg m n f).targets = g.targets := rfl
@[simp] theorem setVreg_sealedNo (g : Gang) (m : Lanes) (n : Nat) (f : Nat → W32) : (g.setVreg m n f).sealedNo = g.sealedNo := rfl
@[simp] theorem setVreg_sealedAny (g : Gang) (m : Lanes) (n : Nat) (f : Nat → W32) : (g.setVreg m n f).sealedAny = g.sealedAny := rfl
@[simp] theorem setVreg_batches (g : Gang) (m : Lanes) (n : Nat) (f : Nat → W32) : (g.setVreg m n f).batches = g.batches := rfl
@[simp] theorem setVreg_loose (g : Gang) (m : Lanes) (n : Nat) (f : Nat → W32) : (g.setVreg m n f).loose = g.loose := rfl
@[simp] theorem setVreg_withheld (g : Gang) (m : Lanes) (n : Nat) (f : Nat → W32) : (g.setVreg m n f).withheld = g.withheld := rfl
@[simp] theorem setVreg_issues (g : Gang) (m : Lanes) (n : Nat) (f : Nat → W32) : (g.setVreg m n f).issues = g.issues := rfl
@[simp] theorem setVreg_words (g : Gang) (m : Lanes) (n : Nat) (f : Nat → W32) : (g.setVreg m n f).words = g.words := rfl
@[simp] theorem setVreg_laneOps (g : Gang) (m : Lanes) (n : Nat) (f : Nat → W32) : (g.setVreg m n f).laneOps = g.laneOps := rfl
@[simp] theorem setVreg_stalls (g : Gang) (m : Lanes) (n : Nat) (f : Nat → W32) : (g.setVreg m n f).stalls = g.stalls := rfl
@[simp] theorem setVreg_stall (g : Gang) (m : Lanes) (n : Nat) (f : Nat → W32) : (g.setVreg m n f).stall = g.stall := rfl
@[simp] theorem setVreg_suspended (g : Gang) (m : Lanes) (n : Nat) (f : Nat → W32) : (g.setVreg m n f).suspended = g.suspended := rfl
@[simp] theorem setVreg_halt (g : Gang) (m : Lanes) (n : Nat) (f : Nat → W32) : (g.setVreg m n f).halt = g.halt := rfl
@[simp] theorem setVreg_pastWatch (g : Gang) (m : Lanes) (n : Nat) (f : Nat → W32) : (g.setVreg m n f).pastWatch = g.pastWatch := rfl
@[simp] theorem setVreg_cancelled (g : Gang) (m : Lanes) (n : Nat) (f : Nat → W32) : (g.setVreg m n f).cancelled = g.cancelled := rfl
@[simp] theorem setVreg_killed (g : Gang) (m : Lanes) (n : Nat) (f : Nat → W32) : (g.setVreg m n f).killed = g.killed := rfl
@[simp] theorem setVreg_saving (g : Gang) (m : Lanes) (n : Nat) (f : Nat → W32) : (g.setVreg m n f).saving = g.saving := rfl
@[simp] theorem setVreg_crashed (g : Gang) (m : Lanes) (n : Nat) (f : Nat → W32) : (g.setVreg m n f).crashed = g.crashed := rfl
@[simp] theorem setVreg_lastIssue (g : Gang) (m : Lanes) (n : Nat) (f : Nat → W32) : (g.setVreg m n f).lastIssue = g.lastIssue := rfl
@[simp] theorem setVreg_packed (g : Gang) (m : Lanes) (n : Nat) (f : Nat → W32) : (g.setVreg m n f).packed = g.packed := rfl
@[simp] theorem setVreg_shown (g : Gang) (m : Lanes) (n : Nat) (f : Nat → W32) : (g.setVreg m n f).shown = g.shown := rfl
@[simp] theorem setVreg_badScalars (g : Gang) (m : Lanes) (n : Nat) (f : Nat → W32) : (g.setVreg m n f).badScalars = g.badScalars := rfl
@[simp] theorem setVreg_badMasks (g : Gang) (m : Lanes) (n : Nat) (f : Nat → W32) : (g.setVreg m n f).badMasks = g.badMasks := rfl

/-! ### Gang.setMask -/

@[simp] theorem setMask_id (g : Gang) (n : Nat) (v : Lanes) : (g.setMask n v).id = g.id := rfl
@[simp] theorem setMask_team (g : Gang) (n : Nat) (v : Lanes) : (g.setMask n v).team = g.team := rfl
@[simp] theorem setMask_index (g : Gang) (n : Nat) (v : Lanes) : (g.setMask n v).index = g.index := rfl
@[simp] theorem setMask_width (g : Gang) (n : Nat) (v : Lanes) : (g.setMask n v).width = g.width := rfl
@[simp] theorem setMask_vcount (g : Gang) (n : Nat) (v : Lanes) : (g.setMask n v).vcount = g.vcount := rfl
@[simp] theorem setMask_quads (g : Gang) (n : Nat) (v : Lanes) : (g.setMask n v).quads = g.quads := rfl
@[simp] theorem setMask_gslot (g : Gang) (n : Nat) (v : Lanes) : (g.setMask n v).gslot = g.gslot := rfl
@[simp] theorem setMask_threads (g : Gang) (n : Nat) (v : Lanes) : (g.setMask n v).threads = g.threads := rfl
@[simp] theorem setMask_flight (g : Gang) (n : Nat) (v : Lanes) : (g.setMask n v).flight = g.flight := rfl
@[simp] theorem setMask_sregs (g : Gang) (n : Nat) (v : Lanes) : (g.setMask n v).sregs = g.sregs := rfl
@[simp] theorem setMask_prio (g : Gang) (n : Nat) (v : Lanes) : (g.setMask n v).prio = g.prio := rfl
@[simp] theorem setMask_fmode (g : Gang) (n : Nat) (v : Lanes) : (g.setMask n v).fmode = g.fmode := rfl
@[simp] theorem setMask_fstat (g : Gang) (n : Nat) (v : Lanes) : (g.setMask n v).fstat = g.fstat := rfl
@[simp] theorem setMask_cvsub (g : Gang) (n : Nat) (v : Lanes) : (g.setMask n v).cvsub = g.cvsub := rfl
@[simp] theorem setMask_lvt0 (g : Gang) (n : Nat) (v : Lanes) : (g.setMask n v).lvt0 = g.lvt0 := rfl
@[simp] theorem setMask_lvt1 (g : Gang) (n : Nat) (v : Lanes) : (g.setMask n v).lvt1 = g.lvt1 := rfl
@[simp] theorem setMask_gcur (g : Gang) (n : Nat) (v : Lanes) : (g.setMask n v).gcur = g.gcur := rfl
@[simp] theorem setMask_tvec (g : Gang) (n : Nat) (v : Lanes) : (g.setMask n v).tvec = g.tvec := rfl
@[simp] theorem setMask_dbsel (g : Gang) (n : Nat) (v : Lanes) : (g.setMask n v).dbsel = g.dbsel := rfl
@[simp] theorem setMask_layouts (g : Gang) (n : Nat) (v : Lanes) : (g.setMask n v).layouts = g.layouts := rfl
@[simp] theorem setMask_slots (g : Gang) (n : Nat) (v : Lanes) : (g.setMask n v).slots = g.slots := rfl
@[simp] theorem setMask_ops (g : Gang) (n : Nat) (v : Lanes) : (g.setMask n v).ops = g.ops := rfl
@[simp] theorem setMask_targets (g : Gang) (n : Nat) (v : Lanes) : (g.setMask n v).targets = g.targets := rfl
@[simp] theorem setMask_sealedNo (g : Gang) (n : Nat) (v : Lanes) : (g.setMask n v).sealedNo = g.sealedNo := rfl
@[simp] theorem setMask_sealedAny (g : Gang) (n : Nat) (v : Lanes) : (g.setMask n v).sealedAny = g.sealedAny := rfl
@[simp] theorem setMask_batches (g : Gang) (n : Nat) (v : Lanes) : (g.setMask n v).batches = g.batches := rfl
@[simp] theorem setMask_loose (g : Gang) (n : Nat) (v : Lanes) : (g.setMask n v).loose = g.loose := rfl
@[simp] theorem setMask_withheld (g : Gang) (n : Nat) (v : Lanes) : (g.setMask n v).withheld = g.withheld := rfl
@[simp] theorem setMask_issues (g : Gang) (n : Nat) (v : Lanes) : (g.setMask n v).issues = g.issues := rfl
@[simp] theorem setMask_words (g : Gang) (n : Nat) (v : Lanes) : (g.setMask n v).words = g.words := rfl
@[simp] theorem setMask_laneOps (g : Gang) (n : Nat) (v : Lanes) : (g.setMask n v).laneOps = g.laneOps := rfl
@[simp] theorem setMask_stalls (g : Gang) (n : Nat) (v : Lanes) : (g.setMask n v).stalls = g.stalls := rfl
@[simp] theorem setMask_stall (g : Gang) (n : Nat) (v : Lanes) : (g.setMask n v).stall = g.stall := rfl
@[simp] theorem setMask_suspended (g : Gang) (n : Nat) (v : Lanes) : (g.setMask n v).suspended = g.suspended := rfl
@[simp] theorem setMask_halt (g : Gang) (n : Nat) (v : Lanes) : (g.setMask n v).halt = g.halt := rfl
@[simp] theorem setMask_pastWatch (g : Gang) (n : Nat) (v : Lanes) : (g.setMask n v).pastWatch = g.pastWatch := rfl
@[simp] theorem setMask_cancelled (g : Gang) (n : Nat) (v : Lanes) : (g.setMask n v).cancelled = g.cancelled := rfl
@[simp] theorem setMask_killed (g : Gang) (n : Nat) (v : Lanes) : (g.setMask n v).killed = g.killed := rfl
@[simp] theorem setMask_saving (g : Gang) (n : Nat) (v : Lanes) : (g.setMask n v).saving = g.saving := rfl
@[simp] theorem setMask_crashed (g : Gang) (n : Nat) (v : Lanes) : (g.setMask n v).crashed = g.crashed := rfl
@[simp] theorem setMask_lastIssue (g : Gang) (n : Nat) (v : Lanes) : (g.setMask n v).lastIssue = g.lastIssue := rfl
@[simp] theorem setMask_packed (g : Gang) (n : Nat) (v : Lanes) : (g.setMask n v).packed = g.packed := rfl
@[simp] theorem setMask_shown (g : Gang) (n : Nat) (v : Lanes) : (g.setMask n v).shown = g.shown := rfl
@[simp] theorem setMask_badScalars (g : Gang) (n : Nat) (v : Lanes) : (g.setMask n v).badScalars = g.badScalars := rfl

/-! ### Gang.merge -/

@[simp] theorem mergeFlags_id (g : Gang) (fl : BitVec 8) : (g.merge fl).id = g.id := rfl
@[simp] theorem mergeFlags_team (g : Gang) (fl : BitVec 8) : (g.merge fl).team = g.team := rfl
@[simp] theorem mergeFlags_index (g : Gang) (fl : BitVec 8) : (g.merge fl).index = g.index := rfl
@[simp] theorem mergeFlags_width (g : Gang) (fl : BitVec 8) : (g.merge fl).width = g.width := rfl
@[simp] theorem mergeFlags_vcount (g : Gang) (fl : BitVec 8) : (g.merge fl).vcount = g.vcount := rfl
@[simp] theorem mergeFlags_quads (g : Gang) (fl : BitVec 8) : (g.merge fl).quads = g.quads := rfl
@[simp] theorem mergeFlags_gslot (g : Gang) (fl : BitVec 8) : (g.merge fl).gslot = g.gslot := rfl
@[simp] theorem mergeFlags_threads (g : Gang) (fl : BitVec 8) : (g.merge fl).threads = g.threads := rfl
@[simp] theorem mergeFlags_flight (g : Gang) (fl : BitVec 8) : (g.merge fl).flight = g.flight := rfl
@[simp] theorem mergeFlags_sregs (g : Gang) (fl : BitVec 8) : (g.merge fl).sregs = g.sregs := rfl
@[simp] theorem mergeFlags_masks (g : Gang) (fl : BitVec 8) : (g.merge fl).masks = g.masks := rfl
@[simp] theorem mergeFlags_prio (g : Gang) (fl : BitVec 8) : (g.merge fl).prio = g.prio := rfl
@[simp] theorem mergeFlags_fmode (g : Gang) (fl : BitVec 8) : (g.merge fl).fmode = g.fmode := rfl
@[simp] theorem mergeFlags_cvsub (g : Gang) (fl : BitVec 8) : (g.merge fl).cvsub = g.cvsub := rfl
@[simp] theorem mergeFlags_lvt0 (g : Gang) (fl : BitVec 8) : (g.merge fl).lvt0 = g.lvt0 := rfl
@[simp] theorem mergeFlags_lvt1 (g : Gang) (fl : BitVec 8) : (g.merge fl).lvt1 = g.lvt1 := rfl
@[simp] theorem mergeFlags_gcur (g : Gang) (fl : BitVec 8) : (g.merge fl).gcur = g.gcur := rfl
@[simp] theorem mergeFlags_tvec (g : Gang) (fl : BitVec 8) : (g.merge fl).tvec = g.tvec := rfl
@[simp] theorem mergeFlags_dbsel (g : Gang) (fl : BitVec 8) : (g.merge fl).dbsel = g.dbsel := rfl
@[simp] theorem mergeFlags_layouts (g : Gang) (fl : BitVec 8) : (g.merge fl).layouts = g.layouts := rfl
@[simp] theorem mergeFlags_slots (g : Gang) (fl : BitVec 8) : (g.merge fl).slots = g.slots := rfl
@[simp] theorem mergeFlags_ops (g : Gang) (fl : BitVec 8) : (g.merge fl).ops = g.ops := rfl
@[simp] theorem mergeFlags_targets (g : Gang) (fl : BitVec 8) : (g.merge fl).targets = g.targets := rfl
@[simp] theorem mergeFlags_sealedNo (g : Gang) (fl : BitVec 8) : (g.merge fl).sealedNo = g.sealedNo := rfl
@[simp] theorem mergeFlags_sealedAny (g : Gang) (fl : BitVec 8) : (g.merge fl).sealedAny = g.sealedAny := rfl
@[simp] theorem mergeFlags_batches (g : Gang) (fl : BitVec 8) : (g.merge fl).batches = g.batches := rfl
@[simp] theorem mergeFlags_loose (g : Gang) (fl : BitVec 8) : (g.merge fl).loose = g.loose := rfl
@[simp] theorem mergeFlags_withheld (g : Gang) (fl : BitVec 8) : (g.merge fl).withheld = g.withheld := rfl
@[simp] theorem mergeFlags_issues (g : Gang) (fl : BitVec 8) : (g.merge fl).issues = g.issues := rfl
@[simp] theorem mergeFlags_words (g : Gang) (fl : BitVec 8) : (g.merge fl).words = g.words := rfl
@[simp] theorem mergeFlags_laneOps (g : Gang) (fl : BitVec 8) : (g.merge fl).laneOps = g.laneOps := rfl
@[simp] theorem mergeFlags_stalls (g : Gang) (fl : BitVec 8) : (g.merge fl).stalls = g.stalls := rfl
@[simp] theorem mergeFlags_stall (g : Gang) (fl : BitVec 8) : (g.merge fl).stall = g.stall := rfl
@[simp] theorem mergeFlags_suspended (g : Gang) (fl : BitVec 8) : (g.merge fl).suspended = g.suspended := rfl
@[simp] theorem mergeFlags_halt (g : Gang) (fl : BitVec 8) : (g.merge fl).halt = g.halt := rfl
@[simp] theorem mergeFlags_pastWatch (g : Gang) (fl : BitVec 8) : (g.merge fl).pastWatch = g.pastWatch := rfl
@[simp] theorem mergeFlags_cancelled (g : Gang) (fl : BitVec 8) : (g.merge fl).cancelled = g.cancelled := rfl
@[simp] theorem mergeFlags_killed (g : Gang) (fl : BitVec 8) : (g.merge fl).killed = g.killed := rfl
@[simp] theorem mergeFlags_saving (g : Gang) (fl : BitVec 8) : (g.merge fl).saving = g.saving := rfl
@[simp] theorem mergeFlags_crashed (g : Gang) (fl : BitVec 8) : (g.merge fl).crashed = g.crashed := rfl
@[simp] theorem mergeFlags_lastIssue (g : Gang) (fl : BitVec 8) : (g.merge fl).lastIssue = g.lastIssue := rfl
@[simp] theorem mergeFlags_packed (g : Gang) (fl : BitVec 8) : (g.merge fl).packed = g.packed := rfl
@[simp] theorem mergeFlags_shown (g : Gang) (fl : BitVec 8) : (g.merge fl).shown = g.shown := rfl
@[simp] theorem mergeFlags_badScalars (g : Gang) (fl : BitVec 8) : (g.merge fl).badScalars = g.badScalars := rfl
@[simp] theorem mergeFlags_badMasks (g : Gang) (fl : BitVec 8) : (g.merge fl).badMasks = g.badMasks := rfl

/-! ### Gang.mapOp -/

@[simp] theorem mapOp_id (g : Gang) (o : Nat) (f : Op → Op) : (g.mapOp o f).id = g.id := rfl
@[simp] theorem mapOp_team (g : Gang) (o : Nat) (f : Op → Op) : (g.mapOp o f).team = g.team := rfl
@[simp] theorem mapOp_index (g : Gang) (o : Nat) (f : Op → Op) : (g.mapOp o f).index = g.index := rfl
@[simp] theorem mapOp_width (g : Gang) (o : Nat) (f : Op → Op) : (g.mapOp o f).width = g.width := rfl
@[simp] theorem mapOp_vcount (g : Gang) (o : Nat) (f : Op → Op) : (g.mapOp o f).vcount = g.vcount := rfl
@[simp] theorem mapOp_quads (g : Gang) (o : Nat) (f : Op → Op) : (g.mapOp o f).quads = g.quads := rfl
@[simp] theorem mapOp_gslot (g : Gang) (o : Nat) (f : Op → Op) : (g.mapOp o f).gslot = g.gslot := rfl
@[simp] theorem mapOp_threads (g : Gang) (o : Nat) (f : Op → Op) : (g.mapOp o f).threads = g.threads := rfl
@[simp] theorem mapOp_flight (g : Gang) (o : Nat) (f : Op → Op) : (g.mapOp o f).flight = g.flight := rfl
@[simp] theorem mapOp_sregs (g : Gang) (o : Nat) (f : Op → Op) : (g.mapOp o f).sregs = g.sregs := rfl
@[simp] theorem mapOp_masks (g : Gang) (o : Nat) (f : Op → Op) : (g.mapOp o f).masks = g.masks := rfl
@[simp] theorem mapOp_prio (g : Gang) (o : Nat) (f : Op → Op) : (g.mapOp o f).prio = g.prio := rfl
@[simp] theorem mapOp_fmode (g : Gang) (o : Nat) (f : Op → Op) : (g.mapOp o f).fmode = g.fmode := rfl
@[simp] theorem mapOp_fstat (g : Gang) (o : Nat) (f : Op → Op) : (g.mapOp o f).fstat = g.fstat := rfl
@[simp] theorem mapOp_cvsub (g : Gang) (o : Nat) (f : Op → Op) : (g.mapOp o f).cvsub = g.cvsub := rfl
@[simp] theorem mapOp_lvt0 (g : Gang) (o : Nat) (f : Op → Op) : (g.mapOp o f).lvt0 = g.lvt0 := rfl
@[simp] theorem mapOp_lvt1 (g : Gang) (o : Nat) (f : Op → Op) : (g.mapOp o f).lvt1 = g.lvt1 := rfl
@[simp] theorem mapOp_gcur (g : Gang) (o : Nat) (f : Op → Op) : (g.mapOp o f).gcur = g.gcur := rfl
@[simp] theorem mapOp_tvec (g : Gang) (o : Nat) (f : Op → Op) : (g.mapOp o f).tvec = g.tvec := rfl
@[simp] theorem mapOp_dbsel (g : Gang) (o : Nat) (f : Op → Op) : (g.mapOp o f).dbsel = g.dbsel := rfl
@[simp] theorem mapOp_layouts (g : Gang) (o : Nat) (f : Op → Op) : (g.mapOp o f).layouts = g.layouts := rfl
@[simp] theorem mapOp_slots (g : Gang) (o : Nat) (f : Op → Op) : (g.mapOp o f).slots = g.slots := rfl
@[simp] theorem mapOp_targets (g : Gang) (o : Nat) (f : Op → Op) : (g.mapOp o f).targets = g.targets := rfl
@[simp] theorem mapOp_sealedNo (g : Gang) (o : Nat) (f : Op → Op) : (g.mapOp o f).sealedNo = g.sealedNo := rfl
@[simp] theorem mapOp_sealedAny (g : Gang) (o : Nat) (f : Op → Op) : (g.mapOp o f).sealedAny = g.sealedAny := rfl
@[simp] theorem mapOp_batches (g : Gang) (o : Nat) (f : Op → Op) : (g.mapOp o f).batches = g.batches := rfl
@[simp] theorem mapOp_loose (g : Gang) (o : Nat) (f : Op → Op) : (g.mapOp o f).loose = g.loose := rfl
@[simp] theorem mapOp_withheld (g : Gang) (o : Nat) (f : Op → Op) : (g.mapOp o f).withheld = g.withheld := rfl
@[simp] theorem mapOp_issues (g : Gang) (o : Nat) (f : Op → Op) : (g.mapOp o f).issues = g.issues := rfl
@[simp] theorem mapOp_words (g : Gang) (o : Nat) (f : Op → Op) : (g.mapOp o f).words = g.words := rfl
@[simp] theorem mapOp_laneOps (g : Gang) (o : Nat) (f : Op → Op) : (g.mapOp o f).laneOps = g.laneOps := rfl
@[simp] theorem mapOp_stalls (g : Gang) (o : Nat) (f : Op → Op) : (g.mapOp o f).stalls = g.stalls := rfl
@[simp] theorem mapOp_stall (g : Gang) (o : Nat) (f : Op → Op) : (g.mapOp o f).stall = g.stall := rfl
@[simp] theorem mapOp_suspended (g : Gang) (o : Nat) (f : Op → Op) : (g.mapOp o f).suspended = g.suspended := rfl
@[simp] theorem mapOp_halt (g : Gang) (o : Nat) (f : Op → Op) : (g.mapOp o f).halt = g.halt := rfl
@[simp] theorem mapOp_pastWatch (g : Gang) (o : Nat) (f : Op → Op) : (g.mapOp o f).pastWatch = g.pastWatch := rfl
@[simp] theorem mapOp_cancelled (g : Gang) (o : Nat) (f : Op → Op) : (g.mapOp o f).cancelled = g.cancelled := rfl
@[simp] theorem mapOp_killed (g : Gang) (o : Nat) (f : Op → Op) : (g.mapOp o f).killed = g.killed := rfl
@[simp] theorem mapOp_saving (g : Gang) (o : Nat) (f : Op → Op) : (g.mapOp o f).saving = g.saving := rfl
@[simp] theorem mapOp_crashed (g : Gang) (o : Nat) (f : Op → Op) : (g.mapOp o f).crashed = g.crashed := rfl
@[simp] theorem mapOp_lastIssue (g : Gang) (o : Nat) (f : Op → Op) : (g.mapOp o f).lastIssue = g.lastIssue := rfl
@[simp] theorem mapOp_packed (g : Gang) (o : Nat) (f : Op → Op) : (g.mapOp o f).packed = g.packed := rfl
@[simp] theorem mapOp_shown (g : Gang) (o : Nat) (f : Op → Op) : (g.mapOp o f).shown = g.shown := rfl
@[simp] theorem mapOp_badScalars (g : Gang) (o : Nat) (f : Op → Op) : (g.mapOp o f).badScalars = g.badScalars := rfl
@[simp] theorem mapOp_badMasks (g : Gang) (o : Nat) (f : Op → Op) : (g.mapOp o f).badMasks = g.badMasks := rfl

/-! ### Gang.dropOp -/

@[simp] theorem dropOp_id (g : Gang) (o : Nat) : (g.dropOp o).id = g.id := rfl
@[simp] theorem dropOp_team (g : Gang) (o : Nat) : (g.dropOp o).team = g.team := rfl
@[simp] theorem dropOp_index (g : Gang) (o : Nat) : (g.dropOp o).index = g.index := rfl
@[simp] theorem dropOp_width (g : Gang) (o : Nat) : (g.dropOp o).width = g.width := rfl
@[simp] theorem dropOp_vcount (g : Gang) (o : Nat) : (g.dropOp o).vcount = g.vcount := rfl
@[simp] theorem dropOp_quads (g : Gang) (o : Nat) : (g.dropOp o).quads = g.quads := rfl
@[simp] theorem dropOp_gslot (g : Gang) (o : Nat) : (g.dropOp o).gslot = g.gslot := rfl
@[simp] theorem dropOp_threads (g : Gang) (o : Nat) : (g.dropOp o).threads = g.threads := rfl
@[simp] theorem dropOp_flight (g : Gang) (o : Nat) : (g.dropOp o).flight = g.flight := rfl
@[simp] theorem dropOp_sregs (g : Gang) (o : Nat) : (g.dropOp o).sregs = g.sregs := rfl
@[simp] theorem dropOp_masks (g : Gang) (o : Nat) : (g.dropOp o).masks = g.masks := rfl
@[simp] theorem dropOp_prio (g : Gang) (o : Nat) : (g.dropOp o).prio = g.prio := rfl
@[simp] theorem dropOp_fmode (g : Gang) (o : Nat) : (g.dropOp o).fmode = g.fmode := rfl
@[simp] theorem dropOp_fstat (g : Gang) (o : Nat) : (g.dropOp o).fstat = g.fstat := rfl
@[simp] theorem dropOp_cvsub (g : Gang) (o : Nat) : (g.dropOp o).cvsub = g.cvsub := rfl
@[simp] theorem dropOp_lvt0 (g : Gang) (o : Nat) : (g.dropOp o).lvt0 = g.lvt0 := rfl
@[simp] theorem dropOp_lvt1 (g : Gang) (o : Nat) : (g.dropOp o).lvt1 = g.lvt1 := rfl
@[simp] theorem dropOp_gcur (g : Gang) (o : Nat) : (g.dropOp o).gcur = g.gcur := rfl
@[simp] theorem dropOp_tvec (g : Gang) (o : Nat) : (g.dropOp o).tvec = g.tvec := rfl
@[simp] theorem dropOp_dbsel (g : Gang) (o : Nat) : (g.dropOp o).dbsel = g.dbsel := rfl
@[simp] theorem dropOp_layouts (g : Gang) (o : Nat) : (g.dropOp o).layouts = g.layouts := rfl
@[simp] theorem dropOp_slots (g : Gang) (o : Nat) : (g.dropOp o).slots = g.slots := rfl
@[simp] theorem dropOp_targets (g : Gang) (o : Nat) : (g.dropOp o).targets = g.targets := rfl
@[simp] theorem dropOp_sealedNo (g : Gang) (o : Nat) : (g.dropOp o).sealedNo = g.sealedNo := rfl
@[simp] theorem dropOp_sealedAny (g : Gang) (o : Nat) : (g.dropOp o).sealedAny = g.sealedAny := rfl
@[simp] theorem dropOp_batches (g : Gang) (o : Nat) : (g.dropOp o).batches = g.batches := rfl
@[simp] theorem dropOp_loose (g : Gang) (o : Nat) : (g.dropOp o).loose = g.loose := rfl
@[simp] theorem dropOp_withheld (g : Gang) (o : Nat) : (g.dropOp o).withheld = g.withheld := rfl
@[simp] theorem dropOp_issues (g : Gang) (o : Nat) : (g.dropOp o).issues = g.issues := rfl
@[simp] theorem dropOp_words (g : Gang) (o : Nat) : (g.dropOp o).words = g.words := rfl
@[simp] theorem dropOp_laneOps (g : Gang) (o : Nat) : (g.dropOp o).laneOps = g.laneOps := rfl
@[simp] theorem dropOp_stalls (g : Gang) (o : Nat) : (g.dropOp o).stalls = g.stalls := rfl
@[simp] theorem dropOp_stall (g : Gang) (o : Nat) : (g.dropOp o).stall = g.stall := rfl
@[simp] theorem dropOp_suspended (g : Gang) (o : Nat) : (g.dropOp o).suspended = g.suspended := rfl
@[simp] theorem dropOp_halt (g : Gang) (o : Nat) : (g.dropOp o).halt = g.halt := rfl
@[simp] theorem dropOp_pastWatch (g : Gang) (o : Nat) : (g.dropOp o).pastWatch = g.pastWatch := rfl
@[simp] theorem dropOp_cancelled (g : Gang) (o : Nat) : (g.dropOp o).cancelled = g.cancelled := rfl
@[simp] theorem dropOp_killed (g : Gang) (o : Nat) : (g.dropOp o).killed = g.killed := rfl
@[simp] theorem dropOp_saving (g : Gang) (o : Nat) : (g.dropOp o).saving = g.saving := rfl
@[simp] theorem dropOp_crashed (g : Gang) (o : Nat) : (g.dropOp o).crashed = g.crashed := rfl
@[simp] theorem dropOp_lastIssue (g : Gang) (o : Nat) : (g.dropOp o).lastIssue = g.lastIssue := rfl
@[simp] theorem dropOp_packed (g : Gang) (o : Nat) : (g.dropOp o).packed = g.packed := rfl
@[simp] theorem dropOp_shown (g : Gang) (o : Nat) : (g.dropOp o).shown = g.shown := rfl
@[simp] theorem dropOp_badScalars (g : Gang) (o : Nat) : (g.dropOp o).badScalars = g.badScalars := rfl
@[simp] theorem dropOp_badMasks (g : Gang) (o : Nat) : (g.dropOp o).badMasks = g.badMasks := rfl

/-! ### Gang.counted -/

@[simp] theorem counted_id (g : Gang) (f : Flight) : (g.counted f).id = g.id := rfl
@[simp] theorem counted_team (g : Gang) (f : Flight) : (g.counted f).team = g.team := rfl
@[simp] theorem counted_index (g : Gang) (f : Flight) : (g.counted f).index = g.index := rfl
@[simp] theorem counted_width (g : Gang) (f : Flight) : (g.counted f).width = g.width := rfl
@[simp] theorem counted_vcount (g : Gang) (f : Flight) : (g.counted f).vcount = g.vcount := rfl
@[simp] theorem counted_quads (g : Gang) (f : Flight) : (g.counted f).quads = g.quads := rfl
@[simp] theorem counted_gslot (g : Gang) (f : Flight) : (g.counted f).gslot = g.gslot := rfl
@[simp] theorem counted_threads (g : Gang) (f : Flight) : (g.counted f).threads = g.threads := rfl
@[simp] theorem counted_sregs (g : Gang) (f : Flight) : (g.counted f).sregs = g.sregs := rfl
@[simp] theorem counted_masks (g : Gang) (f : Flight) : (g.counted f).masks = g.masks := rfl
@[simp] theorem counted_prio (g : Gang) (f : Flight) : (g.counted f).prio = g.prio := rfl
@[simp] theorem counted_fmode (g : Gang) (f : Flight) : (g.counted f).fmode = g.fmode := rfl
@[simp] theorem counted_fstat (g : Gang) (f : Flight) : (g.counted f).fstat = g.fstat := rfl
@[simp] theorem counted_cvsub (g : Gang) (f : Flight) : (g.counted f).cvsub = g.cvsub := rfl
@[simp] theorem counted_lvt0 (g : Gang) (f : Flight) : (g.counted f).lvt0 = g.lvt0 := rfl
@[simp] theorem counted_lvt1 (g : Gang) (f : Flight) : (g.counted f).lvt1 = g.lvt1 := rfl
@[simp] theorem counted_gcur (g : Gang) (f : Flight) : (g.counted f).gcur = g.gcur := rfl
@[simp] theorem counted_tvec (g : Gang) (f : Flight) : (g.counted f).tvec = g.tvec := rfl
@[simp] theorem counted_dbsel (g : Gang) (f : Flight) : (g.counted f).dbsel = g.dbsel := rfl
@[simp] theorem counted_layouts (g : Gang) (f : Flight) : (g.counted f).layouts = g.layouts := rfl
@[simp] theorem counted_slots (g : Gang) (f : Flight) : (g.counted f).slots = g.slots := rfl
@[simp] theorem counted_ops (g : Gang) (f : Flight) : (g.counted f).ops = g.ops := rfl
@[simp] theorem counted_targets (g : Gang) (f : Flight) : (g.counted f).targets = g.targets := rfl
@[simp] theorem counted_sealedNo (g : Gang) (f : Flight) : (g.counted f).sealedNo = g.sealedNo := rfl
@[simp] theorem counted_sealedAny (g : Gang) (f : Flight) : (g.counted f).sealedAny = g.sealedAny := rfl
@[simp] theorem counted_batches (g : Gang) (f : Flight) : (g.counted f).batches = g.batches := rfl
@[simp] theorem counted_loose (g : Gang) (f : Flight) : (g.counted f).loose = g.loose := rfl
@[simp] theorem counted_withheld (g : Gang) (f : Flight) : (g.counted f).withheld = g.withheld := rfl
@[simp] theorem counted_issues (g : Gang) (f : Flight) : (g.counted f).issues = g.issues := rfl
@[simp] theorem counted_stalls (g : Gang) (f : Flight) : (g.counted f).stalls = g.stalls := rfl
@[simp] theorem counted_stall (g : Gang) (f : Flight) : (g.counted f).stall = g.stall := rfl
@[simp] theorem counted_suspended (g : Gang) (f : Flight) : (g.counted f).suspended = g.suspended := rfl
@[simp] theorem counted_halt (g : Gang) (f : Flight) : (g.counted f).halt = g.halt := rfl
@[simp] theorem counted_cancelled (g : Gang) (f : Flight) : (g.counted f).cancelled = g.cancelled := rfl
@[simp] theorem counted_killed (g : Gang) (f : Flight) : (g.counted f).killed = g.killed := rfl
@[simp] theorem counted_saving (g : Gang) (f : Flight) : (g.counted f).saving = g.saving := rfl
@[simp] theorem counted_crashed (g : Gang) (f : Flight) : (g.counted f).crashed = g.crashed := rfl
@[simp] theorem counted_lastIssue (g : Gang) (f : Flight) : (g.counted f).lastIssue = g.lastIssue := rfl
@[simp] theorem counted_packed (g : Gang) (f : Flight) : (g.counted f).packed = g.packed := rfl
@[simp] theorem counted_shown (g : Gang) (f : Flight) : (g.counted f).shown = g.shown := rfl
@[simp] theorem counted_badScalars (g : Gang) (f : Flight) : (g.counted f).badScalars = g.badScalars := rfl
@[simp] theorem counted_badMasks (g : Gang) (f : Flight) : (g.counted f).badMasks = g.badMasks := rfl

/-! ### Gang.setSreg -/

@[simp] theorem setSreg_id (g : Gang) (n : Nat) (v : W64) : (g.setSreg n v).id = g.id := by unfold Gang.setSreg; split <;> rfl
@[simp] theorem setSreg_team (g : Gang) (n : Nat) (v : W64) : (g.setSreg n v).team = g.team := by unfold Gang.setSreg; split <;> rfl
@[simp] theorem setSreg_index (g : Gang) (n : Nat) (v : W64) : (g.setSreg n v).index = g.index := by unfold Gang.setSreg; split <;> rfl
@[simp] theorem setSreg_width (g : Gang) (n : Nat) (v : W64) : (g.setSreg n v).width = g.width := by unfold Gang.setSreg; split <;> rfl
@[simp] theorem setSreg_vcount (g : Gang) (n : Nat) (v : W64) : (g.setSreg n v).vcount = g.vcount := by unfold Gang.setSreg; split <;> rfl
@[simp] theorem setSreg_quads (g : Gang) (n : Nat) (v : W64) : (g.setSreg n v).quads = g.quads := by unfold Gang.setSreg; split <;> rfl
@[simp] theorem setSreg_gslot (g : Gang) (n : Nat) (v : W64) : (g.setSreg n v).gslot = g.gslot := by unfold Gang.setSreg; split <;> rfl
@[simp] theorem setSreg_threads (g : Gang) (n : Nat) (v : W64) : (g.setSreg n v).threads = g.threads := by unfold Gang.setSreg; split <;> rfl
@[simp] theorem setSreg_flight (g : Gang) (n : Nat) (v : W64) : (g.setSreg n v).flight = g.flight := by unfold Gang.setSreg; split <;> rfl
@[simp] theorem setSreg_masks (g : Gang) (n : Nat) (v : W64) : (g.setSreg n v).masks = g.masks := by unfold Gang.setSreg; split <;> rfl
@[simp] theorem setSreg_prio (g : Gang) (n : Nat) (v : W64) : (g.setSreg n v).prio = g.prio := by unfold Gang.setSreg; split <;> rfl
@[simp] theorem setSreg_fmode (g : Gang) (n : Nat) (v : W64) : (g.setSreg n v).fmode = g.fmode := by unfold Gang.setSreg; split <;> rfl
@[simp] theorem setSreg_fstat (g : Gang) (n : Nat) (v : W64) : (g.setSreg n v).fstat = g.fstat := by unfold Gang.setSreg; split <;> rfl
@[simp] theorem setSreg_cvsub (g : Gang) (n : Nat) (v : W64) : (g.setSreg n v).cvsub = g.cvsub := by unfold Gang.setSreg; split <;> rfl
@[simp] theorem setSreg_lvt0 (g : Gang) (n : Nat) (v : W64) : (g.setSreg n v).lvt0 = g.lvt0 := by unfold Gang.setSreg; split <;> rfl
@[simp] theorem setSreg_lvt1 (g : Gang) (n : Nat) (v : W64) : (g.setSreg n v).lvt1 = g.lvt1 := by unfold Gang.setSreg; split <;> rfl
@[simp] theorem setSreg_gcur (g : Gang) (n : Nat) (v : W64) : (g.setSreg n v).gcur = g.gcur := by unfold Gang.setSreg; split <;> rfl
@[simp] theorem setSreg_tvec (g : Gang) (n : Nat) (v : W64) : (g.setSreg n v).tvec = g.tvec := by unfold Gang.setSreg; split <;> rfl
@[simp] theorem setSreg_dbsel (g : Gang) (n : Nat) (v : W64) : (g.setSreg n v).dbsel = g.dbsel := by unfold Gang.setSreg; split <;> rfl
@[simp] theorem setSreg_layouts (g : Gang) (n : Nat) (v : W64) : (g.setSreg n v).layouts = g.layouts := by unfold Gang.setSreg; split <;> rfl
@[simp] theorem setSreg_slots (g : Gang) (n : Nat) (v : W64) : (g.setSreg n v).slots = g.slots := by unfold Gang.setSreg; split <;> rfl
@[simp] theorem setSreg_ops (g : Gang) (n : Nat) (v : W64) : (g.setSreg n v).ops = g.ops := by unfold Gang.setSreg; split <;> rfl
@[simp] theorem setSreg_targets (g : Gang) (n : Nat) (v : W64) : (g.setSreg n v).targets = g.targets := by unfold Gang.setSreg; split <;> rfl
@[simp] theorem setSreg_sealedNo (g : Gang) (n : Nat) (v : W64) : (g.setSreg n v).sealedNo = g.sealedNo := by unfold Gang.setSreg; split <;> rfl
@[simp] theorem setSreg_sealedAny (g : Gang) (n : Nat) (v : W64) : (g.setSreg n v).sealedAny = g.sealedAny := by unfold Gang.setSreg; split <;> rfl
@[simp] theorem setSreg_batches (g : Gang) (n : Nat) (v : W64) : (g.setSreg n v).batches = g.batches := by unfold Gang.setSreg; split <;> rfl
@[simp] theorem setSreg_loose (g : Gang) (n : Nat) (v : W64) : (g.setSreg n v).loose = g.loose := by unfold Gang.setSreg; split <;> rfl
@[simp] theorem setSreg_withheld (g : Gang) (n : Nat) (v : W64) : (g.setSreg n v).withheld = g.withheld := by unfold Gang.setSreg; split <;> rfl
@[simp] theorem setSreg_issues (g : Gang) (n : Nat) (v : W64) : (g.setSreg n v).issues = g.issues := by unfold Gang.setSreg; split <;> rfl
@[simp] theorem setSreg_words (g : Gang) (n : Nat) (v : W64) : (g.setSreg n v).words = g.words := by unfold Gang.setSreg; split <;> rfl
@[simp] theorem setSreg_laneOps (g : Gang) (n : Nat) (v : W64) : (g.setSreg n v).laneOps = g.laneOps := by unfold Gang.setSreg; split <;> rfl
@[simp] theorem setSreg_stalls (g : Gang) (n : Nat) (v : W64) : (g.setSreg n v).stalls = g.stalls := by unfold Gang.setSreg; split <;> rfl
@[simp] theorem setSreg_stall (g : Gang) (n : Nat) (v : W64) : (g.setSreg n v).stall = g.stall := by unfold Gang.setSreg; split <;> rfl
@[simp] theorem setSreg_suspended (g : Gang) (n : Nat) (v : W64) : (g.setSreg n v).suspended = g.suspended := by unfold Gang.setSreg; split <;> rfl
@[simp] theorem setSreg_halt (g : Gang) (n : Nat) (v : W64) : (g.setSreg n v).halt = g.halt := by unfold Gang.setSreg; split <;> rfl
@[simp] theorem setSreg_pastWatch (g : Gang) (n : Nat) (v : W64) : (g.setSreg n v).pastWatch = g.pastWatch := by unfold Gang.setSreg; split <;> rfl
@[simp] theorem setSreg_cancelled (g : Gang) (n : Nat) (v : W64) : (g.setSreg n v).cancelled = g.cancelled := by unfold Gang.setSreg; split <;> rfl
@[simp] theorem setSreg_killed (g : Gang) (n : Nat) (v : W64) : (g.setSreg n v).killed = g.killed := by unfold Gang.setSreg; split <;> rfl
@[simp] theorem setSreg_saving (g : Gang) (n : Nat) (v : W64) : (g.setSreg n v).saving = g.saving := by unfold Gang.setSreg; split <;> rfl
@[simp] theorem setSreg_crashed (g : Gang) (n : Nat) (v : W64) : (g.setSreg n v).crashed = g.crashed := by unfold Gang.setSreg; split <;> rfl
@[simp] theorem setSreg_lastIssue (g : Gang) (n : Nat) (v : W64) : (g.setSreg n v).lastIssue = g.lastIssue := by unfold Gang.setSreg; split <;> rfl
@[simp] theorem setSreg_packed (g : Gang) (n : Nat) (v : W64) : (g.setSreg n v).packed = g.packed := by unfold Gang.setSreg; split <;> rfl
@[simp] theorem setSreg_shown (g : Gang) (n : Nat) (v : W64) : (g.setSreg n v).shown = g.shown := by unfold Gang.setSreg; split <;> rfl
@[simp] theorem setSreg_badMasks (g : Gang) (n : Nat) (v : W64) : (g.setSreg n v).badMasks = g.badMasks := by unfold Gang.setSreg; split <;> rfl

@[simp] theorem setSreg_badScalars (g : Gang) (n : Nat) (v : W64) :
    (g.setSreg n v).badScalars = if n = 0 then g.badScalars else g.badScalars.filter fun k => decide (k ≠ n) := by
  unfold Gang.setSreg; split <;> rfl
@[simp] theorem setMask_badMasks (g : Gang) (n : Nat) (v : Lanes) : (g.setMask n v).badMasks = g.badMasks.filter fun k => decide (k ≠ n) := rfl
@[simp] theorem merge_fstat (g : Gang) (fl : BitVec 8) : (g.merge fl).fstat = g.fstat ||| fl := rfl
@[simp] theorem setMask_masks (g : Gang) (n : Nat) (v : Lanes) : (g.setMask n v).masks = put g.masks n (v &&& g.lanes) := rfl

end Sys2Proof.Machine
end

