-- ==== Sys2Proof/Laws/Memory.lean ====
section
/-!
SUPPORT. Every operation over memory keeps the canonical form of every byte memory of the module, and what a write to memory, a record on the
event ring, a request and a trap can change.
-/
namespace Sys2Proof.Machine

/-! ## Keeping a property through folds and iterations -/

theorem foldl_keeps {α β : Type} (P : α → Prop) (f : α → β → α) (hf : ∀ a b, P a → P (f a b)) (bs : List β) (a : α) (h : P a) : P (bs.foldl f a) := by
  induction bs generalizing a with
  | nil => exact h
  | cons b r ih => exact ih _ (hf a b h)

theorem exhaust_keeps {α : Type} (P : α → Prop) (f : α → Option α) (hf : ∀ a b, f a = some b → P a → P b) (n : Nat) (a : α) (h : P a) : P (exhaust f n a) := by
  induction n generalizing a with
  | zero => exact h
  | succ n ih =>
    unfold exhaust
    split
    · next y e => exact ih y (hf a y e h)
    · exact h

/-! ## Byte memories -/

theorem wf_flushBytes (l : Line) (n : Nat) (m : List Host.Cell) (h : Memory.wf m = true) : Memory.wf (flushBytes l m n) = true := by
  induction n generalizing m with
  | zero => exact h
  | succ n ih => exact ih _ (by split <;> first | exact wf_put _ _ _ h | exact h)

theorem wf_puts (es : List (Nat × Byte)) (m : List Host.Cell) (h : Memory.wf m = true) : Memory.wf (es.foldl (fun m e => put m e.1 e.2) m) = true :=
  foldl_keeps (fun m => Memory.wf m = true) _ (fun m e h => wf_put m e.1 e.2 h) es m h

theorem wf_setUsed (m : List Host.Cell) (p : Page) (k : Kind) (h : Memory.wf m = true) : Memory.wf (setUsed m p k) = true := wf_put _ _ _ h

theorem wf_outside (m : List Host.Cell) (lo hi : Nat) (h : Memory.wf m = true) : Memory.wf (outside (w := 8) m lo hi) = true := wfCells_filter _ _ h

/-- A byte after the dirty bytes of a line went to their home. -/
theorem look_flushBytes (l : Line) (n : Nat) (m : List Host.Cell) (a : Nat) :
    look (flushBytes l m n) a = if 64 * l.line ≤ a ∧ a < 64 * l.line + n ∧ l.dirty.getLsbD (a - 64 * l.line) = true then l.byte (a - 64 * l.line) else look m a := by
  induction n generalizing m with
  | zero => simp only [flushBytes]; rw [if_neg (by omega)]
  | succ n ih =>
    simp only [flushBytes]
    rw [ih]
    by_cases e : a = 64 * l.line + n
    · subst e
      have e1 : 64 * l.line + n - 64 * l.line = n := by omega
      rw [if_neg (by omega), e1]
      by_cases d : l.dirty.getLsbD n = true
      · rw [if_pos d, if_pos ⟨by omega, by omega, d⟩, look_put_self]
      · rw [if_neg d, if_neg (fun h => d h.2.2)]
    · have e2 : look (if l.dirty.getLsbD n then put m (64 * l.line + n) (l.byte n) else m) a = look m a := by
        split
        · exact look_put_other _ _ _ _ (fun h => e h.symm)
        · rfl
      rw [e2]
      by_cases c : 64 * l.line ≤ a ∧ a < 64 * l.line + n ∧ l.dirty.getLsbD (a - 64 * l.line) = true
      · rw [if_pos c, if_pos ⟨c.1, by omega, c.2.2⟩]
      · rw [if_neg c, if_neg (fun h => c ⟨h.1, by omega, h.2.2⟩)]

/-! ## The module's memories -/

theorem State.MemoryForm.same {s t : State} (h : s.MemoryForm) (hp : t.phys = s.phys) (hc : t.common = s.common) (ht : t.teams = s.teams)
    (hs : t.saved = s.saved) : t.MemoryForm :=
  ⟨hp ▸ h.phys, hc ▸ h.common, ht ▸ h.scratch, hs ▸ h.saved⟩

theorem State.MemoryForm.withPhys {s : State} (h : s.MemoryForm) (m : List Host.Cell) (hm : Memory.wf m = true) : ({ s with phys := m } : State).MemoryForm :=
  ⟨hm, h.common, h.scratch, h.saved⟩

theorem State.MemoryForm.withCommon {s : State} (h : s.MemoryForm) (m : List Host.Cell) (hm : Memory.wf m = true) : ({ s with common := m } : State).MemoryForm :=
  ⟨h.phys, hm, h.scratch, h.saved⟩

theorem memoryForm_reset : State.reset.MemoryForm := ⟨rfl, rfl, by simp [State.reset], by simp [State.reset]⟩

theorem memoryForm_setGang {s : State} (h : s.MemoryForm) (g : Gang) : (s.setGang g).MemoryForm := h.same rfl rfl rfl rfl
theorem memoryForm_onGang {s : State} (h : s.MemoryForm) (i : Nat) (f : Gang → Gang) : (s.onGang i f).MemoryForm := h.same rfl rfl rfl rfl
theorem memoryForm_onCu {s : State} (h : s.MemoryForm) (n : Nat) (f : Cu → Cu) : (s.onCu n f).MemoryForm := h.same rfl rfl rfl rfl
theorem memoryForm_onDie {s : State} (h : s.MemoryForm) (n : Nat) (f : Die → Die) : (s.onDie n f).MemoryForm := h.same rfl rfl rfl rfl
theorem memoryForm_bump {s : State} (h : s.MemoryForm) : s.bump.MemoryForm := h.same rfl rfl rfl rfl
theorem memoryForm_send {s : State} (h : s.MemoryForm) (m : Message) : (s.send m).MemoryForm := h.same rfl rfl rfl rfl
theorem memoryForm_chosen {s : State} (h : s.MemoryForm) : s.chosen.MemoryForm := h.same rfl rfl rfl rfl
theorem memoryForm_onQueue {s : State} (h : s.MemoryForm) (n : Nat) (f : Queue → Queue) : (s.onQueue n f).MemoryForm := h.same rfl rfl rfl rfl
theorem memoryForm_onLaunch {s : State} (h : s.MemoryForm) (id : W32) (f : Launch → Launch) : (s.onLaunch id f).MemoryForm := h.same rfl rfl rfl rfl
theorem memoryForm_onSlot {s : State} (h : s.MemoryForm) (off : Nat) (f : Slot → Slot) : (s.onSlot off f).MemoryForm := h.same rfl rfl rfl rfl
theorem memoryForm_logLines {s : State} (h : s.MemoryForm) (ls : List (Bool × Nat)) : (s.logLines ls).MemoryForm :=
  ⟨foldl_keeps (fun m => Memory.wf m = true) _ (fun _ _ h => wf_storeBytes _ _ _ h) _ _ h.phys, h.common, h.scratch, h.saved⟩

/-- A change of one team keeps the form if it keeps the form of a scratch. -/
theorem memoryForm_onTeam {s : State} (h : s.MemoryForm) (i : Nat) (f : Team → Team) (hf : ∀ x, Memory.wf x.scratch = true → Memory.wf (f x).scratch = true) :
    (s.onTeam i f).MemoryForm := by
  refine ⟨h.phys, h.common, ?_, h.saved⟩
  intro t ht
  obtain ⟨x, hx, rfl⟩ := List.mem_map.mp ht
  split
  · exact hf x (h.scratch x hx)
  · exact h.scratch x hx

theorem memoryForm_storeHome {s : State} (h : s.MemoryForm) (p : Place) (bs : List Byte) : (s.storeHome p bs).MemoryForm := by
  cases p with
  | phys a => exact h.withPhys _ (wf_storeBytes _ _ _ h.phys)
  | common o => exact h.withCommon _ (wf_storeBytes _ _ _ h.common)
  | scratch t o => exact memoryForm_onTeam h t _ fun x hx => wf_storeBytes _ _ _ hx

theorem memoryForm_writeBackLine {s : State} (h : s.MemoryForm) (cu n : Nat) : (s.writeBackLine cu n).MemoryForm := by
  unfold State.writeBackLine
  split
  · exact memoryForm_onCu (h.withPhys _ (wf_flushBytes _ _ _ h.phys)) _ _
  · exact h

theorem memoryForm_writeBack {s : State} (h : s.MemoryForm) (cu : Nat) : (s.writeBack cu).MemoryForm :=
  foldl_keeps State.MemoryForm _ (fun _ _ h => memoryForm_writeBackLine h _ _) _ s h

theorem memoryForm_evict {s : State} (h : s.MemoryForm) (cu n : Nat) : (s.evict cu n).MemoryForm := memoryForm_onCu (memoryForm_writeBackLine h _ _) _ _

theorem memoryForm_makeRoom {s : State} (h : s.MemoryForm) (cu : Nat) : (s.makeRoom cu).MemoryForm := by
  unfold State.makeRoom
  split
  · exact h
  · split
    · exact memoryForm_evict h _ _
    · exact h

theorem memoryForm_fillLine {s : State} (h : s.MemoryForm) (cu n : Nat) : (s.fillLine cu n).MemoryForm := by
  unfold State.fillLine
  split
  · exact h
  · exact memoryForm_onCu (memoryForm_makeRoom h cu) _ _

theorem memoryForm_storeView {s : State} (h : s.MemoryForm) (cu : Nat) (p : Place) (bs : List Byte) : (s.storeView cu p bs).MemoryForm := by
  unfold State.storeView
  cases p with
  | phys a => exact memoryForm_onCu (memoryForm_fillLine h cu (a / 64)) _ _
  | common o => exact memoryForm_storeHome h (.common o) bs
  | scratch t o => exact memoryForm_storeHome h (.scratch t o) bs

theorem memoryForm_commitCu {s : State} (h : s.MemoryForm) (cu : Nat) : (s.commitCu cu).MemoryForm := by
  unfold State.commitCu
  split
  · exact h.same rfl rfl rfl rfl
  · exact h

theorem memoryForm_releaseActs {s : State} (h : s.MemoryForm) (cu scope : Nat) : (s.releaseActs cu scope).MemoryForm := by
  have h1 : (if 2 ≤ scope then s.writeBack cu else s).MemoryForm := by split <;> first | exact memoryForm_writeBack h _ | exact h
  unfold State.releaseActs
  simp only
  split
  · exact memoryForm_commitCu h1 _
  · exact h1

theorem memoryForm_acquireActs {s : State} (h : s.MemoryForm) (cu scope : Nat) : (s.acquireActs cu scope).MemoryForm := by
  have h1 : (if 2 ≤ scope then s.invalidate cu else s).MemoryForm := by split <;> first | exact memoryForm_onCu h _ _ | exact h
  unfold State.acquireActs
  simp only
  split
  · exact memoryForm_onCu h1 _ _
  · exact h1

theorem memoryForm_keep {s : State} (h : s.MemoryForm) (cu : Nat) (asid : BitVec 8) (k : Kind) (p : Page) : (s.keep cu asid k p).MemoryForm := by
  unfold State.keep
  split
  · exact h
  · exact memoryForm_onCu (h.withPhys _ (wf_setUsed _ _ _ h.phys)) _ _

theorem memoryForm_engineUsed {s : State} (h : s.MemoryForm) (k : Kind) (x : Xlate) : (s.engineUsed k x).MemoryForm := by
  unfold State.engineUsed
  split
  · exact h.withPhys _ (wf_setUsed _ _ _ h.phys)
  · exact h

theorem memoryForm_ringOne {s t : State} (d : Nat) (e : State.ringOne d s = some t) (h : s.MemoryForm) : t.MemoryForm := by
  unfold State.ringOne at e
  split at e
  · cases e
  · split at e
    · cases e; exact memoryForm_onDie (h.withCommon _ (wf_storeNat _ _ _ _ h.common)) _ _
    · cases e

theorem memoryForm_flushRing {s : State} (h : s.MemoryForm) (d : Nat) : (s.flushRing d).MemoryForm :=
  exhaust_keeps State.MemoryForm _ (fun _ _ e h => memoryForm_ringOne d e h) _ s h

theorem memoryForm_record {s : State} (h : s.MemoryForm) (d kind cause : Nat) (tag : W32) (handle addr : W64) :
    (s.record d kind cause tag handle addr).MemoryForm := memoryForm_flushRing (memoryForm_onDie h _ _) _

theorem memoryForm_request {s : State} (h : s.MemoryForm) (d kind cause : Nat) (handle addr : W64) (what : Pending) :
    (s.request d kind cause handle addr what).MemoryForm := by
  unfold State.request
  exact memoryForm_record (s := { s with named := s.named + 1, requests := s.requests ++ [TagReq.mk s.freshTag addr what] }) (h.same rfl rfl rfl rfl) _ _ _ _ _ _

theorem memoryForm_trap {s : State} (h : s.MemoryForm) (g : Gang) (f : Flight) (cause : Nat) (t : Lanes) (addr : W64) (skip : Bool) (size : Nat) :
    (s.trap g f cause t addr skip size).MemoryForm := by
  unfold State.trap
  simp only
  split
  · exact h.same rfl rfl rfl rfl
  · split
    · exact memoryForm_setGang h _
    · exact memoryForm_record (memoryForm_setGang h _) _ _ _ _ _ _

theorem memoryForm_suspend {s : State} (h : s.MemoryForm) (g : Gang) (f : Flight) (t : Lanes) (addr : W64) (size : Option Nat) : (s.suspend g f t addr size).MemoryForm := by
  unfold State.suspend
  simp only
  split
  · exact h.same rfl rfl rfl rfl
  · exact memoryForm_request (memoryForm_setGang h _) _ _ _ _ _ _

theorem memoryForm_setCounter {s : State} (h : s.MemoryForm) (off : Nat) (cx : Bool) (n : Nat) : (s.setCounter off cx n).MemoryForm := by
  unfold State.setCounter
  simp only
  split
  · exact (h.withCommon _ (wf_storeNat _ _ _ _ h.common)).same rfl rfl rfl rfl
  · exact h.withCommon _ (wf_storeNat _ _ _ _ h.common)

theorem memoryForm_setHeader {s : State} (h : s.MemoryForm) (off : Nat) (x : BitVec 512) : (s.setHeader off x).MemoryForm := by
  unfold State.setHeader
  simp only
  split
  · exact (h.withCommon _ (wf_storeNat _ _ _ _ h.common)).same rfl rfl rfl rfl
  · exact h.withCommon _ (wf_storeNat _ _ _ _ h.common)

theorem memoryForm_rmw {s : State} (h : s.MemoryForm) (cu : Nat) (p : Place) (n : Nat) (f : Nat → Nat) : (s.rmw cu p n f).MemoryForm := by
  unfold State.rmw State.ownHome State.ownCopy
  cases p with
  | phys a => exact memoryForm_onCu (memoryForm_storeHome (memoryForm_writeBackLine h cu (a / 64)) (.phys a) _) _ _
  | common o => exact memoryForm_storeHome h (.common o) _
  | scratch t o => exact memoryForm_storeHome h (.scratch t o) _

theorem memoryForm_undoOne {s : State} (h : s.MemoryForm) (u : Undo) : (s.undoOne u).MemoryForm := by
  unfold State.undoOne
  split
  · exact (h.withCommon _ (wf_storeNat _ _ _ _ h.common)).same rfl rfl rfl rfl
  · exact (h.withPhys _ (wf_storeNat _ _ _ _ h.phys)).same rfl rfl rfl rfl

theorem memoryForm_storeSpan {s : State} (h : s.MemoryForm) (ls : List (Bool × Nat)) (pas : List Nat) (bs : List Byte) : (s.storeSpan ls pas bs).MemoryForm :=
  State.MemoryForm.withPhys (memoryForm_logLines h ls) _ (wf_puts _ _ (memoryForm_logLines h ls).phys)

/-! ## What the shared operations can change -/

/-- A record changes the die, and common memory where the ring takes it. -/
theorem ringOne_frame {s t : State} (d : Nat) (e : State.ringOne d s = some t) : { t with common := s.common, dies := s.dies } = s := by
  unfold State.ringOne at e
  split at e
  · cases e
  · split at e
    · cases e; rfl
    · cases e

theorem record_frame (s : State) (d kind cause : Nat) (tag : W32) (handle addr : W64) :
    { s.record d kind cause tag handle addr with common := s.common, dies := s.dies } = s := by
  refine exhaust_keeps (fun t : State => { t with common := s.common, dies := s.dies } = s) _ ?_ _ _ rfl
  intro a b e h
  have h2 := ringOne_frame d e
  rw [← h, ← h2]

/-- A request is under the TAG that was the next, and a record is on its way; nothing else changes. -/
theorem request_frame (s : State) (d kind cause : Nat) (handle addr : W64) (what : Pending) :
    { s.request d kind cause handle addr what with common := s.common, dies := s.dies } =
      { s with named := s.named + 1, requests := s.requests ++ [TagReq.mk s.freshTag addr what] } :=
  record_frame { s with named := s.named + 1, requests := s.requests ++ [TagReq.mk s.freshTag addr what] } d kind cause s.freshTag handle addr

/-- A trap changes its gang, and has a record on the ring or a message on its way. -/
theorem trap_frame (s : State) (g : Gang) (f : Flight) (cause : Nat) (t : Lanes) (addr : W64) (skip : Bool) (size : Nat) :
    ∃ h, { s.trap g f cause t addr skip size with common := s.common, dies := s.dies, outbox := s.outbox } = s.setGang h := by
  unfold State.trap
  simp only
  split
  · exact ⟨_, rfl⟩
  · split
    · exact ⟨_, rfl⟩
    · refine ⟨(g.trapped f cause t addr skip size).settle, ?_⟩
      have h := record_frame (s.setGang (g.trapped f cause t addr skip size).settle) (dieOf (s.cuOf g)) 5 (g.lostCause cause t) 0 (s.handle g) 0
      exact congrArg (fun x : State => { x with outbox := s.outbox }) h

end Sys2Proof.Machine
end

