-- ==== Sys2Proof/Laws/PerInstr.lean ====
section
/-!
SUPPORT. Every instruction, named from the fields of its own word, is itself: the per-instruction half of the round trip of the decoder. An event
has no word.
-/
set_option linter.unusedSimpArgs false
namespace Sys2Proof.Laws.Layout

/-- The fields that the encoder gives an instruction name that instruction. -/
def Statement (i : Instr) : Prop := ∀ l, i.layout = some l → l.instr = some i

theorem join12 (w : BitVec 12) : w.extractLsb' 9 3 ++ w.extractLsb' 2 7 ++ w.extractLsb' 0 2 = w := by
  apply BitVec.eq_of_getLsbD_eq; intro i hi; simp; grind
theorem join18 (w : BitVec 18) : w.extractLsb' 14 4 ++ w.extractLsb' 7 7 ++ w.extractLsb' 0 7 = w := by
  apply BitVec.eq_of_getLsbD_eq; intro i hi; simp; grind
theorem join14 (w : BitVec 14) : w.extractLsb' 7 7 ++ w.extractLsb' 0 7 = w := by
  apply BitVec.eq_of_getLsbD_eq; intro i hi; simp; grind
theorem join11 (w : BitVec 11) : w.extractLsb' 7 4 ++ w.extractLsb' 0 7 = w := by
  apply BitVec.eq_of_getLsbD_eq; intro i hi; simp; grind
theorem join5 (w : BitVec 5) : w.extractLsb' 2 3 ++ w.extractLsb' 0 2 = w := by
  apply BitVec.eq_of_getLsbD_eq; intro i hi; simp; grind

theorem cut4a : ∀ (s : BitVec 1) (r : BitVec 2) (u : BitVec 1), (s ++ r ++ u).extractLsb' 3 1 = s := by decide
theorem cut4b : ∀ (s : BitVec 1) (r : BitVec 2) (u : BitVec 1), (s ++ r ++ u).extractLsb' 1 2 = r := by decide
theorem cut7a : ∀ (s : BitVec 1) (r t : BitVec 2) (h l : BitVec 1), (s ++ r ++ t ++ h ++ l).extractLsb' 6 1 = s := by decide
theorem cut7b : ∀ (s : BitVec 1) (r t : BitVec 2) (h l : BitVec 1), (s ++ r ++ t ++ h ++ l).extractLsb' 4 2 = r := by decide
theorem cut7c : ∀ (s : BitVec 1) (r t : BitVec 2) (h l : BitVec 1), (s ++ r ++ t ++ h ++ l).extractLsb' 2 2 = t := by decide
theorem cut7d : ∀ (s : BitVec 1) (r t : BitVec 2) (h l : BitVec 1), (s ++ r ++ t ++ h ++ l).extractLsb' 1 1 = h := by decide
theorem cut7e : ∀ (s : BitVec 1) (r : BitVec 2) (h : BitVec 1), (s ++ r ++ 0#3 ++ h).extractLsb' 6 1 = s := by decide
theorem cut7f : ∀ (s : BitVec 1) (r : BitVec 2) (h : BitVec 1), (s ++ r ++ 0#3 ++ h).extractLsb' 4 2 = r := by decide
theorem cut7g : ∀ (s : BitVec 1) (r : BitVec 2) (h : BitVec 1), (s ++ r ++ 0#3 ++ h).extractLsb' 1 3 = 0 := by decide
theorem cutCopyA : ∀ (l : BitVec 1) (c : BitVec 4) (m : BitVec 2), (l ++ c ++ m).extractLsb' 6 1 = l := by decide
theorem cutCopyB : ∀ (l : BitVec 1) (c : BitVec 4) (m : BitVec 2), (l ++ c ++ m).extractLsb' 2 4 = c := by decide
theorem cutCopyC : ∀ (f : BitVec 1) (g h : BitVec 3), (f ++ g ++ h).extractLsb' 6 1 = f := by decide
theorem cutCopyD : ∀ (f : BitVec 1) (g h : BitVec 3), (f ++ g ++ h).extractLsb' 3 3 = g := by decide
theorem cutLoadA : ∀ (m : BitVec 3) (s : BitVec 2), (0#2 ++ m ++ s).extractLsb' 5 2 = 0 := by decide
theorem cutLoadB : ∀ (m : BitVec 3) (s : BitVec 2), (0#2 ++ m ++ s).extractLsb' 2 3 = m := by decide
theorem cutInvA0 : ∀ (c : BitVec 1), (0#4 ++ c ++ 0#2).extractLsb' 3 4 = 0 := by decide
theorem cutInvB0 : ∀ (c : BitVec 1), (0#4 ++ c ++ 0#2).extractLsb' 2 1 = c := by decide
theorem cutInvA1 : ∀ (c : BitVec 1), (0#4 ++ c ++ 1#2).extractLsb' 3 4 = 0 := by decide
theorem cutInvB1 : ∀ (c : BitVec 1), (0#4 ++ c ++ 1#2).extractLsb' 2 1 = c := by decide
theorem cutInvA2 : ∀ (c : BitVec 1), (0#4 ++ c ++ 2#2).extractLsb' 3 4 = 0 := by decide
theorem cutInvB2 : ∀ (c : BitVec 1), (0#4 ++ c ++ 2#2).extractLsb' 2 1 = c := by decide

theorem clauseHeader (b : BitVec 4) (a : BitVec 4) (w : BitVec 12) (n : BitVec 5) : Statement (.clauseHeader b a w n) := by rintro l h; cases h; show major00 b (a ++ w.extractLsb' 9 3) (w.extractLsb' 2 7) (w.extractLsb' 0 2 ++ n) = some (.clauseHeader b a w n); simp only [major00, BitVec.extractLsb'_append_eq_left, BitVec.extractLsb'_append_eq_right, join12] <;> rfl
theorem stalledWordResume (g : Nat) : Statement (.stalledWordResume g) := nofun
theorem movShort (i : BitVec 1) (b : BitVec 5) (d : BitVec 5) : Statement (.movShort i b d) := by rintro l h; cases h; first | rfl | simp [Layout.instr, shortInstr]
theorem addI32Short (i : BitVec 1) (b : BitVec 5) (d : BitVec 5) : Statement (.addI32Short i b d) := by rintro l h; cases h; first | rfl | simp [Layout.instr, shortInstr]
theorem subI32Short (i : BitVec 1) (b : BitVec 5) (d : BitVec 5) : Statement (.subI32Short i b d) := by rintro l h; cases h; first | rfl | simp [Layout.instr, shortInstr]
theorem mulI32Short (i : BitVec 1) (b : BitVec 5) (d : BitVec 5) : Statement (.mulI32Short i b d) := by rintro l h; cases h; first | rfl | simp [Layout.instr, shortInstr]
theorem andShort (i : BitVec 1) (b : BitVec 5) (d : BitVec 5) : Statement (.andShort i b d) := by rintro l h; cases h; first | rfl | simp [Layout.instr, shortInstr]
theorem orShort (i : BitVec 1) (b : BitVec 5) (d : BitVec 5) : Statement (.orShort i b d) := by rintro l h; cases h; first | rfl | simp [Layout.instr, shortInstr]
theorem xorShort (i : BitVec 1) (b : BitVec 5) (d : BitVec 5) : Statement (.xorShort i b d) := by rintro l h; cases h; first | rfl | simp [Layout.instr, shortInstr]
theorem shlShort (i : BitVec 1) (b : BitVec 5) (d : BitVec 5) : Statement (.shlShort i b d) := by rintro l h; cases h; first | rfl | simp [Layout.instr, shortInstr]
theorem shrShort (i : BitVec 1) (b : BitVec 5) (d : BitVec 5) : Statement (.shrShort i b d) := by rintro l h; cases h; first | rfl | simp [Layout.instr, shortInstr]
theorem sarShort (i : BitVec 1) (b : BitVec 5) (d : BitVec 5) : Statement (.sarShort i b d) := by rintro l h; cases h; first | rfl | simp [Layout.instr, shortInstr]
theorem addF32Short (i : BitVec 1) (b : BitVec 5) (d : BitVec 5) : Statement (.addF32Short i b d) := by rintro l h; cases h; first | rfl | simp [Layout.instr, shortInstr]
theorem subF32Short (i : BitVec 1) (b : BitVec 5) (d : BitVec 5) : Statement (.subF32Short i b d) := by rintro l h; cases h; first | rfl | simp [Layout.instr, shortInstr]
theorem mulF32Short (i : BitVec 1) (b : BitVec 5) (d : BitVec 5) : Statement (.mulF32Short i b d) := by rintro l h; cases h; first | rfl | simp [Layout.instr, shortInstr]
theorem minF32Short (i : BitVec 1) (b : BitVec 5) (d : BitVec 5) : Statement (.minF32Short i b d) := by rintro l h; cases h; first | rfl | simp [Layout.instr, shortInstr]
theorem maxF32Short (i : BitVec 1) (b : BitVec 5) (d : BitVec 5) : Statement (.maxF32Short i b d) := by rintro l h; cases h; first | rfl | simp [Layout.instr, shortInstr]
theorem nop : Statement (.nop) := by rintro l h; cases h; first | rfl | simp [Layout.instr, shortInstr]
theorem addI32 (b : BitVec 7) (a : BitVec 7) (d : BitVec 7) : Statement (.addI32 b a d) := by rintro l h; cases h; rfl
theorem subI32 (b : BitVec 7) (a : BitVec 7) (d : BitVec 7) : Statement (.subI32 b a d) := by rintro l h; cases h; rfl
theorem mulI32 (b : BitVec 7) (a : BitVec 7) (d : BitVec 7) : Statement (.mulI32 b a d) := by rintro l h; cases h; rfl
theorem mulhiI32 (b : BitVec 7) (a : BitVec 7) (d : BitVec 7) : Statement (.mulhiI32 b a d) := by rintro l h; cases h; rfl
theorem mulhiN32 (b : BitVec 7) (a : BitVec 7) (d : BitVec 7) : Statement (.mulhiN32 b a d) := by rintro l h; cases h; rfl
theorem madI32 (b : BitVec 7) (a : BitVec 7) (d : BitVec 7) : Statement (.madI32 b a d) := by rintro l h; cases h; rfl
theorem minI32 (b : BitVec 7) (a : BitVec 7) (d : BitVec 7) : Statement (.minI32 b a d) := by rintro l h; cases h; rfl
theorem maxI32 (b : BitVec 7) (a : BitVec 7) (d : BitVec 7) : Statement (.maxI32 b a d) := by rintro l h; cases h; rfl
theorem minN32 (b : BitVec 7) (a : BitVec 7) (d : BitVec 7) : Statement (.minN32 b a d) := by rintro l h; cases h; rfl
theorem maxN32 (b : BitVec 7) (a : BitVec 7) (d : BitVec 7) : Statement (.maxN32 b a d) := by rintro l h; cases h; rfl
theorem and (b : BitVec 7) (a : BitVec 7) (d : BitVec 7) : Statement (.and b a d) := by rintro l h; cases h; rfl
theorem or (b : BitVec 7) (a : BitVec 7) (d : BitVec 7) : Statement (.or b a d) := by rintro l h; cases h; rfl
theorem xor (b : BitVec 7) (a : BitVec 7) (d : BitVec 7) : Statement (.xor b a d) := by rintro l h; cases h; rfl
theorem shl (b : BitVec 7) (a : BitVec 7) (d : BitVec 7) : Statement (.shl b a d) := by rintro l h; cases h; rfl
theorem shr (b : BitVec 7) (a : BitVec 7) (d : BitVec 7) : Statement (.shr b a d) := by rintro l h; cases h; rfl
theorem sar (b : BitVec 7) (a : BitVec 7) (d : BitVec 7) : Statement (.sar b a d) := by rintro l h; cases h; rfl
theorem addi (i : BitVec 11) (a : BitVec 7) (d : BitVec 7) : Statement (.addi i a d) := by rintro l h; cases h; show major03 (i.extractLsb' 7 4) (i.extractLsb' 0 7) a d = some (.addi i a d); simp only [major03, join11] <;> rfl
theorem muli (i : BitVec 11) (a : BitVec 7) (d : BitVec 7) : Statement (.muli i a d) := by rintro l h; cases h; show major04 (i.extractLsb' 7 4) (i.extractLsb' 0 7) a d = some (.muli i a d); simp only [major04, join11] <;> rfl
theorem andi (i : BitVec 11) (a : BitVec 7) (d : BitVec 7) : Statement (.andi i a d) := by rintro l h; cases h; show major05 (i.extractLsb' 7 4) (i.extractLsb' 0 7) a d = some (.andi i a d); simp only [major05, join11] <;> rfl
theorem ori (i : BitVec 11) (a : BitVec 7) (d : BitVec 7) : Statement (.ori i a d) := by rintro l h; cases h; show major06 (i.extractLsb' 7 4) (i.extractLsb' 0 7) a d = some (.ori i a d); simp only [major06, join11] <;> rfl
theorem xori (i : BitVec 11) (a : BitVec 7) (d : BitVec 7) : Statement (.xori i a d) := by rintro l h; cases h; show major07 (i.extractLsb' 7 4) (i.extractLsb' 0 7) a d = some (.xori i a d); simp only [major07, join11] <;> rfl
theorem shiShl (n : BitVec 5) (a : BitVec 7) (d : BitVec 7) : Statement (.shiShl n a d) := by rintro l h; cases h; show major08 0#4 (0#2 ++ n) a d = some (.shiShl n a d); simp only [major08, BitVec.extractLsb'_append_eq_left, BitVec.extractLsb'_append_eq_right] <;> rfl
theorem shiShr (n : BitVec 5) (a : BitVec 7) (d : BitVec 7) : Statement (.shiShr n a d) := by rintro l h; cases h; show major08 0#4 (1#2 ++ n) a d = some (.shiShr n a d); simp only [major08, BitVec.extractLsb'_append_eq_left, BitVec.extractLsb'_append_eq_right] <;> rfl
theorem shiSar (n : BitVec 5) (a : BitVec 7) (d : BitVec 7) : Statement (.shiSar n a d) := by rintro l h; cases h; show major08 0#4 (2#2 ++ n) a d = some (.shiSar n a d); simp only [major08, BitVec.extractLsb'_append_eq_left, BitVec.extractLsb'_append_eq_right] <;> rfl
theorem rol (n : BitVec 5) (a : BitVec 7) (d : BitVec 7) : Statement (.rol n a d) := by rintro l h; cases h; show major08 0#4 (3#2 ++ n) a d = some (.rol n a d); simp only [major08, BitVec.extractLsb'_append_eq_left, BitVec.extractLsb'_append_eq_right] <;> rfl
theorem not (a : BitVec 7) (d : BitVec 7) : Statement (.not a d) := by rintro l h; cases h; rfl
theorem negI32 (a : BitVec 7) (d : BitVec 7) : Statement (.negI32 a d) := by rintro l h; cases h; rfl
theorem absI32 (a : BitVec 7) (d : BitVec 7) : Statement (.absI32 a d) := by rintro l h; cases h; rfl
theorem popc (a : BitVec 7) (d : BitVec 7) : Statement (.popc a d) := by rintro l h; cases h; rfl
theorem clz (a : BitVec 7) (d : BitVec 7) : Statement (.clz a d) := by rintro l h; cases h; rfl
theorem ctz (a : BitVec 7) (d : BitVec 7) : Statement (.ctz a d) := by rintro l h; cases h; rfl
theorem brev (a : BitVec 7) (d : BitVec 7) : Statement (.brev a d) := by rintro l h; cases h; rfl
theorem sxt8 (a : BitVec 7) (d : BitVec 7) : Statement (.sxt8 a d) := by rintro l h; cases h; rfl
theorem sxt16 (a : BitVec 7) (d : BitVec 7) : Statement (.sxt16 a d) := by rintro l h; cases h; rfl
theorem zxt8 (a : BitVec 7) (d : BitVec 7) : Statement (.zxt8 a d) := by rintro l h; cases h; rfl
theorem zxt16 (a : BitVec 7) (d : BitVec 7) : Statement (.zxt16 a d) := by rintro l h; cases h; rfl
theorem bfeN (w : BitVec 5) (p : BitVec 5) (a : BitVec 7) (d : BitVec 7) : Statement (.bfeN w p a d) := by rintro l h; cases h; show major0A (0#1 ++ w.extractLsb' 2 3) (w.extractLsb' 0 2 ++ p) a d = some (.bfeN w p a d); simp only [major0A, BitVec.extractLsb'_append_eq_left, BitVec.extractLsb'_append_eq_right, join5] <;> rfl
theorem bfeI (w : BitVec 5) (p : BitVec 5) (a : BitVec 7) (d : BitVec 7) : Statement (.bfeI w p a d) := by rintro l h; cases h; show major0A (1#1 ++ w.extractLsb' 2 3) (w.extractLsb' 0 2 ++ p) a d = some (.bfeI w p a d); simp only [major0A, BitVec.extractLsb'_append_eq_left, BitVec.extractLsb'_append_eq_right, join5] <;> rfl
theorem bfi (w : BitVec 5) (p : BitVec 5) (a : BitVec 7) (d : BitVec 7) : Statement (.bfi w p a d) := by rintro l h; cases h; show major0B (0#1 ++ w.extractLsb' 2 3) (w.extractLsb' 0 2 ++ p) a d = some (.bfi w p a d); simp only [major0B, BitVec.extractLsb'_append_eq_left, BitVec.extractLsb'_append_eq_right, join5] <;> rfl
theorem icmpEq (b : BitVec 7) (a : BitVec 7) (m : BitVec 4) : Statement (.icmpEq b a m) := by rintro l h; cases h; show major0C 0#4 b a (0#3 ++ m) = some (.icmpEq b a m); simp only [major0C, BitVec.extractLsb'_append_eq_left, BitVec.extractLsb'_append_eq_right] <;> rfl
theorem icmpNe (b : BitVec 7) (a : BitVec 7) (m : BitVec 4) : Statement (.icmpNe b a m) := by rintro l h; cases h; show major0C 1#4 b a (0#3 ++ m) = some (.icmpNe b a m); simp only [major0C, BitVec.extractLsb'_append_eq_left, BitVec.extractLsb'_append_eq_right] <;> rfl
theorem icmpLtI (b : BitVec 7) (a : BitVec 7) (m : BitVec 4) : Statement (.icmpLtI b a m) := by rintro l h; cases h; show major0C 2#4 b a (0#3 ++ m) = some (.icmpLtI b a m); simp only [major0C, BitVec.extractLsb'_append_eq_left, BitVec.extractLsb'_append_eq_right] <;> rfl
theorem icmpLeI (b : BitVec 7) (a : BitVec 7) (m : BitVec 4) : Statement (.icmpLeI b a m) := by rintro l h; cases h; show major0C 3#4 b a (0#3 ++ m) = some (.icmpLeI b a m); simp only [major0C, BitVec.extractLsb'_append_eq_left, BitVec.extractLsb'_append_eq_right] <;> rfl
theorem icmpGtI (b : BitVec 7) (a : BitVec 7) (m : BitVec 4) : Statement (.icmpGtI b a m) := by rintro l h; cases h; show major0C 4#4 b a (0#3 ++ m) = some (.icmpGtI b a m); simp only [major0C, BitVec.extractLsb'_append_eq_left, BitVec.extractLsb'_append_eq_right] <;> rfl
theorem icmpGeI (b : BitVec 7) (a : BitVec 7) (m : BitVec 4) : Statement (.icmpGeI b a m) := by rintro l h; cases h; show major0C 5#4 b a (0#3 ++ m) = some (.icmpGeI b a m); simp only [major0C, BitVec.extractLsb'_append_eq_left, BitVec.extractLsb'_append_eq_right] <;> rfl
theorem icmpLtN (b : BitVec 7) (a : BitVec 7) (m : BitVec 4) : Statement (.icmpLtN b a m) := by rintro l h; cases h; show major0C 6#4 b a (0#3 ++ m) = some (.icmpLtN b a m); simp only [major0C, BitVec.extractLsb'_append_eq_left, BitVec.extractLsb'_append_eq_right] <;> rfl
theorem icmpLeN (b : BitVec 7) (a : BitVec 7) (m : BitVec 4) : Statement (.icmpLeN b a m) := by rintro l h; cases h; show major0C 7#4 b a (0#3 ++ m) = some (.icmpLeN b a m); simp only [major0C, BitVec.extractLsb'_append_eq_left, BitVec.extractLsb'_append_eq_right] <;> rfl
theorem icmpGtN (b : BitVec 7) (a : BitVec 7) (m : BitVec 4) : Statement (.icmpGtN b a m) := by rintro l h; cases h; show major0C 8#4 b a (0#3 ++ m) = some (.icmpGtN b a m); simp only [major0C, BitVec.extractLsb'_append_eq_left, BitVec.extractLsb'_append_eq_right] <;> rfl
theorem icmpGeN (b : BitVec 7) (a : BitVec 7) (m : BitVec 4) : Statement (.icmpGeN b a m) := by rintro l h; cases h; show major0C 9#4 b a (0#3 ++ m) = some (.icmpGeN b a m); simp only [major0C, BitVec.extractLsb'_append_eq_left, BitVec.extractLsb'_append_eq_right] <;> rfl
theorem sel (m : BitVec 4) (b : BitVec 7) (a : BitVec 7) (d : BitVec 7) : Statement (.sel m b a d) := by rintro l h; cases h; rfl
theorem li (i : BitVec 18) (d : BitVec 7) : Statement (.li i d) := by rintro l h; cases h; show major0F (i.extractLsb' 14 4) (i.extractLsb' 7 7) (i.extractLsb' 0 7) d = some (.li i d); simp only [major0F, join18] <;> rfl
theorem liu (i : BitVec 18) (d : BitVec 7) : Statement (.liu i d) := by rintro l h; cases h; show major10 (i.extractLsb' 14 4) (i.extractLsb' 7 7) (i.extractLsb' 0 7) d = some (.liu i d); simp only [major10, join18] <;> rfl
theorem addF32 (b : BitVec 7) (a : BitVec 7) (d : BitVec 7) : Statement (.addF32 b a d) := by rintro l h; cases h; rfl
theorem subF32 (b : BitVec 7) (a : BitVec 7) (d : BitVec 7) : Statement (.subF32 b a d) := by rintro l h; cases h; rfl
theorem mulF32 (b : BitVec 7) (a : BitVec 7) (d : BitVec 7) : Statement (.mulF32 b a d) := by rintro l h; cases h; rfl
theorem fmaF32 (b : BitVec 7) (a : BitVec 7) (d : BitVec 7) : Statement (.fmaF32 b a d) := by rintro l h; cases h; rfl
theorem fmsF32 (b : BitVec 7) (a : BitVec 7) (d : BitVec 7) : Statement (.fmsF32 b a d) := by rintro l h; cases h; rfl
theorem fnmaF32 (b : BitVec 7) (a : BitVec 7) (d : BitVec 7) : Statement (.fnmaF32 b a d) := by rintro l h; cases h; rfl
theorem minF32 (b : BitVec 7) (a : BitVec 7) (d : BitVec 7) : Statement (.minF32 b a d) := by rintro l h; cases h; rfl
theorem maxF32 (b : BitVec 7) (a : BitVec 7) (d : BitVec 7) : Statement (.maxF32 b a d) := by rintro l h; cases h; rfl
theorem copysignF32 (b : BitVec 7) (a : BitVec 7) (d : BitVec 7) : Statement (.copysignF32 b a d) := by rintro l h; cases h; rfl
theorem scaleF32 (b : BitVec 7) (a : BitVec 7) (d : BitVec 7) : Statement (.scaleF32 b a d) := by rintro l h; cases h; rfl
theorem getexpF32 (a : BitVec 7) (d : BitVec 7) : Statement (.getexpF32 a d) := by rintro l h; cases h; rfl
theorem fcmpEq (b : BitVec 7) (a : BitVec 7) (m : BitVec 4) : Statement (.fcmpEq b a m) := by rintro l h; cases h; show major13 0#4 b a (0#3 ++ m) = some (.fcmpEq b a m); simp only [major13, BitVec.extractLsb'_append_eq_left, BitVec.extractLsb'_append_eq_right] <;> rfl
theorem fcmpNe (b : BitVec 7) (a : BitVec 7) (m : BitVec 4) : Statement (.fcmpNe b a m) := by rintro l h; cases h; show major13 1#4 b a (0#3 ++ m) = some (.fcmpNe b a m); simp only [major13, BitVec.extractLsb'_append_eq_left, BitVec.extractLsb'_append_eq_right] <;> rfl
theorem fcmpLt (b : BitVec 7) (a : BitVec 7) (m : BitVec 4) : Statement (.fcmpLt b a m) := by rintro l h; cases h; show major13 2#4 b a (0#3 ++ m) = some (.fcmpLt b a m); simp only [major13, BitVec.extractLsb'_append_eq_left, BitVec.extractLsb'_append_eq_right] <;> rfl
theorem fcmpLe (b : BitVec 7) (a : BitVec 7) (m : BitVec 4) : Statement (.fcmpLe b a m) := by rintro l h; cases h; show major13 3#4 b a (0#3 ++ m) = some (.fcmpLe b a m); simp only [major13, BitVec.extractLsb'_append_eq_left, BitVec.extractLsb'_append_eq_right] <;> rfl
theorem fcmpGt (b : BitVec 7) (a : BitVec 7) (m : BitVec 4) : Statement (.fcmpGt b a m) := by rintro l h; cases h; show major13 4#4 b a (0#3 ++ m) = some (.fcmpGt b a m); simp only [major13, BitVec.extractLsb'_append_eq_left, BitVec.extractLsb'_append_eq_right] <;> rfl
theorem fcmpGe (b : BitVec 7) (a : BitVec 7) (m : BitVec 4) : Statement (.fcmpGe b a m) := by rintro l h; cases h; show major13 5#4 b a (0#3 ++ m) = some (.fcmpGe b a m); simp only [major13, BitVec.extractLsb'_append_eq_left, BitVec.extractLsb'_append_eq_right] <;> rfl
theorem fcmpUno (b : BitVec 7) (a : BitVec 7) (m : BitVec 4) : Statement (.fcmpUno b a m) := by rintro l h; cases h; show major13 6#4 b a (0#3 ++ m) = some (.fcmpUno b a m); simp only [major13, BitVec.extractLsb'_append_eq_left, BitVec.extractLsb'_append_eq_right] <;> rfl
theorem fcmpOrd (b : BitVec 7) (a : BitVec 7) (m : BitVec 4) : Statement (.fcmpOrd b a m) := by rintro l h; cases h; show major13 7#4 b a (0#3 ++ m) = some (.fcmpOrd b a m); simp only [major13, BitVec.extractLsb'_append_eq_left, BitVec.extractLsb'_append_eq_right] <;> rfl
theorem absF32 (a : BitVec 7) (d : BitVec 7) : Statement (.absF32 a d) := by rintro l h; cases h; rfl
theorem negF32 (a : BitVec 7) (d : BitVec 7) : Statement (.negF32 a d) := by rintro l h; cases h; rfl
theorem rcpF32 (a : BitVec 7) (d : BitVec 7) : Statement (.rcpF32 a d) := by rintro l h; cases h; rfl
theorem rsqF32 (a : BitVec 7) (d : BitVec 7) : Statement (.rsqF32 a d) := by rintro l h; cases h; rfl
theorem sqrtF32 (a : BitVec 7) (d : BitVec 7) : Statement (.sqrtF32 a d) := by rintro l h; cases h; rfl
theorem exp2F32 (a : BitVec 7) (d : BitVec 7) : Statement (.exp2F32 a d) := by rintro l h; cases h; rfl
theorem log2F32 (a : BitVec 7) (d : BitVec 7) : Statement (.log2F32 a d) := by rintro l h; cases h; rfl
theorem sinF32 (a : BitVec 7) (d : BitVec 7) : Statement (.sinF32 a d) := by rintro l h; cases h; rfl
theorem cosF32 (a : BitVec 7) (d : BitVec 7) : Statement (.cosF32 a d) := by rintro l h; cases h; rfl
theorem floorF32 (a : BitVec 7) (d : BitVec 7) : Statement (.floorF32 a d) := by rintro l h; cases h; rfl
theorem ceilF32 (a : BitVec 7) (d : BitVec 7) : Statement (.ceilF32 a d) := by rintro l h; cases h; rfl
theorem truncF32 (a : BitVec 7) (d : BitVec 7) : Statement (.truncF32 a d) := by rintro l h; cases h; rfl
theorem rintF32 (a : BitVec 7) (d : BitVec 7) : Statement (.rintF32 a d) := by rintro l h; cases h; rfl
theorem fracF32 (a : BitVec 7) (d : BitVec 7) : Statement (.fracF32 a d) := by rintro l h; cases h; rfl
theorem classF32 (a : BitVec 7) (d : BitVec 7) : Statement (.classF32 a d) := by rintro l h; cases h; rfl
theorem addF16x2 (b : BitVec 7) (a : BitVec 7) (d : BitVec 7) : Statement (.addF16x2 b a d) := by rintro l h; cases h; rfl
theorem mulF16x2 (b : BitVec 7) (a : BitVec 7) (d : BitVec 7) : Statement (.mulF16x2 b a d) := by rintro l h; cases h; rfl
theorem fmaF16x2 (b : BitVec 7) (a : BitVec 7) (d : BitVec 7) : Statement (.fmaF16x2 b a d) := by rintro l h; cases h; rfl
theorem minF16x2 (b : BitVec 7) (a : BitVec 7) (d : BitVec 7) : Statement (.minF16x2 b a d) := by rintro l h; cases h; rfl
theorem maxF16x2 (b : BitVec 7) (a : BitVec 7) (d : BitVec 7) : Statement (.maxF16x2 b a d) := by rintro l h; cases h; rfl
theorem addBf16x2 (b : BitVec 7) (a : BitVec 7) (d : BitVec 7) : Statement (.addBf16x2 b a d) := by rintro l h; cases h; rfl
theorem mulBf16x2 (b : BitVec 7) (a : BitVec 7) (d : BitVec 7) : Statement (.mulBf16x2 b a d) := by rintro l h; cases h; rfl
theorem fmaBf16x2 (b : BitVec 7) (a : BitVec 7) (d : BitVec 7) : Statement (.fmaBf16x2 b a d) := by rintro l h; cases h; rfl
theorem minBf16x2 (b : BitVec 7) (a : BitVec 7) (d : BitVec 7) : Statement (.minBf16x2 b a d) := by rintro l h; cases h; rfl
theorem maxBf16x2 (b : BitVec 7) (a : BitVec 7) (d : BitVec 7) : Statement (.maxBf16x2 b a d) := by rintro l h; cases h; rfl
theorem dot4I8 (b : BitVec 7) (a : BitVec 7) (d : BitVec 7) : Statement (.dot4I8 b a d) := by rintro l h; cases h; rfl
theorem dot4N8 (b : BitVec 7) (a : BitVec 7) (d : BitVec 7) : Statement (.dot4N8 b a d) := by rintro l h; cases h; rfl
theorem dot2F16 (b : BitVec 7) (a : BitVec 7) (d : BitVec 7) : Statement (.dot2F16 b a d) := by rintro l h; cases h; rfl
theorem dot2Bf16 (b : BitVec 7) (a : BitVec 7) (d : BitVec 7) : Statement (.dot2Bf16 b a d) := by rintro l h; cases h; rfl
theorem dot8I4 (b : BitVec 7) (a : BitVec 7) (d : BitVec 7) : Statement (.dot8I4 b a d) := by rintro l h; cases h; rfl
theorem cvt (s : BitVec 1) (r : BitVec 2) (u : BitVec 1) (c : BitVec 3) (t : BitVec 4) (a : BitVec 7) (d : BitVec 7) : Statement (.cvt s r u c t a d) := by rintro l h; cases h; show major18 (s ++ r ++ u) (c ++ t) a d = some (.cvt s r u c t a d); simp only [major18, BitVec.extractLsb'_append_eq_left, BitVec.extractLsb'_append_eq_right, cut4a, cut4b] <;> rfl
theorem cvtpByte (s : BitVec 1) (r : BitVec 2) (t : BitVec 2) (h : BitVec 1) (l : BitVec 1) (a : BitVec 7) (d : BitVec 7) : Statement (.cvtpByte s r t h l a d) := by rintro l h; cases h; show major19 0#4 (s ++ r ++ t ++ h ++ l) a d = some (.cvtpByte s r t h l a d); simp only [major19, BitVec.extractLsb'_append_eq_left, BitVec.extractLsb'_append_eq_right, cut7a, cut7b, cut7c, cut7d] <;> rfl
theorem cvtpF16 (s : BitVec 1) (r : BitVec 2) (h : BitVec 1) (a : BitVec 7) (d : BitVec 7) : Statement (.cvtpF16 s r h a d) := by rintro l h; cases h; show major19 1#4 (s ++ r ++ 0#3 ++ h) a d = some (.cvtpF16 s r h a d); simp only [major19, BitVec.extractLsb'_append_eq_left, BitVec.extractLsb'_append_eq_right, cut7e, cut7f, cut7g] <;> rfl
theorem cvtpBf16 (s : BitVec 1) (r : BitVec 2) (h : BitVec 1) (a : BitVec 7) (d : BitVec 7) : Statement (.cvtpBf16 s r h a d) := by rintro l h; cases h; show major19 2#4 (s ++ r ++ 0#3 ++ h) a d = some (.cvtpBf16 s r h a d); simp only [major19, BitVec.extractLsb'_append_eq_left, BitVec.extractLsb'_append_eq_right, cut7e, cut7f, cut7g] <;> rfl
theorem sbdecSb4 (b : BitVec 7) (a : BitVec 7) (d : BitVec 7) : Statement (.sbdecSb4 b a d) := by rintro l h; cases h; rfl
theorem sbdecSb8 (b : BitVec 7) (a : BitVec 7) (d : BitVec 7) : Statement (.sbdecSb8 b a d) := by rintro l h; cases h; rfl
theorem shfl (p : BitVec 4) (b : BitVec 7) (a : BitVec 7) (d : BitVec 7) : Statement (.shfl p b a d) := by rintro l h; cases h; rfl
theorem shflkUp (p : BitVec 4) (k : BitVec 6) (a : BitVec 7) (d : BitVec 7) : Statement (.shflkUp p k a d) := by rintro l h; cases h; show major1C p (0#1 ++ k) a d = some (.shflkUp p k a d); simp only [major1C, BitVec.extractLsb'_append_eq_left, BitVec.extractLsb'_append_eq_right] <;> rfl
theorem shflkDn (p : BitVec 4) (k : BitVec 6) (a : BitVec 7) (d : BitVec 7) : Statement (.shflkDn p k a d) := by rintro l h; cases h; show major1C p (1#1 ++ k) a d = some (.shflkDn p k a d); simp only [major1C, BitVec.extractLsb'_append_eq_left, BitVec.extractLsb'_append_eq_right] <;> rfl
theorem shflxXor (p : BitVec 4) (c : BitVec 6) (a : BitVec 7) (d : BitVec 7) : Statement (.shflxXor p c a d) := by rintro l h; cases h; show major1D p (0#1 ++ c) a d = some (.shflxXor p c a d); simp only [major1D, BitVec.extractLsb'_append_eq_left, BitVec.extractLsb'_append_eq_right] <;> rfl
theorem shflxIdx (p : BitVec 4) (c : BitVec 6) (a : BitVec 7) (d : BitVec 7) : Statement (.shflxIdx p c a d) := by rintro l h; cases h; show major1D p (1#1 ++ c) a d = some (.shflxIdx p c a d); simp only [major1D, BitVec.extractLsb'_append_eq_left, BitVec.extractLsb'_append_eq_right] <;> rfl
theorem xredSumI32 (p : BitVec 4) (a : BitVec 7) (d : BitVec 7) : Statement (.xredSumI32 p a d) := by rintro l h; cases h; show major1E 0#4 (0#3 ++ p) a d = some (.xredSumI32 p a d); simp only [major1E, BitVec.extractLsb'_append_eq_left, BitVec.extractLsb'_append_eq_right] <;> rfl
theorem xredMinI32 (p : BitVec 4) (a : BitVec 7) (d : BitVec 7) : Statement (.xredMinI32 p a d) := by rintro l h; cases h; show major1E 1#4 (0#3 ++ p) a d = some (.xredMinI32 p a d); simp only [major1E, BitVec.extractLsb'_append_eq_left, BitVec.extractLsb'_append_eq_right] <;> rfl
theorem xredMaxI32 (p : BitVec 4) (a : BitVec 7) (d : BitVec 7) : Statement (.xredMaxI32 p a d) := by rintro l h; cases h; show major1E 2#4 (0#3 ++ p) a d = some (.xredMaxI32 p a d); simp only [major1E, BitVec.extractLsb'_append_eq_left, BitVec.extractLsb'_append_eq_right] <;> rfl
theorem xredSumF32 (p : BitVec 4) (a : BitVec 7) (d : BitVec 7) : Statement (.xredSumF32 p a d) := by rintro l h; cases h; show major1E 3#4 (0#3 ++ p) a d = some (.xredSumF32 p a d); simp only [major1E, BitVec.extractLsb'_append_eq_left, BitVec.extractLsb'_append_eq_right] <;> rfl
theorem xredMinF32 (p : BitVec 4) (a : BitVec 7) (d : BitVec 7) : Statement (.xredMinF32 p a d) := by rintro l h; cases h; show major1E 4#4 (0#3 ++ p) a d = some (.xredMinF32 p a d); simp only [major1E, BitVec.extractLsb'_append_eq_left, BitVec.extractLsb'_append_eq_right] <;> rfl
theorem xredMaxF32 (p : BitVec 4) (a : BitVec 7) (d : BitVec 7) : Statement (.xredMaxF32 p a d) := by rintro l h; cases h; show major1E 5#4 (0#3 ++ p) a d = some (.xredMaxF32 p a d); simp only [major1E, BitVec.extractLsb'_append_eq_left, BitVec.extractLsb'_append_eq_right] <;> rfl
theorem xredScanI32 (p : BitVec 4) (a : BitVec 7) (d : BitVec 7) : Statement (.xredScanI32 p a d) := by rintro l h; cases h; show major1E 6#4 (0#3 ++ p) a d = some (.xredScanI32 p a d); simp only [major1E, BitVec.extractLsb'_append_eq_left, BitVec.extractLsb'_append_eq_right] <;> rfl
theorem xredScanF32 (p : BitVec 4) (a : BitVec 7) (d : BitVec 7) : Statement (.xredScanF32 p a d) := by rintro l h; cases h; show major1E 7#4 (0#3 ++ p) a d = some (.xredScanF32 p a d); simp only [major1E, BitVec.extractLsb'_append_eq_left, BitVec.extractLsb'_append_eq_right] <;> rfl
theorem voteAny (p : BitVec 4) (a : BitVec 7) (d : BitVec 7) : Statement (.voteAny p a d) := by rintro l h; cases h; show major1F 0#4 (0#3 ++ p) a d = some (.voteAny p a d); simp only [major1F, BitVec.extractLsb'_append_eq_left, BitVec.extractLsb'_append_eq_right] <;> rfl
theorem voteAll (p : BitVec 4) (a : BitVec 7) (d : BitVec 7) : Statement (.voteAll p a d) := by rintro l h; cases h; show major1F 1#4 (0#3 ++ p) a d = some (.voteAll p a d); simp only [major1F, BitVec.extractLsb'_append_eq_left, BitVec.extractLsb'_append_eq_right] <;> rfl
theorem voteBallot (p : BitVec 4) (a : BitVec 7) (d : BitVec 7) : Statement (.voteBallot p a d) := by rintro l h; cases h; show major1F 2#4 (0#3 ++ p) a d = some (.voteBallot p a d); simp only [major1F, BitVec.extractLsb'_append_eq_left, BitVec.extractLsb'_append_eq_right] <;> rfl
theorem voteBallotMask (p : BitVec 4) (a : BitVec 7) (m : BitVec 4) : Statement (.voteBallotMask p a m) := by rintro l h; cases h; show major1F 3#4 (0#3 ++ p) a (0#3 ++ m) = some (.voteBallotMask p a m); simp only [major1F, BitVec.extractLsb'_append_eq_left, BitVec.extractLsb'_append_eq_right] <;> rfl
theorem bra (o : BitVec 18) (m : BitVec 4) : Statement (.bra o m) := by rintro l h; cases h; show major20 (o.extractLsb' 14 4) (o.extractLsb' 7 7) (o.extractLsb' 0 7) (0#3 ++ m) = some (.bra o m); simp only [major20, BitVec.extractLsb'_append_eq_left, BitVec.extractLsb'_append_eq_right, join18] <;> rfl
theorem braAny (o : BitVec 18) (m : BitVec 4) : Statement (.braAny o m) := by rintro l h; cases h; show major20 (o.extractLsb' 14 4) (o.extractLsb' 7 7) (o.extractLsb' 0 7) (1#3 ++ m) = some (.braAny o m); simp only [major20, BitVec.extractLsb'_append_eq_left, BitVec.extractLsb'_append_eq_right, join18] <;> rfl
theorem braAll (o : BitVec 18) (m : BitVec 4) : Statement (.braAll o m) := by rintro l h; cases h; show major20 (o.extractLsb' 14 4) (o.extractLsb' 7 7) (o.extractLsb' 0 7) (2#3 ++ m) = some (.braAll o m); simp only [major20, BitVec.extractLsb'_append_eq_left, BitVec.extractLsb'_append_eq_right, join18] <;> rfl
theorem braNone (o : BitVec 18) (m : BitVec 4) : Statement (.braNone o m) := by rintro l h; cases h; show major20 (o.extractLsb' 14 4) (o.extractLsb' 7 7) (o.extractLsb' 0 7) (3#3 ++ m) = some (.braNone o m); simp only [major20, BitVec.extractLsb'_append_eq_left, BitVec.extractLsb'_append_eq_right, join18] <;> rfl
theorem braSet (o : BitVec 18) (m : BitVec 4) : Statement (.braSet o m) := by rintro l h; cases h; show major20 (o.extractLsb' 14 4) (o.extractLsb' 7 7) (o.extractLsb' 0 7) (4#3 ++ m) = some (.braSet o m); simp only [major20, BitVec.extractLsb'_append_eq_left, BitVec.extractLsb'_append_eq_right, join18] <;> rfl
theorem braClr (o : BitVec 18) (m : BitVec 4) : Statement (.braClr o m) := by rintro l h; cases h; show major20 (o.extractLsb' 14 4) (o.extractLsb' 7 7) (o.extractLsb' 0 7) (5#3 ++ m) = some (.braClr o m); simp only [major20, BitVec.extractLsb'_append_eq_left, BitVec.extractLsb'_append_eq_right, join18] <;> rfl
theorem jmp (o : BitVec 18) : Statement (.jmp o) := by rintro l h; cases h; show major21 (o.extractLsb' 14 4) (o.extractLsb' 7 7) (o.extractLsb' 0 7) 0#7 = some (.jmp o); simp only [major21, join18] <;> rfl
theorem call (o : BitVec 18) : Statement (.call o) := by rintro l h; cases h; show major21 (o.extractLsb' 14 4) (o.extractLsb' 7 7) (o.extractLsb' 0 7) 1#7 = some (.call o); simp only [major21, join18] <;> rfl
theorem jmpS (a : BitVec 7) : Statement (.jmpS a) := by rintro l h; cases h; rfl
theorem callS (a : BitVec 7) : Statement (.callS a) := by rintro l h; cases h; rfl
theorem ret : Statement (.ret) := by rintro l h; cases h; rfl
theorem jmpV (a : BitVec 7) : Statement (.jmpV a) := by rintro l h; cases h; rfl
theorem jmpt (s : BitVec 6) (a : BitVec 7) : Statement (.jmpt s a) := by rintro l h; cases h; show major22 4#4 (0#1 ++ s) a 0#7 = some (.jmpt s a); simp only [major22, BitVec.extractLsb'_append_eq_left, BitVec.extractLsb'_append_eq_right] <;> rfl
theorem join (m : BitVec 4) : Statement (.join m) := by rintro l h; cases h; show major23 0#4 0#7 0#7 (0#3 ++ m) = some (.join m); simp only [major23, BitVec.extractLsb'_append_eq_left, BitVec.extractLsb'_append_eq_right] <;> rfl
theorem leave (m : BitVec 4) : Statement (.leave m) := by rintro l h; cases h; show major23 1#4 0#7 0#7 (0#3 ++ m) = some (.leave m); simp only [major23, BitVec.extractLsb'_append_eq_left, BitVec.extractLsb'_append_eq_right] <;> rfl
theorem wait (m : BitVec 4) : Statement (.wait m) := by rintro l h; cases h; show major23 2#4 0#7 0#7 (0#3 ++ m) = some (.wait m); simp only [major23, BitVec.extractLsb'_append_eq_left, BitVec.extractLsb'_append_eq_right] <;> rfl
theorem mset (a : BitVec 7) (m : BitVec 4) : Statement (.mset a m) := by rintro l h; cases h; show major23 3#4 0#7 a (0#3 ++ m) = some (.mset a m); simp only [major23, BitVec.extractLsb'_append_eq_left, BitVec.extractLsb'_append_eq_right] <;> rfl
theorem mget (a : BitVec 4) (d : BitVec 7) : Statement (.mget a d) := by rintro l h; cases h; show major23 4#4 0#7 (0#3 ++ a) d = some (.mget a d); simp only [major23, BitVec.extractLsb'_append_eq_left, BitVec.extractLsb'_append_eq_right] <;> rfl
theorem mand (b : BitVec 4) (a : BitVec 4) (d : BitVec 4) : Statement (.mand b a d) := by rintro l h; cases h; show major23 5#4 (0#3 ++ b) (0#3 ++ a) (0#3 ++ d) = some (.mand b a d); simp only [major23, BitVec.extractLsb'_append_eq_left, BitVec.extractLsb'_append_eq_right] <;> rfl
theorem mor (b : BitVec 4) (a : BitVec 4) (d : BitVec 4) : Statement (.mor b a d) := by rintro l h; cases h; show major23 6#4 (0#3 ++ b) (0#3 ++ a) (0#3 ++ d) = some (.mor b a d); simp only [major23, BitVec.extractLsb'_append_eq_left, BitVec.extractLsb'_append_eq_right] <;> rfl
theorem mxor (b : BitVec 4) (a : BitVec 4) (d : BitVec 4) : Statement (.mxor b a d) := by rintro l h; cases h; show major23 7#4 (0#3 ++ b) (0#3 ++ a) (0#3 ++ d) = some (.mxor b a d); simp only [major23, BitVec.extractLsb'_append_eq_left, BitVec.extractLsb'_append_eq_right] <;> rfl
theorem mnot (a : BitVec 4) (d : BitVec 4) : Statement (.mnot a d) := by rintro l h; cases h; show major23 8#4 0#7 (0#3 ++ a) (0#3 ++ d) = some (.mnot a d); simp only [major23, BitVec.extractLsb'_append_eq_left, BitVec.extractLsb'_append_eq_right] <;> rfl
theorem mcpy (a : BitVec 4) (d : BitVec 4) : Statement (.mcpy a d) := by rintro l h; cases h; show major23 9#4 0#7 (0#3 ++ a) (0#3 ++ d) = some (.mcpy a d); simp only [major23, BitVec.extractLsb'_append_eq_left, BitVec.extractLsb'_append_eq_right] <;> rfl
theorem mpop (a : BitVec 4) (d : BitVec 7) : Statement (.mpop a d) := by rintro l h; cases h; show major23 10#4 0#7 (0#3 ++ a) d = some (.mpop a d); simp only [major23, BitVec.extractLsb'_append_eq_left, BitVec.extractLsb'_append_eq_right] <;> rfl
theorem mfirst (a : BitVec 4) (d : BitVec 7) : Statement (.mfirst a d) := by rintro l h; cases h; show major23 11#4 0#7 (0#3 ++ a) d = some (.mfirst a d); simp only [major23, BitVec.extractLsb'_append_eq_left, BitVec.extractLsb'_append_eq_right] <;> rfl
theorem mlive (d : BitVec 4) : Statement (.mlive d) := by rintro l h; cases h; show major23 12#4 0#7 0#7 (0#3 ++ d) = some (.mlive d); simp only [major23, BitVec.extractLsb'_append_eq_left, BitVec.extractLsb'_append_eq_right] <;> rfl
theorem msub (d : BitVec 4) : Statement (.msub d) := by rintro l h; cases h; show major23 13#4 0#7 0#7 (0#3 ++ d) = some (.msub d); simp only [major23, BitVec.extractLsb'_append_eq_left, BitVec.extractLsb'_append_eq_right] <;> rfl
theorem exit : Statement (.exit) := by rintro l h; cases h; rfl
theorem yield : Statement (.yield) := by rintro l h; cases h; rfl
theorem nop32 : Statement (.nop32) := by rintro l h; cases h; rfl
theorem sadd (b : BitVec 7) (a : BitVec 7) (d : BitVec 7) : Statement (.sadd b a d) := by rintro l h; cases h; rfl
theorem ssub (b : BitVec 7) (a : BitVec 7) (d : BitVec 7) : Statement (.ssub b a d) := by rintro l h; cases h; rfl
theorem smul (b : BitVec 7) (a : BitVec 7) (d : BitVec 7) : Statement (.smul b a d) := by rintro l h; cases h; rfl
theorem smulhiI64 (b : BitVec 7) (a : BitVec 7) (d : BitVec 7) : Statement (.smulhiI64 b a d) := by rintro l h; cases h; rfl
theorem sand (b : BitVec 7) (a : BitVec 7) (d : BitVec 7) : Statement (.sand b a d) := by rintro l h; cases h; rfl
theorem sor (b : BitVec 7) (a : BitVec 7) (d : BitVec 7) : Statement (.sor b a d) := by rintro l h; cases h; rfl
theorem sxor (b : BitVec 7) (a : BitVec 7) (d : BitVec 7) : Statement (.sxor b a d) := by rintro l h; cases h; rfl
theorem sshl (b : BitVec 7) (a : BitVec 7) (d : BitVec 7) : Statement (.sshl b a d) := by rintro l h; cases h; rfl
theorem sshr (b : BitVec 7) (a : BitVec 7) (d : BitVec 7) : Statement (.sshr b a d) := by rintro l h; cases h; rfl
theorem ssar (b : BitVec 7) (a : BitVec 7) (d : BitVec 7) : Statement (.ssar b a d) := by rintro l h; cases h; rfl
theorem sminI64 (b : BitVec 7) (a : BitVec 7) (d : BitVec 7) : Statement (.sminI64 b a d) := by rintro l h; cases h; rfl
theorem smaxI64 (b : BitVec 7) (a : BitVec 7) (d : BitVec 7) : Statement (.smaxI64 b a d) := by rintro l h; cases h; rfl
theorem sminN64 (b : BitVec 7) (a : BitVec 7) (d : BitVec 7) : Statement (.sminN64 b a d) := by rintro l h; cases h; rfl
theorem smaxN64 (b : BitVec 7) (a : BitVec 7) (d : BitVec 7) : Statement (.smaxN64 b a d) := by rintro l h; cases h; rfl
theorem sdivN64 (b : BitVec 7) (a : BitVec 7) (d : BitVec 7) : Statement (.sdivN64 b a d) := by rintro l h; cases h; rfl
theorem sremN64 (b : BitVec 7) (a : BitVec 7) (d : BitVec 7) : Statement (.sremN64 b a d) := by rintro l h; cases h; rfl
theorem saddi (i : BitVec 11) (a : BitVec 7) (d : BitVec 7) : Statement (.saddi i a d) := by rintro l h; cases h; show major26 (i.extractLsb' 7 4) (i.extractLsb' 0 7) a d = some (.saddi i a d); simp only [major26, join11] <;> rfl
theorem sli (i : BitVec 18) (s : BitVec 6) : Statement (.sli i s) := by rintro l h; cases h; show major27 (i.extractLsb' 14 4) (i.extractLsb' 7 7) (i.extractLsb' 0 7) (0#1 ++ s) = some (.sli i s); simp only [major27, BitVec.extractLsb'_append_eq_left, BitVec.extractLsb'_append_eq_right, join18] <;> rfl
theorem sliu (i : BitVec 18) (s : BitVec 6) : Statement (.sliu i s) := by rintro l h; cases h; show major27 (i.extractLsb' 14 4) (i.extractLsb' 7 7) (i.extractLsb' 0 7) (1#1 ++ s) = some (.sliu i s); simp only [major27, BitVec.extractLsb'_append_eq_left, BitVec.extractLsb'_append_eq_right, join18] <;> rfl
theorem slih (i : BitVec 14) (s : BitVec 6) : Statement (.slih i s) := by rintro l h; cases h; show major28 0#4 (i.extractLsb' 7 7) (i.extractLsb' 0 7) (0#1 ++ s) = some (.slih i s); simp only [major28, BitVec.extractLsb'_append_eq_left, BitVec.extractLsb'_append_eq_right, join14] <;> rfl
theorem slihu (i : BitVec 18) (s : BitVec 6) : Statement (.slihu i s) := by rintro l h; cases h; show major28 (i.extractLsb' 14 4) (i.extractLsb' 7 7) (i.extractLsb' 0 7) (1#1 ++ s) = some (.slihu i s); simp only [major28, BitVec.extractLsb'_append_eq_left, BitVec.extractLsb'_append_eq_right, join18] <;> first | rfl | simp
theorem scmpEq (b : BitVec 7) (a : BitVec 7) (d : BitVec 7) : Statement (.scmpEq b a d) := by rintro l h; cases h; rfl
theorem scmpNe (b : BitVec 7) (a : BitVec 7) (d : BitVec 7) : Statement (.scmpNe b a d) := by rintro l h; cases h; rfl
theorem scmpLtI (b : BitVec 7) (a : BitVec 7) (d : BitVec 7) : Statement (.scmpLtI b a d) := by rintro l h; cases h; rfl
theorem scmpLeI (b : BitVec 7) (a : BitVec 7) (d : BitVec 7) : Statement (.scmpLeI b a d) := by rintro l h; cases h; rfl
theorem scmpGtI (b : BitVec 7) (a : BitVec 7) (d : BitVec 7) : Statement (.scmpGtI b a d) := by rintro l h; cases h; rfl
theorem scmpGeI (b : BitVec 7) (a : BitVec 7) (d : BitVec 7) : Statement (.scmpGeI b a d) := by rintro l h; cases h; rfl
theorem scmpLtN (b : BitVec 7) (a : BitVec 7) (d : BitVec 7) : Statement (.scmpLtN b a d) := by rintro l h; cases h; rfl
theorem scmpLeN (b : BitVec 7) (a : BitVec 7) (d : BitVec 7) : Statement (.scmpLeN b a d) := by rintro l h; cases h; rfl
theorem scmpGtN (b : BitVec 7) (a : BitVec 7) (d : BitVec 7) : Statement (.scmpGtN b a d) := by rintro l h; cases h; rfl
theorem scmpGeN (b : BitVec 7) (a : BitVec 7) (d : BitVec 7) : Statement (.scmpGeN b a d) := by rintro l h; cases h; rfl
theorem vbc (b : BitVec 7) (d : BitVec 7) : Statement (.vbc b d) := by rintro l h; cases h; rfl
theorem vbch (b : BitVec 7) (d : BitVec 7) : Statement (.vbch b d) := by rintro l h; cases h; rfl
theorem vget (n : BitVec 6) (a : BitVec 7) (d : BitVec 7) : Statement (.vget n a d) := by rintro l h; cases h; show major2A 2#4 (0#1 ++ n) a d = some (.vget n a d); simp only [major2A, BitVec.extractLsb'_append_eq_left, BitVec.extractLsb'_append_eq_right] <;> rfl
theorem vsr (a : BitVec 7) (d : BitVec 7) : Statement (.vsr a d) := by rintro l h; cases h; rfl
theorem ssr (a : BitVec 7) (d : BitVec 7) : Statement (.ssr a d) := by rintro l h; cases h; rfl
theorem wsr (a : BitVec 7) (d : BitVec 7) : Statement (.wsr a d) := by rintro l h; cases h; rfl
theorem ldg (l : BitVec 1) (t : BitVec 3) (e : BitVec 1) (s : BitVec 6) (a : BitVec 7) (d : BitVec 7) : Statement (.ldg l t e s a d) := by rintro l h; cases h; show major2B (l ++ t) (e ++ s) a d = some (.ldg l t e s a d); simp only [major2B, BitVec.extractLsb'_append_eq_left, BitVec.extractLsb'_append_eq_right] <;> rfl
theorem stg (l : BitVec 1) (t : BitVec 3) (e : BitVec 1) (s : BitVec 6) (a : BitVec 7) (d : BitVec 7) : Statement (.stg l t e s a d) := by rintro l h; cases h; show major2C (l ++ t) (e ++ s) a d = some (.stg l t e s a d); simp only [major2C, BitVec.extractLsb'_append_eq_left, BitVec.extractLsb'_append_eq_right] <;> rfl
theorem lds (l : BitVec 1) (t : BitVec 3) (e : BitVec 1) (s : BitVec 6) (a : BitVec 7) (d : BitVec 7) : Statement (.lds l t e s a d) := by rintro l h; cases h; show major2D (l ++ t) (e ++ s) a d = some (.lds l t e s a d); simp only [major2D, BitVec.extractLsb'_append_eq_left, BitVec.extractLsb'_append_eq_right] <;> rfl
theorem sts (l : BitVec 1) (t : BitVec 3) (e : BitVec 1) (s : BitVec 6) (a : BitVec 7) (d : BitVec 7) : Statement (.sts l t e s a d) := by rintro l h; cases h; show major2E (l ++ t) (e ++ s) a d = some (.sts l t e s a d); simp only [major2E, BitVec.extractLsb'_append_eq_left, BitVec.extractLsb'_append_eq_right] <;> rfl
theorem ldc (l : BitVec 1) (t : BitVec 3) (e : BitVec 1) (s : BitVec 6) (a : BitVec 7) (d : BitVec 7) : Statement (.ldc l t e s a d) := by rintro l h; cases h; show major2F (l ++ t) (e ++ s) a d = some (.ldc l t e s a d); simp only [major2F, BitVec.extractLsb'_append_eq_left, BitVec.extractLsb'_append_eq_right] <;> rfl
theorem stc (l : BitVec 1) (t : BitVec 3) (e : BitVec 1) (s : BitVec 6) (a : BitVec 7) (d : BitVec 7) : Statement (.stc l t e s a d) := by rintro l h; cases h; show major30 (l ++ t) (e ++ s) a d = some (.stc l t e s a d); simp only [major30, BitVec.extractLsb'_append_eq_left, BitVec.extractLsb'_append_eq_right] <;> rfl
theorem ldx (l : BitVec 1) (t : BitVec 3) (e : BitVec 1) (s : BitVec 6) (a : BitVec 7) (d : BitVec 7) : Statement (.ldx l t e s a d) := by rintro l h; cases h; show major31 (l ++ t) (e ++ s) a d = some (.ldx l t e s a d); simp only [major31, BitVec.extractLsb'_append_eq_left, BitVec.extractLsb'_append_eq_right] <;> rfl
theorem stx (l : BitVec 1) (t : BitVec 3) (e : BitVec 1) (s : BitVec 6) (a : BitVec 7) (d : BitVec 7) : Statement (.stx l t e s a d) := by rintro l h; cases h; show major32 (l ++ t) (e ++ s) a d = some (.stx l t e s a d); simp only [major32, BitVec.extractLsb'_append_eq_left, BitVec.extractLsb'_append_eq_right] <;> rfl
theorem memoryOpComplete (g : Nat) (o : Nat) : Statement (.memoryOpComplete g o) := nofun
theorem ldAcq (c : BitVec 3) (e : BitVec 1) (s : BitVec 6) (a : BitVec 7) (d : BitVec 7) : Statement (.ldAcq c e s a d) := by rintro l h; cases h; show major33 (c ++ 0#1) (e ++ s) a d = some (.ldAcq c e s a d); simp only [major33, BitVec.extractLsb'_append_eq_left, BitVec.extractLsb'_append_eq_right] <;> rfl
theorem stRel (c : BitVec 3) (e : BitVec 1) (s : BitVec 6) (a : BitVec 7) (d : BitVec 7) : Statement (.stRel c e s a d) := by rintro l h; cases h; show major33 (c ++ 1#1) (e ++ s) a d = some (.stRel c e s a d); simp only [major33, BitVec.extractLsb'_append_eq_left, BitVec.extractLsb'_append_eq_right] <;> rfl
theorem fence (s : BitVec 3) : Statement (.fence s) := by rintro l h; cases h; show major34 (s ++ 0#1) 0#7 0#7 0#7 = some (.fence s); simp only [major34, BitVec.extractLsb'_append_eq_left, BitVec.extractLsb'_append_eq_right] <;> rfl
theorem fenceAcq (s : BitVec 3) : Statement (.fenceAcq s) := by rintro l h; cases h; show major34 (s ++ 0#1) 0#7 0#7 1#7 = some (.fenceAcq s); simp only [major34, BitVec.extractLsb'_append_eq_left, BitVec.extractLsb'_append_eq_right] <;> rfl
theorem fenceRel (s : BitVec 3) : Statement (.fenceRel s) := by rintro l h; cases h; show major34 (s ++ 0#1) 0#7 0#7 2#7 = some (.fenceRel s); simp only [major34, BitVec.extractLsb'_append_eq_left, BitVec.extractLsb'_append_eq_right] <;> rfl
theorem atomAddI32 (e : BitVec 1) (s : BitVec 6) (a : BitVec 7) (d : BitVec 7) : Statement (.atomAddI32 e s a d) := by rintro l h; cases h; show major35 0#4 (e ++ s) a d = some (.atomAddI32 e s a d); simp only [major35, BitVec.extractLsb'_append_eq_left, BitVec.extractLsb'_append_eq_right] <;> rfl
theorem atomMinI32 (e : BitVec 1) (s : BitVec 6) (a : BitVec 7) (d : BitVec 7) : Statement (.atomMinI32 e s a d) := by rintro l h; cases h; show major35 1#4 (e ++ s) a d = some (.atomMinI32 e s a d); simp only [major35, BitVec.extractLsb'_append_eq_left, BitVec.extractLsb'_append_eq_right] <;> rfl
theorem atomMaxI32 (e : BitVec 1) (s : BitVec 6) (a : BitVec 7) (d : BitVec 7) : Statement (.atomMaxI32 e s a d) := by rintro l h; cases h; show major35 2#4 (e ++ s) a d = some (.atomMaxI32 e s a d); simp only [major35, BitVec.extractLsb'_append_eq_left, BitVec.extractLsb'_append_eq_right] <;> rfl
theorem atomMinN32 (e : BitVec 1) (s : BitVec 6) (a : BitVec 7) (d : BitVec 7) : Statement (.atomMinN32 e s a d) := by rintro l h; cases h; show major35 3#4 (e ++ s) a d = some (.atomMinN32 e s a d); simp only [major35, BitVec.extractLsb'_append_eq_left, BitVec.extractLsb'_append_eq_right] <;> rfl
theorem atomMaxN32 (e : BitVec 1) (s : BitVec 6) (a : BitVec 7) (d : BitVec 7) : Statement (.atomMaxN32 e s a d) := by rintro l h; cases h; show major35 4#4 (e ++ s) a d = some (.atomMaxN32 e s a d); simp only [major35, BitVec.extractLsb'_append_eq_left, BitVec.extractLsb'_append_eq_right] <;> rfl
theorem atomAnd (e : BitVec 1) (s : BitVec 6) (a : BitVec 7) (d : BitVec 7) : Statement (.atomAnd e s a d) := by rintro l h; cases h; show major35 5#4 (e ++ s) a d = some (.atomAnd e s a d); simp only [major35, BitVec.extractLsb'_append_eq_left, BitVec.extractLsb'_append_eq_right] <;> rfl
theorem atomOr (e : BitVec 1) (s : BitVec 6) (a : BitVec 7) (d : BitVec 7) : Statement (.atomOr e s a d) := by rintro l h; cases h; show major35 6#4 (e ++ s) a d = some (.atomOr e s a d); simp only [major35, BitVec.extractLsb'_append_eq_left, BitVec.extractLsb'_append_eq_right] <;> rfl
theorem atomXor (e : BitVec 1) (s : BitVec 6) (a : BitVec 7) (d : BitVec 7) : Statement (.atomXor e s a d) := by rintro l h; cases h; show major35 7#4 (e ++ s) a d = some (.atomXor e s a d); simp only [major35, BitVec.extractLsb'_append_eq_left, BitVec.extractLsb'_append_eq_right] <;> rfl
theorem atomXchg (e : BitVec 1) (s : BitVec 6) (a : BitVec 7) (d : BitVec 7) : Statement (.atomXchg e s a d) := by rintro l h; cases h; show major35 8#4 (e ++ s) a d = some (.atomXchg e s a d); simp only [major35, BitVec.extractLsb'_append_eq_left, BitVec.extractLsb'_append_eq_right] <;> rfl
theorem atomCas32 (e : BitVec 1) (s : BitVec 6) (a : BitVec 7) (d : BitVec 7) : Statement (.atomCas32 e s a d) := by rintro l h; cases h; show major35 9#4 (e ++ s) a d = some (.atomCas32 e s a d); simp only [major35, BitVec.extractLsb'_append_eq_left, BitVec.extractLsb'_append_eq_right] <;> rfl
theorem atomAddF32 (e : BitVec 1) (s : BitVec 6) (a : BitVec 7) (d : BitVec 7) : Statement (.atomAddF32 e s a d) := by rintro l h; cases h; show major35 10#4 (e ++ s) a d = some (.atomAddF32 e s a d); simp only [major35, BitVec.extractLsb'_append_eq_left, BitVec.extractLsb'_append_eq_right] <;> rfl
theorem atomMinF32 (e : BitVec 1) (s : BitVec 6) (a : BitVec 7) (d : BitVec 7) : Statement (.atomMinF32 e s a d) := by rintro l h; cases h; show major35 11#4 (e ++ s) a d = some (.atomMinF32 e s a d); simp only [major35, BitVec.extractLsb'_append_eq_left, BitVec.extractLsb'_append_eq_right] <;> rfl
theorem atomMaxF32 (e : BitVec 1) (s : BitVec 6) (a : BitVec 7) (d : BitVec 7) : Statement (.atomMaxF32 e s a d) := by rintro l h; cases h; show major35 12#4 (e ++ s) a d = some (.atomMaxF32 e s a d); simp only [major35, BitVec.extractLsb'_append_eq_left, BitVec.extractLsb'_append_eq_right] <;> rfl
theorem atomCas64 (e : BitVec 1) (s : BitVec 6) (a : BitVec 7) (d : BitVec 7) : Statement (.atomCas64 e s a d) := by rintro l h; cases h; show major35 13#4 (e ++ s) a d = some (.atomCas64 e s a d); simp only [major35, BitVec.extractLsb'_append_eq_left, BitVec.extractLsb'_append_eq_right] <;> rfl
theorem atomicPerform (g : Nat) (o : Nat) : Statement (.atomicPerform g o) := nofun
theorem redAddI32 (e : BitVec 1) (s : BitVec 6) (a : BitVec 7) (d : BitVec 7) : Statement (.redAddI32 e s a d) := by rintro l h; cases h; show major36 0#4 (e ++ s) a d = some (.redAddI32 e s a d); simp only [major36, BitVec.extractLsb'_append_eq_left, BitVec.extractLsb'_append_eq_right] <;> rfl
theorem redMinI32 (e : BitVec 1) (s : BitVec 6) (a : BitVec 7) (d : BitVec 7) : Statement (.redMinI32 e s a d) := by rintro l h; cases h; show major36 1#4 (e ++ s) a d = some (.redMinI32 e s a d); simp only [major36, BitVec.extractLsb'_append_eq_left, BitVec.extractLsb'_append_eq_right] <;> rfl
theorem redMaxI32 (e : BitVec 1) (s : BitVec 6) (a : BitVec 7) (d : BitVec 7) : Statement (.redMaxI32 e s a d) := by rintro l h; cases h; show major36 2#4 (e ++ s) a d = some (.redMaxI32 e s a d); simp only [major36, BitVec.extractLsb'_append_eq_left, BitVec.extractLsb'_append_eq_right] <;> rfl
theorem redMinN32 (e : BitVec 1) (s : BitVec 6) (a : BitVec 7) (d : BitVec 7) : Statement (.redMinN32 e s a d) := by rintro l h; cases h; show major36 3#4 (e ++ s) a d = some (.redMinN32 e s a d); simp only [major36, BitVec.extractLsb'_append_eq_left, BitVec.extractLsb'_append_eq_right] <;> rfl
theorem redMaxN32 (e : BitVec 1) (s : BitVec 6) (a : BitVec 7) (d : BitVec 7) : Statement (.redMaxN32 e s a d) := by rintro l h; cases h; show major36 4#4 (e ++ s) a d = some (.redMaxN32 e s a d); simp only [major36, BitVec.extractLsb'_append_eq_left, BitVec.extractLsb'_append_eq_right] <;> rfl
theorem redAnd (e : BitVec 1) (s : BitVec 6) (a : BitVec 7) (d : BitVec 7) : Statement (.redAnd e s a d) := by rintro l h; cases h; show major36 5#4 (e ++ s) a d = some (.redAnd e s a d); simp only [major36, BitVec.extractLsb'_append_eq_left, BitVec.extractLsb'_append_eq_right] <;> rfl
theorem redOr (e : BitVec 1) (s : BitVec 6) (a : BitVec 7) (d : BitVec 7) : Statement (.redOr e s a d) := by rintro l h; cases h; show major36 6#4 (e ++ s) a d = some (.redOr e s a d); simp only [major36, BitVec.extractLsb'_append_eq_left, BitVec.extractLsb'_append_eq_right] <;> rfl
theorem redXor (e : BitVec 1) (s : BitVec 6) (a : BitVec 7) (d : BitVec 7) : Statement (.redXor e s a d) := by rintro l h; cases h; show major36 7#4 (e ++ s) a d = some (.redXor e s a d); simp only [major36, BitVec.extractLsb'_append_eq_left, BitVec.extractLsb'_append_eq_right] <;> rfl
theorem redAddF32 (e : BitVec 1) (s : BitVec 6) (a : BitVec 7) (d : BitVec 7) : Statement (.redAddF32 e s a d) := by rintro l h; cases h; show major36 8#4 (e ++ s) a d = some (.redAddF32 e s a d); simp only [major36, BitVec.extractLsb'_append_eq_left, BitVec.extractLsb'_append_eq_right] <;> rfl
theorem redMinF32 (e : BitVec 1) (s : BitVec 6) (a : BitVec 7) (d : BitVec 7) : Statement (.redMinF32 e s a d) := by rintro l h; cases h; show major36 9#4 (e ++ s) a d = some (.redMinF32 e s a d); simp only [major36, BitVec.extractLsb'_append_eq_left, BitVec.extractLsb'_append_eq_right] <;> rfl
theorem redMaxF32 (e : BitVec 1) (s : BitVec 6) (a : BitVec 7) (d : BitVec 7) : Statement (.redMaxF32 e s a d) := by rintro l h; cases h; show major36 10#4 (e ++ s) a d = some (.redMaxF32 e s a d); simp only [major36, BitVec.extractLsb'_append_eq_left, BitVec.extractLsb'_append_eq_right] <;> rfl
theorem redAxpyF32 (e : BitVec 1) (s : BitVec 6) (a : BitVec 7) (d : BitVec 7) : Statement (.redAxpyF32 e s a d) := by rintro l h; cases h; show major36 11#4 (e ++ s) a d = some (.redAxpyF32 e s a d); simp only [major36, BitVec.extractLsb'_append_eq_left, BitVec.extractLsb'_append_eq_right] <;> rfl
theorem reductionApply (r : Nat) : Statement (.reductionApply r) := nofun
theorem rwlTryrd (e : BitVec 1) (s : BitVec 6) (a : BitVec 7) (d : BitVec 7) : Statement (.rwlTryrd e s a d) := by rintro l h; cases h; show major37 0#4 (e ++ s) a d = some (.rwlTryrd e s a d); simp only [major37, BitVec.extractLsb'_append_eq_left, BitVec.extractLsb'_append_eq_right] <;> rfl
theorem rwlTrywr (e : BitVec 1) (s : BitVec 6) (a : BitVec 7) (d : BitVec 7) : Statement (.rwlTrywr e s a d) := by rintro l h; cases h; show major37 1#4 (e ++ s) a d = some (.rwlTrywr e s a d); simp only [major37, BitVec.extractLsb'_append_eq_left, BitVec.extractLsb'_append_eq_right] <;> rfl
theorem rwlRelrd (e : BitVec 1) (s : BitVec 6) (a : BitVec 7) (d : BitVec 7) : Statement (.rwlRelrd e s a d) := by rintro l h; cases h; show major37 2#4 (e ++ s) a d = some (.rwlRelrd e s a d); simp only [major37, BitVec.extractLsb'_append_eq_left, BitVec.extractLsb'_append_eq_right] <;> rfl
theorem rwlRelwr (e : BitVec 1) (s : BitVec 6) (a : BitVec 7) (d : BitVec 7) : Statement (.rwlRelwr e s a d) := by rintro l h; cases h; show major37 3#4 (e ++ s) a d = some (.rwlRelwr e s a d); simp only [major37, BitVec.extractLsb'_append_eq_left, BitVec.extractLsb'_append_eq_right] <;> rfl
theorem rwlSetpref (e : BitVec 1) (s : BitVec 6) (a : BitVec 7) (d : BitVec 7) : Statement (.rwlSetpref e s a d) := by rintro l h; cases h; show major37 4#4 (e ++ s) a d = some (.rwlSetpref e s a d); simp only [major37, BitVec.extractLsb'_append_eq_left, BitVec.extractLsb'_append_eq_right] <;> rfl
theorem togen (p : BitVec 3) (a : BitVec 7) (d : BitVec 7) : Statement (.togen p a d) := by rintro l h; cases h; show major38 0#4 (0#4 ++ p) a d = some (.togen p a d); simp only [major38, BitVec.extractLsb'_append_eq_left, BitVec.extractLsb'_append_eq_right] <;> rfl
theorem ofgen (p : BitVec 3) (a : BitVec 7) (d : BitVec 7) : Statement (.ofgen p a d) := by rintro l h; cases h; show major38 1#4 (0#4 ++ p) a d = some (.ofgen p a d); simp only [major38, BitVec.extractLsb'_append_eq_left, BitVec.extractLsb'_append_eq_right] <;> rfl
theorem isin (p : BitVec 3) (a : BitVec 7) (m : BitVec 4) : Statement (.isin p a m) := by rintro l h; cases h; show major38 2#4 (0#4 ++ p) a (0#3 ++ m) = some (.isin p a m); simp only [major38, BitVec.extractLsb'_append_eq_left, BitVec.extractLsb'_append_eq_right] <;> rfl
theorem barInit (a : BitVec 7) (n : BitVec 4) : Statement (.barInit a n) := by rintro l h; cases h; show major39 0#4 0#7 a (0#3 ++ n) = some (.barInit a n); simp only [major39, BitVec.extractLsb'_append_eq_left, BitVec.extractLsb'_append_eq_right] <;> rfl
theorem barArrive (a : BitVec 7) (n : BitVec 4) : Statement (.barArrive a n) := by rintro l h; cases h; show major39 1#4 0#7 a (0#3 ++ n) = some (.barArrive a n); simp only [major39, BitVec.extractLsb'_append_eq_left, BitVec.extractLsb'_append_eq_right] <;> rfl
theorem barArrwait (a : BitVec 7) (n : BitVec 4) : Statement (.barArrwait a n) := by rintro l h; cases h; show major39 2#4 0#7 a (0#3 ++ n) = some (.barArrwait a n); simp only [major39, BitVec.extractLsb'_append_eq_left, BitVec.extractLsb'_append_eq_right] <;> rfl
theorem barWait (n : BitVec 4) : Statement (.barWait n) := by rintro l h; cases h; show major39 3#4 0#7 0#7 (0#3 ++ n) = some (.barWait n); simp only [major39, BitVec.extractLsb'_append_eq_left, BitVec.extractLsb'_append_eq_right] <;> rfl
theorem barRarrive (b : BitVec 7) (a : BitVec 7) (n : BitVec 4) : Statement (.barRarrive b a n) := by rintro l h; cases h; show major39 4#4 b a (0#3 ++ n) = some (.barRarrive b a n); simp only [major39, BitVec.extractLsb'_append_eq_left, BitVec.extractLsb'_append_eq_right] <;> rfl
theorem barQuery (a : BitVec 7) (n : BitVec 4) : Statement (.barQuery a n) := by rintro l h; cases h; show major39 5#4 0#7 a (0#3 ++ n) = some (.barQuery a n); simp only [major39, BitVec.extractLsb'_append_eq_left, BitVec.extractLsb'_append_eq_right] <;> rfl
theorem copy (x : BitVec 3) (l : BitVec 1) (c : BitVec 4) (m : BitVec 2) (f : BitVec 1) (g : BitVec 3) (h : BitVec 3) : Statement (.copy x l c m f g h) := by rintro l h; cases h; show major3A 0#4 (0#4 ++ x) (l ++ c ++ m) (f ++ g ++ h) = some (.copy x l c m f g h); simp only [major3A, BitVec.extractLsb'_append_eq_left, BitVec.extractLsb'_append_eq_right, cutCopyA, cutCopyB, cutCopyC, cutCopyD] <;> first | rfl | simp
theorem sealBatch (d : BitVec 7) : Statement (.sealBatch d) := by rintro l h; cases h; rfl
theorem cwait (a : BitVec 7) (d : BitVec 7) : Statement (.cwait a d) := by rintro l h; cases h; rfl
theorem lyset (a : BitVec 7) (r : BitVec 3) : Statement (.lyset a r) := by rintro l h; cases h; show major3A 3#4 0#7 a (0#4 ++ r) = some (.lyset a r); simp only [major3A, BitVec.extractLsb'_append_eq_left, BitVec.extractLsb'_append_eq_right] <;> rfl
theorem carcfg (a : BitVec 7) (c : BitVec 4) : Statement (.carcfg a c) := by rintro l h; cases h; show major3A 4#4 0#7 a (0#3 ++ c) = some (.carcfg a c); simp only [major3A, BitVec.extractLsb'_append_eq_left, BitVec.extractLsb'_append_eq_right] <;> rfl
theorem ctake (b : BitVec 7) (a : BitVec 7) (c : BitVec 4) : Statement (.ctake b a c) := by rintro l h; cases h; show major3A 5#4 b a (0#3 ++ c) = some (.ctake b a c); simp only [major3A, BitVec.extractLsb'_append_eq_left, BitVec.extractLsb'_append_eq_right] <;> rfl
theorem cfree (a : BitVec 7) (c : BitVec 4) : Statement (.cfree a c) := by rintro l h; cases h; show major3A 6#4 0#7 a (0#3 ++ c) = some (.cfree a c); simp only [major3A, BitVec.extractLsb'_append_eq_left, BitVec.extractLsb'_append_eq_right] <;> rfl
theorem bccrd (d : BitVec 7) : Statement (.bccrd d) := by rintro l h; cases h; rfl
theorem fcopyTo (s : BitVec 6) (l : BitVec 1) (r : BitVec 3) (g : BitVec 3) : Statement (.fcopyTo s l r g) := by rintro l h; cases h; show major3A 8#4 (0#1 ++ s) (l ++ 0#6) (0#1 ++ r ++ g) = some (.fcopyTo s l r g); simp only [major3A, BitVec.extractLsb'_append_eq_left, BitVec.extractLsb'_append_eq_right, cutCopyC, cutCopyD] <;> first | rfl | simp
theorem fcopyFrom (s : BitVec 6) (l : BitVec 1) (r : BitVec 3) (g : BitVec 3) : Statement (.fcopyFrom s l r g) := by rintro l h; cases h; show major3A 8#4 (0#1 ++ s) (l ++ 0#6) (1#1 ++ r ++ g) = some (.fcopyFrom s l r g); simp only [major3A, BitVec.extractLsb'_append_eq_left, BitVec.extractLsb'_append_eq_right, cutCopyC, cutCopyD] <;> first | rfl | simp
theorem copyEngineStart (g : Nat) (o : Nat) : Statement (.copyEngineStart g o) := nofun
theorem copyDataLanded (g : Nat) (o : Nat) : Statement (.copyDataLanded g o) := nofun
theorem copyComplete (g : Nat) (o : Nat) : Statement (.copyComplete g o) := nofun
theorem cwaitComplete (g : Nat) (o : Nat) : Statement (.cwaitComplete g o) := nofun
theorem fcopyAck (g : Nat) (o : Nat) : Statement (.fcopyAck g o) := nofun
theorem fabricWritePerform (flow : W64) (asid : BitVec 8) (va : W64) (bytes : List Byte) : Statement (.fabricWritePerform flow asid va bytes) := nofun
theorem uetPacketDrop (die : Nat) : Statement (.uetPacketDrop die) := nofun
theorem msetSlot (a : BitVec 7) (s : BitVec 2) : Statement (.msetSlot a s) := by rintro l h; cases h; show major3B 0#4 0#7 a (0#5 ++ s) = some (.msetSlot a s); simp only [major3B, BitVec.extractLsb'_append_eq_left, BitVec.extractLsb'_append_eq_right] <;> rfl
theorem mloadb (l : BitVec 3) (s : BitVec 2) : Statement (.mloadb l s) := by rintro l h; cases h; show major3B 1#4 0#7 0#7 (0#2 ++ l ++ s) = some (.mloadb l s); simp only [major3B, BitVec.extractLsb'_append_eq_left, BitVec.extractLsb'_append_eq_right, cutLoadA, cutLoadB] <;> rfl
theorem mmul (s : BitVec 2) : Statement (.mmul s) := by rintro l h; cases h; show major3B 2#4 0#7 0#7 (0#5 ++ s) = some (.mmul s); simp only [major3B, BitVec.extractLsb'_append_eq_left, BitVec.extractLsb'_append_eq_right] <;> rfl
theorem scacc (s : BitVec 2) : Statement (.scacc s) := by rintro l h; cases h; show major3B 3#4 0#7 0#7 (0#5 ++ s) = some (.scacc s); simp only [major3B, BitVec.extractLsb'_append_eq_left, BitVec.extractLsb'_append_eq_right] <;> rfl
theorem mrel (a : BitVec 7) : Statement (.mrel a) := by rintro l h; cases h; rfl
theorem mstat (d : BitVec 7) : Statement (.mstat d) := by rintro l h; cases h; rfl
theorem matrixCommandComplete (g : Nat) (o : Nat) : Statement (.matrixCommandComplete g o) := nofun
theorem gadde (b : BitVec 7) (a : BitVec 7) (d : BitVec 7) : Statement (.gadde b a d) := by rintro l h; cases h; rfl
theorem grme (b : BitVec 7) (a : BitVec 7) (d : BitVec 7) : Statement (.grme b a d) := by rintro l h; cases h; rfl
theorem gsetw (b : BitVec 7) (a : BitVec 7) (d : BitVec 7) : Statement (.gsetw b a d) := by rintro l h; cases h; rfl
theorem gdegOut (a : BitVec 7) (d : BitVec 7) : Statement (.gdegOut a d) := by rintro l h; cases h; rfl
theorem gdegIn (a : BitVec 7) (d : BitVec 7) : Statement (.gdegIn a d) := by rintro l h; cases h; rfl
theorem gldOut (b : BitVec 7) (a : BitVec 7) (d : BitVec 7) : Statement (.gldOut b a d) := by rintro l h; cases h; rfl
theorem gldIn (b : BitVec 7) (a : BitVec 7) (d : BitVec 7) : Statement (.gldIn b a d) := by rintro l h; cases h; rfl
theorem gfindOut (b : BitVec 7) (a : BitVec 7) (d : BitVec 7) : Statement (.gfindOut b a d) := by rintro l h; cases h; rfl
theorem gfindIn (b : BitVec 7) (a : BitVec 7) (d : BitVec 7) : Statement (.gfindIn b a d) := by rintro l h; cases h; rfl
theorem gvld (a : BitVec 7) (d : BitVec 7) : Statement (.gvld a d) := by rintro l h; cases h; rfl
theorem gvst (a : BitVec 7) (d : BitVec 7) : Statement (.gvst a d) := by rintro l h; cases h; rfl
theorem copenOut (c : BitVec 3) (a : BitVec 7) (d : BitVec 7) : Statement (.copenOut c a d) := by rintro l h; cases h; show major3C 10#4 (0#4 ++ c) a d = some (.copenOut c a d); simp only [major3C, BitVec.extractLsb'_append_eq_left, BitVec.extractLsb'_append_eq_right] <;> rfl
theorem copenIn (c : BitVec 3) (a : BitVec 7) (d : BitVec 7) : Statement (.copenIn c a d) := by rintro l h; cases h; show major3C 11#4 (0#4 ++ c) a d = some (.copenIn c a d); simp only [major3C, BitVec.extractLsb'_append_eq_left, BitVec.extractLsb'_append_eq_right] <;> rfl
theorem cnext (c : BitVec 3) (d : BitVec 7) : Statement (.cnext c d) := by rintro l h; cases h; show major3C 12#4 (0#4 ++ c) 0#7 d = some (.cnext c d); simp only [major3C, BitVec.extractLsb'_append_eq_left, BitVec.extractLsb'_append_eq_right] <;> rfl
theorem cseek (c : BitVec 3) (a : BitVec 7) : Statement (.cseek c a) := by rintro l h; cases h; show major3C 13#4 (0#4 ++ c) a 0#7 = some (.cseek c a); simp only [major3C, BitVec.extractLsb'_append_eq_left, BitVec.extractLsb'_append_eq_right] <;> rfl
theorem cclose (c : BitVec 3) : Statement (.cclose c) := by rintro l h; cases h; show major3C 14#4 (0#4 ++ c) 0#7 0#7 = some (.cclose c); simp only [major3C, BitVec.extractLsb'_append_eq_left, BitVec.extractLsb'_append_eq_right] <;> rfl
theorem crank (c : BitVec 3) (d : BitVec 7) : Statement (.crank c d) := by rintro l h; cases h; show major3C 15#4 (0#4 ++ c) 0#7 d = some (.crank c d); simp only [major3C, BitVec.extractLsb'_append_eq_left, BitVec.extractLsb'_append_eq_right] <;> rfl
theorem graphOpComplete (g : Nat) (o : Nat) : Statement (.graphOpComplete g o) := nofun
theorem versionReclaim (gr : Nat) : Statement (.versionReclaim gr) := nofun
theorem gnew (b : BitVec 7) (a : BitVec 7) (d : BitVec 7) : Statement (.gnew b a d) := by rintro l h; cases h; rfl
theorem gfree (a : BitVec 7) : Statement (.gfree a) := by rintro l h; cases h; rfl
theorem gsel (a : BitVec 7) : Statement (.gsel a) := by rintro l h; cases h; rfl
theorem gstat (a : BitVec 7) (d : BitVec 7) : Statement (.gstat a d) := by rintro l h; cases h; rfl
theorem spawnV (a : BitVec 7) : Statement (.spawnV a) := by rintro l h; cases h; rfl
theorem spawnS (a : BitVec 7) : Statement (.spawnS a) := by rintro l h; cases h; rfl
theorem dequeRefill (cu : Nat) : Statement (.dequeRefill cu) := nofun
theorem jcadd (b : BitVec 7) (a : BitVec 7) (d : BitVec 7) : Statement (.jcadd b a d) := by rintro l h; cases h; rfl
theorem jcaddPerform (g : Nat) (o : Nat) : Statement (.jcaddPerform g o) := nofun
theorem launch (b : BitVec 7) (a : BitVec 7) (d : BitVec 7) : Statement (.launch b a d) := by rintro l h; cases h; rfl
theorem cancelLaunch (a : BitVec 7) : Statement (.cancelLaunch a) := by rintro l h; cases h; rfl
theorem cancelChain (a : BitVec 7) : Statement (.cancelChain a) := by rintro l h; cases h; rfl
theorem cancelPhase (a : BitVec 7) : Statement (.cancelPhase a) := by rintro l h; cases h; rfl
theorem cancelJob (a : BitVec 7) : Statement (.cancelJob a) := by rintro l h; cases h; rfl
theorem lvwait (a : BitVec 7) : Statement (.lvwait a) := by rintro l h; cases h; rfl
theorem lvwaitComplete (g : Nat) (o : Nat) : Statement (.lvwaitComplete g o) := nofun
theorem setprio (a : BitVec 7) : Statement (.setprio a) := by rintro l h; cases h; rfl
theorem launchAccept (q : Nat) : Statement (.launchAccept q) := nofun
theorem placementDecision (cu : Nat) : Statement (.placementDecision cu) := nofun
theorem dispatch (cu : Nat) : Statement (.dispatch cu) := nofun
theorem gangRetirement (g : Nat) : Statement (.gangRetirement g) := nofun
theorem rpub (b : BitVec 7) (a : BitVec 7) (s : BitVec 3) : Statement (.rpub b a s) := by rintro l h; cases h; show major02 0#4 b a (0#4 ++ s) = some (.rpub b a s); simp only [major02, BitVec.extractLsb'_append_eq_left, BitVec.extractLsb'_append_eq_right] <;> rfl
theorem rpubk (b : BitVec 7) (a : BitVec 7) (s : BitVec 3) : Statement (.rpubk b a s) := by rintro l h; cases h; show major02 1#4 b a (0#4 ++ s) = some (.rpubk b a s); simp only [major02, BitVec.extractLsb'_append_eq_left, BitVec.extractLsb'_append_eq_right] <;> rfl
theorem rread (b : BitVec 7) (a : BitVec 7) (s : BitVec 3) : Statement (.rread b a s) := by rintro l h; cases h; show major02 2#4 b a (0#4 ++ s) = some (.rread b a s); simp only [major02, BitVec.extractLsb'_append_eq_left, BitVec.extractLsb'_append_eq_right] <;> rfl
theorem rver (a : BitVec 7) (d : BitVec 7) : Statement (.rver a d) := by rintro l h; cases h; rfl
theorem rsubRerun (b : BitVec 7) (a : BitVec 7) : Statement (.rsubRerun b a) := by rintro l h; cases h; rfl
theorem rsubCancel (b : BitVec 7) (a : BitVec 7) : Statement (.rsubCancel b a) := by rintro l h; cases h; rfl
theorem runsub (b : BitVec 7) (a : BitVec 7) : Statement (.runsub b a) := by rintro l h; cases h; rfl
theorem rstop (a : BitVec 7) : Statement (.rstop a) := by rintro l h; cases h; rfl
theorem rsettle (a : BitVec 7) : Statement (.rsettle a) := by rintro l h; cases h; rfl
theorem rinit (b : BitVec 7) (a : BitVec 7) (k : BitVec 3) : Statement (.rinit b a k) := by rintro l h; cases h; show major02 8#4 b a (0#4 ++ k) = some (.rinit b a k); simp only [major02, BitVec.extractLsb'_append_eq_left, BitVec.extractLsb'_append_eq_right] <;> rfl
theorem refOpPerform (g : Nat) (o : Nat) : Statement (.refOpPerform g o) := nofun
theorem rsettleComplete (g : Nat) (o : Nat) : Statement (.rsettleComplete g o) := nofun
theorem embcfg (a : BitVec 7) (t : BitVec 4) : Statement (.embcfg a t) := by rintro l h; cases h; show major0D 0#4 0#7 a (0#3 ++ t) = some (.embcfg a t); simp only [major0D, BitVec.extractLsb'_append_eq_left, BitVec.extractLsb'_append_eq_right] <;> rfl
theorem embag (b : BitVec 7) (a : BitVec 7) (t : BitVec 4) : Statement (.embag b a t) := by rintro l h; cases h; show major0D 1#4 b a (0#3 ++ t) = some (.embag b a t); simp only [major0D, BitVec.extractLsb'_append_eq_left, BitVec.extractLsb'_append_eq_right] <;> rfl
theorem embagComplete (g : Nat) (o : Nat) : Statement (.embagComplete g o) := nofun
theorem trap (n : BitVec 7) : Statement (.trap n) := by rintro l h; cases h; rfl
theorem brk : Statement (.brk) := by rintro l h; cases h; rfl
theorem tret : Statement (.tret) := by rintro l h; cases h; rfl
theorem tretNext : Statement (.tretNext) := by rintro l h; cases h; rfl
theorem sretResume (b : BitVec 7) (a : BitVec 7) : Statement (.sretResume b a) := by rintro l h; cases h; rfl
theorem sretRefuse (b : BitVec 7) (a : BitVec 7) : Statement (.sretRefuse b a) := by rintro l h; cases h; rfl
theorem sretKill (b : BitVec 7) (a : BitVec 7) : Statement (.sretKill b a) := by rintro l h; cases h; rfl
theorem sretSave (b : BitVec 7) (a : BitVec 7) : Statement (.sretSave b a) := by rintro l h; cases h; rfl
theorem sretRestore (b : BitVec 7) (a : BitVec 7) : Statement (.sretRestore b a) := by rintro l h; cases h; rfl
theorem sretRollback (b : BitVec 7) (a : BitVec 7) : Statement (.sretRollback b a) := by rintro l h; cases h; rfl
theorem rdcyc (d : BitVec 7) : Statement (.rdcyc d) := by rintro l h; cases h; rfl
theorem rdperf (a : BitVec 7) (d : BitVec 7) : Statement (.rdperf a d) := by rintro l h; cases h; rfl
theorem fsclr : Statement (.fsclr) := by rintro l h; cases h; rfl
theorem tlbinvPage (b : BitVec 7) (a : BitVec 7) (c : BitVec 1) : Statement (.tlbinvPage b a c) := by rintro l h; cases h; show major3F 7#4 b a (0#4 ++ c ++ 0#2) = some (.tlbinvPage b a c); simp only [major3F, BitVec.extractLsb'_append_eq_left, BitVec.extractLsb'_append_eq_right, cutInvA0, cutInvB0] <;> first | rfl | simp
theorem tlbinvAsid (b : BitVec 7) (a : BitVec 7) (c : BitVec 1) : Statement (.tlbinvAsid b a c) := by rintro l h; cases h; show major3F 7#4 b a (0#4 ++ c ++ 1#2) = some (.tlbinvAsid b a c); simp only [major3F, BitVec.extractLsb'_append_eq_left, BitVec.extractLsb'_append_eq_right, cutInvA1, cutInvB1] <;> first | rfl | simp
theorem tlbinvAll (b : BitVec 7) (a : BitVec 7) (c : BitVec 1) : Statement (.tlbinvAll b a c) := by rintro l h; cases h; show major3F 7#4 b a (0#4 ++ c ++ 2#2) = some (.tlbinvAll b a c); simp only [major3F, BitVec.extractLsb'_append_eq_left, BitVec.extractLsb'_append_eq_right, cutInvA2, cutInvB2] <;> first | rfl | simp
theorem tlbinvComplete (g : Nat) (o : Nat) : Statement (.tlbinvComplete g o) := nofun
theorem halt : Statement (.halt) := by rintro l h; cases h; rfl
theorem haltComplete (g : Nat) (o : Nat) : Statement (.haltComplete g o) := nofun
theorem pfetch (e : BitVec 1) (s : BitVec 6) (a : BitVec 7) (t : BitVec 2) : Statement (.pfetch e s a t) := by rintro l h; cases h; show major3F 9#4 (e ++ s) a (0#5 ++ t) = some (.pfetch e s a t); simp only [major3F, BitVec.extractLsb'_append_eq_left, BitVec.extractLsb'_append_eq_right] <;> rfl
theorem saveStream (area : W64) : Statement (.saveStream area) := nofun
theorem deadlineOverrun (area : W64) : Statement (.deadlineOverrun area) := nofun
theorem qput (conn : Nat) (q : W64) (tag : W64) (packet : BitVec 512) : Statement (.qput conn q tag packet) := nofun
theorem write (conn : Nat) (asid : BitVec 8) (va : W64) (bytes : List Byte) : Statement (.write conn asid va bytes) := nofun
theorem read (conn : Nat) (asid : BitVec 8) (va : W64) (len : Nat) : Statement (.read conn asid va len) := nofun
theorem cread (conn : Nat) (job : BitVec 16) : Statement (.cread conn job) := nofun
theorem phase (conn : Nat) (job : BitVec 16) (p : BitVec 12) : Statement (.phase conn job p) := nofun
theorem phaseBoundary (job : BitVec 16) (p : BitVec 12) : Statement (.phaseBoundary job p) := nofun
theorem debugHalt (h : W64) (idx : Nat) : Statement (.debugHalt h idx) := nofun
theorem debugStep (h : W64) (idx : Nat) : Statement (.debugStep h idx) := nofun
theorem debugResume (h : W64) (idx : Nat) (past : Bool) : Statement (.debugResume h idx past) := nofun
theorem debugInspect (h : W64) (idx : Nat) (what : DebugReg) : Statement (.debugInspect h idx what) := nofun
theorem debugWrite (h : W64) (idx : Nat) (what : DebugReg) (v : BitVec 256) : Statement (.debugWrite h idx what v) := nofun
theorem debugWatchSet (die : Nat) (n : Nat) (w : Option Watch) : Statement (.debugWatchSet die n w) := nofun
theorem measurementRead (die : Nat) (asid : BitVec 8) (va : W64) (len : Nat) : Statement (.measurementRead die asid va len) := nofun
theorem markExecutable (die : Nat) (seg : Segment) : Statement (.markExecutable die seg) := nofun
theorem spdmMeasurement (job : BitVec 16) : Statement (.spdmMeasurement job) := nofun
theorem telemetryRead (die : Nat) : Statement (.telemetryRead die) := nofun
theorem powerCapSet (die : Nat) (watts : Nat) : Statement (.powerCapSet die watts) := nofun
theorem retrainRequest (stack : Nat) (rate : Nat) : Statement (.retrainRequest stack rate) := nofun
theorem retrainTimeout (stack : Nat) : Statement (.retrainTimeout stack) := nofun
theorem droopDetected (die : Nat) : Statement (.droopDetected die) := nofun
theorem powerCapExceeded (die : Nat) : Statement (.powerCapExceeded die) := nofun
theorem correctedSoftError (die : Nat) (arr : Nat) : Statement (.correctedSoftError die arr) := nofun
theorem uncorrectableError (die : Nat) (loc : ErrorLoc) : Statement (.uncorrectableError die loc) := nofun
theorem dieReset (die : Nat) : Statement (.dieReset die) := nofun
theorem retrainEnd (stack : Nat) : Statement (.retrainEnd stack) := nofun
theorem stretchEnd (die : Nat) : Statement (.stretchEnd die) := nofun
theorem deliveryFailure (what : Undelivered) : Statement (.deliveryFailure what) := nofun
theorem fcopyFromRemoteRead (flow : W64) (asid : BitVec 8) (va : W64) (len : Nat) : Statement (.fcopyFromRemoteRead flow asid va len) := nofun
theorem deviceRuntimeRestart (die : Nat) : Statement (.deviceRuntimeRestart die) := nofun

end Sys2Proof.Laws.Layout
end

