-- ==== Sys2Proof/Laws/Words.lean ====
section
/-!
SUPPORT. One lemma for each shared form of a word that ends at its issue: the next state it answers, and what that state holds.
-/
namespace Sys2Proof.Machine

variable {i : Instr} {s : State} {g : Gang} {f : Flight} {at_ : BodyAt}

/-! ## What the gang holds after a write -/

theorem setVreg_same {α : Type} (p : Thread → α) (g : Gang) (s : Lanes) (n : Nat) (f : Nat → W32) (l : Nat) (h : ∀ t n v, p (Thread.setReg t n v) = p t) :
    p ((g.setVreg s n f).thread l) = p (g.thread l) := thread_mapLanes_same p g s _ l fun _ _ => h _ _ _

/-- A word that left the gang as `m`, whose threads differ from the old ones at most in their vector registers. -/
theorem word_ended (k : Touch) (h : Issues i s g f at_) (m : Gang) (n : Nat) (hid : m.id = g.id)
    (hv : ∀ l r, ¬k.vreg l r → m.vreg l r = g.vreg l r)
    (hs : ∀ l, (m.thread l).gathers = (g.thread l).gathers := by intros; rfl)
    (hc : ∀ l, ¬k.lane l → (m.thread l).cursors = (g.thread l).cursors := by intros; rfl)
    (ht : ∀ l, ¬k.lane l → (m.thread l).delivery = (g.thread l).delivery := by intros; rfl)
    (hr : ∀ r, ¬k.sreg r → m.sreg r = g.sreg r := by intros; rfl)
    (hm : ∀ r, ¬k.mask r → m.mreg r = g.mreg r := by intros; rfl)
    (hf : ¬k.fstat → m.fstat = g.fstat := by intros; rfl)
    (ho : ¬k.ops → m.ops = g.ops := by intros; rfl)
    (hq : m.remainder = g.remainder := by intros; rfl) :
    (s.setGang (m.advance f n).settle).gang? g.id = some (m.advance f n).settle ∧ Frame k s (s.setGang (m.advance f n).settle) g := by
  have hid2 : ((m.advance f n).settle).id = g.id := (ended_rest _ f n).2.2.1.trans hid
  exact ⟨gang?_setGang_self s g _ h.gang hid2, frame_setGang k s g _ h.gang hid2 (frame_ended k g m f n hs hv hc ht hr hm hf ho hq)⟩

/-- The registers of an issuing lane after the word. -/
theorem word_vreg (h : Issues i s g f at_) (m : Gang) (n l k : Nat) (hl : f.lanes.getLsbD l = true) (hs : (m.thread l).gathers = (g.thread l).gathers) :
    (m.advance f n).settle.vreg l k = m.vreg l k := by
  refine ended_vreg m f n l k ?_
  rw [hs]; simp [Thread.gathers, h.ready l hl]

/-- A word that writes one vector register in its lanes. -/
theorem vector_word (h : Issues i s g f at_) (d : Nat) (r : Nat → W32) (n : Nat) :
    (s.setGang ((g.setVreg f.lanes d r).advance f n).settle).gang? g.id = some ((g.setVreg f.lanes d r).advance f n).settle ∧
      (∀ l, f.lanes.getLsbD l = true → ((g.setVreg f.lanes d r).advance f n).settle.vreg l d = r l) ∧
      Frame { vreg := fun l m => f.lanes.getLsbD l = true ∧ m = d } s (s.setGang ((g.setVreg f.lanes d r).advance f n).settle) g := by
  have hg : ∀ l, ((g.setVreg f.lanes d r).thread l).gathers = (g.thread l).gathers := fun l => setVreg_same Thread.gathers _ _ _ _ _ fun _ _ _ => rfl
  obtain ⟨a, b⟩ := word_ended { vreg := fun l m => f.lanes.getLsbD l = true ∧ m = d } h (g.setVreg f.lanes d r) n rfl
    (fun l q hq => by rw [vreg_setVreg, if_neg]; rintro ⟨⟨h1, -⟩, h2⟩; exact hq ⟨h1, h2.symm⟩) hg
    (fun l _ => setVreg_same Thread.cursors _ _ _ _ _ fun _ _ _ => rfl) (fun l _ => setVreg_same Thread.delivery _ _ _ _ _ fun _ _ _ => rfl)
  refine ⟨a, fun l hl => ?_, b⟩
  rw [word_vreg h _ n l d hl (hg l), vreg_setVreg, if_pos ⟨⟨hl, h.has l hl⟩, rfl⟩]

/-- A word that writes one scalar. With no lane at a mask wait or a membership word, the scalar holds the new value. -/
theorem scalar_word (h : Issues i s g f at_) (d : Nat) (v : W64) (n : Nat) :
    (s.setGang ((g.setSreg d v).advance f n).settle).gang? g.id = some ((g.setSreg d v).advance f n).settle ∧
      ((∀ l, (g.thread l).gathers = false) → ((g.setSreg d v).advance f n).settle.sreg d = if d = 0 then 0 else v) ∧
      Frame { sreg := fun m => m = d } s (s.setGang ((g.setSreg d v).advance f n).settle) g := by
  have ht : ∀ l, (g.setSreg d v).thread l = g.thread l := fun l => by unfold Gang.setSreg; split <;> rfl
  obtain ⟨a, b⟩ := word_ended { sreg := fun m => m = d } h (g.setSreg d v) n (by unfold Gang.setSreg; split <;> rfl)
    (fun l q _ => by simp only [Gang.vreg, ht]) (fun l => by rw [ht]) (fun l _ => by rw [ht]) (fun l _ => by rw [ht])
    (fun q hq => by rw [sreg_setSreg]; by_cases h0 : q = 0
                    · subst h0; rfl
                    · rw [if_neg h0, if_neg (fun e => hq e.symm)])
    (fun q _ => by unfold Gang.setSreg; split <;> rfl) (fun _ => by unfold Gang.setSreg; split <;> rfl) (fun _ => by unfold Gang.setSreg; split <;> rfl)
    (by unfold Gang.setSreg; split <;> rfl)
  refine ⟨a, fun hall => ?_, b⟩
  have := (ended_files (g.setSreg d v) f n fun l => by rw [ht]; exact hall l).1
  have e : ((g.setSreg d v).advance f n).settle.sreg d = (g.setSreg d v).sreg d := by simp only [Gang.sreg, this]
  rw [e, sreg_setSreg, if_pos rfl]

/-- A word that writes one mask as a whole. -/
theorem mask_word (h : Issues i s g f at_) (d : Nat) (v : Lanes) (n : Nat) :
    (s.setGang ((g.setMask d v).advance f n).settle).gang? g.id = some ((g.setMask d v).advance f n).settle ∧
      ((∀ l, (g.thread l).gathers = false) → ((g.setMask d v).advance f n).settle.mreg d = v &&& g.lanes) ∧
      Frame { mask := fun m => m = d } s (s.setGang ((g.setMask d v).advance f n).settle) g := by
  obtain ⟨a, b⟩ := word_ended { mask := fun m => m = d } h (g.setMask d v) n rfl (fun _ _ _ => rfl)
    (hm := fun q hq => by rw [mreg_setMask, if_neg fun e => hq e.symm])
  refine ⟨a, fun hall => ?_, b⟩
  have := (ended_files (g.setMask d v) f n hall).2.1
  have e : ((g.setMask d v).advance f n).settle.mreg d = (g.setMask d v).mreg d := by simp only [Gang.mreg, this]
  rw [e, mreg_setMask, if_pos rfl]

/-- A word that changes nothing in its gang. -/
theorem plain_word (h : Issues i s g f at_) (n : Nat) :
    (s.setGang (g.advance f n).settle).gang? g.id = some (g.advance f n).settle ∧ Frame {} s (s.setGang (g.advance f n).settle) g := by
  obtain ⟨a, b⟩ := word_ended {} h g n rfl (fun _ _ _ => rfl)
  exact ⟨a, b⟩

/-! ## The shared forms -/

theorem lanes2_next (h : Issues i s g f at_) (b a d : BitVec 7) (r : Gang → Nat → W32 → W32 → W32)
    (hs : i.sig = { size := 4, ops := [.vec b.toNat 1, .vec a.toNat 1, .vec d.toNat 1] }) :
    lanes2 b a d s r = .next (s.setGang ((g.setVreg f.lanes d.toNat fun l => r g l (g.vreg l a.toNat) (g.vreg l b.toNat)).advance f 4).settle) :=
  h.next _ hs _

theorem lanes1_next (h : Issues i s g f at_) (a d : BitVec 7) (r : W32 → W32) (hs : i.sig = { size := 4, ops := [.vec a.toNat 1, .vec d.toNat 1] }) :
    lanes1 a d s r = .next (s.setGang ((g.setVreg f.lanes d.toNat fun l => r (g.vreg l a.toNat)).advance f 4).settle) :=
  h.next _ hs _

theorem lanesShort_next (h : Issues i s g f at_) (x : BitVec 1) (b d : BitVec 5) (src : Gang → BitVec 1 → BitVec 5 → Nat → W32) (r : W32 → W32 → W32)
    (hs : i.sig = shortSig x b d) :
    lanesShort x b d s src r = .next (s.setGang ((g.setVreg f.lanes d.toNat fun l => r (g.vreg l d.toNat) (src g x b l)).advance f 2).settle) :=
  by unfold lanesShort; rw [h.next _ hs]; rfl

theorem lanesCmp_next (h : Issues i s g f at_) (b a : BitVec 7) (m : BitVec 4) (c : W32 → W32 → Bool)
    (hs : i.sig = { size := 4, ops := [.vec b.toNat 1, .vec a.toNat 1, .mask m.toNat] }) :
    lanesCmp b a m s c = .next (s.setGang ((g.setMaskLanes f.lanes m.toNat
      (lanesWhere f.lanes fun l => c (g.vreg l a.toNat) (g.vreg l b.toNat))).advance f 4).settle) :=
  h.next _ hs _

theorem scalar2_next (h : Issues i s g f at_) (b a d : BitVec 7) (r : W64 → W64 → W64)
    (hs : i.sig = { size := 4, ops := [.sca b.toNat 1, .sca a.toNat 1, .sca d.toNat 1] }) :
    scalar2 b a d s r = .next (s.setGang ((g.setSreg d.toNat (r (g.sreg a.toNat) (g.sreg b.toNat))).advance f 4).settle) :=
  h.next _ hs _

theorem scalarImm_next (h : Issues i s g f at_) (n : BitVec 6) (r : W64 → W64) (hs : i.sig = { size := 4, ops := [.sca n.toNat 1] }) :
    scalarImm n s r = .next (s.setGang ((g.setSreg n.toNat (r (g.sreg n.toNat))).advance f 4).settle) :=
  h.next _ hs _

end Sys2Proof.Machine
end

