-- ==== Sys2Proof/Safety.lean ====
section
/-!
DEFINITION. What counts as a safe run: no step stops.
-/
namespace Sys2Proof.Machine

/-- A state that `n` steps from `s` may reach without a stop. -/
def reaches : Nat → State → State → Prop
  | 0, s, t => t = s
  | n + 1, s, t => ∃ u, step s = .next u ∧ reaches n u t

/-- A state from which no step stops the machine. -/
def safe (s : State) : Prop := ∀ n t, reaches n s t → ∃ u, step t = .next u

end Sys2Proof.Machine
end

