-- ==== Sys2Proof/Tests/Slice0.lean ====
section
/-!
SUPPORT. The model's own tests: an ill-formed word for each check of WellFormed, words written out from the encodings of the spec with what they
decode to, some results of one word worked by hand, and, for each statement with hypotheses, states and operands that meet them.
-/
namespace Sys2Proof

set_option Elab.async false

open Machine

/-! ## Well-formedness: one ill-formed word for each check -/

/-- A pair that starts at v119 leaves v0-v119, one that starts at k7 leaves k0-k7 (R51). -/
theorem test_wf_vector_spans : Instr.wf (.togen 0 1 119) = false ∧ Instr.wf (.togen 0 1 127) = false ∧ Instr.wf (.togen 0 1 118) = true ∧
    Instr.wf (.togen 0 1 126) = true := ⟨rfl, rfl, rfl, rfl⟩

/-- Scalar codes end at 63, and a pair at s63 leaves the scalars (R50, R51). -/
theorem test_wf_scalars : Instr.wf (.sadd 64 1 2) = false ∧ Instr.wf (.jmpt 63 1) = false ∧ Instr.wf (.sadd 63 1 2) = true := ⟨rfl, rfl, rfl⟩

/-- Mask codes 12-15 are reserved (R50). -/
theorem test_wf_masks : Instr.wf (.mcpy 12 1) = false ∧ Instr.wf (.mcpy 11 1) = true := ⟨rfl, rfl⟩

/-- Special register indices 24-31 and 64-127 are reserved, and a wsr must not name a read-only one (R55, R94). -/
theorem test_wf_specials : Instr.wf (.vsr 24 1) = false ∧ Instr.wf (.vsr 64 1) = false ∧ Instr.wf (.wsr 1 11) = false ∧ Instr.wf (.wsr 1 18) = false ∧
    Instr.wf (.vsr 23 1) = true ∧ Instr.wf (.wsr 1 63) = true := ⟨rfl, rfl, rfl, rfl, rfl, rfl⟩

/-- Slot codes 12-14 of a header are reserved, and a body has 1 to 24 words (R53). -/
theorem test_wf_header : Instr.wf (.clauseHeader 12 0 0 1) = false ∧ Instr.wf (.clauseHeader 0 14 0 1) = false ∧ Instr.wf (.clauseHeader 0 0 0 0) = false ∧
    Instr.wf (.clauseHeader 0 0 0 25) = false ∧ Instr.wf (.clauseHeader 15 15 0xFFF 24) = true := ⟨rfl, rfl, rfl, rfl, rfl⟩

/-- Width code 7 and scopes 6 and 7 are reserved (R170, R191). -/
theorem test_wf_fields : Instr.wf (.ldg 0 7 0 1 1 1) = false ∧ Instr.wf (.fence 6) = false ∧ Instr.wf (.fence 5) = true := ⟨rfl, rfl, rfl⟩

/-- An event is no word. -/
theorem test_wf_event : Instr.wf (.dispatch 0) = false := rfl

/-! ## Decoding -/

/-- A header (R53), and 16-bit words: sub with a register, max.f32 with imm5, nop (R46-R48). -/
theorem test_decode_header_and_short :
    decodeTableWord 32 0b1111_0000_000000000000_00100_000000_1 = some (.clauseHeader 15 0 0 4) ∧
    decodeTableWord 16 0b0_00011_00010_0010_0 = some (.subI32Short 0 3 2) ∧
    decodeTableWord 16 0b1_11111_00010_1110_0 = some (.maxF32Short 1 31 2) ∧
    decodeTableWord 16 0x001E = some .nop := ⟨rfl, rfl, rfl, rfl⟩

/-- Patterns that are no instruction: a 16-bit word of OP16 = 0xF that is not nop, the reserved majors, a reserved sub-code of iun, a bit that exit
must have 0, a mask code past 11 (R48, R52, R55). -/
theorem test_decode_refuses :
    decodeTableWord 16 0x003E = none ∧ decodeTableWord 32 0x00000025 = none ∧ decodeTableWord 32 0x0000002B = none ∧
    decodeTableWord 32 0b00000001111_0000001_0000010_001001_1 = none ∧ decodeTableWord 32 (0x00000049 + 0x80) = none ∧
    decodeTableWord 32 0b0110_0000011_0000001_000_1100_001100_1 = none := ⟨rfl, rfl, rfl, rfl, rfl, rfl⟩

/-- Words of the integer family, bit by bit from the layouts of their rules (R97-R104). -/
theorem test_decode_integer :
    decodeTableWord 32 0b11111111111_0000001_0000010_000100_1 = some (.muli 0x7FF 1 2) ∧
    decodeTableWord 32 0b000010_11111_0000001_0000010_001000_1 = some (.shiSar 31 1 2) ∧
    decodeTableWord 32 0b00000000100_0000001_0000010_001001_1 = some (.clz 1 2) ∧
    decodeTableWord 32 0b1_00111_00011_0000001_0000010_001010_1 = some (.bfeI 7 3 1 2) ∧
    decodeTableWord 32 0b0_00111_00011_0000001_0000010_001011_1 = some (.bfi 7 3 1 2) ∧
    decodeTableWord 32 0b0110_0000011_0000001_000_1011_001100_1 = some (.icmpLtN 3 1 11) ∧
    decodeTableWord 32 0b0100_0000011_0000001_0000010_001110_1 = some (.sel 4 3 1 2) ∧
    decodeTableWord 32 0b100000000000000001_1111000_001111_1 = some (.li 0x20001 120) :=
  ⟨rfl, rfl, rfl, rfl, rfl, rfl, rfl, rfl⟩

/-- Words of the float family, bit by bit from the layouts of their rules (R113-R125). -/
theorem test_decode_float :
    decodeTableWord 32 0b0011_0000011_0000001_0000010_010001_1 = some (.fmaF32 3 1 2) ∧
    decodeTableWord 32 0b0110_0000011_0000001_000_0101_010011_1 = some (.fcmpUno 3 1 5) ∧
    decodeTableWord 32 0b00000000100_0000001_0000010_010100_1 = some (.sqrtF32 1 2) ∧
    decodeTableWord 32 0b0100_0000011_0000001_0000010_010110_1 = some (.maxF16x2 3 1 2) ∧
    decodeTableWord 32 0b0100_0000011_0000001_0000010_010111_1 = some (.dot8I4 3 1 2) ∧
    decodeTableWord 32 0b1_10_0_110_0011_0000001_0000010_011000_1 = some (.cvt 1 2 0 6 3 1 2) ∧
    decodeTableWord 32 0b0000_1_11_10_1_0_0000001_0000010_011001_1 = some (.cvtpByte 1 3 2 1 0 1 2) ∧
    decodeTableWord 32 0b0000_0000011_0000001_0000010_011010_1 = some (.sbdecSb4 3 1 2) :=
  ⟨rfl, rfl, rfl, rfl, rfl, rfl, rfl, rfl⟩

/-- Words of the control family, bit by bit from the layouts of their rules (R141-R155). -/
theorem test_decode_control :
    decodeTableWord 32 0b0100_1_100001_0000001_0000010_011101_1 = some (.shflxIdx 4 33 1 2) ∧
    decodeTableWord 32 0b0110000_0100_0000001_0000010_011110_1 = some (.xredScanI32 4 1 2) ∧
    decodeTableWord 32 0b0001000_0100_0000001_0000010_011111_1 = some (.voteAll 4 1 2) ∧
    decodeTableWord 32 0b111111111111111110_100_0101_100000_1 = some (.braSet 0x3FFFE 5) ∧
    decodeTableWord 32 0b000000000000001001_0000001_100001_1 = some (.call 9) ∧
    decodeTableWord 32 0b00000000000_0111111_0000000_100010_1 = some (.jmpS 63) ∧
    decodeTableWord 32 0b0010000000000000000000000_100010_1 = some (.ret) ∧
    decodeTableWord 32 0b01000_000110_0000001_0000000_100010_1 = some (.jmpt 6 1) ∧
    decodeTableWord 32 0b000000000000000000000_0111_100011_1 = some (.join 7) ∧
    decodeTableWord 32 0b10110000000000_1000_0000010_100011_1 = some (.mfirst 8 2) ∧
    decodeTableWord 32 0b0000000000000000000000000_100100_1 = some (.exit) :=
  ⟨rfl, rfl, rfl, rfl, rfl, rfl, rfl, rfl, rfl, rfl, rfl⟩

/-- Words of the scalar family, bit by bit from the layouts of their rules (R94, R105-R109). -/
theorem test_decode_scalar :
    decodeTableWord 32 0b1111_0000011_0000001_0000010_100101_1 = some (.sremN64 3 1 2) ∧
    decodeTableWord 32 0b10000000000_0000001_0000010_100110_1 = some (.saddi 0x400 1 2) ∧
    decodeTableWord 32 0b0000_10000000000001_0_000101_101000_1 = some (.slih 0x2001 5) ∧
    decodeTableWord 32 0b0011_0000011_0000001_0000010_101001_1 = some (.scmpLeI 3 1 2) ∧
    decodeTableWord 32 0b00100_111111_0000001_0000010_101010_1 = some (.vget 63 1 2) ∧
    decodeTableWord 32 0b01010000000_0000001_0010111_101010_1 = some (.wsr 1 23) :=
  ⟨rfl, rfl, rfl, rfl, rfl, rfl⟩

/-- Words of the memory family, bit by bit from the layouts of their rules (R168-R209). -/
theorem test_decode_memory :
    decodeTableWord 32 0b1_110_1_001001_0000001_0000100_101100_1 = some (.stg 1 6 1 9 1 4) ∧
    decodeTableWord 32 0b0_011_0_001001_0000001_0000100_110001_1 = some (.ldx 0 3 0 9 1 4) ∧
    decodeTableWord 32 0b100_0_1_001001_0000001_0000100_110011_1 = some (.ldAcq 4 1 9 1 4) ∧
    decodeTableWord 32 0b101_0000000000000000000010_110100_1 = some (.fenceRel 5) ∧
    decodeTableWord 32 0b1101_1_001001_0000001_0000100_110101_1 = some (.atomCas64 1 9 1 4) ∧
    decodeTableWord 32 0b1011_1_001001_0000001_0000100_110110_1 = some (.redAxpyF32 1 9 1 4) ∧
    decodeTableWord 32 0b0001_1_001001_0000001_0000100_110111_1 = some (.rwlTrywr 1 9 1 4) ∧
    decodeTableWord 32 0b00000000_010_0000001_0000100_111000_1 = some (.togen 2 1 4) ∧
    decodeTableWord 32 0b00100000_011_0000001_000_0101_111000_1 = some (.isin 3 1 5) ∧
    decodeTableWord 32 0b0100_0000011_0000001_000_1111_111001_1 = some (.barRarrive 3 1 15) ∧
    decodeTableWord 32 0b1001_1_001001_0000001_00000_01_111111_1 = some (.pfetch 1 9 1 1) :=
  ⟨rfl, rfl, rfl, rfl, rfl, rfl, rfl, rfl, rfl, rfl, rfl⟩

/-- Words of the engines family, bit by bit from the layouts of their rules (R219-R243, R326, R328). -/
theorem test_decode_engines :
    decodeTableWord 32 0b00000000_010_1_1110_11_1_101_110_111010_1 = some (.copy 2 1 14 3 1 5 6) ∧
    decodeTableWord 32 0b000100000000000000_0000010_111010_1 = some (.sealBatch 2) ∧
    decodeTableWord 32 0b0101_0000011_0000001_000_0100_111010_1 = some (.ctake 3 1 4) ∧
    decodeTableWord 32 0b10000_001001_1_0000001_101_110_111010_1 = some (.fcopyFrom 9 1 5 6) ∧
    decodeTableWord 32 0b00000000000_0000001_00000_11_111011_1 = some (.msetSlot 1 3) ∧
    decodeTableWord 32 0b00010000000000000000_101_11_111011_1 = some (.mloadb 5 3) ∧
    decodeTableWord 32 0b01000000000_0000001_0000000_111011_1 = some (.mrel 1) ∧
    decodeTableWord 32 0b00000000000_0000001_000_1001_001101_1 = some (.embcfg 1 9) ∧
    decodeTableWord 32 0b0001_0000011_0000001_000_1001_001101_1 = some (.embag 3 1 9) :=
  ⟨rfl, rfl, rfl, rfl, rfl, rfl, rfl, rfl, rfl⟩

/-- Words of the graph family, bit by bit from the layouts of their rules (R268-R278). -/
theorem test_decode_graph :
    decodeTableWord 32 0b0010_0000011_0000001_0000010_111100_1 = some (.gsetw 3 1 2) ∧
    decodeTableWord 32 0b0111_0000011_0000001_0000010_111100_1 = some (.gfindIn 3 1 2) ∧
    decodeTableWord 32 0b10110000_111_0000001_0000010_111100_1 = some (.copenIn 7 1 2) ∧
    decodeTableWord 32 0b11010000_111_0000001_0000000_111100_1 = some (.cseek 7 1) ∧
    decodeTableWord 32 0b0000_0000011_0000001_0000010_111101_1 = some (.gnew 3 1 2) ∧
    decodeTableWord 32 0b00110000000_0000001_0000010_111101_1 = some (.gstat 1 2) :=
  ⟨rfl, rfl, rfl, rfl, rfl, rfl⟩

/-- Words of the tasks family, bit by bit from the layouts of their rules (R297-R314). -/
theorem test_decode_tasks :
    decodeTableWord 32 0b00000000000_0000001_0000000_111110_1 = some (.spawnV 1) ∧
    decodeTableWord 32 0b0010_0000011_0000001_0000010_111110_1 = some (.jcadd 3 1 2) ∧
    decodeTableWord 32 0b0011_0000011_0000001_0000010_111110_1 = some (.launch 3 1 2) ∧
    decodeTableWord 32 0b01000000000_0000001_0000010_111110_1 = some (.cancelPhase 1) ∧
    decodeTableWord 32 0b01100000000_0000001_0000000_111110_1 = some (.setprio 1) ∧
    decodeTableWord 32 0b0001_0000011_0000001_0000_100_000010_1 = some (.rpubk 3 1 4) ∧
    decodeTableWord 32 0b0100_0000011_0000001_0000001_000010_1 = some (.rsubCancel 3 1) ∧
    decodeTableWord 32 0b1000_0000011_0000001_0000_110_000010_1 = some (.rinit 3 1 6) :=
  ⟨rfl, rfl, rfl, rfl, rfl, rfl, rfl, rfl⟩

/-- Words of the system family, bit by bit from the layouts of their rules (R342-R351). -/
theorem test_decode_system :
    decodeTableWord 32 0b0000_1111111_00000000000000_111111_1 = some (.trap 127) ∧
    decodeTableWord 32 0b0010000000000000000000001_111111_1 = some (.tretNext) ∧
    decodeTableWord 32 0b0011_0000011_0000001_0000011_111111_1 = some (.sretSave 3 1) ∧
    decodeTableWord 32 0b01010000000_0000001_0000010_111111_1 = some (.rdperf 1 2) ∧
    decodeTableWord 32 0b0111_0000011_0000001_0000_1_01_111111_1 = some (.tlbinvAsid 3 1 1) ∧
    decodeTableWord 32 0b1000000000000000000000000_111111_1 = some (.halt) :=
  ⟨rfl, rfl, rfl, rfl, rfl, rfl⟩

/-! ## Small states for the witnesses -/

/-- The last place of a body whose set slots are f0 and f1. -/
def spot : BodyAt := ⟨0, 1, 1⟩
/-- Sixteen lanes at the last word of a body. -/
def here : Flight := ⟨0xFFFF, 0x10004, some spot⟩
/-- A gang of 16 lanes with all vector registers, which hold `v` in each lane, and the scalars `x`. -/
def crew (v : Cells 32) (x : Cells 64) : Gang :=
  { id := 1, team := 1, width := 16, vcount := 120, quads := 1, threads := List.replicate 16 { pc := 0x10004, place := some spot, vregs := v }
    flight := some here, sregs := x, masks := [(1, 0x00FF), (2, 0xFFFF)] }
/-- Its team in address space `asid` (0 is the device runtime), with all of the scratch. -/
def squad (asid : BitVec 8) : Team :=
  { id := 1, origin := { id := 1, asid := asid, packet := bootPacket }, cu := 0, scratchZ := 262144, barCount := 16, carCount := 16, asked := 8
    macros := (List.range 8).map fun j => (j, {}) }
/-- A module with one gang, which issues. -/
def small (g : Gang) (t : Team) : State := { State.reset with gangs := [g], teams := [t], focus := some 1, serial := 9 }

/-- A well-formed word that the gang of a small state issues at a place `b` of a body. -/
theorem issuesIn {i : Instr} {s : State} {g : Gang} {f : Flight} {b : BodyAt} (hl : f.lanes = 0xFFFF := by rfl) (hp : f.place = some b := by rfl)
    (ha : (!i.sig.last || decide (b.left = 1)) = true := by rfl) (h0 : s.focus = some g.id := by rfl) (h1 : s.gang? g.id = some g := by rfl)
    (h2 : g.flight = some f := by rfl) (h3 : ((List.range 16).all fun l => decide ((g.thread l).status = .ready)) = true := by rfl)
    (h4 : i.wf = true := by rfl) (h5 : (!i.sig.sys || s.system g) = true := by rfl) (h6 : i.sig.ops.any (Operand.beyond g.vcount) = false := by rfl) :
    Issues i s g f b where
  focus := h0
  gang := h1
  flight := h2
  place := hp
  ready := fun l h => by
    have hl : l < 16 := by
      refine Nat.lt_of_not_le fun hc => ?_
      simp [hl, BitVec.getLsbD] at h
      rw [Nat.testBit_lt_two_pow (Nat.lt_of_lt_of_le (by decide : 65535 < 2 ^ 16) (Nat.pow_le_pow_right (by decide) hc))] at h
      exact absurd h (by decide)
    simpa using List.all_eq_true.mp h3 l (List.mem_range.mpr hl)
  codes := h4
  alone := fun h => by simpa [h] using ha
  mode := fun h => by simpa [h] using h5
  allotted := fun o ho => by simpa using List.any_eq_false.mp h6 o ho

/-- The same at the last place of a body. -/
theorem issues {i : Instr} {s : State} {g : Gang} (h0 : s.focus = some g.id := by rfl) (h1 : s.gang? g.id = some g := by rfl)
    (h2 : g.flight = some here := by rfl) (h3 : ((List.range 16).all fun l => decide ((g.thread l).status = .ready)) = true := by rfl)
    (h4 : i.wf = true := by rfl) (h5 : (!i.sig.sys || s.system g) = true := by rfl) (h6 : i.sig.ops.any (Operand.beyond g.vcount) = false := by rfl) :
    Issues i s g here spot :=
  issuesIn rfl rfl (by simp [spot]) h0 h1 h2 h3 h4 h5 h6

/-- No lane of a small gang waits at a mask wait or a membership word. -/
theorem quiet_of {g : Gang} (h0 : g.withheld = [] := by rfl) (h1 : (g.threads.all fun t => !t.gathers) = true := by rfl) : g.quiet := by
  refine ⟨h0, fun l => ?_⟩
  unfold Gang.thread
  rw [List.getD_eq_getElem?_getD]
  cases h : g.threads[l]? with
  | none => rfl
  | some t => simpa using List.all_eq_true.mp h1 t (List.mem_of_getElem? h)

/-- The gang of most witnesses, with every register 0, and its module in user mode and in system mode. -/
abbrev one : Gang := crew [] []
abbrev plain : State := small one (squad 1)
abbrev kernel : State := small one (squad 0)
/-- A gang of 32 lanes of which the first 16 issue; the others have the status `st`. -/
def wide (st : Status) : Gang :=
  { one with width := 32, masks := [(1, 0x00FF), (2, 0x1FFFF)]
             threads := List.replicate 16 { pc := 0x10004, place := some spot } ++ List.replicate 16 { pc := 0x10040, status := st } }
/-- The same gang at a header position. -/
def atHeader : Gang := { one with threads := List.replicate 16 { pc := 0x10004 }, flight := some ⟨0xFFFF, 0x10004, none⟩ }

theorem one_quiet : one.quiet := quiet_of

/-- A set of lanes below 16 has only such lanes. -/
theorem lanes_lt {t : Lanes} (ht : t.toNat < 2 ^ 16) {l : Nat} (h : t.getLsbD l = true) : l < 16 := by
  refine Nat.lt_of_not_le fun hc => ?_
  rw [BitVec.getLsbD, Nat.testBit_lt_two_pow (Nat.lt_of_lt_of_le ht (Nat.pow_le_pow_right (by decide) hc))] at h
  exact absurd h (by decide)

/-- What holds of sixteen lanes holds of the lanes of a set. -/
theorem for_lanes {p : Nat → Prop} (h : ∀ l, l < 16 → p l) : ∀ l, here.lanes.getLsbD l = true → p l := fun l hl => h l (lanes_lt (by decide) hl)

/-- Operation 7 of the gang, on flag 0. -/
def job (o : OpBody) : Op := { id := 7, flag := some 0, pc := 0x10004, clause := 0, body := o }
/-- The gang with operation 7 outstanding. -/
def busy (o : OpBody) : Gang := { one with ops := [job o] }
/-- Page tables for address space 1: a data page at 0, a code page at 0x10000, a data page in transit at 0x20000. -/
def tables : List Host.Cell := storeNat (storeNat (bootTables []) (bootAst + 8) 8 (bootTable 1 + 1)) (bootTable 4 + 16) 8 (bootData + 0xF3)
/-- A module whose memory holds these tables. -/
def mapped (g : Gang) : State := { small g (squad 1) with phys := tables, ptbase := BitVec.ofNat 64 bootAst }

/-- A lane passes every check when its target does. -/
theorem passes {m : MemForm} {s : State} {g : Gang} {l : Nat} {t : Target} {pa : Nat} {tr : Bool} {new : Option Page} (h0 : m.target s g l = some t)
    (h1 : (m.addr g l).toNat % m.size = 0) (h2 : s.targetXlate g m.access.page t = .ok pa tr new) (h3 : m.access.page = .write → tr = false) (h4 : t.outOfScratch m.size = false)
    (h5 : (s.die (dieOf (s.cuOf g))).watches = []) : m.Passes s g l where
  inside := by
    rintro ⟨team, z, off, h, hz⟩
    rw [h0] at h
    obtain rfl := Option.some.inj h
    simp [Target.outOfScratch] at h4
    omega
  aligned := h1
  present := ⟨pa, tr, new, by simp [MemForm.xlate, h0, h2], h3⟩
  unwatched := by
    rintro ⟨-, va, -, h⟩
    simp [watchHit, h5] at h

/-- The same of sixteen lanes. -/
theorem all_pass {m : MemForm} {s : State} {g : Gang} (t : Target) {pa : Nat} {tr : Bool} {new : Option Page} (h0 : ∀ l, l < 16 → m.target s g l = some t ∧ (m.addr g l).toNat % m.size = 0)
    (h2 : s.targetXlate g m.access.page t = .ok pa tr new) (h3 : m.access.page = .write → tr = false) (h4 : t.outOfScratch m.size = false)
    (h5 : (s.die (dieOf (s.cuOf g))).watches = []) : ∀ l, here.lanes.getLsbD l = true → m.Passes s g l :=
  for_lanes fun l hl => passes (h0 l hl).1 (h0 l hl).2 h2 h3 h4 h5

/-- A gang without operations has every flag at 0. -/
theorem free_of {g : Gang} (h : g.ops = []) (f : Option Nat) : g.flagFree f := fun i _ => by simp [Gang.flag, h]

/-! ## Witnesses: for each clause of each statement, values that meet its hypotheses -/

theorem witness_IopResults : iopRow (.addI32 119 0 120) = some (0, 119, 0, 120) ∧ Issues (.addI32 119 0 120) plain one here spot :=
  ⟨rfl, issues⟩

theorem witness_ShortIntegerResults :
    (shortRow (.shrShort 1 31 0) = some (14, 1, 31, 0, true) ∧ Issues (.shrShort 1 31 0) plain one here spot) ∧
    Issues (.movShort 0 31 0) plain one here spot :=
  ⟨⟨rfl, issues⟩, issues⟩

theorem witness_ImmediateResults :
    (immRow (.addi 0x7FF 1 2) = some (0, 0x7FF, 1, 2) ∧ Issues (.addi 0x7FF 1 2) plain one here spot) ∧
    (shiftRow (.rol 0 1 2) = some (none, 0, 1, 2) ∧ Issues (.rol 0 1 2) plain one here spot) :=
  ⟨⟨rfl, issues⟩, rfl, issues⟩

theorem witness_UnaryAndFieldResults :
    ((unaryRow (.clz 1 2)).map (fun r => (r.1, r.2.1)) = some (1, 2) ∧ Issues (.clz 1 2) plain one here spot) ∧
    ((fieldRow (.bfeN 31 31 1 2)).isSome = true ∧ Issues (.bfeN 31 31 1 2) plain one here spot) :=
  ⟨⟨rfl, issues⟩, rfl, issues⟩

theorem witness_CompareResults : icmpRow (.icmpGeN 1 2 11) = some (9, 1, 2, 11) ∧
    Issues (.icmpGeN 1 2 11) plain one here spot ∧ ∀ l, (one.thread l).gathers = false :=
  ⟨rfl, issues, one_quiet.2⟩

theorem witness_ScalarResults :
    (sopRow (.sdivN64 1 2 0) = some (14, 1, 2, 0) ∧ Issues (.sdivN64 1 2 0) plain one here spot) ∧
    (scmpRow (.scmpLtI 1 2 63) = some (2, 1, 2, 63) ∧ Issues (.scmpLtI 1 2 63) plain one here spot ∧ (63 : BitVec 7).toNat ≠ 0) ∧
    ((scalarRow (.vget 63 1 2)).isSome = true ∧ Issues (.vget 63 1 2) plain one here spot) ∧
    ∀ l, (one.thread l).gathers = false :=
  ⟨⟨rfl, issues⟩, ⟨rfl, issues, by decide⟩, ⟨rfl, issues⟩, one_quiet.2⟩

theorem witness_FloatResults :
    ((floatRow (.addF32 1 2 3)).map Prod.fst = some 3 ∧ Issues (.addF32 1 2 3) plain one here spot) ∧
    ((fcmpRow (.fcmpLt 1 2 3)).map (fun r => r.2.2.2.1) = some false ∧ Issues (.fcmpLt 1 2 3) plain one here spot) ∧ ∀ l, (one.thread l).gathers = false :=
  ⟨⟨rfl, issues⟩, ⟨rfl, issues⟩, one_quiet.2⟩

/-- A word of each row that FloatResult reads, and the greatest finite substitute. -/
theorem witness_FloatResults_rows :
    ((fopRow (.fmaF32 1 2 3)).map Prod.fst = some 3 ∧ (floatRow (.fmaF32 1 2 3)).isSome = true) ∧
    ((minMaxRow (.minF32Short 1 31 2)).map Prod.fst = some false ∧ (floatRow (.minF32Short 1 31 2)).isSome = true) ∧
    (floatRow (.scaleF32 1 2 3)).isSome = true ∧ ((plainFloat (.fracF32 1 2)).isSome = true ∧ (floatRow (.fracF32 1 2)).isSome = true) ∧
    (unaryFloat (.cosF32 1 2) = some (8, 1) ∧ (floatRow (.cosF32 1 2)).isSome = true) ∧
    (integralRow one (.rintF32 1 2) = some (.rne, true, 1) ∧ (floatRow (.rintF32 1 2)).isSome = true) ∧ (floatRow (.classF32 1 2)).isSome = true ∧
    (hopRow (.fmaBf16x2 1 2 3) = some (bf16, 3, 2, 1, 3) ∧ (floatRow (.fmaBf16x2 1 2 3)).isSome = true) ∧
    (hopMinMax (.maxF16x2 1 2 3) = some (f16, true, 2, 1) ∧ (floatRow (.maxF16x2 1 2 3)).isSome = true) ∧
    (dotRow (.dot2Bf16 1 2 3) = some (bf16, 1, 2, 3) ∧ (floatRow (.dot2Bf16 1 2 3)).isSome = true) ∧
    ((cvtRow (.cvt 1 2 0 1 2 1 2)).isSome = true ∧ Instr.wf (.cvt 1 2 0 1 2 1 2) = true ∧ (floatRow (.cvt 1 2 0 1 2 1 2)).isSome = true) ∧
    ((cvtpRow (.cvtpByte 1 3 2 1 1 1 2)).isSome = true ∧ Instr.wf (.cvtpByte 1 3 2 1 1 1 2) = true ∧ (floatRow (.cvtpByte 1 3 2 1 1 1 2)).isSome = true) ∧
    f32.finite ({ one with cvsub := 0x7F7FFFFF } : Gang).cvsub.toNat ∧ (floatRow (.sbdecSb4 1 2 3)).isSome = true ∧ (floatRow (.sbdecSb8 1 2 3)).isSome = true :=
  ⟨⟨rfl, rfl⟩, ⟨rfl, rfl⟩, rfl, ⟨rfl, rfl⟩, ⟨rfl, rfl⟩, ⟨rfl, rfl⟩, rfl, ⟨rfl, rfl⟩, ⟨rfl, rfl⟩, ⟨rfl, rfl⟩, ⟨rfl, rfl, rfl⟩, ⟨rfl, rfl, rfl⟩, ⟨by decide, by decide⟩, rfl, rfl⟩

/-- The targets: the last even one of the code space, the first outside it, and the last odd one inside. -/
theorem witness_Transfers :
    ((transferRow (.call 1)).map Prod.snd = some (true, false) ∧ Issues (.call 1) plain one here spot) ∧
    (∀ v : W64, let g := crew [] [(5, v)]
      (transferRow (.jmpS 5)).map Prod.snd = some (false, true) ∧ (∀ t x, transferRow (.jmpS 5) = some (t, x) → ∀ l, t g here l = v)) ∧
    (Issues (.jmpS 5) (small (crew [] [(5, 0x00FFFFFFFFFFFFFE)]) (squad 1)) (crew [] [(5, 0x00FFFFFFFFFFFFFE)]) here spot ∧
      (0x00FFFFFFFFFFFFFE : W64).toNat < 2 ^ 56 ∧ (0x00FFFFFFFFFFFFFE : W64).toNat % 2 = 0) ∧
    (Issues (.jmpS 5) (small (crew [] [(5, 0x0100000000000000)]) (squad 1)) (crew [] [(5, 0x0100000000000000)]) here spot ∧
      here.lanes.getLsbD 0 = true ∧ 2 ^ 56 ≤ (0x0100000000000000 : W64).toNat) ∧
    (Issues (.jmpS 5) (small (crew [] [(5, 0x00FFFFFFFFFFFFFF)]) (squad 1)) (crew [] [(5, 0x00FFFFFFFFFFFFFF)]) here spot ∧
      (0x00FFFFFFFFFFFFFF : W64).toNat < 2 ^ 56 ∧ (0x00FFFFFFFFFFFFFF : W64).toNat % 2 = 1) :=
  ⟨⟨rfl, issues⟩, fun v => ⟨rfl, fun t x h l => by cases h; rfl⟩, ⟨issues, by decide, by decide⟩, ⟨issues, by decide, by decide⟩, issues, by decide, by decide⟩

theorem witness_MaskResults : (maskRow (.leave 11)).map Prod.fst = some 11 ∧ Issues (.leave 11) plain one here spot ∧ ∀ l, (one.thread l).gathers = false :=
  ⟨rfl, issues, one_quiet.2⟩

/-- Every member waits; a member is elsewhere; a membership word lacks a member. -/
theorem witness_HoldingWords :
    (Issues (.wait 2) (small (wide (.blocked (.wait 2))) (squad 1)) (wide (.blocked (.wait 2))) here spot ∧
      (∀ l, l < 32 → (((wide (.blocked (.wait 2))).thread l).gathers = true → ((wide (.blocked (.wait 2))).thread l).status = .blocked (.wait 2)) ∧
        (((wide (.blocked (.wait 2))).mreg 2).getLsbD l = true → here.lanes.getLsbD l = true ∨ ((wide (.blocked (.wait 2))).thread l).status = .blocked (.wait 2)))) ∧
    (Issues (.wait 2) (small (wide .ready) (squad 1)) (wide .ready) here spot ∧ (wide .ready).quiet ∧
      ((wide .ready).mreg 2).getLsbD 16 = true ∧ here.lanes.getLsbD 16 = false ∧ ((wide .ready).thread 16).status = .ready) ∧
    ((memberOf (.shflxIdx 2 0 1 2)).map Prod.fst = some 2 ∧ Issues (.shflxIdx 2 0 1 2) (small (wide .ready) (squad 1)) (wide .ready) here spot) :=
  ⟨⟨issues, by decide⟩, ⟨issues, quiet_of, by decide, by decide, rfl⟩, rfl, issues⟩

theorem witness_Shuffles : (shuffleRow (.shflkUp 2 1 1 2)).isSome = true ∧ Issues (.shflkUp 2 1 1 2) plain one here spot ∧ one.quiet ∧
    here.lanes &&& ~~~one.lanes = 0 ∧ one.mreg 2 &&& ~~~here.lanes = 0 := ⟨rfl, issues, one_quiet, by decide, by decide⟩

theorem witness_Reductions : xredRow (.xredScanI32 1 1 2) = some (6, 1, 1, 2) ∧ Issues (.xredScanI32 1 1 2) plain one here spot ∧ one.quiet ∧
    here.lanes &&& ~~~one.lanes = 0 ∧ one.mreg 1 &&& ~~~here.lanes = 0 ∧ (one.mreg 1).getLsbD 7 = true := ⟨rfl, issues, one_quiet, by decide, by decide, by decide⟩

theorem witness_Votes : (voteRow (.voteAll 2 1 0)).isSome = true ∧ Issues (.voteAll 2 1 0) plain one here spot ∧ Issues (.voteBallotMask 2 1 11) plain one here spot ∧
    one.quiet ∧ here.lanes ≠ 0 ∧ here.lanes &&& ~~~one.lanes = 0 ∧ one.mreg 2 &&& ~~~here.lanes = 0 := ⟨rfl, issues, issues, one_quiet, by decide, by decide, by decide⟩

theorem witness_ExitAndPlainWords : Issues .exit plain one here spot ∧ Issues .yield plain one here spot ∧ Issues .nop plain one here spot ∧
    Issues .nop32 plain one here spot ∧ Issues (.pfetch 0 0 1 1) plain one here spot ∧ Issues .fsclr plain one here spot ∧ (∀ l, (one.thread l).gathers = false) ∧
    (let f : Flight := ⟨0xFFFF, 0x10004, some ⟨0, 1, 2⟩⟩
     let g := { one with flight := some f }
     plainWord .nop = true ∧ Issues .nop (small g (squad 1)) g f ⟨0, 1, 2⟩ ∧ 1 < (⟨0, 1, 2⟩ : BodyAt).left ∧ spot.left ≤ 1) :=
  ⟨issues, issues, issues, issues, issues, issues, one_quiet.2, rfl, issuesIn, by decide, by decide⟩

theorem witness_DecodeEncode : Instr.wf (.mcpy 11 11) = true ∧ (Instr.isWord (.mcpy 12 11) = true ∧ Instr.wf (.mcpy 12 11) = false) ∧
    decode [0x1E, 0x00, 0xFF] = .ok (.nop, 2) := ⟨rfl, ⟨rfl, rfl⟩, rfl⟩

/-- A word that is fetched, a page that is not present, a page that holds no code. -/
theorem witness_StepRunsDecodedWord :
    let s := State.reset.withFetchWord 16 0x001E
    let absent := { s with phys := [] }
    let data := { s with gangs := [bootGang 0 false] }
    (∃ t x g f, s.pick = some (.issue 2, t) ∧ t.gang? 2 = some x ∧ (t.begin x).gang? 2 = some g ∧ g.flight = some f ∧ f.place ≠ none ∧
      (t.begin x).fetch 0 0 f.pc = .word 0x001E 2 ∧ decode (leBytes 2 0x001E) = .ok (.nop, 2)) ∧
    (∃ t x g f, absent.pick = some (.issue 2, t) ∧ t.gang? 2 = some x ∧ (t.begin x).gang? 2 = some g ∧ g.flight = some f ∧ f.place ≠ none ∧
      (t.begin x).fetch 0 0 f.pc = .fault 0x10000) ∧
    (∃ t x g f, data.pick = some (.issue 2, t) ∧ t.gang? 2 = some x ∧ (t.begin x).gang? 2 = some g ∧ g.flight = some f ∧ f.place ≠ none ∧
      (t.begin x).fetch 0 0 f.pc = .protection 0) :=
  ⟨⟨_, _, _, _, rfl, rfl, rfl, rfl, nofun, rfl, rfl⟩, ⟨_, _, _, _, rfl, rfl, rfl, rfl, nofun, rfl⟩, ⟨_, _, _, _, rfl, rfl, rfl, rfl, nofun, rfl⟩⟩

/-- Words that are no instruction, at the first header position and in a body: a major that is none, and a header with a reserved slot code. -/
theorem witness_StepRunsDecodedWord_errors : ∀ header : Bool, ∀ w, w = 0x25 ∨ w = 0xC0000001 →
    let s := { State.reset.withFetchWord 32 w with gangs := [bootGang 0x10000 header] }
    ∃ t x g f e, s.pick = some (.issue 2, t) ∧ t.gang? 2 = some x ∧ (t.begin x).gang? 2 = some g ∧ g.flight = some f ∧ (f.place = none ↔ header = true) ∧
      g.dueFault f.lanes = none ∧ (t.begin x).fetch 0 0 f.pc = .word w 4 ∧ decode (leBytes 4 w) = .error e ∧ (w % 128 = 1 ↔ w = 0xC0000001) := by
  rintro (_ | _) w (rfl | rfl) <;> exact ⟨_, _, _, _, _, rfl, rfl, rfl, rfl, by simp, rfl, rfl, rfl, by decide⟩

/-- One word for each check: at a header position, a reserved code, a word that must stand last and does not, a system word in user mode, v119 beyond an
allotment of 119. -/
theorem witness_IssueChecks :
    (Instr.isWord .nop = true ∧ (small atHeader (squad 1)).gang? 1 = some atHeader ∧ atHeader.flight = some ⟨0xFFFF, 0x10004, none⟩) ∧
    (Instr.isWord (.sadd 64 1 2) = true ∧ Instr.wf (.sadd 64 1 2) = false ∧ plain.focus = some one.id ∧ plain.gang? 1 = some one ∧ one.flight = some here ∧ here.place = some spot) ∧
    (Instr.wf .exit = true ∧ (Instr.sig .exit).last = true ∧ (⟨0, 1, 2⟩ : BodyAt).left ≠ 1) ∧
    (Instr.wf .halt = true ∧ (Instr.sig .halt).last = false ∧ (Instr.sig .halt).sys = true ∧ plain.system one = false) ∧
    (Instr.wf (.not 1 119) = true ∧ (Instr.sig (.not 1 119)).sys = false ∧ Operand.vec 119 1 ∈ (Instr.sig (.not 1 119)).ops ∧ (Operand.vec 119 1).beyond 119 = true) :=
  ⟨⟨rfl, rfl, rfl⟩, ⟨rfl, rfl, rfl, rfl, rfl, rfl⟩, ⟨rfl, rfl, by decide⟩, ⟨rfl, rfl, rfl, rfl⟩, ⟨rfl, rfl, by decide, rfl⟩⟩

/-- User mode, a handler, and the outermost lanes trap. -/
theorem witness_TrapEntry : let g := { one with tvec := 0x20000 }
    let s := small g (squad 1)
    s.gang? g.id = some g ∧ g.flight = some here ∧ s.system g = false ∧ g.tvec ≠ 0 ∧ (0x8001 : Lanes) ≠ 0 ∧
    (∀ l, (0x8001 : Lanes).getLsbD l = true → here.lanes.getLsbD l = true ∧ (g.thread l).entering = false) ∧
    ∀ l, here.lanes.getLsbD l = true → (g.thread l).status = .ready :=
  ⟨rfl, rfl, rfl, by decide, by decide, fun l h => (by decide : ∀ l, l < 16 → here.lanes.getLsbD l = true ∧
    (Gang.thread { one with tvec := 0x20000 } l).entering = false) l (lanes_lt (by decide) h), for_lanes (by decide)⟩

theorem witness_TrapUnhandled : plain.gang? one.id = some one ∧ kernel.gang? one.id = some one ∧ one.flight = some here ∧ (0x8000 : Lanes) ≠ 0 ∧
    (∀ l, (0x8000 : Lanes).getLsbD l = true → here.lanes.getLsbD l = true ∧ l < one.threads.length) ∧ (plain.system one = false ∧ one.tvec = 0) ∧ kernel.system one = true :=
  ⟨rfl, rfl, rfl, by decide, fun l h => (by decide : ∀ l, l < 16 → here.lanes.getLsbD l = true ∧ l < one.threads.length) l (lanes_lt (by decide) h), ⟨rfl, rfl⟩, rfl⟩

/-- A delivery that no tret has used. -/
def caught : Delivery :=
  { cause := 1, pc := 0x10004, mask := 0xFFFF, addr := 0, rePc := 0x10004, reAt := some spot, nextPc := 0x10008, nextAt := none, temps := [], clause := 0, unreturned := true, grp := none }

theorem witness_TrapWordsAndReturn : let g := { one with threads := List.replicate 16 { pc := 0x10004, place := some spot, delivery := some caught } }
    Issues (.trap 127) plain one here spot ∧ (Issues .brk plain one here spot ∧ plain.jobOf one ∉ plain.sessions) ∧
    (Issues .brk { plain with sessions := [plain.jobOf one] } one here spot ∧ plain.jobOf one ∈ [plain.jobOf one]) ∧
    (Issues .brk (small { one with pastWatch := true } (squad 1)) { one with pastWatch := true } here spot ∧ one.pastWatch = false) ∧
    (Issues .tret (small g (squad 1)) g here spot ∧ Issues .tretNext (small g (squad 1)) g here spot ∧
      ∀ l, here.lanes.getLsbD l = true → ∃ d, (g.thread l).delivery = some d ∧ d.unreturned = true) ∧
    (Issues .tret plain one here spot ∧ here.lanes.getLsbD 15 = true ∧ (one.thread 15).delivery = none) :=
  ⟨issues, ⟨issues, nofun⟩, ⟨issues, List.mem_singleton.mpr rfl⟩, ⟨issues, rfl⟩, ⟨issues, issues, for_lanes fun l hl => ⟨caught, (by decide : ∀ l, l < 16 →
    (Gang.thread { one with threads := List.replicate 16 { pc := 0x10004, place := some spot, delivery := some caught } } l).delivery = some caught) l hl, rfl⟩⟩, issues, rfl, rfl⟩

/-- A header in a body; one with a reserved slot code; one that waits for every flag, free and not. -/
theorem witness_ClauseStart : let full := { atHeader with ops := [{ job .halt with flag := some 11 }] }
    (plain.focus = some one.id ∧ plain.gang? one.id = some one ∧ one.flight = some here ∧ here.place = some spot) ∧
    ((small atHeader (squad 1)).gang? 1 = some atHeader ∧ atHeader.flight = some ⟨0xFFFF, 0x10004, none⟩ ∧ Instr.wf (.clauseHeader 12 0 0xFFF 24) = false) ∧
    (Instr.wf (.clauseHeader 15 11 0xFFF 24) = true ∧ ∀ k, k < 12 → (0xFFF : BitVec 12).getLsbD k = true → atHeader.flag k = 0) ∧
    ((small full (squad 1)).gang? 1 = some full ∧ (0x800 : BitVec 12).getLsbD 11 = true ∧ full.flag 11 = 1) :=
  ⟨⟨rfl, rfl, rfl, rfl⟩, ⟨rfl, rfl, rfl⟩, ⟨rfl, by decide⟩, rfl, rfl, rfl⟩

/-- Each reserved bit of each register; an sr.tvec that is odd, one outside the code space, and the last that is neither. -/
theorem witness_SpecialRegisters :
    (Issues (.vsr 23 1) plain one here spot ∧ Issues (.ssr 63 0) kernel one here spot ∧ ∀ l, (one.thread l).gathers = false) ∧
    (∀ n ∈ [0, 1, 2, 3, 4, 5, 6, 7, 8, 9, 10, 11, 18, 19, 20, 21, 22], (readOnlySpecial plain one here.lanes 15 n).isSome = true) ∧
    (Issues (.vsr 22 1) plain one here spot ∧ Issues (.ssr 22 1) plain one here spot ∧ (1 : BitVec 7).toNat ≠ 0) ∧
    (∀ v, let g := crew [] [(5, v)]
      Issues (.wsr 5 12) (small g (squad 1)) g here spot ∧ Issues (.wsr 5 14) (small g (squad 1)) g here spot ∧ Issues (.wsr 5 23) (small g (squad 1)) g here spot ∧
      Issues (.wsr 5 39) (small g (squad 0)) g here spot ∧ g.sreg 5 = v) ∧
    (∀ p ∈ [(12, 8), (13, 256), (14, 0x100000000), (14, 0x7F800000), (33, 0x400000000000), (33, 1), (34, 0x100000000), (35, 128), (36, 0x20000000), (36, 1),
      (39, 0x400000000000), (39, 1)], ReservedBits p.1 p.2) ∧
    ((1 : W64).toNat % 2 = 1 ∧ (0x0100000000000000 : W64).toNat % 2 = 0 ∧ 2 ^ 56 ≤ (0x0100000000000000 : W64).toNat) ∧
    (¬ReservedBits 12 7 ∧ ¬ReservedBits 23 0x00FFFFFFFFFFFFFE ∧ (0x00FFFFFFFFFFFFFE : W64).toNat % 2 = 0 ∧ (0x00FFFFFFFFFFFFFE : W64).toNat < 2 ^ 56) :=
  ⟨⟨issues, issues, one_quiet.2⟩, by decide, ⟨issues, issues, by decide⟩, fun v => ⟨issues, issues, issues, issues, rfl⟩, by simp [ReservedBits], by decide, by simp [ReservedBits], by simp [ReservedBits], by decide, by decide⟩

/-! ### Memory -/

/-- The form of a generic 32-bit load, or store, at s5 + v1. -/
def generic (store : Bool) : MemForm := plainForm .generic store 0 4 0 5 1 2

/-- The last word of the scratch is stored; a page that a walk finds is loaded; a data granule is stored while a phase is in progress and the log is empty. -/
theorem witness_MemoryWords :
    (let g := crew [] [(5, 0xF80000000003FFFC)]
     let s := small g (squad 1)
     memForm (.stx 0 4 0 5 1 2) = some (generic true) ∧ Issues (.stx 0 4 0 5 1 2) s g here spot ∧ g.flagFree ((generic true).flag spot) ∧ g.acquiring = false ∧
     (∀ l, here.lanes.getLsbD l = true → (generic true).Passes s g l) ∧ s.logFits ((lanesOf here.lanes).map ((generic true).place s g))) ∧
    (let g := crew [] [(5, 0xFFFC)]
     let s := mapped g
     memForm (.ldx 0 4 0 5 1 2) = some (generic false) ∧ Issues (.ldx 0 4 0 5 1 2) s g here spot ∧ (∀ l, here.lanes.getLsbD l = true → (generic false).Passes s g l) ∧
     WalkReads ((generic false).xlate s g) 15 (bootTable 4)) ∧
    (let g := crew [] [(5, 0xFA00000000010000)]
     let s := { small g (squad 1) with grants := [⟨1, 1, .data⟩], phases := [{ job := 0, phase := 0, asid := 1 }], ulog := 0x0001000000000000 }
     Issues (.stx 0 4 0 5 1 2) s g here spot ∧ (∀ l, here.lanes.getLsbD l = true → (generic true).Passes s g l) ∧ s.phases ≠ [] ∧
     s.logFits ((lanesOf here.lanes).map ((generic true).place s g)) ∧ s.logLine ((generic true).place s g 15) = some (true, 1024)) :=
  ⟨⟨rfl, issues, fun i h => by cases h; decide, rfl, all_pass (.scratch 1 262144 262140) (by decide) rfl (fun _ => rfl) rfl rfl, .inl rfl⟩,
   ⟨rfl, issues, all_pass (.global 0xFFFC) (by decide) rfl nofun rfl rfl, _, _, _, rfl, rfl⟩,
   ⟨issues, all_pass (.common 0x10000) (by decide) rfl (fun _ => rfl) rfl rfl, nofun, .inr (by decide), rfl⟩⟩

/-- The gang with the address `v` in s5. -/
def at5 (v : W64) : Gang := crew [] [(5, v)]
/-- The causes of R169 in their order, none of which the lanes of a passing word have. -/
def clean (m : MemForm) (s : State) (g : Gang) : Prop :=
  here.none (fun l => m.target s g l = none ∨ m.outside s g l ∨ (m.addr g l).toNat % m.size ≠ 0 ∨ m.xlate s g l = some .wait ∨ m.xlate s g l = some .protection)
/-- A translation that is neither refused nor waits. -/
def goesOn : Xlate → Bool
  | .wait | .protection => false
  | _ => true
/-- A translation that meets an absent page. -/
def faults : Xlate → Bool
  | .fault => true
  | _ => false
theorem present_of {m : MemForm} {s : State} {g : Gang} (t : Target) (h0 : ∀ l, l < 16 → m.target s g l = some t) (h2 : faults (s.targetXlate g m.access.page t) = false) :
    here.none (fun l => m.xlate s g l = some .fault) := fun l hl h => by
  simp [MemForm.xlate, h0 l (lanes_lt (by decide) hl)] at h
  simp [h, faults] at h2
theorem inside_of {m : MemForm} {s : State} {g : Gang} (t : Target) (h0 : ∀ l, l < 16 → m.target s g l = some t) (h4 : t.outOfScratch m.size = false) :
    here.none (m.outside s g) := fun l hl => by
  rintro ⟨team, z, off, h, hz⟩
  rw [h0 l (lanes_lt (by decide) hl)] at h
  obtain rfl := Option.some.inj h
  simp [Target.outOfScratch] at h4
  omega
theorem clean_of {m : MemForm} {s : State} {g : Gang} (t : Target) (h0 : ∀ l, l < 16 → m.target s g l = some t ∧ (m.addr g l).toNat % m.size = 0)
    (h2 : goesOn (s.targetXlate g m.access.page t) = true) (h4 : t.outOfScratch m.size = false) : clean m s g := fun l hl => by
  obtain ⟨ht, ha⟩ := h0 l (lanes_lt (by decide) hl)
  rintro (h | h | h | h | h)
  · simp [ht] at h
  · exact inside_of t (fun l hl => (h0 l hl).1) h4 l hl h
  · exact h ha
  · simp [MemForm.xlate, ht] at h
    simp [goesOn, h] at h2
  · simp [MemForm.xlate, ht] at h
    simp [goesOn, h] at h2

/-- Each cause of R169 behind the ones before it, at the edge of its range. -/
theorem witness_MemoryChecks_causes : memForm (.ldx 0 4 0 5 1 2) = some (generic false) ∧
    (∀ v, Issues (.ldx 0 4 0 5 1 2) (small (at5 v) (squad 1)) (at5 v) here spot) ∧
    (let v := 0x0100000000000000; (generic false).target (small (at5 v) (squad 1)) (at5 v) 15 = none) ∧
    (let v := 0xF80000000003FFFD; here.none (fun l => (generic false).target (small (at5 v) (squad 1)) (at5 v) l = none) ∧ (generic false).outside (small (at5 v) (squad 1)) (at5 v) 15) ∧
    (let v := 0xF80000000003FFFA; here.none (fun l => (generic false).target (small (at5 v) (squad 1)) (at5 v) l = none) ∧
      (262138 + 4 ≤ 262144 ∧ (generic false).target (small (at5 v) (squad 1)) (at5 v) 15 = some (.scratch 1 262144 262138)) ∧ ((generic false).addr (at5 v) 15).toNat % 4 ≠ 0) ∧
    (let v := 0xFA0000001FFFFFFC; ((generic false).target (small (at5 v) (squad 1)) (at5 v) 15 = some (.common 0x1FFFFFFC)) ∧ ((generic false).addr (at5 v) 15).toNat % 4 = 0 ∧
      (generic false).xlate (small (at5 v) (squad 1)) (at5 v) 15 = some .protection ∧
      here.none (fun l => (generic false).xlate (small (at5 v) (squad 1)) (at5 v) l = some .wait)) ∧
    (let s := { mapped (at5 0xFFFC) with poisoned := [.phys (bootTable 4)] }
     Issues (.ldx 0 4 0 5 1 2) s (at5 0xFFFC) here spot ∧ here.none (fun l => (generic false).target s (at5 0xFFFC) l = none) ∧ here.none ((generic false).outside s (at5 0xFFFC)) ∧
     here.none (fun l => ((generic false).addr (at5 0xFFFC) l).toNat % 4 ≠ 0) ∧ (generic false).xlate s (at5 0xFFFC) 15 = some .wait) :=
  ⟨rfl, fun v => issues, rfl, ⟨for_lanes (by decide), ⟨1, 262144, 262141, rfl, by decide⟩⟩, ⟨for_lanes (by decide), ⟨by decide, rfl⟩, by decide⟩,
   ⟨rfl, by decide, rfl, for_lanes (by decide)⟩, issues, for_lanes (by decide),
   inside_of (.global 0xFFFC) (by decide) rfl, for_lanes (by decide), rfl⟩

/-- A watched word with and without a debug session. -/
theorem witness_MemoryChecks_watch :
    let s := { mapped (at5 0xFFFC) with dies := [(0, { watches := [(3, ⟨1, 0xFFFF, 0x10000, true, false, false⟩)] })] }
    clean (generic false) s (at5 0xFFFC) ∧ (generic false).watched s (at5 0xFFFC) 15 ∧ s.jobOf (at5 0xFFFC) ∉ s.sessions ∧ s.jobOf (at5 0xFFFC) ∈ [s.jobOf (at5 0xFFFC)] :=
  ⟨clean_of (.global 0xFFFC) (by decide) rfl rfl, ⟨rfl, _, rfl, rfl⟩, nofun, List.mem_singleton.mpr rfl⟩

/-- An absent page. -/
theorem witness_MemoryChecks_fault :
    let s := mapped (at5 0x30000)
    clean (generic false) s (at5 0x30000) ∧ here.none ((generic false).watched s (at5 0x30000)) ∧ (generic false).xlate s (at5 0x30000) 15 = some .fault :=
  ⟨clean_of (.global 0x30000) (by decide) rfl rfl, for_lanes fun l _ h => absurd h.2 (by rintro ⟨va, -, h⟩; exact Bool.false_ne_true h), rfl⟩

/-- A page in transit that is stored to. -/
theorem witness_MemoryChecks_transit :
    let s := mapped (at5 0x20000)
    clean (generic true) s (at5 0x20000) ∧ here.none (fun l => (generic true).xlate s (at5 0x20000) l = some .fault) ∧
    ∃ p, (generic true).xlate s (at5 0x20000) 15 = some (.ok bootData true (some p)) :=
  ⟨clean_of (.global 0x20000) (by decide) rfl rfl, present_of (.global 0x20000) (by decide) rfl, _, rfl⟩

/-- An acquire that has not completed. -/
theorem witness_MemoryChecks_acquire :
    let g := { at5 0xFFFC with ops := [job (.mem (.ldAcq 5) [])] }
    clean (generic false) (mapped g) g ∧ here.none (fun l => (generic false).xlate (mapped g) g l = some .fault) ∧ g.acquiring = true :=
  ⟨clean_of (.global 0xFFFC) (by decide) rfl rfl, present_of (.global 0xFFFC) (by decide) rfl, rfl⟩

/-- A flag at 63. -/
theorem witness_MemoryChecks_full :
    let g := { at5 0xFFFC with ops := List.replicate 63 (job .halt) }
    clean (generic true) (mapped g) g ∧ g.acquiring = false ∧ (generic true).flag spot = some 0 ∧ 63 ≤ g.flag 0 ∧
    (mapped g).logFits ((lanesOf here.lanes).map ((generic true).place (mapped g) g)) :=
  ⟨clean_of (.global 0xFFFC) (by decide) rfl rfl, rfl, rfl, by decide, .inl rfl⟩

/-- A user gang; a ring with room for one record more, a full one, and none. -/
theorem witness_SuspensionAndRing : (plain.gang? one.id = some one ∧ plain.system one = false) ∧
    (let x := ({ plain with dies := [(7, { hasRing := true, evtail := 2047 })] }).die 7
     x.hasRing = true ∧ x.evtail - x.evhead ≠ 2048 ∧ x.pending = []) ∧
    (let x := ({ plain with dies := [(7, { hasRing := true, evtail := 2048 })] }).die 7
     x.evtail - x.evhead = 2048) ∧ (plain.die 7).hasRing = false := ⟨⟨rfl, rfl⟩, ⟨rfl, by decide, rfl⟩, by decide, rfl⟩

/-- One access of a lane at the last word of the scratch. -/
def touchOf (n : Nat) (data : List Port) (dst : List Nat) : Access := { lane := 15, place := .scratch 1 (262144 - n), addr := BitVec.ofNat 64 (262144 - n), size := n, data := data, dst := dst }

theorem witness_AccessPerforms :
    (let a := touchOf 4 [] [2]
     let b := { touchOf 4 [] [3] with lane := 14 }
     let o := job (.mem (.load 4) [b, a])
     let g := busy o.body
     (small g (squad 1)).gang? g.id = some g ∧ g.op? 7 = some o ∧ [b, a][0]? = some b ∧ (small g (squad 1)).mayPerformAll g o 0 b = true ∧ b.place = a.place) ∧
    (let a := touchOf 4 [⟨2, some 9⟩] []
     let b := { touchOf 4 [⟨2, some 8⟩] [] with lane := 14 }
     let o := job (.mem .store [b, a])
     let g := busy o.body
     (small g (squad 1)).gang? g.id = some g ∧ g.op? 7 = some o ∧ a.values = some [9] ∧ (small g (squad 1)).mayPerformAll g o 0 b = true ∧
     (samePlace [b, a] b).getLast? = some (a, 1) ∧ (∀ c ∈ [b, a], c.place = b.place → c.size = b.size) ∧ ((small g (squad 1)).team? 1).isSome = true) ∧
    (let a : Access := { lane := 0, place := .phys 60, addr := 60, size := 4, data := [⟨2, some 9⟩], dst := [] }
     let o := job (.mem .store [a])
     let g := busy o.body
     a.values = some [9] ∧ (small g (squad 1)).mayPerformAll g o 0 a = true ∧ (samePlace [a] a).getLast? = some (a, 0) ∧ 60 / 64 = (60 + a.size - 1) / 64) ∧
    (let a : Access := { lane := 0, place := .phys 60, addr := 60, size := 4, data := [], dst := [2] }
     let o := job (.mem (.load 4) [a])
     let g := busy o.body
     (small g (squad 1)).mayPerformAll g o 0 a = true ∧ 60 / 64 = (60 + a.size - 1) / 64 ∧ (small g (squad 1)).viewRoom 0 (.phys 60)) :=
  ⟨⟨rfl, rfl, rfl, rfl, rfl⟩, ⟨rfl, rfl, rfl, rfl, rfl, by simp [touchOf], rfl⟩, ⟨rfl, rfl, rfl, rfl⟩, rfl, rfl, fun a _ => .inr (by decide)⟩

theorem witness_AtomicsPerform :
    let a := touchOf 4 [⟨2, some 9⟩] [2]
    let o := job (.mem (.atom 0) [a])
    let g := busy o.body
    (small g (squad 1)).gang? g.id = some g ∧ g.op? 7 = some o ∧ Performable (small g (squad 1)) g o (.atom 0) [a] :=
  ⟨rfl, rfl, ⟨rfl, .inl ⟨0, rfl⟩, by simp [touchOf], ⟨rfl, rfl, by simp [touchOf]⟩, by simp [touchOf, Access.values], rfl, fun a ha => by rw [List.mem_singleton.mp ha]; exact ⟨rfl, rfl, rfl⟩,
    by simp, by simp [touchOf], fun a ha t n h => by rw [List.mem_singleton.mp ha] at h; cases h; rfl, by simp [touchOf, busy, one, crew]⟩⟩

/-- A load, and an ld.acq at module scope, whose access is performed. -/
theorem witness_MemoryCompletes : ∀ k, k = .load 4 ∨ k = .ldAcq 4 →
    let a := { touchOf 4 [] [119] with done := true }
    let o := { job (.mem k [a]) with land := [⟨15, 119, 5⟩] }
    let g := { one with ops := [o] }
    (small g (squad 1)).gang? g.id = some g ∧ g.op? 7 = some o ∧ (∀ x, k ≠ .atom x) ∧ (∀ x, k ≠ .rwl x) ∧ k ≠ .jcadd ∧ (∀ b ∈ [a], b.done = true) ∧ o.sland = [] ∧
    (∀ x ∈ o.land, x.lane < g.threads.length ∧ x.lane < 64) := by
  rintro k (rfl | rfl) <;> exact ⟨rfl, rfl, nofun, nofun, nofun, by simp, rfl, by simp [one, crew]⟩

/-- A reduction whose access may leave. -/
theorem witness_ReductionsApply_leaves : let a := touchOf 4 [⟨2, some 9⟩] []
    let o := job (.mem (.red 0) [a])
    let g := busy o.body
    (small g (squad 1)).gang? g.id = some g ∧ g.op? o.id = some o ∧ [a][0]? = some a ∧ (small g (squad 1)).mayPerformAll g o 0 a = true := ⟨rfl, rfl, rfl, rfl⟩

theorem witness_ReductionsApply : let r : Red := { id := 3, sources := [], place := .scratch 1 262140, x := 0, ds := [(1, 0)] }
    let s := { plain with reds := [r] }
    (s.reds.find? fun x => decide (x.id = r.id)) = some r ∧ s.accessible r.place 4 = true ∧ (s.team? 1).isSome = true := ⟨rfl, rfl, rfl⟩

/-- Events that are not enabled; then a stall of each kind whose condition has come. -/
theorem witness_StallsAndWaitingEvents :
    plain.op? 1 7 = none ∧
    (let b := busy (.mem (.load 4) [touchOf 4 [] [2]])
     (small b (squad 1)).op? 1 7 = some (b, job (.mem (.load 4) [touchOf 4 [] [2]])) ∧ (touchOf 4 [] [2]).done = false) ∧
    (∀ x ∈ plain.reds, x.id ≠ 3) ∧ (plain.gang? 1 = some one ∧ one.stall = none) ∧
    (let b := { busy .halt with ops := List.replicate 63 (job .halt), stall := some (.flagFull 0) }
     (small b (squad 1)).gang? 1 = some b ∧ (small b (squad 1)).stallOver b (.flagFull 0) = false) ∧
    (∀ st, let g := { one with stall := some st }; (small g (squad 1)).gang? 1 = some g ∧ g.stall = some st) :=
  ⟨rfl, ⟨rfl, rfl⟩, nofun, ⟨rfl, rfl⟩, ⟨rfl, rfl⟩, fun _ => ⟨rfl, rfl⟩⟩

theorem version_over : plain.stallOver one (.version 0) = true := by
  have h : plain.publishing 0 = 0 := rfl
  simp only [State.stallOver, State.lastVersion, h]
  generalize hdrVer (plain.header 0) = v
  simp
  omega
theorem walk_over : (mapped one).stallOver one (.walk 0 .read) = true := by
  obtain ⟨p, h⟩ : ∃ p, (mapped one).translate 0 1 0 .read = .ok bootData false (some p) := ⟨_, rfl⟩
  exact decide_eq_true (show (mapped one).translate 0 1 0 .read ≠ .wait by rw [h]; nofun)

/-- What each kind of stall waits for, when it has come; an error lasts. -/
theorem witness_StallsAndWaitingEvents_over :
    ({ one with ops := List.replicate 62 (job .halt) } : Gang).flag 0 < 63 ∧ ({ one with batches := List.replicate 15 (0, []) } : Gang).batches.length < 16 ∧ one.acquiring = false ∧
      plain.earlierPerformed one plain.serial = true ∧ one.earlierRead plain.serial = true ∧ one.earlierFcopies plain.serial = true ∧ (∀ q ∈ plain.requests, q.tag ≠ 0) ∧
      plain.stallOver one .copyQueue = true ∧ plain.stallOver one .matrixQueue = true ∧ plain.stallOver one .embagQueue = true ∧ plain.stallOver one (.overlap (.scratch 1 0) 8) = true ∧
      plain.stallOver one (.slot 0) = true ∧ (mapped one).stallOver one (.transit 0) = true ∧ plain.stallOver one (.queueFull 0) = true ∧
      ({ plain with cus := [(0, { spillMax := 1 })] } : State).stallOver one .spillFull = true ∧ plain.stallOver one .flush = true ∧
      plain.stallOver one .matrixTurn = true ∧ plain.stallOver one (.freeing 0) = true ∧ plain.stallOver one (.version 0) = true ∧ (mapped one).stallOver one (.walk 0 .read) = true ∧
      plain.stallOver one .error = false :=
  ⟨by decide, by decide, rfl, rfl, rfl, rfl, nofun, rfl, rfl, rfl, rfl, rfl, rfl, rfl, rfl, rfl, rfl, rfl, version_over, walk_over, rfl⟩

/-- Each fence, in each of its four cases. -/
theorem witness_FenceWords :
    (Issues (.fence 5) plain one here spot ∧ Issues (.fenceAcq 2) plain one here spot ∧ Issues (.fenceRel 3) plain one here spot) ∧
    (busy (.mem (.ldAcq 0) [])).acquiring = true ∧
    (let g := busy (.mem .store [touchOf 4 [⟨2, none⟩] []])
     Issues (.fenceRel 5) (small g (squad 1)) g here spot ∧ g.acquiring = false ∧ (small g (squad 1)).earlierPerformed g (small g (squad 1)).serial = false) ∧
    (let g := busy (.copy ⟨0, 0, 0, none, none, none, 0, 0, 0, some ⟨5, false, none⟩, none, .queued, [], [], [], [], [], 0, 0, none, none⟩)
     Issues (.fence 5) (small g (squad 1)) g here spot ∧ g.acquiring = false ∧ (small g (squad 1)).earlierPerformed g (small g (squad 1)).serial = true ∧
     g.earlierFcopies (small g (squad 1)).serial = false) ∧
    (let s := { plain with cus := [(0, { lines := [⟨0, 0, 1, false⟩] })], poisoned := [.phys 0] }
     Issues (.fence 2) s one here spot ∧ s.earlierPerformed one s.serial = true ∧ (2 : BitVec 3) ≠ 5 ∧ 2 ≤ (2 : BitVec 3).toNat ∧ s.flushable 0 = false ∧ plain.flushable 0 = true) ∧
    (let g := busy (.mem (.load 4) [{ touchOf 4 [] [2] with done := true }])
     Issues (.fence 5) (small g (squad 1)) g here spot ∧ g.acquiring = false ∧ (small g (squad 1)).earlierPerformed g (small g (squad 1)).serial = true ∧
     g.earlierFcopies (small g (squad 1)).serial = true ∧ g.earlierRead (small g (squad 1)).serial = false) ∧
    (one.acquiring = false ∧ plain.earlierPerformed one plain.serial = true ∧ one.earlierFcopies plain.serial = true ∧ one.earlierRead plain.serial = true) :=
  ⟨⟨issues, issues, issues⟩, rfl, ⟨issues, rfl, rfl⟩, ⟨issues, rfl, rfl, rfl⟩, ⟨issues, rfl, by decide, by decide, rfl, rfl⟩, ⟨issues, rfl, rfl, rfl, rfl⟩, rfl, rfl, rfl, rfl⟩

/-! ### Addresses, tables, barriers -/

/-- A team of a cluster group of one, with 15 barriers and carousels. -/
def grouped : Team := { squad 1 with group := some 1, groupSize := 1, barCount := 15, carCount := 15 }

/-- Addresses at both sides of the edge of each space. -/
theorem witness_AddressConversion : Issues (.togen 3 0 118) plain one here spot ∧ Issues (.ofgen 0 126 118) plain one here spot ∧ Issues (.isin 2 0 11) plain one here spot ∧
    (inSpace plain one 0 0x00FFFFFFFFFFFFFF ∧ ¬inSpace plain one 0 0x0100000000000000) ∧ (inSpace plain one 1 0xF80000000003FFFF ∧ ¬inSpace plain one 1 0xF800000000040000) ∧
    (inSpace (small one grouped) one 2 0xF90000000003FFFF ∧ ¬inSpace (small one grouped) one 2 0xF900000000040000) ∧
    (inSpace plain one 3 0xFA0000001FFFFFFF ∧ ¬inSpace plain one 3 0xFA00000020000000) ∧ (∀ l, (one.thread l).gathers = false) :=
  ⟨issues, issues, issues, ⟨(by decide : _ = _), (by decide : ¬_ = _)⟩, ⟨⟨by decide, by decide⟩, fun h => absurd h.2 (by decide)⟩, ⟨⟨by decide, by decide, rfl⟩,
    fun h => absurd h.2.2 (by decide)⟩, ⟨⟨by decide, by decide⟩, fun h => absurd h.2 (by decide)⟩, one_quiet.2⟩

/-- An index at the table's end, a base outside window 0, a base that is not aligned, and a table of one entry that can be read. -/
theorem witness_TableJump : (∀ a n, let g := crew [] [(6, a), (7, n)]; Issues (.jmpt 6 1) (small g (squad 1)) g here spot) ∧
    (let g := crew [] [(6, 0), (7, 0)]; (g.sreg 7).toNat ≤ (g.vreg 15 1).toNat) ∧
    (let g := crew [] [(6, 0x0100000000000000), (7, 1)]; here.none (fun l => (g.sreg 7).toNat ≤ (g.vreg l 1).toNat) ∧ 2 ^ 56 ≤ (g.sreg 6).toNat) ∧
    (let g := crew [] [(6, 2), (7, 1)]; here.none (fun l => (g.sreg 7).toNat ≤ (g.vreg l 1).toNat) ∧ (g.sreg 6).toNat < 2 ^ 56 ∧ (g.sreg 6).toNat % 4 ≠ 0) ∧
    (let s (v : Nat) := { mapped (crew [] [(6, 0), (7, 1)]) with phys := storeNat (mapped (crew [] [(6, 0), (7, 1)])).phys bootData 4 v }
     let t (v : Nat) : W64 := 0 + BitVec.ofInt 64 (BitVec.ofNat 32 (leNat ((s v).viewBytes 0 (.phys bootData) 4))).toInt
     (2 ^ 56 ≤ (t 0xFFFFFFFF).toNat) ∧ ((t 1).toNat < 2 ^ 56 ∧ (t 1).toNat % 2 = 1) ∧ ∀ v, v = 1 ∨ v = 0xFFFFFFFF → ∃ p, (s v).translate 0 1 0 .read = .ok bootData false (some p)) ∧
    (let g := crew [] [(6, 0), (7, 1)]
     Issues (.jmpt 6 1) (mapped g) g here spot ∧ g.acquiring = false ∧ ∃ p, ∀ l, here.lanes.getLsbD l = true → (g.vreg l 1).toNat < (g.sreg 7).toNat ∧
      (mapped g).translate 0 1 0 .read = .ok bootData false (some p) ∧ (mapped g).accessible (.phys bootData) 4 = true ∧
      (mapped g).lineSound 0 (.phys bootData) = true ∧ (mapped g).lineRoom 0 (.phys bootData) = true ∧ (mapped g).inOrder 0 (mapped g).serial 0 (.phys bootData) 4 = true ∧ watchHit ((mapped g).die 0) 1 true false false 0 4 = false ∧
      (0 + BitVec.ofInt 64 (BitVec.ofNat 32 (leNat ((mapped g).viewBytes 0 (.phys bootData) 4))).toInt : W64) = 0) :=
  ⟨fun a n => issues, by decide, ⟨for_lanes (by decide), by decide⟩, ⟨for_lanes (by decide), by decide, by decide⟩,
    ⟨by decide +kernel, by decide +kernel, fun v hv => by rcases hv with rfl | rfl <;> exact ⟨_, rfl⟩⟩, issues, rfl, _,
    for_lanes fun l hl => ⟨(by decide : ∀ l, l < 16 → ((crew [] [(6, 0), (7, 1)]).vreg l 1).toNat < ((crew [] [(6, 0), (7, 1)]).sreg 7).toNat) l hl, rfl, rfl, rfl, rfl, rfl, rfl, rfl⟩⟩

/-- Each check of each barrier word, then each effect: a round that completes and one that does not, a target reached and not. -/
theorem witness_BarrierWords :
    let ready := { grouped with barriers := [(14, { exp := 16, arr := 0, rnd := 5 })] }
    let more := { grouped with barriers := [(14, { exp := 17, arr := 0, rnd := 5 })] }
    (∀ n, Issues (.barInit 5 n) (small one ready) one here spot ∧ Issues (.barArrive 0 n) (small one ready) one here spot ∧ Issues (.barArrwait 0 n) (small one ready) one here spot ∧
      Issues (.barWait n) (small one ready) one here spot ∧ Issues (.barQuery 5 n) (small one ready) one here spot ∧ Issues (.barRarrive 5 0 n) (small one { ready with origin := (squad 0).origin }) one here spot) ∧
    (small one ready).team? one.team = some ready ∧ ready.barCount ≤ (15 : BitVec 4).toNat ∧ (14 : BitVec 4).toNat < ready.barCount ∧
    (({ arr := 1 } : Barrier).arr ≠ 0 ∧ 0xFFFF < (0x10000 : W64).toNat) ∧ ((ready.barrier 14).arr = 0 ∧ (one.sreg 5).toNat ≤ 0xFFFF) ∧
    (¬takes (ready.barrier 14) 0 ∧ ¬takes (ready.barrier 14) 17) ∧
    (takes (ready.barrier 14) (arrivals one here 0) ∧ (ready.barrier 14).arr.toNat + arrivals one here 0 = (ready.barrier 14).exp.toNat) ∧
    (takes (more.barrier 14) (arrivals one here 0) ∧ (more.barrier 14).arr.toNat + arrivals one here 0 ≠ (more.barrier 14).exp.toNat) ∧
    (small one ready).earlierPerformed one (small one ready).serial = true ∧
    ((small one ready).rankTeam ready 1 = none ∧ (small one ready).rankTeam ready 0 = some ready) ∧
    ((0x7FFF : BitVec 16).toNat < 2 ^ 15 ∧ ¬(0x8000 : BitVec 16).toNat < 2 ^ 15) ∧
    ((small one ready).flushable 0 = true ∧ ({ small one ready with cus := [(0, { lines := [⟨0, 0, 1, false⟩] })], poisoned := [.phys 0] } : State).flushable 0 = false) ∧
    (let far := { grouped with barriers := [(14, { exp := 16, arr := 0, rnd := 5, remotes := [5] })] }
     let g := { one with targets := [(14, 5)] }
     Issues (.barWait 14) (small g far) g here spot ∧ look g.targets 14 ∈ (far.barrier 14).remotes ∧ ((far.barrier 14).rnd - look g.targets 14).toNat < 2 ^ 15 ∧
     ∃ l, l < g.width ∧ l < 64 ∧ here.lanes.getLsbD l = true) :=
  ⟨fun n => ⟨issues, issues, issues, issues, issues, issues⟩, rfl, by decide, by decide, by decide, by decide, ⟨fun h => h.1 rfl, fun h => absurd h.2.2 (by decide)⟩,
    ⟨⟨by decide, by decide, by decide⟩, by decide⟩, ⟨⟨by decide, by decide, by decide⟩, by decide⟩, rfl, ⟨rfl, rfl⟩, by decide, ⟨rfl, rfl⟩, issues, by decide, by decide, 0, by decide⟩

/-! ### Copies and carousels -/

/-- A row of `n` elements from an offset on, in a window (0 global, 8 scratch), with stride 1. -/
def row (win fmt addr n : Nat) : BitVec 256 := BitVec.ofNat 256 (addr + 2 ^ 56 * win + 2 ^ 60 * fmt + 2 ^ 64 * n + 2 ^ 80 + 2 ^ 96 + 2 ^ 112 + 2 ^ 128)
/-- The gang with layout registers ly0 and ly1. -/
def rows (a b : BitVec 256) : Gang := { one with layouts := [(0, a), (1, b)] }
/-- A team with carousel 0: two slots of 64 bytes from offset 4096 on. -/
def wheel (k : Carousel) : Team := { grouped with carousels := [(0, k)] }
def two : Carousel := { nslot := 2, sz := 1, base := 4096, free := 2 }

/-- Each check of a copy behind the ones before it, and a copy that passes them. ly1 is the source and ly0 the destination. -/
theorem witness_CopyIssue_copies :
    (∀ a b c, let g := rows a b; Issues (.copy 0 0 c 3 1 0 1) (small g (wheel two)) g here spot) ∧
    (¬carouselFits (wheel two) 1 (row 8 2 0 16) ∧ ¬carouselFits (wheel two) 0 (row 8 2 0 17) ∧ carouselFits (wheel two) 0 (row 8 2 0 16) ∧ carouselFits (wheel two) 15 (row 8 2 0 17)) ∧
    (lyCount (row 8 2 0 16) ≠ lyCount (row 8 2 0 17) ∧ xfLegal 0 (lyFmt (row 8 2 0 16)) (lyFmt (row 8 1 0 16)) = false) ∧
    (lyCount (row 8 2 0 16) = lyCount (row 8 2 262080 16) ∧ xfLegal 0 2 2 = true) ∧
    (let g := rows (row 8 2 0 16) (row 8 2 262084 16); (small g (wheel two)).recordCause g (row 8 2 262084 16) = some SCRATCH_RANGE) ∧
    (let g := rows (row 8 2 2 16) (row 8 2 262080 16); (small g (wheel two)).recordCause g (row 8 2 262080 16) = none ∧ (small g (wheel two)).recordCause g (row 8 2 2 16) = some ALIGNMENT) ∧
    (let g := { rows (row 8 2 0 16) (row 8 2 262080 16) with ops := List.replicate 64 (job (.copy ⟨0, 0, 0, none, none, none, 0, 0, 0, none, none, .queued, [], [], [], [], [], 0, 0, none, none⟩)) }
     (small g (wheel two)).recordCause g (row 8 2 0 16) = none ∧ (small g (wheel two)).copyRoom 0 = false) ∧
    (let g := rows (row 8 2 0 16) (row 8 2 262080 16); (small g (wheel two)).copyRoom 0 = true ∧ g.flagFree (slotFlag spot.slotA)) ∧
    (let g := rows (row 8 2 64 0) (row 8 2 0 0)
     Issues (.copy 0 0 15 0 0 0 1) (small g (wheel two)) g here spot ∧ carouselFits (wheel two) 15 (row 8 2 64 0) ∧ lyCount (row 8 2 0 0) = lyCount (row 8 2 64 0) ∧ lyCount (row 8 2 0 0) = 0 ∧
     (small g (wheel two)).recordCause g (row 8 2 0 0) = none ∧ (small g (wheel two)).recordCause g (copyDest (wheel two) 15 (row 8 2 64 0)) = none) :=
  ⟨fun a b c => issues,
   ⟨(by rintro (h | ⟨k, h, -⟩) <;> first | exact absurd h (by decide) | exact nomatch h), (by rintro (h | ⟨k, h, h'⟩) <;> first | exact absurd h (by decide) | (cases h; exact absurd h' (by decide))),
    .inr ⟨two, rfl, .inr (by decide)⟩, .inl rfl⟩, ⟨by decide, rfl⟩, ⟨by decide, rfl⟩, rfl, ⟨rfl, rfl⟩, ⟨rfl, rfl⟩, ⟨rfl, fun i h => by cases h; decide⟩,
    issues, .inl rfl, by decide, by decide, rfl, rfl⟩

/-- Each check of a fabric copy behind the ones before it, and one that passes them. ly1 is the remote record and ly0 the local one, s9 the flow. -/
theorem witness_CopyIssue_fabric :
    let flow : Flow := { handle := 5, ordered := true, job := plain.jobOf one, asid := 1 }
    (∀ a b v, let g := { rows a b with sregs := [(9, v)] }; Issues (.fcopyTo 9 0 1 0) (small g (squad 1)) g here spot ∧ Issues (.fcopyFrom 9 0 1 0) (small g (squad 1)) g here spot) ∧
    lyFmt (row 0 1 0 16) ≠ lyFmt (row 8 2 0 16) ∧ (lyCount (row 8 2 0 16) = lyCount (row 8 2 64 16) ∧ lyWin (row 8 2 0 16) ≠ 0) ∧
    (lyWin (row 0 2 0 16) = 0 ∧ ¬∃ x ∈ plain.flows, x.handle = 5 ∧ x.job = plain.jobOf one) ∧
    (let g := { rows (row 8 2 262080 16) (row 0 2 0xFFFFFFFFFFFFC0 16) with sregs := [(9, 5)] }
     let s := { small g (squad 1) with flows := [flow] }
     (∃ x ∈ s.flows, x.handle = 5 ∧ x.job = s.jobOf g) ∧ s.recordCause g (row 8 2 262080 16) = none ∧ s.copyRoom 0 = true ∧
     g.flagFree (slotFlag spot.slotA) ∧ s.recordCause g (row 8 2 262084 16) = some SCRATCH_RANGE ∧ s.recordCause g (row 8 2 0 0) = none ∧ lyCount (row 8 2 0 0) = 0) ∧
    (let g := { rows (row 8 2 262080 16) (row 0 2 0xFFFFFFFFFFFFC0 16) with
                ops := List.replicate 64 (job (.copy ⟨0, 0, 0, none, none, none, 0, 0, 0, none, none, .queued, [], [], [], [], [], 0, 0, none, none⟩)) }
     (small g (squad 1)).copyRoom 0 = false) :=
  ⟨fun a b v => ⟨issues, issues⟩, by decide, ⟨rfl, by decide⟩, ⟨rfl, nofun⟩, ⟨⟨_, List.mem_singleton.mpr rfl, rfl, rfl⟩, rfl, rfl, (fun i h => by cases h; decide), rfl, rfl, by decide⟩, rfl⟩

theorem witness_BatchWords : let full := { one with batches := List.replicate 16 (0, []) }
    let room := { one with batches := List.replicate 15 (0, []) }
    let sealed_ := { crew [] [(5, 1)] with batches := [(1, [])], sealedNo := 1, sealedAny := true }
    (Issues (.sealBatch 2) (small full (squad 1)) full here spot ∧ 16 ≤ full.batches.length) ∧ (Issues (.sealBatch 2) (small room (squad 1)) room here spot ∧ room.batches.length < 16) ∧
    (Issues (.cwait 5 2) plain one here spot ∧ one.flagFree (slotFlag spot.slotA) ∧ one.sealedAny = false) ∧
    (Issues (.cwait 5 2) (small sealed_ (squad 1)) sealed_ here spot ∧ sealed_.flagFree (slotFlag spot.slotA) ∧ sealed_.sealedAny = true ∧ (∃ rs, (1, rs) ∈ sealed_.batches) ∧
      (1 + 2 ^ 16 - 1) % 2 ^ 16 < 2 ^ 15) :=
  ⟨⟨issues, by decide⟩, ⟨issues, by decide⟩, ⟨issues, fun i h => by cases h; decide, rfl⟩, issues, fun i h => by cases h; decide, rfl, ⟨[], List.mem_singleton.mpr rfl⟩, by decide⟩

/-- A bad offset, the last 32 bytes and 8 more, an illegal record and a legal one in the last 32 bytes. -/
theorem witness_ScratchRecords :
    let t := { squad 1 with scratch := storeNat [] 262112 32 (14 * 2 ^ 60) }
    let u := { squad 1 with scratch := storeNat [] 262112 32 1 }
    (∀ v, Issues (.lyset 5 7) (small (at5 v) (squad 1)) (at5 v) here spot ∧ Issues (.msetSlot 5 3) (small (at5 v) (squad 1)) (at5 v) here spot ∧ (at5 v).sreg 5 = v) ∧
    (4 : W64).toNat % 8 ≠ 0 ∧ ((262120 : W64).toNat % 8 = 0 ∧ (squad 1).scratchZ < (262120 : W64).toNat + 32) ∧
    (ScratchReads (small (at5 262112) (squad 1)) (at5 262112) 262112 ∧ lyLegal (scratchWord (small (at5 262112) (squad 1)) (at5 262112) 262112) = true ∧
      mcLegal (scratchWord (small (at5 262112) (squad 1)) (at5 262112) 262112) = true) ∧
    (ScratchReads (small (at5 262112) t) (at5 262112) 262112 ∧ lyLegal (scratchWord (small (at5 262112) t) (at5 262112) 262112) = false) ∧
    (ScratchReads (small (at5 262112) u) (at5 262112) 262112 ∧ mcLegal (scratchWord (small (at5 262112) u) (at5 262112) 262112) = false) :=
  ⟨fun v => ⟨issues, issues, rfl⟩, by decide, by decide, ⟨⟨by decide, by decide, rfl, rfl, rfl⟩, by decide, by decide⟩, ⟨⟨by decide, by decide, rfl, rfl, rfl⟩, by decide⟩,
    ⟨by decide, by decide, rfl, rfl, rfl⟩, by decide⟩

/-- Carousel 15 of a team with 15; the largest carousel; a slot filled and not; one slot more than are filled, and one more than there are. -/
theorem witness_CarouselWords :
    let some_ := { two with filled := 1, free := 1 }
    (∀ v c, Issues (.carcfg 5 c) (small (at5 v) (wheel some_)) (at5 v) here spot ∧ Issues (.ctake 2 5 c) (small (at5 v) (wheel some_)) (at5 v) here spot ∧
      Issues (.cfree 5 c) (small (at5 v) (wheel some_)) (at5 v) here spot ∧ Issues (.bccrd 2) (small (at5 v) (wheel some_)) (at5 v) here spot ∧
      (small (at5 v) (wheel some_)).team? (at5 v).team = some (wheel some_) ∧ (small (at5 v) (wheel some_)).earlierPerformed (at5 v) (small (at5 v) (wheel some_)).serial = true) ∧
    (¬(15 : BitVec 4).toNat < (wheel some_).carCount ∧ ¬CarouselWord 262144 0 ∧ ¬carouselIdle (small one (wheel some_)) (wheel some_) 0) ∧
    ((14 : BitVec 4).toNat < (wheel some_).carCount ∧ CarouselWord 262144 0x4040000000 ∧ carouselIdle (small one (wheel some_)) (wheel some_) 14) ∧
    ((wheel some_).carousel? 0 = some some_ ∧ 1 ≤ some_.filled ∧ some_.filled < 2 ∧ 2 ≤ some_.nslot ∧ some_.nslot < 3) ∧ (wheel some_).carousel? 14 = none :=
  ⟨fun v c => ⟨issues, issues, issues, issues, rfl, rfl⟩, ⟨by decide, fun h => absurd h.slots.1 (by decide), fun h => absurd (h _ rfl).1 (by decide)⟩,
    ⟨by decide, ⟨by decide, by decide, by decide, by decide⟩, fun k h => nomatch h⟩, ⟨rfl, by decide⟩, rfl⟩

/-- A copy of one element of f32 in the scratch. -/
def carried : Copy := { src := row 8 2 0 1, dst := row 8 2 64 1, xf := 0, car := none, follow := none, cvsub := 0, lvt0 := 0, lvt1 := 0, remote := none }
/-- The state and the gang with the copy as operation 7. -/
theorem hasCopy (c : Copy) (t : Team) : HasOp (small (busy (.copy c)) t) (busy (.copy c)) (job (.copy c)) := ⟨rfl, rfl⟩

/-- A queued copy without and with a carousel; a failed one, one that has moved its element, and one that fills a slot; a landed one without a follow-on and one whose
follow-on is complete; an fcopy.to; a cwait. -/
theorem witness_CopyEvents :
    (carried.stage = .queued ∧ (busy (.copy carried)).supplied (job (.copy carried)) = true ∧ (∀ p ∈ (busy (.copy carried)).ops, ∀ d, p.id < 7 → p.body = .copy d → d.stage ≠ .queued) ∧ carried.car = none ∧
      (wheel two).carousel? 0 = some two ∧ 0 < two.free) ∧
    (({ carried with fail := some (1, 0) } : Copy).fail.isSome = true ∧ carried.stage ≠ .landed) ∧
    (let c := { carried with stage := .moving, moved := [(0, 1)] }; c.stage = .moving ∧ c.fail = none ∧ c.out = [] ∧ ∀ n, n < c.units → look c.moved n ≠ 0) ∧
    (let y := { two with tail := 1, free := 1 }
     let c := { carried with stage := .moving, moved := [(0, 1)], car := some 0, carSlot := some 0 }
     HasOp (small (busy (.copy c)) (wheel y)) (busy (.copy c)) (job (.copy c)) ∧ (small (busy (.copy c)) (wheel y)).team? 1 = some (wheel y) ∧ (wheel y).carousel? 0 = some y ∧
     0 = (y.head + y.filled) % y.nslot ∧ y.filled < y.nslot ∧ 1 < y.nslot ∧ look y.landed ((y.head + y.filled + 1) % y.nslot) = 0 ∧
     1 ≠ (y.head + y.filled) % y.nslot ∧ look y.landed ((y.head + y.filled) % y.nslot) = 0) ∧
    (let c := { carried with stage := .landed, follow := some (0, 0), followOp := some 8 }
     c.stage = .landed ∧ (∀ r, c.remote = some r → r.inward = true) ∧ c.followOp = some 8 ∧ (busy (.copy c)).op? 8 = none ∧ c.batch = none) ∧
    (let c := { carried with stage := .landed, remote := some ⟨5, false, none⟩ }; c.stage = .landed ∧ c.fail = none ∧ c.remote = some ⟨5, false, none⟩) ∧
    (let b := OpBody.cwait 2 [1] 0x8001
     HasOp (small (busy b) (squad 1)) (busy b) (job b) ∧ (job b).sland = [] ∧ (job b).land = [] ∧ ∀ p ∈ (busy b).ops, ∀ c k, p.body = .copy c → c.batch = some k → k ∉ [1]) ∧
    (let g := { one with batches := [(1, [⟨3, 0, some (7, 0x10004, 64)⟩])] }
     (∀ r, Covered g [1] r → r.status.toNat < 256) ∧ EarliestFault g [1] ⟨3, 0, some (7, 0x10004, 64)⟩ (7, 0x10004, 64) ∧ ∀ r, Covered one [1] r → r.fault = none) :=
  ⟨⟨rfl, rfl, by simp [busy, job], rfl, rfl, by decide⟩, ⟨rfl, nofun⟩, ⟨rfl, rfl, rfl, by decide⟩, ⟨hasCopy _ _, rfl, rfl, by decide⟩, ⟨rfl, nofun, rfl, rfl, rfl⟩, ⟨rfl, rfl, rfl⟩,
    ⟨⟨rfl, rfl⟩, rfl, rfl, by simp [busy, job]⟩, by
      rintro r ⟨b, l, h, -, hr⟩
      cases List.mem_singleton.mp h
      cases List.mem_singleton.mp hr
      decide, ⟨⟨1, _, List.mem_singleton.mpr rfl, List.mem_singleton.mpr rfl, List.mem_singleton.mpr rfl⟩, rfl, by
      rintro r ⟨b, l, h, -, hr⟩ -
      cases List.mem_singleton.mp h
      exact .inl (List.mem_singleton.mp hr)⟩, by rintro r ⟨b, l, h, -⟩; cases h⟩

theorem moves (c : Copy) (hs : c.stage = .moving) (hf : c.fail = none) (hm : (∃ n, n < c.units ∧ (small (busy (.copy c)) (squad 1)).chosen.mayMove (busy (.copy c)) 7 c n = true) ∨
    ∃ e, c.out[0]? = some e ∧ (small (busy (.copy c)) (squad 1)).chosen.mayWrite (busy (.copy c)) c e = true) :
    ((small (busy (.copy c)) (squad 1)).own (.unit 1 7)).isSome = true := unit_isSome (g := busy (.copy c)) (o := job (.copy c)) rfl rfl hs hf hm

/-- The data pass: a copy that moves its element, one that has a byte to write, a fabric copy that sends its element, and one that has been brought it. -/
theorem witness_CopyEvents_data :
    let moving (c : Copy) := { c with stage := CopyStage.moving }
    let sends := moving { carried with dst := row 0 2 0 1, remote := some ⟨5, false, none⟩ }
    let takes_ := moving { carried with src := row 0 2 0 1, remote := some ⟨5, true, some [1, 2, 3, 4]⟩ }
    xfLegal carried.xf (lyFmt carried.src) (lyFmt carried.dst) = true ∧ f32.finite 0 ∧
    (let c := moving carried; ((small (busy (.copy c)) (squad 1)).own (.unit 1 7)).isSome = true) ∧
    (let c := moving { carried with moved := [(0, 1)], out := [⟨0, 0xF800000000000040, 0xFF, 5⟩] }; ((small (busy (.copy c)) (squad 1)).own (.unit 1 7)).isSome = true ∧ ((squad 1).id = 1)) ∧
    (((small (busy (.copy sends)) (squad 1)).own (.unit 1 7)).isSome = true ∧ sends.hasDest = false ∧ lyCount sends.src = lyCount sends.dst ∧ sends.shadowed 0 = false) ∧
    (((small (busy (.copy takes_)) (squad 1)).own (.unit 1 7)).isSome = true ∧ takes_.hasSource = false ∧ takes_.brought 0 = some [1, 2, 3, 4] ∧ takes_.hasDest = true) :=
  ⟨rfl, ⟨by decide, by decide⟩, moves _ rfl rfl (.inl ⟨0, by decide, rfl⟩), ⟨moves _ rfl rfl (.inr ⟨_, rfl, rfl⟩), rfl⟩,
    ⟨moves _ rfl rfl (.inl ⟨0, by decide, rfl⟩), rfl, by decide, rfl⟩, moves _ rfl rfl (.inl ⟨0, by decide, rfl⟩), rfl, rfl, rfl⟩

/-! ### Matrix -/

/-- A command slot over the macros of `macs`, with N = n, K = k and M = m. -/
def cmd (macs bfmt afmt n k m arr abase cbase sca scb : Nat) : BitVec 256 :=
  BitVec.ofNat 256 (2 ^ 13 * (n - 1) + 2 ^ 23 * (k - 1) + 2 ^ 33 * (m - 1) + 2 ^ 45 * bfmt + 2 ^ 49 * afmt + 2 ^ 53 * macs + 2 ^ 61 * arr + 2 ^ 64 * abase + 2 ^ 82 * 4 +
    2 ^ 128 * cbase + 2 ^ 146 * 4 + 2 ^ 192 * sca + 2 ^ 210 * scb)
/-- A block of K × N elements in the scratch. -/
def block (fmt addr k n : Nat) : BitVec 256 :=
  BitVec.ofNat 256 (addr + 2 ^ 56 * 8 + 2 ^ 60 * fmt + 2 ^ 64 * k + 2 ^ 80 * n + 2 ^ 96 + 2 ^ 112 + 2 ^ 128 + 2 ^ 160 * k + 2 ^ 192 * (k * n) + 2 ^ 224 * (k * n))
/-- The gang with command slot mc0 and layout register ly0. -/
def caster (c r : BitVec 256) : Gang := { one with slots := [(0, c)], layouts := [(0, r)] }
/-- A team whose macro 0 was loaded as a slot says. -/
def primed (bfmt : BitVec 4) (k n : Nat) : Team := { squad 1 with macros := [(0, { loaded := true, bfmt := bfmt, k := k, n := n })] }

theorem fits_group {x : Team} {c : BitVec 256} (h0 : mcMacs c ≠ 0) (h1 : ∀ j, j < 8 → (mcMacs c).testBit j = true → ((entry? x.macros j).map Macro.held) = some true)
    (h2 : mcArr c = 0) (h3 : (mcGroup c).length = (mcK c + 127) / 128 ∧ mcN c ≤ 128) : GroupFits x c where
  some_ := h0
  held := fun j hj hb => by
    have := h1 j hj hb
    cases he : entry? x.macros j with
    | none => simp [he] at this
    | some m => exact ⟨m, rfl, by simpa [he] using this⟩
  stacked := fun _ => h3
  beside := fun h => absurd h2 h

/-- mloadb: a format that no macro takes, a block past the scratch, one that is not aligned, one whose first header is corrupt, one that passes. -/
theorem witness_MatrixWords_mloadb :
    let sb := cmd 1 11 3 128 128 1 0 0 0 0 0
    let fp := cmd 1 3 3 128 128 1 0 0 0 0 0
    let one_ := cmd 1 11 3 1 128 1 0 0 0 0 0
    let good := { squad 1 with scratch := storeNat [] 64 2 0x7F00 }
    (∀ c r t, Issues (.mloadb 0 0) (small (caster c r) { squad 1 with scratch := t }) (caster c r) here spot ∧
      (small (caster c r) { squad 1 with scratch := t }).team? 1 = some { squad 1 with scratch := t }) ∧
    ¬LoadFits (squad 1) (cmd 1 0 3 128 128 1 0 0 0 0 0) (block 0 0 128 128) ∧
    (LoadFits (squad 1) fp (block 3 229378 128 128) ∧ ¬recordInside (squad 1) (block 3 229378 128 128)) ∧
    (LoadFits (squad 1) fp (block 3 229375 128 128) ∧ recordInside (squad 1) (block 3 229375 128 128) ∧ lyAddr (block 3 229375 128 128) % fmtBytes 3 ≠ 0) ∧
    (LoadFits (squad 1) sb (block 11 253696 128 128) ∧ recordInside (squad 1) (block 11 253696 128 128) ∧ lyAddr (block 11 253696 128 128) % fmtBytes 11 = 0 ∧
      corrupt false (readNat (squad 1).scratch (253696 + lyHeader (block 11 253696 128 128) 0) 2) = true ∧
      let g := caster sb (block 11 253696 128 128)
      let h := { g with ops := [job (.matrix { kind := .mmul, slot := sb, layout := 0, lvt0 := 0, lvt1 := 0 })] }
      let s := small g (squad 1)
      g.acquiring = false ∧ s.accessible (.scratch 1 (headSpan (block 11 253696 128 128)).1) (headSpan (block 11 253696 128 128)).2 = true ∧
      s.inOrder 0 s.serial 0 (.scratch 1 (headSpan (block 11 253696 128 128)).1) (headSpan (block 11 253696 128 128)).2 = true ∧ g.matrixWritten s.serial = true ∧
      Issues (.mloadb 0 0) (small h (squad 1)) h here spot ∧ isSB 11 = true ∧ h.matrixWritten (small h (squad 1)).serial = false) ∧
    (LoadFits good one_ (block 11 0 128 1) ∧ recordInside good (block 11 0 128 1) ∧ (∀ k, k < 1 → corrupt false (readNat good.scratch (lyHeader (block 11 0 128 1) k) 2) = false) ∧
      let g := caster one_ (block 11 0 128 1)
      let s := small g good
      g.acquiring = false ∧ s.accessible (.scratch 1 (headSpan (block 11 0 128 1)).1) (headSpan (block 11 0 128 1)).2 = true ∧
      s.inOrder 0 s.serial 0 (.scratch 1 (headSpan (block 11 0 128 1)).1) (headSpan (block 11 0 128 1)).2 = true ∧ g.matrixWritten s.serial = true ∧ s.matrixRoom 0 = true ∧ g.flagFree (slotFlag spot.slotA)) :=
  ⟨fun c r t => ⟨issues, rfl⟩, fun h => absurd h.format (by decide),
   ⟨⟨fits_group (by decide) (by decide) rfl (by decide), by decide, by decide, by decide⟩, fun h => absurd h.2 (by decide)⟩,
   ⟨⟨fits_group (by decide) (by decide) rfl (by decide), by decide, by decide, by decide⟩, ⟨by decide, by decide⟩, by decide⟩,
   ⟨⟨fits_group (by decide) (by decide) rfl (by decide), by decide, by decide, by decide⟩, ⟨by decide, by decide⟩, by decide, by decide, rfl, rfl, rfl, rfl, issues, rfl, rfl⟩,
   ⟨⟨fits_group (by decide) (by decide) rfl (by decide), by decide, by decide, by decide⟩, ⟨by decide, by decide⟩, by decide, rfl, rfl, rfl, rfl, rfl, fun i h => by cases h; decide⟩⟩

/-- mmul: no macro, A past the scratch, C past it, a base that is no multiple of 4, one that passes. scacc: a base that is no multiple of 4, SCB past the scratch, one that passes. -/
theorem witness_MatrixWords_products :
    let t := primed 5 128 128
    (∀ c, Issues (.mmul 0) (small (caster c 0) t) (caster c 0) here spot ∧ Issues (.scacc 0) (small (caster c 0) t) (caster c 0) here spot ∧ (small (caster c 0) t).team? 1 = some t ∧
      (small (caster c 0) t).matrixRoom 0 = true ∧ (caster c 0).flagFree (slotFlag spot.slotA)) ∧
    ¬MulFits t (cmd 0 5 5 128 128 1 0 0 0 0 0) ∧
    (MulFits t (cmd 1 5 5 128 128 1 0 262020 0 0 0) ∧ t.scratchZ < mulAEnd (cmd 1 5 5 128 128 1 0 262020 0 0 0)) ∧
    (mulAEnd (cmd 1 5 5 128 128 1 0 262016 261636 0 0) ≤ t.scratchZ ∧ t.scratchZ < mulCEnd (cmd 1 5 5 128 128 1 0 262016 261636 0 0)) ∧
    (mulAEnd (cmd 1 5 5 128 128 1 0 2 0 0 0) ≤ t.scratchZ ∧ mulCEnd (cmd 1 5 5 128 128 1 0 2 0 0 0) ≤ t.scratchZ ∧ FirstWith [2, 4, 0, 4] (fun v => v % 4 ≠ 0) 2) ∧
    (MulFits t (cmd 1 5 5 128 128 1 0 262016 261632 0 0) ∧ mulAEnd (cmd 1 5 5 128 128 1 0 262016 261632 0 0) ≤ t.scratchZ ∧
      mulCEnd (cmd 1 5 5 128 128 1 0 262016 261632 0 0) ≤ t.scratchZ ∧ ∀ v ∈ [262016, 4, 261632, 4], v % 4 = 0) ∧
    (FirstWith [0, 4, 0, 4, 0, 3] (fun v => v % 4 ≠ 0) 3 ∧ mcScb (cmd 1 5 5 128 128 1 0 0 0 0 3) = 3) ∧
    (FirstWith (scaleRegions (cmd 1 5 5 128 128 1 0 0 0 0 261636)) (fun e => t.scratchZ < e.2) (261636, 262148)) ∧
    (∀ e ∈ scaleRegions (cmd 1 5 5 128 128 1 0 0 512 1024 261632), e.2 ≤ t.scratchZ) :=
  have fit : ∀ c, mcMacs c = 1 → mcArr c = 0 → mcK c = 128 → mcN c = 128 → mcAfmt c = 5 → mcBfmt c = 5 → MulFits (primed 5 128 128) c := fun c h1 h2 h3 h4 h5 h6 =>
    { group := fits_group (by rw [h1]; decide) (by rw [h1]; decide) h2 (by rw [h3, h4, mcGroup, h1]; decide)
      formats := by rw [h5, h6]; decide
      partial_ := fun h => absurd h2 h.2.1
      loaded := fun j hj hb => by
        rw [h1] at hb
        have : j = 0 := (by decide : ∀ j, j < 8 → Nat.testBit 1 j = true → j = 0) j hj hb
        subst this
        exact ⟨_, rfl, rfl, h6.symm, h2.symm, h3.symm, h4.symm, by rw [h1]; rfl⟩ }
  ⟨fun c => ⟨issues, issues, rfl, rfl, free_of rfl _⟩, fun h => absurd h.group.some_ (by decide),
   ⟨fit _ (by decide) (by decide) (by decide) (by decide) (by decide) (by decide), by decide⟩, by decide,
   ⟨by decide, by decide, [], [4, 0, 4], rfl, by decide, nofun⟩, ⟨fit _ (by decide) (by decide) (by decide) (by decide) (by decide) (by decide), by decide⟩,
   ⟨⟨[0, 4, 0, 4, 0], [], rfl, by decide, by decide⟩, by decide⟩, ⟨[(0, 512), (0, 512), (0, 4)], [], rfl, by decide, by decide⟩, by decide⟩

theorem witness_MatrixWords_rest :
    (∀ v, Issues (.mrel 5) (small (at5 v) (squad 1)) (at5 v) here spot ∧ (at5 v).sreg 5 = v ∧ (small (at5 v) (squad 1)).matrixRoom 0 = true ∧ (at5 v).flagFree (slotFlag spot.slotA)) ∧
    ¬((0 : W64) ≠ 0) ∧ ¬(256 : W64).toNat < 256 ∧
    ((128 : W64) ≠ 0 ∧ (128 : W64).toNat < 256 ∧ ∀ j, (128 : W64).getLsbD j = true → ∃ m, entry? (squad 1).macros j = some m ∧ m.held = true) ∧
    (Issues (.mstat 2) plain one here spot ∧ plain.team? one.team = some (squad 1) ∧ (squad 1).asked ≤ 8 ∧ plain.pendingMatrix (squad 1).id ≤ 16) :=
  ⟨fun v => ⟨issues, rfl, rfl, free_of rfl _⟩, by decide, by decide, ⟨by decide, by decide, fun j h => by
    have hj : j < 64 := BitVec.lt_of_getLsbD h
    have : j = 7 := (by decide : ∀ j, j < 64 → (128 : W64).getLsbD j = true → j = 7) j hj h
    subst this
    exact ⟨_, rfl, rfl⟩⟩, issues, rfl, by decide, by decide⟩

theorem fits_reads (m : Matrix) (h : ∀ p ∈ m.reads, p.2.toNat % 2 ^ 16 < 2 ^ fmtBits m.readFmt) : m.codesFit := fun i => by
  rw [Matrix.code]
  generalize m.reads = r at h
  induction r with
  | nil => exact Nat.two_pow_pos _
  | cons p r ih =>
    rw [look]
    split
    · exact h p (List.mem_cons_self ..)
    · exact ih fun q hq => h q (List.mem_cons_of_mem _ hq)

/-- An mloadb of one element that it has read, and an mrel. -/
theorem witness_MatrixCompletes : let m : Matrix := { kind := .mloadb, slot := cmd 1 5 5 1 1 1 0 0 0 0 0, layout := block 5 0 1 1, lvt0 := 0, lvt1 := 0, reads := [(0, 0x10000)] }
    let n : Matrix := { kind := .mrel 1, slot := 0, layout := 0, lvt0 := 0, lvt1 := 0 }
    (HasOp (small (busy (.matrix m)) (squad 1)) (busy (.matrix m)) (job (.matrix m)) ∧ (small (busy (.matrix m)) (squad 1)).team? 1 = some (squad 1) ∧
      (busy (.matrix m)).supplied (job (.matrix m)) = true ∧ m.codesFit ∧ mcBfmt m.slot ∈ [3, 4, 5, 6, 9, 11, 12, 13] ∧
      (∀ i, i < m.readCount → look m.reads i ≠ 0) ∧ (∀ i, i < m.writeCount → look m.parts i ≠ 0) ∧
      ∀ h ∈ (small (busy (.matrix m)) (squad 1)).gangs, ∀ p ∈ h.ops, ¬p.id < 7) ∧
    (∀ i, i < n.readCount → look n.reads i ≠ 0) ∧ ∀ i, i < n.writeCount → look n.parts i ≠ 0 :=
  ⟨⟨⟨rfl, rfl⟩, rfl, rfl, fits_reads _ (by decide), by decide, by decide, by decide, by simp [small, busy, job]⟩, by decide, by decide⟩

theorem witness_MatrixArithmetic : let m : Matrix := { kind := .scacc, slot := cmd 1 5 5 2 1 2 0 0 0 0 0, layout := 0, lvt0 := 0, lvt1 := 0 }
    let p : Matrix := { kind := .mmul, slot := cmd 1 5 5 2 1 2 0 0 0 0 0, layout := 0, lvt0 := 0, lvt1 := 0 }
    ((List.replicate 32 0x7E).length = 32 ∧ ∀ c ∈ List.replicate 32 0x7E, c < 2 ^ fmtBits 5) ∧
    (HasOp (small (busy (.matrix p)) (squad 1)) (busy (.matrix p)) (job (.matrix p)) ∧ p.kind = .mmul ∧ p.codesFit ∧ mcAfmt p.slot ∈ [3, 4, 5, 6, 9, 13] ∧
      1 < mcN p.slot ∧ 1 < mcM p.slot ∧ 0 < if mcMode p.slot = 2 ∧ mcArr p.slot = 0 then (mcGroup p.slot).length else 1) ∧
    (HasOp (small (busy (.matrix m)) (squad 1)) (busy (.matrix m)) (job (.matrix m)) ∧ (small (busy (.matrix m)) (squad 1)).team? 1 = some (squad 1) ∧ m.kind = .scacc ∧
      1 < mcN m.slot ∧ 1 < mcM m.slot) := ⟨⟨rfl, by simp [fmtBits]⟩,
  ⟨⟨rfl, rfl⟩, rfl, fits_reads _ (by decide), by decide, by decide, by decide, by decide⟩, ⟨rfl, rfl⟩, rfl, rfl, by decide, by decide⟩

/-! ### The graph store -/

/-- A module with graph 5 of four vertices, in a pool of so many edge slots and version records. -/
def store (slots vers : Nat) (g : Gang) : State :=
  { small g (squad 1) with graph := { pools := [⟨1, 0, 4, slots, vers⟩], graphs := [{ handle := 5, asid := 1, pool := 0, vn := 4 }] } }
/-- The gang with graph 5 current, and with cursor c7 open or closed in every lane. -/
def onFive (c : List (Nat × Cursor)) : Gang := { one with gcur := 5, threads := List.replicate 16 { pc := 0x10004, place := some spot, cursors := c } }
abbrev open7 : List (Nat × Cursor) := [(7, ⟨3, []⟩)]
/-- Graph 5. -/
abbrev five : Graph := { handle := 5, asid := 1, pool := 0, vn := 4 }

theorem witness_GraphWords :
    (∀ i, i = .gadde 1 2 3 ∨ i = .gvst 1 118 ∨ i = .gfindOut 1 2 3 → (graphForm i).isSome = true ∧ Issues i (store 32 32 (onFive [])) (onFive []) here spot) ∧
    (plain.liveGraph (plain.asidOf one) one.gcur = none ∧ (store 32 32 (onFive [])).liveGraph 1 (onFive []).gcur = some five) ∧
    ((store 31 32 (onFive [])).poolRoom 1 0 (2 * laneCount here.lanes) (2 * laneCount here.lanes) 0 = false ∧
      (store 32 31 (onFive [])).poolRoom 1 0 (2 * laneCount here.lanes) (2 * laneCount here.lanes) 0 = false ∧
      (store 32 32 (onFive [])).poolRoom 1 0 (2 * laneCount here.lanes) (2 * laneCount here.lanes) 0 = true) ∧ ((onFive []).acquiring = false ∧ (onFive []).flagFree (slotFlag spot.slotA)) ∧
    (Issues (.copenIn 7 1 2) (store 0 0 (onFive open7)) (onFive open7) here spot ∧ (entry? ((onFive open7).thread 15).cursors 7).isSome = true) ∧
    (Issues (.copenOut 7 1 2) (store 0 0 (onFive [])) (onFive []) here spot ∧ here.none fun l => (entry? ((onFive []).thread l).cursors 7).isSome = true) ∧
    ((cursorForm (onFive open7) (.cseek 7 1)).isSome = true ∧ Issues (.cseek 7 1) (store 0 0 (onFive open7)) (onFive open7) here spot ∧
      (∀ l, here.lanes.getLsbD l = true → entry? ((onFive open7).thread l).cursors 7 = some ⟨3, []⟩) ∧ (onFive open7).acquiring = false ∧ (onFive open7).flagFree (slotFlag spot.slotA)) ∧
    ((cursorForm (onFive []) (.cnext 7 118)).isSome = true ∧ Issues (.cnext 7 118) (store 0 0 (onFive [])) (onFive []) here spot ∧ entry? ((onFive []).thread 15).cursors 7 = none) ∧
    Issues (.cclose 7) (store 0 0 (onFive open7)) (onFive open7) here spot ∧
    (∀ p n, let g := crew [] [(5, p), (6, n)]; Issues (.gnew 5 6 2) (store 0 0 g) g here spot ∧ Issues (.gfree 5) (store 0 0 g) g here spot ∧ Issues (.gstat 5 2) (store 0 0 g) g here spot ∧
      g.flagFree (slotFlag spot.slotA)) ∧
    (let g := crew [] [(5, 5)]
     let h := { g with ops := [job (.gsys (.gfree 5) 0)] }
     (store 0 0 g).liveGraph 1 (g.sreg 5) ≠ none ∧ (store 0 0 g).freeing 5 = false ∧ Issues (.gfree 5) (store 0 0 h) h here spot ∧ (store 0 0 h).freeing 5 = true) ∧
    ((store 0 0 one).pool? 1 1 = none ∧ ((store 0 0 one).pool? 1 0).isSome = true) ∧ (¬1 ≤ (0 : W64).toNat ∧ ¬(0xFFFFFFFF : W64).toNat ≤ 0xFFFFFFFE ∧ 1 ≤ (0xFFFFFFFE : W64).toNat) ∧
    ((store 0 0 one).poolRoom 1 0 0 0 1 = false ∧ ({ store 0 0 one with graph := { pools := [⟨1, 0, 1, 0, 0⟩] } } : State).poolRoom 1 0 0 0 1 = true) :=
  ⟨fun i h => by rcases h with rfl | rfl | rfl <;> exact ⟨rfl, issues⟩, ⟨rfl, rfl⟩, ⟨rfl, rfl, rfl⟩, ⟨rfl, free_of rfl _⟩, ⟨issues, rfl⟩, ⟨issues, for_lanes (by decide)⟩,
   ⟨rfl, issues, for_lanes (by decide), rfl, free_of rfl _⟩, ⟨rfl, issues, rfl⟩, issues, fun p n => ⟨issues, issues, issues, free_of rfl _⟩, ⟨nofun, rfl, issues, rfl⟩, ⟨rfl, rfl⟩, by decide, rfl, rfl⟩

theorem witness_SelectGraph : Issues (.gsel 5) plain one here spot ∧ Issues (.wsr 5 17) plain one here spot := ⟨issues, issues⟩

/-- A read, a mutation, a new graph, a freed one, an item, and a commit that no view needs any more. -/
theorem witness_GraphCompletes :
    let lane_ : GraphLane := ⟨15, 3, 0, 7, 0, 0, [], false⟩
    let other : GraphLane := ⟨14, 3, 0, 7, 0, 0, [], false⟩
    (∃ i, (mutations .gadde 4 [lane_] (five.view 0 0)).filterMap Prod.snd = [i]) ∧
    (∀ k ls, k = .gdeg false ∨ k = .gvld ∨ k = .gadde → ls = [lane_] ∨ ls = [other, lane_] → let b := OpBody.graph k 5 118 ls
      HasOp (store 2 2 (busy b)) (busy b) (job b) ∧ (store 2 2 (busy b)).graph.find 5 = some five ∧ (job b).land = [] ∧ (job b).sland = [] ∧ (job b).performed = false ∧
      (store 2 2 (busy b)).mayGraph (busy b) (job b) = true ∧ (ls.map GraphLane.lane).Nodup ∧ (∀ l ∈ ls, l.lane < (busy b).threads.length ∧ l.lane < 64)) ∧
    (∀ k, let b := OpBody.gsys k 2; HasOp (store 2 2 (busy b)) (busy b) (job b) ∧ (job b).land = [] ∧ (job b).sland = [] ∧ (busy b).supplied (job b) = true) ∧
    (store 2 2 (busy (.gsys (.gfree 5) 2))).graphBusy 5 = false ∧ (five.bad = false ∧ ((store 2 2 one).pool? five.asid five.pool).isSome = true) ∧
    (let c : Commit := ⟨1, 0, [⟨.put 0 1 7, true, true⟩]⟩
     let x := { five with history := [c] }
     let s := { plain with graph := { graphs := [x], gen := 1 }, cus := [(0, { view := 1 })] }
     s.graph.graphs[0]? = some x ∧ s.graph.find x.handle = some x ∧ s.holdsRecords x = true ∧ x.Orderly s.graph.gen ∧ s.reclaimable x ≠ []) :=
  ⟨⟨_, rfl⟩, fun k ls h h' => by rcases h with rfl | rfl | rfl <;> rcases h' with rfl | rfl <;> exact ⟨⟨rfl, rfl⟩, rfl, rfl, rfl, rfl, rfl, by simp, by simp [busy, one, crew]⟩,
   fun k => ⟨⟨rfl, rfl⟩, rfl, rfl, rfl⟩, rfl, ⟨rfl, rfl⟩, rfl, rfl, rfl, ⟨by decide, by decide, by decide, by decide⟩, nofun⟩

/-! ### Tasks -/

/-- The registers of a spawn by lane: code pointer, flags in its high half, frame, address, priority. -/
def spawner (code hi prio : W32) : Gang := crew [(1, code), (2, hi), (7, prio)] []

theorem witness_TaskWords_spawns :
    (∀ c h p, Issues (.spawnV 1) (small (spawner c h p) (squad 1)) (spawner c h p) here spot ∧ (spawner c h p).flagFree (slotFlag spot.slotA)) ∧
    (2 ^ 24 ≤ ((spawner 0 0x01000000 0).vreg 15 2).toNat ∧ 2 ^ 5 ≤ ((spawner 0 0 32).vreg 15 7).toNat) ∧
    ((here.none fun l => 2 ^ 24 ≤ ((spawner 1 0x00FFFFFF 31).vreg l 2).toNat ∨ 2 ^ 5 ≤ ((spawner 1 0x00FFFFFF 31).vreg l 7).toNat) ∧ ((spawner 1 0 0).vreg 15 1).toNat % 2 = 1 ∧
      here.none fun l => ((spawner 2 0x00FFFFFF 31).vreg l 1).toNat % 2 = 1) ∧
    (∀ n, let g := { spawner 0 0 0 with ops := [job (.spawn (List.replicate n 0))] }
      Issues (.spawnV 1) (small g (squad 1)) g here spot ∧ (small g (squad 1)).spawning 0 = (List.replicate n (0 : BitVec 256)).length + 0) ∧
    ((plain.cu 0).spillRoom (4081 + (lanesOf here.lanes).length) = false ∧ (plain.cu 0).spillRoom (4080 + (lanesOf here.lanes).length) = true) ∧
    (∀ v, Issues (.spawnS 5) (small (at5 v) (squad 1)) (at5 v) here spot ∧ (at5 v).sreg 5 = v) ∧
    (2 ^ 61 ≤ (0x2000000000000000 : W64).toNat ∧ (0x1FFFFFFFFFFFFFFF : W64).toNat < 2 ^ 61 ∧ (0x1FFFFFFFFFFFFFFF : W64).toNat % 2 = 1 ∧ (0x1FFFFFFFFFFFFFFE : W64).toNat % 2 = 0) :=
  ⟨fun c h p => ⟨issues, free_of rfl _⟩, by decide, ⟨for_lanes (by decide), by decide, for_lanes (by decide)⟩, fun n => ⟨issues, by simp [State.spawning, small, job, spawner, crew, State.cuOf, State.teamOf, State.team?, squad]⟩, by decide, fun v => ⟨issues, rfl⟩, by decide⟩

/-! ### Launches -/

/-- A packet of one gang a unit (kind 0 a team launch, 1 a task launch) with its own counter at offset 64 of granule 0, for CUs of the first cluster. -/
def order (kind prio count : Nat) : BitVec 512 :=
  BitVec.ofNat 512 (kind + prio * 2 ^ 8 + 14 * 2 ^ 20 + 2 ^ 24 + 0x10000 * 2 ^ 64 + count * 2 ^ 192 + 2 ^ 256 + 2 ^ 260 + 64 * 2 ^ 384)
/-- A module with counter granule 0 for address space 1. -/
def counting (g : Gang) (t : Team) : State := { small g t with grants := [⟨1, 0, .counter⟩, ⟨1, 1, .data⟩] }
/-- The address of a jcadd in each lane, by its two halves. -/
def adder (lo hi : W32) : Gang := crew [(1, lo), (2, hi)] []

theorem witness_TaskWords_jcadd :
    (∀ a b, Issues (.jcadd 3 1 4) (counting (adder a b) (squad 1)) (adder a b) here spot ∧ (adder a b).acquiring = false ∧ (adder a b).flagFree (slotFlag spot.slotA)) ∧
    (let g := adder 0 0x01000000; joinTarget (counting g (squad 1)) g 1 15 = none) ∧ (let g := adder 0 0xF8000000; joinTarget (counting g (squad 1)) g 1 15 = none) ∧
    (let g := adder 4 0xFA000000; (∀ l, l < 16 → joinTarget (counting g (squad 1)) g 1 l = some (.common 4)) ∧ g.pairNat 15 1 % 8 ≠ 0) ∧
    (let g := adder 0xFFF8 0xFA000000
     (∀ l, l < 16 → joinTarget (counting g (squad 1)) g 1 l = some (.common 0xFFF8) ∧ g.pairNat l 1 % 8 = 0) ∧ joinXlate (counting g (squad 1)) g 1 15 = some .protection ∧
       here.none fun l => joinXlate (counting g (squad 1)) g 1 l = some .wait) ∧
    (let g := adder 0xFFF8 0
     let s := { mapped g with poisoned := [.phys (bootTable 4)] }
     Issues (.jcadd 3 1 4) s g here spot ∧ (∀ l, l < 16 → joinTarget s g 1 l = some (.global 0xFFF8) ∧ g.pairNat l 1 % 8 = 0) ∧ joinXlate s g 1 15 = some .wait) ∧
    (let g := adder 0x10000 0xFA000000
     (∀ l, l < 16 → g.pairNat l 1 % 8 = 0 ∧ joinTarget (counting g (squad 1)) g 1 l = some (.common 0x10000) ∧ joinXlate (counting g (squad 1)) g 1 l = some (.ok 0x10000 false none)) ∧
       (counting g (squad 1)).logFits ((lanesOf here.lanes).map (joinPlace (counting g (squad 1)) g 1)) ∧ ((counting g (squad 1)).cu 0).spillRoom ((counting g (squad 1)).spawning 0 + 1) = true) ∧
    (∀ n, let g := { adder 0x10000 0xFA000000 with ops := [job (.spawn (List.replicate n 0))] }
      Issues (.jcadd 3 1 4) (counting g (squad 1)) g here spot ∧ (counting g (squad 1)).spawning 0 = (List.replicate n (0 : BitVec 256)).length + 0) ∧
    (plain.cu 0).spillRoom (4096 + 0 + 1) = false :=
  ⟨fun a b => ⟨issues, rfl, free_of rfl _⟩, rfl, rfl, ⟨by decide, by decide⟩, ⟨by decide, rfl, for_lanes (by decide)⟩, ⟨issues, by decide, rfl⟩, ⟨by decide, .inl rfl, rfl⟩,
    fun n => ⟨issues, by simp [State.spawning, counting, small, job, adder, crew, State.cuOf, State.teamOf, State.team?, squad]⟩, by decide⟩

/-- A packet in the last 64 bytes of the scratch. -/
def posted (p : BitVec 512) : Team := { squad 1 with scratch := storeNat [] 262080 64 p.toNat }
/-- The gang that launches it on queue 255. -/
def poster : Gang := crew [] [(5, 262080), (6, 255)]
/-- A queue of the space with `n` packets that wait. -/
def line_ (n : Nat) : Queue := { num := 255, depth := 1, hostOwned := false, asid := 1, entries := List.replicate n ⟨order 0 1 1, 1, .host 0 0, none⟩ }

/-- The state in which the packet lies in the scratch and the queue is `q`. -/
def posting (p : BitVec 512) (q : Queue) : State := { counting poster (posted p) with queues := [q] }

theorem witness_TaskWords_launch_places :
    (∀ v, let g := crew [] [(5, v), (6, 255)]; Issues (.launch 6 5 2) (counting g (squad 1)) g here spot ∧ g.sreg 5 = v ∧ g.flagFree (slotFlag spot.slotA)) ∧
    ((4 : W64).toNat % 8 ≠ 0 ∧ (262088 : W64).toNat % 8 = 0 ∧ (squad 1).scratchZ < (262088 : W64).toNat + 64 ∧ (262080 : W64).toNat % 8 = 0 ∧ (262080 : W64).toNat + 64 ≤ (squad 1).scratchZ) ∧
    ((counting one (squad 1)).queue? 255 = none ∧ ({ plain with queues := [{ line_ 0 with hostOwned := true }] } : State).queue? 255 = some { line_ 0 with hostOwned := true }) :=
  ⟨fun v => ⟨issues, rfl, free_of rfl _⟩, by decide, by decide +kernel⟩

/-- A packet is its team's own as it stands: its JOB, PHASE and LTG are those of the issuing gang. -/
theorem own_packet {p : BitVec 512} {q : Queue} (h : pktJob p = pktJob (squad 1).origin.packet ∧ pktPhase p = pktPhase (squad 1).origin.packet ∧
    pktLtg p = pktLtg (squad 1).origin.packet) : OwnPacket (posting p q) poster p p := by
  have e : (posting p q).teamOf poster = posted p := rfl
  exact ⟨by rw [jobOf_own rfl, e]; exact h.1, by rw [phaseOf_own rfl, e]; exact h.2.1, by rw [e]; exact h.2.2, fun _ _ _ _ _ => rfl⟩

/-- A packet of the runtime's priority, one of a kind that does not exist, and a good one for a queue that is full and for one that is not. -/
theorem witness_TaskWords_launch_packets :
    (∀ p : BitVec 512, BitVec.ofNat 512 (readNat (posted p).scratch 262080 64) = p) ∧
    (∀ p q, ScratchFree (posting p q) poster 262080 64 ∧ (posting p q).system poster = false ∧ (posting p q).launching 255 = 0) ∧
    (OwnPacket (posting (order 0 23 1) (line_ 0)) poster (order 0 23 1) (order 0 23 1) ∧ pktPrio (order 0 23 1) = 23) ∧
    (OwnPacket (posting (order 2 22 1) (line_ 0)) poster (order 2 22 1) (order 2 22 1) ∧ pktPrio (order 2 22 1) = 22 ∧
      (posting (order 2 22 1) (line_ 0)).packetCause (order 2 22 1) 1 = some ILLEGAL_ENCODING) ∧
    (OwnPacket (posting (order 0 22 1) (line_ 1)) poster (order 0 22 1) (order 0 22 1) ∧ (posting (order 0 22 1) (line_ 1)).packetCause (order 0 22 1) 1 = none ∧
      (posting (order 0 22 1) (line_ 1)).queue? 255 = some (line_ 1) ∧ (line_ 1).depth ≤ (line_ 1).entries.length + 0) ∧
    ((posting (order 0 22 1) (line_ 0)).queue? 255 = some (line_ 0) ∧ (line_ 0).entries.length + 0 < (line_ 0).depth) :=
  ⟨fun p => by
     rw [show readNat (posted p).scratch 262080 64 = p.toNat % 256 ^ 64 from readNat_storeNat [] 262080 64 p.toNat]
     apply BitVec.eq_of_toNat_eq
     rw [BitVec.toNat_ofNat]
     have h : (256 : Nat) ^ 64 = 2 ^ 512 := by decide +kernel
     rw [h, Nat.mod_mod, Nat.mod_eq_of_lt p.isLt], fun p q => ⟨⟨rfl, rfl, rfl⟩, rfl, rfl⟩, ⟨own_packet (by decide +kernel), by decide +kernel⟩, ⟨own_packet (by decide +kernel), by decide +kernel⟩,
   ⟨own_packet (by decide +kernel), by decide +kernel⟩, by decide +kernel⟩

/-- A level without a counter or at 0, one that is live, and the checks of a level wait's address at the edge of the common window. -/
theorem witness_TaskWords_levels :
    (∀ i, i = .cancelLaunch 5 ∨ i = .cancelChain 5 ∨ i = .cancelPhase 5 ∨ i = .cancelJob 5 → (cancelForm i).isSome = true ∧ Issues i plain one here spot) ∧
    (plain.levelCounter ⟨3, 1, 0⟩ (some 0) = none ∧ plain.levelCounter ⟨1, 4095, 0⟩ (some 0) = some 65528 ∧ plain.count 65528 = 0 ∧
      ({ plain with common := storeNat [] 65528 8 1 } : State).count 65528 ≠ 0) ∧
    (∀ v, Issues (.lvwait 5) (counting (at5 v) (squad 1)) (at5 v) here spot ∧ (at5 v).sreg 5 = v ∧ (at5 v).flagFree (slotFlag spot.slotA)) ∧
    ((0xFA00000020000000 : W64).toNat / 2 ^ 29 ≠ 0xFA * 2 ^ 27 ∧ (0xFA0000001FFFFFFC : W64).toNat / 2 ^ 29 = 0xFA * 2 ^ 27 ∧ (0xFA0000001FFFFFFC : W64).toNat % 8 ≠ 0 ∧
      (0xFA00000000010000 : W64).toNat / 2 ^ 29 = 0xFA * 2 ^ 27 ∧ (0xFA00000000010000 : W64).toNat % 8 = 0 ∧ (counting one (squad 1)).grantAt 1 0x10000 ≠ some .counter ∧
      (0xFA0000000000FFF8 : W64).toNat / 2 ^ 29 = 0xFA * 2 ^ 27 ∧ (0xFA0000000000FFF8 : W64).toNat % 8 = 0 ∧ (counting one (squad 1)).grantAt 1 0xFFF8 = some .counter) :=
  ⟨fun i h => by rcases h with rfl | rfl | rfl | rfl <;> exact ⟨rfl, issues⟩, by decide, fun v => ⟨issues, rfl, free_of rfl _⟩, by decide⟩

theorem witness_SetPriority : Issues (.setprio 63) plain one here spot := issues

/-- A join counter of 1 in the data granule with a record after it, to which lane 15 adds `v`; launch 5 has not completed. -/
def adding (v : W32) (off : Nat) : Access := { lane := 15, place := .common off, addr := BitVec.ofNat 64 (0xFA * 2 ^ 56 + off), size := 8, data := [⟨2, some v⟩], dst := [118] }
abbrev adds (v : W32) (off : Nat) : Gang := busy (.mem .jcadd [adding v off])
abbrev fifth : Launch := { origin := ⟨5, 1, order 1 22 1⟩, submitter := .host 0 0 }
def joining (v : W32) (off : Nat) (r : Nat) : State :=
  { counting (adds v off) (squad 1) with common := storeNat (storeNat [] off 8 1) (off + 8) 32 r, launches := [fifth] }
/-- A record of code 0x10000 and launch `n`. -/
def chained (n : Nat) : Nat := 0x10000 + 31 * 2 ^ 56 + n * 2 ^ 192
/-- The state as the counter reaches 0. -/
def joined (r : Nat) : State := ((joining 0xFFFFFFFF 0x10000 r).releaseActs 0 4).rmw 0 (.common 0x10000) 8 fun _ => 0

/-- The state as the counter at `off` reaches 0, where a record does not follow. -/
def unjoined : State := ((joining 0xFFFFFFFF 0x1FFF8 0).releaseActs 0 4).rmw 0 (.common 0x1FFF8) 8 fun _ => 0
/-- An add of 0 to a counter of 0 before a page whose walk meets an error. -/
def stuck : Access := { lane := 15, place := .phys (bootData + 0xFFF8), addr := 0xFFF8, size := 8, data := [⟨2, some 0⟩], dst := [118] }
def stuckAt : State := { mapped (busy (.mem .jcadd [stuck])) with poisoned := [.phys (bootTable 4 + 8)] }

theorem witness_TaskEvents_add : (∀ v off r, HasOp (joining v off r) (adds v off) (job (.mem .jcadd [adding v off])) ∧ (adding v off).values = some [v] ∧
      (adding v off).dst = [118] ∧ (joining v off r).mayRelease (adds v off) 7 4 = true ∧ (adds v off).supplied (job (.mem .jcadd [adding v off])) = true ∧
      (joining v off r).accessible (adding v off).place 8 = true ∧ (joining v off r).lineSound 0 (adding v off).place = true ∧
      (joining v off r).inOrder 0 7 0 (adding v off).place 8 = true) ∧
    (BitVec.ofInt 64 (leNat (((joining 1 0x10000 0).releaseActs 0 4).homeBytes (.common 0x10000) 8) + (1 : W32).toInt) ≠ 0 ∧
      BitVec.ofInt 64 (leNat (((joining 0xFFFFFFFF 0x10000 0).releaseActs 0 4).homeBytes (.common 0x10000) 8) + (0xFFFFFFFF : W32).toInt) = 0) := by
  refine ⟨fun v off r => ⟨⟨rfl, rfl⟩, rfl, rfl, rfl, rfl, rfl, rfl, rfl⟩, ?_⟩ <;> decide +kernel

/-- A record that the gang may not read; one whose walk must wait. -/
theorem witness_TaskEvents_record :
    (BitVec.ofInt 64 (leNat (((joining 0xFFFFFFFF 0x1FFF8 0).releaseActs 0 4).homeBytes (.common 0x1FFF8) 8) + (0xFFFFFFFF : W32).toInt) = 0 ∧
      (∀ k, 1 ≤ k → k ≤ 4 → ¬RecordWaits unjoined (adds 0xFFFFFFFF 0x1FFF8) (adding 0xFFFFFFFF 0x1FFF8).addr k) ∧
      ∀ p, ¬RecordWord unjoined (adds 0xFFFFFFFF 0x1FFF8) (adding 0xFFFFFFFF 0x1FFF8).addr 1 p) ∧
    (HasOp stuckAt (busy (.mem .jcadd [stuck])) (job (.mem .jcadd [stuck])) ∧ stuckAt.mayRelease (busy (.mem .jcadd [stuck])) 7 4 = true ∧ stuckAt.accessible stuck.place 8 = true ∧
      stuckAt.lineSound 0 stuck.place = true ∧ stuckAt.inOrder 0 7 0 stuck.place 8 = true ∧ (bootData + 0xFFF8) / 64 = (bootData + 0xFFF8 + 7) / 64 ∧
      BitVec.ofInt 64 (leNat ((stuckAt.releaseActs 0 4).homeBytes stuck.place 8) + (0 : W32).toInt) = 0 ∧
      RecordWaits ((stuckAt.releaseActs 0 4).rmw 0 stuck.place 8 fun _ => 0) (busy (.mem .jcadd [stuck])) stuck.addr 1) := by
  have h : ∀ k, k < 5 → 1 ≤ k → unjoined.window (adds 0xFFFFFFFF 0x1FFF8) ((adding 0xFFFFFFFF 0x1FFF8).addr + BitVec.ofNat 64 (8 * k)) = some (.common (0x1FFF8 + 8 * k)) ∧
      unjoined.targetXlate (adds 0xFFFFFFFF 0x1FFF8) .read (.common (0x1FFF8 + 8 * k)) = .protection := by decide +kernel
  refine ⟨⟨by decide +kernel, ?_, ?_⟩, ⟨rfl, rfl⟩, rfl, rfl, rfl, rfl, by decide, by decide +kernel, .global 0x10000, by decide +kernel, by decide +kernel⟩
  · rintro k h1 h4 ⟨t, ht, hx⟩
    rw [(h k (by omega) h1).1] at ht
    cases ht
    rw [(h k (by omega) h1).2] at hx
    cases hx
  · rintro p ⟨t, pa, tr, new, ht, hx, -⟩
    rw [(h 1 (by omega) (by omega)).1] at ht
    cases ht
    rw [(h 1 (by omega) (by omega)).2] at hx
    cases hx

/-- The record's words; an odd code pointer, launch 6 that is not there, and launch 5; a deque without room. -/
theorem witness_TaskEvents_join : (∀ r, r = chained 5 + 1 ∨ r = chained 5 ∨ r = chained 6 → let z := joined r
      (∀ k, 1 ≤ k → k ≤ 4 → RecordWord z (adds 0xFFFFFFFF 0x10000) (adding 0xFFFFFFFF 0x10000).addr k (.common (0x10000 + 8 * k)) ∧ z.accessible (.common (0x10000 + 8 * k)) 8 = true) ∧
      leNat (z.homeBytes (.common 0x10008) 8 ++ z.homeBytes (.common 0x10010) 8 ++ z.homeBytes (.common 0x10018) 8 ++ z.homeBytes (.common 0x10020) 8) = r) ∧
    recCause (BitVec.ofNat 256 (chained 5 + 1)) ≠ none ∧ (joined (chained 6)).launch? (recLaunch (BitVec.ofNat 256 (chained 6))) = none ∧
    (recCause (BitVec.ofNat 256 (chained 5)) = none ∧ (joined (chained 5)).launch? (recLaunch (BitVec.ofNat 256 (chained 5))) = some fifth ∧
      ((joined (chained 5)).cu 0).dequeRoom 1 = true ∧ ((joined (chained 5)).cu 0).tidy ∧
      (∀ q : Record, q.origin = fifth.origin → recChain q.words = recChain (BitVec.ofNat 256 (chained 5)) → (joined (chained 5)).discards q = false)) ∧
    ({ badDeque := true } : Cu).dequeRoom 1 = false := by
  refine ⟨?_, by decide +kernel, by decide +kernel, ⟨by decide +kernel, by decide +kernel, by decide +kernel, by rw [Cu.tidy]; decide +kernel, fun q h e => ?_⟩, rfl⟩
  · rintro r (rfl | rfl | rfl) <;> refine ⟨fun k h1 h4 => ⟨⟨.common (0x10000 + 8 * k), 0x10000 + 8 * k, false, none, ?_, ?_, rfl⟩, ?_⟩, by decide +kernel⟩ <;>
      rcases (by omega : k = 1 ∨ k = 2 ∨ k = 3 ∨ k = 4) with rfl | rfl | rfl | rfl <;> decide +kernel
  · rw [State.discards, h, e]
    decide +kernel

/-- A queue of which the head is a packet from the host, or one from a gang whose launch operation waits. -/
def heading (p : BitVec 512) (b : Submitter) : Queue := { num := 255, depth := 1, hostOwned := false, asid := 1, entries := [⟨p, 1, b, none⟩] }
def headed (p : BitVec 512) (b : Submitter) : State := { counting (busy (.launch p 255 2 true)) (squad 1) with queues := [heading p b] }

theorem witness_TaskEvents_accept :
    (let e : Entry := ⟨order 2 22 1, 1, .host 0 7, none⟩
     let s := headed e.packet e.submitter
     s.queue? 255 = some (heading e.packet e.submitter) ∧ (heading e.packet e.submitter).entries.find? (fun e => decide (e.launch = none)) = some e ∧ s.packetCause e.packet 1 = some ILLEGAL_ENCODING) ∧
    (∀ b, b = .host 0 7 ∨ b = .gang 1 7 1 → let e : Entry := ⟨order 0 22 1, 1, b, none⟩
     let s := headed e.packet b
     let o := job (.launch e.packet 255 2 true)
     (s.queue? 255 = some (heading e.packet b) ∧ (heading e.packet b).entries.find? (fun e => decide (e.launch = none)) = some e ∧ s.packetCause e.packet 1 = none ∧ 0 < pktCount e.packet ∧
      s.cancelOn (pktTable e.packet) (pktChain e.packet) e.packet = false ∧ pktCounter e.packet ∉ levelsOf e.packet) ∧ s.launches = [] ∧
     s.gang? 1 = some (busy o.body) ∧ (busy o.body).op? 7 = some o ∧ o.land = [] ∧ o.sland = []) := by
  refine ⟨by decide +kernel, ?_⟩
  rintro b (rfl | rfl) <;> exact ⟨by decide +kernel, rfl, rfl, rfl, rfl, rfl⟩

/-- A level wait whose counter is at 0, and one at 1; a full SRAM part with a spilled record beside it. -/
theorem witness_TaskEvents_rest :
    (let b := OpBody.lvwait 64 false
     let s := { small (busy b) (squad 1) with common := storeNat [] 72 8 1 }
     HasOp s (busy b) (job b) ∧ (job b).land = [] ∧ (job b).sland = [] ∧ s.count 64 = 0 ∧ s.count 72 ≠ 0) ∧
    (let r : Record := { words := 0, origin := { id := 5 }, spilled := true }
     let s := { plain with cus := [(63, { deque := [(31, [r])], spillMax := 1 })] }
     (s.cu 63).inSram < 4096 ∧ 0 < (s.cu 63).inHbm ∧ (s.cu 63).spillAbsent = false ∧ (s.cu 63).badDeque = false ∧ (s.cu 63).tidy) :=
  ⟨⟨⟨rfl, rfl⟩, rfl, rfl, by decide +kernel, by decide +kernel⟩, by decide, by decide, rfl, rfl, List.pairwise_singleton _ _⟩

/-- Launch 5 at the head of a queue for CU 0, in a module that is otherwise idle. -/
def awaiting : State :=
  { State.reset with queues := [⟨7, 1, false, 1, [⟨order 0 22 2, 1, .host 0 0, some 5⟩]⟩], launches := [{ fifth with origin := ⟨5, 1, order 0 22 2⟩ }] }
/-- A saved team of one gang that is to be restored, and a deque with records 1 and 3 of one kind and record 2 of another. -/
def returning : State := { State.reset with saved := [⟨64, [squad 1], [one]⟩], restores := [64] }
def record (code : Nat) : Record := { words := BitVec.ofNat 256 (code + 22 * 2 ^ 56 + 5 * 2 ^ 192), origin := ⟨5, 1, order 1 22 3⟩ }
def queued : State := { State.reset with cus := [(0, { deque := [(22, [record 0x10000, record 0x10002, record 0x10000])] })] }

theorem witness_PlacementAndRetirement_decisions :
    (awaiting.decision = some (0, 22, .team 7 5 [0]) ∧ (awaiting.launch? 5).map (fun l => pktGroup l.origin.packet) = some 0) ∧
    (returning.decision = some (0, one.prio.toNat, .restore 64 [0]) ∧ (returning.saved.find? fun u => decide (u.area = 64)) = some ⟨64, [squad 1], [one]⟩) ∧
    (queued.decision = some (0, 22, .records) ∧ queued.source 0 22 = some (0, (queued.cu 0).level 22) ∧ ∀ r ∈ (queued.cu 0).level 22, recPrio r.words = 22) := by
  decide +kernel

/-- A gang of which every lane has exited, alone in its team, with the counter of its launch at 0, 1 and 2; and one that is not alone. -/
theorem witness_PlacementAndRetirement_retires :
    let g := { one with threads := List.replicate 16 { pc := 0x10004, status := .exited }, flight := none }
    let x := { squad 1 with origin := ⟨5, 1, order 0 22 2⟩ }
    (∀ n, let s := { small g x with launches := [{ fifth with origin := x.origin }], common := storeNat [] 64 8 n }
      s.gang? 1 = some g ∧ s.team? 1 = some x ∧ (∀ h ∈ s.gangs, h.team = 1 → h.id = 1) ∧ (s.launch? 5).map Launch.submitter = some (.host 0 0)) ∧
    ((∀ t ∈ g.threads, t.status = .exited) ∧ g.ops = [] ∧ g.flight = none ∧ plain.reds = [] ∧ plain.flushable 0 = true ∧ x.isTask = false ∧ pktCounter x.origin.packet ∉ levelsOf x.origin.packet) ∧
    (∀ n, n < 3 → ({ small g x with common := storeNat [] 64 8 n } : State).count (pktCounter x.origin.packet) = n) ∧
    (let s := { small g x with gangs := [g, { g with id := 2 }] }; ¬∀ h ∈ s.gangs, h.team = 1 → h.id = 1) ∧
    (let h := busy .halt; (small h (squad 1)).gang? 1 = some h ∧ ∃ o ∈ h.ops, o.flag ≠ none) ∧
    (let r : Red := { id := 3, sources := [(0, 1, 7)], place := .scratch 1 0, x := 0, ds := [(1, 0)] }
     ∃ r' ∈ ({ plain with reds := [r] } : State).reds, ∃ c ∈ r'.sources, c.2.1 = one.id) := by
  refine ⟨fun n => ⟨rfl, rfl, by simp [small, one, crew], rfl⟩, by decide +kernel, by decide +kernel, by decide +kernel, ⟨rfl, _, List.mem_singleton.mpr rfl, nofun⟩, _, List.mem_singleton.mpr rfl, _, List.mem_singleton.mpr rfl, rfl⟩

/-! ### Refining slots -/

/-- A slot at the common offset 64 of granule 0, of one tile line, with a version word; s5 is its address, s6 a scratch offset and s7 a chain. -/
def slotHeader (word : Nat) : Nat := word + 2 ^ 36 + 2 ^ 40
def refiner (v w : W64) : Gang := crew [] [(5, v), (6, w)]
abbrev slotAt : W64 := 0xFA00000000000040
def holding (word : Nat) (g : Gang) : State :=
  { small g (squad 1) with grants := [⟨1, 0, .slot⟩], slots := [⟨64, 0, []⟩], common := storeNat [] 64 64 (slotHeader word) }

theorem ready_slot (w : W64) (word : Nat) (live : Bool) : SlotReady (holding word (refiner slotAt w)) (refiner slotAt w) ((refiner slotAt w).sreg 5) live 64 :=
  ⟨⟨rfl, by decide, rfl⟩, rfl, ⟨rfl, rfl⟩, fun _ => rfl⟩

/-- Each bad slot address behind the ones before it: outside the window, unaligned, not granted, and not live; then an acquire and an operation on the slot that are outstanding. -/
theorem witness_RefWords_address :
    (∀ i, i = .rpub 6 5 2 ∨ i = .rpubk 6 5 2 ∨ i = .rread 6 5 2 ∨ i = .rver 5 63 ∨ i = .rsubRerun 6 5 ∨ i = .rsubCancel 6 5 ∨ i = .runsub 6 5 ∨ i = .rstop 5 ∨ i = .rsettle 5 ∨ i = .rinit 6 5 6 →
      (refForm i).isSome = true ∧ ∀ v w n, Issues i (holding n (refiner v w)) (refiner v w) here spot) ∧
    ((0xFA00000020000000 : W64).toNat / 2 ^ 29 ≠ 0xFA * 2 ^ 27 ∧ (0xFA0000001FFFFFE0 : W64).toNat / 2 ^ 29 = 0xFA * 2 ^ 27 ∧ (0xFA0000001FFFFFE0 : W64).toNat % 2 ^ 29 % 64 ≠ 0 ∧
      (0xFA00000000010000 : W64).toNat / 2 ^ 29 = 0xFA * 2 ^ 27) ∧
    (let s := holding 0 one
     s.grantAt (s.asidOf one) 0x10000 ≠ some .slot ∧ s.grantAt (s.asidOf one) 0xFFC0 = some .slot ∧ s.slot? 0xFFC0 = none ∧ one.acquiring = false ∧ one.onSlot 0xFFC0 = false) ∧
    ((busy (.mem (.ldAcq 0) [])).acquiring = true ∧ (busy (.ref .rstop 64)).onSlot 64 = true) :=
  ⟨fun i h => by rcases h with rfl | rfl | rfl | rfl | rfl | rfl | rfl | rfl | rfl | rfl <;> exact ⟨rfl, fun v w n => issues⟩, by decide, ⟨by decide, rfl, rfl, rfl, rfl⟩, rfl, rfl⟩

/-- The offset of a tile unaligned, past the scratch and in its last 64 bytes; an open slot at the last version, and a final one. -/
theorem witness_RefWords_tiles :
    (∀ w word, SlotReady (holding word (refiner slotAt w)) (refiner slotAt w) ((refiner slotAt w).sreg 5) true 64 ∧ (refiner slotAt w).flagFree (slotFlag spot.slotA)) ∧
    ((4 : W64).toNat % 8 ≠ 0 ∧ (262088 : W64).toNat % 8 = 0 ∧ (262080 : W64).toNat % 8 = 0) ∧
    (∀ word, word = 0xFFFFFFFF ∨ word = 0x1FFFFFFFF → let s := holding word one
      (s.teamOf one).scratchZ < (262088 : W64).toNat + 64 * hdrTsz (s.header 64) ∧ (262080 : W64).toNat + 64 * hdrTsz (s.header 64) ≤ (s.teamOf one).scratchZ ∧
      hdrVer (s.header 64) = 0xFFFFFFFF ∧ hdrFin (s.header 64) = decide (word = 0x1FFFFFFFF)) :=
  ⟨fun w word => ⟨ready_slot w word true, free_of rfl _⟩, by decide, by rintro word (rfl | rfl) <;> decide +kernel⟩

/-- The last version is left for a publish that is outstanding elsewhere. -/
theorem witness_RefWords_version : let g := refiner slotAt 262080
    let s := { holding 0xFFFFFFFE g with gangs := [g, { busy (.ref (.rpub false 3 0 2) 64) with id := 2 }] }
    Issues (.rpub 6 5 2) s g here spot ∧ SlotReady s g (g.sreg 5) true 64 ∧ hdrFin (s.header 64) = false ∧ hdrVer (s.header 64) < 0xFFFFFFFF ∧
    0xFFFFFFFF ≤ hdrVer (s.header 64) + s.publishing 64 ∧ hdrVer ((holding 0xFFFFFFFD g).header 64) + (holding 0xFFFFFFFD g).publishing 64 < 0xFFFFFFFF :=
  ⟨issues, ⟨⟨rfl, by decide, rfl⟩, rfl, ⟨rfl, rfl⟩, fun _ => rfl⟩, by decide +kernel, by decide +kernel, by decide +kernel, by decide +kernel⟩

/-- A subscription's words at s6 to s9: reserved bits set, an odd code pointer, and good ones. -/
theorem witness_RefWords_subscription : ∀ c l, let g := crew [] [(5, slotAt), (6, c), (7, 9), (8, 10), (9, l)]
    Issues (.rsubRerun 6 5) (holding 0 g) g here spot ∧ Issues (.rsubCancel 6 5) (holding 0 g) g here spot ∧ SlotReady (holding 0 g) g (g.sreg 5) true 64 ∧ g.flagFree (slotFlag spot.slotA) ∧
    g.sreg 6 = c ∧ g.sreg 9 = l ∧ (2 ^ 44 ≤ (0x100000000000 : W64).toNat ∧ (0x2000000000000000 : W64).toNat / 2 ^ 61 ≠ 0) ∧
    (¬(2 ^ 44 ≤ (0xFFFFFFFFFFF : W64).toNat ∨ (0x1FFFFFFFFFFFFFFF : W64).toNat / 2 ^ 61 ≠ 0) ∧ (0x1FFFFFFFFFFFFFFF : W64).toNat % 2 = 1 ∧
      (0x1FFFFFFFFFFFFFFE : W64).toNat / 2 ^ 61 = 0 ∧ (0x1FFFFFFFFFFFFFFE : W64).toNat % 2 = 0) :=
  fun c l => ⟨issues, issues, ⟨⟨rfl, by decide, rfl⟩, rfl, ⟨rfl, rfl⟩, fun _ => rfl⟩, free_of rfl _, rfl, rfl, by decide, by decide⟩

/-- Sizes at the ends of the range; a slot that would leave its granule, one that would meet another, and one that fits. -/
theorem witness_RefWords_init :
    (∀ v w, let g := refiner v w; Issues (.rinit 6 5 6) (holding 0 g) g here spot ∧ g.sreg 6 = w ∧ g.flagFree (slotFlag spot.slotA)) ∧
    (¬64 ≤ (0 : W64).toNat ∧ ¬(4160 : W64).toNat ≤ 4096 ∧ (96 : W64).toNat % 64 ≠ 0 ∧ (4096 : W64).toNat % 64 = 0) ∧
    (let g := refiner 0xFA0000000000F000 4096; SlotReady (holding 0 g) g (g.sreg 5) false 0xF000 ∧ 65536 < 0xF000 % 65536 + 64 + 4096) ∧
    (let g := refiner 0xFA00000000000000 64
     SlotReady (holding 0 g) g (g.sreg 5) false 0 ∧ ∃ x ∈ (holding 0 g).slots, x.off ≠ 0 ∧ x.off < 0 + 64 + 64 ∧ 0 < x.off + 64 + 64 * hdrTsz ((holding 0 g).header x.off)) ∧
    (let g := refiner 0xFA000000000000C0 4096
     SlotReady (holding 0 g) g (g.sreg 5) false 192 ∧ 192 % 65536 + 64 + 4096 ≤ 65536 ∧ (holding 0 g).slotInWay 192 (64 + 4096) = false) :=
  ⟨fun v w => ⟨issues, rfl, free_of rfl _⟩, by decide, ⟨⟨by decide, rfl, ⟨rfl, rfl⟩, nofun⟩, by decide⟩,
    ⟨⟨by decide, rfl, ⟨rfl, rfl⟩, nofun⟩, ⟨64, 0, []⟩, List.mem_singleton.mpr rfl, by decide, by decide +kernel⟩, ⟨by decide, rfl, ⟨rfl, rfl⟩, nofun⟩, by decide, by decide +kernel⟩

/-- The gang with a refinement operation on the slot outstanding. -/
theorem refOp (k : RefKind) (word : Nat) (h : (holding word (busy (.ref k 64))).mayRef (busy (.ref k 64)) (job (.ref k 64)) k 64 = true) :
    RefOp (holding word (busy (.ref k 64))) (busy (.ref k 64)) (job (.ref k 64)) k 64 := ⟨⟨rfl, rfl⟩, rfl, ⟨rfl, rfl⟩, h⟩

/-- Publishes into a final slot; with key 1 and version 1 and equal first words, which loses; and into open slots, without a key and at the last version but one. -/
theorem witness_RefEvents_publish :
    (∀ word, word = 0x100000000 ∨ word = 0x200000001 ∨ word = 0xFFFFFFFE → ∀ keyed, RefOp (holding word (busy (.ref (.rpub keyed 3 262080 2) 64))) (busy (.ref (.rpub keyed 3 262080 2) 64))
      (job (.ref (.rpub keyed 3 262080 2) 64)) (.rpub keyed 3 262080 2) 64) ∧
    (262080 + 64 ≤ (squad 1).scratchZ ∧ hdrTsz ((holding 0x100000000 one).header 64) = 1 ∧ hdrFin ((holding 0x100000000 one).header 64) = true) ∧
    (hdrFin ((holding 0x200000001 one).header 64) = false ∧ hdrVer ((holding 0x200000001 one).header 64) ≠ 0 ∧ hdrKey ((holding 0x200000001 one).header 64) = 1 ∧
      readNat (squad 1).scratch 262080 4 = 0 ∧ readNat (holding 0x200000001 one).common 128 4 = 0) ∧ ¬Beats 1 (BitVec.ofNat 32 0) (BitVec.ofNat 32 0) ∧
    (hdrFin ((holding 0xFFFFFFFE one).header 64) = false ∧ hdrKey ((holding 0xFFFFFFFE one).header 64) = 0 ∧ hdrVer ((holding 0xFFFFFFFE one).header 64) < 0xFFFFFFFF ∧
      (holding 0xFFFFFFFE one).slot? 64 = some ⟨64, 0, []⟩) ∧ Beats 0 0 0 := by
  refine ⟨?_, by decide +kernel, by decide +kernel, show ¬(BitVec.ofNat 32 0).toInt < (BitVec.ofNat 32 0).toInt by decide, by decide +kernel, trivial⟩
  rintro word (rfl | rfl | rfl) keyed <;> exact refOp _ _ (by cases keyed <;> decide +kernel)

/-- A subscription of code 0x10000 by the gang's launch. -/
def subscribed : Sub := { id := 1, cancel := false, words := BitVec.ofNat 256 0x10000, origin := ⟨5, 1, order 0 22 1⟩, home := 1, base := 0 }

/-- A publish that fires it. -/
theorem witness_RefEvents_fires : let k := RefKind.rpub false 3 262080 2
    let b := busy (.ref k 64)
    let s := { holding 0 b with slots := [⟨64, 0, [subscribed]⟩] }
    RefOp s b (job (.ref k 64)) k 64 ∧ hdrFin (s.header 64) = false ∧ hdrVer (s.header 64) < 0xFFFFFFFF ∧ s.slot? 64 = some ⟨64, 0, [subscribed]⟩ ∧ subscribed.cancel = false ∧
    subscribed.pending = false ∧ recCode subscribed.words ≠ 0 ∧ s.discards ((⟨64, 0, [subscribed]⟩ : Slot).record subscribed) = false ∧ hdrNpend (s.header 64) < 2 ^ 11 - 1 ∧ (s.cu subscribed.home).tidy ∧
    ∀ c ∈ [chainCounter (pktTable subscribed.origin.packet) (recChain subscribed.words).toNat, phaseCounter (pktTable subscribed.origin.packet) (pktPhase subscribed.origin.packet).toNat,
      jobCounter (pktTable subscribed.origin.packet)], c + 8 ≤ 64 ∨ 64 + 64 + 64 * hdrTsz (s.header 64) ≤ c :=
  ⟨⟨⟨rfl, rfl⟩, rfl, ⟨rfl, rfl⟩, by decide +kernel⟩, by decide +kernel, by decide +kernel, rfl, rfl, rfl, by decide +kernel, by decide +kernel, by decide +kernel, List.Pairwise.nil, by decide +kernel⟩

/-- A publish past a watch, and one that cancels the chain of a subscription. -/
theorem witness_RefEvents_watches : let k := RefKind.rpub false 3 262080 2
    let b := busy (.ref k 64)
    let watch : Sub := { subscribed with words := 0 }
    let cancels : Sub := { subscribed with cancel := true, words := BitVec.ofNat 256 (0x10000 + 2 ^ 224) }
    (let s := { holding 0 b with slots := [⟨64, 0, [watch]⟩] }; RefOp s b (job (.ref k 64)) k 64 ∧ s.slot? 64 = some ⟨64, 0, [watch]⟩ ∧ hdrFin (s.header 64) = false ∧ hdrVer (s.header 64) < 0xFFFFFFFF) ∧
    recCode watch.words = 0 ∧
    (let n := chainCounter (pktTable cancels.origin.packet) (recChain cancels.words).toNat
     let s := { holding 0 b with slots := [⟨64, 0, [cancels]⟩], common := storeNat (storeNat [] 64 64 (slotHeader 0)) n 8 1 }
     RefOp s b (job (.ref k 64)) k 64 ∧ hdrFin (s.header 64) = false ∧ hdrVer (s.header 64) < 0xFFFFFFFF ∧ recCode cancels.words ≠ 0 ∧ cancels.cancel = true ∧ cancels.pending = false ∧
     cancels.base.toNat ≤ hdrVer (s.header 64) ∧ (n + 8 ≤ 64 ∨ 64 + 64 + 64 * hdrTsz (s.header 64) ≤ n) ∧ s.count n ≠ 0) :=
  ⟨⟨⟨⟨rfl, rfl⟩, rfl, ⟨rfl, rfl⟩, by decide +kernel⟩, rfl, by decide +kernel, by decide +kernel⟩, by decide +kernel,
    ⟨⟨rfl, rfl⟩, rfl, ⟨rfl, rfl⟩, by decide +kernel⟩, by decide +kernel, by decide +kernel, by decide +kernel, rfl, rfl, by decide +kernel, by decide +kernel, by decide +kernel⟩

/-- A read with and without a mirror of the cluster, and the version word. -/
theorem witness_RefEvents_reads :
    (let k := RefKind.rread 3 262080 2
     let b := busy (.ref k 64)
     RefOp (holding 1 b) b (job (.ref k 64)) k 64 ∧ (holding 1 b).team? 1 = some (squad 1) ∧ 262080 + 64 * hdrTsz ((holding 1 b).header 64) ≤ (squad 1).scratchZ ∧
     (holding 1 b).mirror? 0 64 = none ∧ (({ holding 1 b with mirrors := [⟨0, 64, 1, 7, true, false⟩] } : State).mirror? 0 64).isSome = true) ∧
    (let k := RefKind.rver 2; RefOp (holding 1 (busy (.ref k 64))) (busy (.ref k 64)) (job (.ref k 64)) k 64) :=
  ⟨⟨refOp _ _ (by decide +kernel), rfl, by decide +kernel, rfl, rfl⟩, refOp _ _ (by decide +kernel)⟩

/-- A subscription of a final slot, of one with 1,024 subscriptions, and of one with 1,023. -/
theorem witness_RefEvents_subscribe :
    (∀ word, word = 0 ∨ word = 0x100000000 → let k := RefKind.rsub false 0 2; RefOp (holding word (busy (.ref k 64))) (busy (.ref k 64)) (job (.ref k 64)) k 64) ∧
    hdrFin ((holding 0x100000000 one).header 64) = true ∧ hdrFin ((holding 0 one).header 64) = false ∧ (holding 0 one).slot? 64 = some ⟨64, 0, []⟩ ∧
    1024 ≤ (List.replicate 1024 subscribed).length ∧ (List.replicate 1023 subscribed).length < 1024 := by
  refine ⟨?_, by decide +kernel, by decide +kernel, rfl, ?_, ?_⟩
  · rintro word (rfl | rfl) <;> exact refOp _ _ (by decide +kernel)
  · exact Nat.le_of_eq List.length_replicate.symm
  · rw [List.length_replicate]; decide

/-- The operations that write no scalar; a settle wait of an open slot and of a settled one. -/
theorem witness_RefEvents_rest :
    (∀ k, k = .runsub 1 ∨ k = .rstop ∨ k = .rinit 6 4096 → RefOp (holding 0 (busy (.ref k 64))) (busy (.ref k 64)) (job (.ref k 64)) k 64) ∧ (holding 0 one).slot? 64 = some ⟨64, 0, []⟩ ∧
    (∀ word, let b := OpBody.rsettle 64 false; HasOp (holding word (busy b)) (busy b) (job b) ∧ (job b).land = [] ∧ (job b).sland = []) ∧
    hdrFin ((holding 0 one).header 64) ≠ true ∧
    (hdrFin ((holding 0x100000000 one).header 64) = true ∧ hdrNpend ((holding 0x100000000 one).header 64) = 0 ∧ hdrNrun ((holding 0x100000000 one).header 64) = 0) := by
  refine ⟨?_, rfl, fun word => ⟨⟨rfl, rfl⟩, rfl, rfl⟩, by decide +kernel, by decide +kernel⟩
  rintro k (rfl | rfl | rfl) <;> exact refOp _ _ (by decide +kernel)

/-! ### Pooling -/

/-- A table of one row and 16 columns of f32, a page of the tier to each buffer. -/
def table1 : BitVec 256 := BitVec.ofNat 256 (0x400000 + 2 ^ 64 + 16 * 2 ^ 96 + 65536 * 2 ^ 128)
def tierTables : List Host.Cell :=
  (List.range 16).foldl (fun m c => storeNat m (bootTable 4 + 8 * (64 + c)) 8 (0x100000000000 + c * 2 ^ 38 + 0xEB)) tables
/-- The team with table 15, and the bytes `n` in its scratch at 64. -/
def pooling (n : Nat) : Team := { squad 1 with descs := [(15, table1)], scratch := storeNat [] 64 32 n }
/-- The gang whose s5 and s6 are the places of a list and of the outputs. -/
def pooler (l out : W64) : Gang := crew [] [(5, l), (6, out)]

theorem witness_Embedding_cfg :
    (∀ v, Issues (.embcfg 5 15) (small (at5 v) (squad 1)) (at5 v) here spot ∧ (small (at5 v) (squad 1)).team? 1 = some (squad 1) ∧ (at5 v).sreg 5 = v) ∧
    ((4 : W64).toNat % 8 ≠ 0 ∧ (262120 : W64).toNat % 8 = 0 ∧ (squad 1).scratchZ < (262120 : W64).toNat + 32) ∧
    (let t := { squad 1 with scratch := storeNat [] 262112 32 table1.toNat }
     ScratchReads (small (at5 262112) t) (at5 262112) 262112 ∧ scratchWord (small (at5 262112) t) (at5 262112) 262112 = table1 ∧ DescriptorFits table1) ∧
    (ScratchReads (small (at5 262112) (squad 1)) (at5 262112) 262112 ∧ scratchWord (small (at5 262112) (squad 1)) (at5 262112) 262112 = 0 ∧ ¬DescriptorFits 0) :=
  ⟨fun v => ⟨issues, rfl, rfl⟩, by decide, ⟨⟨by decide, by decide, rfl, rfl, rfl⟩, by decide +kernel, ⟨by decide +kernel, by decide +kernel, by decide +kernel, by decide +kernel, by decide +kernel, by decide +kernel⟩⟩,
    ⟨by decide, by decide, rfl, rfl, rfl⟩, by decide +kernel, fun h => h.rows rfl⟩

/-- The checks of an embag before it reads its list. -/
theorem witness_Embedding_places :
    (∀ n l out, Issues (.embag 6 5 15) (small (pooler l out) (pooling n)) (pooler l out) here spot ∧ (small (pooler l out) (pooling n)).team? 1 = some (pooling n) ∧
      (pooler l out).sreg 5 = l ∧ (pooler l out).sreg 6 = out ∧ (pooler l out).flagFree (slotFlag spot.slotA)) ∧
    (dscCols (look (squad 1).descs 15) = 0 ∧ ∀ n, dscCols (look (pooling n).descs 15) ≠ 0) ∧
    (4 % 8 ≠ 0 ∧ 262144 % 8 = 0 ∧ 2 % 4 ≠ 0 ∧ (squad 1).scratchZ < 262144 + 8 ∧ 262136 + 8 ≤ (squad 1).scratchZ) :=
  ⟨fun n l out => ⟨issues, rfl, rfl, rfl, free_of rfl _⟩, ⟨by decide +kernel, fun n => by rw [show look (pooling n).descs 15 = table1 from rfl]; decide +kernel⟩, by decide⟩

/-- The list at 64: a header of no bags, one bag with offsets that fall, one bag of 65,535 indices, one bag of one weighted index at the end of the scratch, and one that fits. -/
theorem witness_Embedding_lists :
    (∀ n k, k ≤ 24 → ScratchFree (small (pooler 64 128) (pooling n)) (pooler 64 128) 64 k) ∧
    (∀ nb mode, ¬BagHeader 0 nb mode) ∧ (BagHeader 1 1 0 ∧ BagHeader 0x50001 1 1 ∧ BagHeader 0x20002 2 2) ∧
    (readNat (pooling (2 + 2 ^ 96)).scratch 64 8 = 2 ∧ ¬OffsetsFit (pooling (2 + 2 ^ 96)) 64 2) ∧
    (readNat (pooling (1 + 2 ^ 96)).scratch 64 8 = 1 ∧ OffsetsFit (pooling (1 + 2 ^ 96)) 64 1 ∧ bagOff (pooling (1 + 2 ^ 96)) 64 1 = 1) ∧
    ((squad 1).scratchZ < 262128 + 8 + 4 * (1 + 1) + 4 * 1 ∧ 262124 + 8 + 4 * (1 + 1) + 4 * 1 ≤ (squad 1).scratchZ ∧ (squad 1).scratchZ < 262124 + 8 + 4 * (1 + 1) + 8 * 1) ∧
    ((squad 1).scratchZ < 262080 + 4 * 1 * (dscCols table1 + 1) ∧ 262076 + 4 * 1 * (dscCols table1 + 1) ≤ (squad 1).scratchZ) ∧ plain.embagsOn 0 < 32 := by
  refine ⟨fun n k _ => ⟨rfl, rfl, rfl⟩, fun nb mode h => ?_, ⟨⟨by decide, by decide, by decide⟩, ⟨by decide, by decide, by decide⟩, ⟨by decide, by decide, by decide⟩⟩,
    ⟨by decide +kernel, fun h => absurd (h.2 1 (by decide)).1 (by decide +kernel)⟩,
    ⟨by decide +kernel, ⟨by decide +kernel, fun i h => ?_⟩, by decide +kernel⟩, by decide, ⟨by decide +kernel, by decide +kernel⟩, by decide⟩
  · have e : 0 = nb + 2 ^ 16 * mode + 2 ^ 18 * if mode = 1 then 1 else 0 := h.fields
    have := h.count
    omega
  · obtain rfl : i = 0 := by omega
    decide +kernel

/-- A command of one bag of index 0, and one of a refused bag; each row number at the end of the table and past it. -/
def bag (refused : List Nat) (offs : List Nat) : Embag := { desc := table1, list := 64, out := 128, nb := 1, mode := 0, offs := offs, refused := refused }

/-- Index 0 of a list at 64 is `k`. -/
def indexed (k : Nat) : Team := pooling (1 + 2 ^ 96 + k * 2 ^ 128)
def poolsAt (k : Nat) (e : Embag) (m : List Host.Cell) : State := { small (busy (.embag e)) (indexed k) with phys := m, ptbase := BitVec.ofNat 64 bootAst }

/-- The status word of a bag without and with an index past the table; an output of a refused bag, of one without terms left, one at an index past the table, and one at an index in it. -/
theorem witness_Embedding_pools :
    (∀ k e m, HasOp (poolsAt k e m) (busy (.embag e)) (job (.embag e)) ∧ (poolsAt k e m).team? 1 = some (indexed k) ∧ (job (.embag e)).land = [] ∧ (job (.embag e)).sland = [] ∧
      (poolsAt k e m).system (busy (.embag e)) = false ∧ ((poolsAt k e m).cu 0).lines = []) ∧
    (1 * dscCols table1 = 16 ∧ dscRows table1 = 1 ∧ dscFmt table1 = 0 ∧ dscSize table1 = 4) ∧
    (readNat (indexed 0).scratch (idxBase 64 1 + 4 * 0) 4 = 0 ∧ readNat (indexed 1).scratch (idxBase 64 1 + 4 * 0) 4 = 1) ∧
    (0 ∈ (bag [0] [0, 1]).refused ∧ 0 ∉ (bag [] [0, 1]).refused ∧ (bag [] [0, 0]).offs.getD (0 + 1) 0 ≤ (bag [] [0, 0]).offs.getD 0 0 ∧
      (bag [] [0, 1]).offs.getD 0 0 < (bag [] [0, 1]).offs.getD (0 + 1) 0) ∧
    (let e := { bag [] [0, 1] with parts := (List.range 17).map fun i => (i, 1) }; ∀ n, n < e.nb * (dscCols e.desc + 1) → look e.parts n ≠ 0) := by
  refine ⟨fun k e m => ⟨⟨rfl, rfl⟩, rfl, rfl, rfl, rfl, rfl⟩, by decide +kernel, by decide +kernel, by decide +kernel, ?_⟩
  intro e
  have h : ∀ n, n < 17 → look e.parts n ≠ 0 := by decide +kernel
  intro n hn
  exact h n (by have : e.nb * (dscCols e.desc + 1) = 17 := by decide +kernel
                omega)

/-- The element on a page of its buffer's tier, on a page of the HBM, and on an absent page. -/
theorem witness_Embedding_elements : let e := bag [] [0, 1]
    ElementAt (poolsAt 0 e tierTables) (busy (.embag e)) e 0 (0 % 16) 0x100000000000 ∧
    ElementBad (poolsAt 0 e (storeNat tables (bootTable 4 + 8 * 64) 8 (bootData + 0xE3))) (busy (.embag e)) e 0 (0 % 16) ∧
    (poolsAt 0 e tables).engineTranslate 1 (elementVa e.desc 0 (0 % 16)) .read = .fault :=
  ⟨⟨false, some ⟨0x400000, 65536, 0x100000000000, false, bootTable 4 + 8 * 64⟩, by decide +kernel, by decide +kernel, by decide +kernel, fun q h => by cases h; decide +kernel⟩,
   .inr ⟨bootData, false, some ⟨0x400000, 65536, bootData, false, bootTable 4 + 8 * 64⟩, by decide +kernel, by decide +kernel⟩, by decide +kernel⟩

/-! ### System words and requests -/

/-- A die whose ring holds a record that the runtime has not consumed. -/
def ringing (g : Gang) : State := { small g (squad 0) with dies := [(0, { hasRing := true, evtail := 1 })] }

theorem witness_SystemWords :
    ((∀ i, i = .rdcyc 63 ∨ i = .rdperf 5 63 → Issues i plain one here spot) ∧ ∀ v, Issues (.rdperf 5 63) (small (at5 v) (squad 1)) (at5 v) here spot ∧ (at5 v).sreg 5 = v) ∧
    (Issues .halt kernel one here spot ∧ Issues (.tlbinvPage 6 5 1) kernel one here spot ∧ Issues (.tlbinvAsid 6 5 0) kernel one here spot ∧ Issues (.tlbinvAll 6 5 1) kernel one here spot ∧
      one.flagFree (slotFlag spot.slotA)) ∧
    (∀ i, i = .sretResume 6 5 ∨ i = .sretRefuse 6 5 ∨ i = .sretKill 6 5 ∨ i = .sretSave 6 5 ∨ i = .sretRestore 6 5 ∨ i = .sretRollback 6 5 → Issues i kernel one here spot) ∧
    (∀ inv, let b := OpBody.tlbinv inv 0 1; HasOp (small (busy b) (squad 0)) (busy b) (job b) ∧ (job b).land = [] ∧ (job b).sland = [] ∧
      (∀ p, (small (busy b) (squad 0)).pagesQuiet p 7 = true) ∧ (small (busy b) (squad 0)).allFlushable = true ∧
      let g := { busy b with ops := [{ job (.mem (.load 4) [{ touchOf 4 [] [2] with place := .phys 0 }]) with id := 3 }, job b] }
      HasOp (small g (squad 0)) g (job b) ∧ ∀ p, (small g (squad 0)).pagesQuiet p 7 = false) ∧
    (HasOp (ringing (busy .halt)) (busy .halt) (job .halt) ∧ ((ringing (busy .halt)).die 0).evtail ≠ ((ringing (busy .halt)).die 0).evhead ∧ (kernel.die 0).evtail = (kernel.die 0).evhead) :=
  ⟨⟨fun i h => by rcases h with rfl | rfl <;> exact issues, fun v => ⟨issues, rfl⟩⟩, ⟨issues, issues, issues, issues, free_of rfl _⟩,
    fun i h => by rcases h with rfl | rfl | rfl | rfl | rfl | rfl <;> exact issues, fun inv => ⟨⟨rfl, rfl⟩, rfl, rfl, fun p => rfl, rfl, ⟨rfl, rfl⟩, fun p => rfl⟩, ⟨rfl, rfl⟩, by decide, rfl⟩

/-- A gang that waits for the runtime at its PC, with the TAG 9. -/
def paused : Gang := { one with suspended := some 9, flight := some { here with pc := 0x10000 } }
def asking : State := { mapped paused with requests := [⟨9, 0x30000, .word 1 0x8001 (some 4)⟩] }

theorem witness_RequestsServed_tags : (∀ r ∈ plain.requests, r.tag ≠ 9) ∧ (asking.requests.find? fun x => decide (x.tag = 9)) = some ⟨9, 0x30000, .word 1 0x8001 (some 4)⟩ ∧
    asking.gang? 1 = some paused ∧ paused.flight = some { here with pc := 0x10000 } ∧
    (let g := { paused with flight := none }; ({ asking with gangs := [g] } : State).gang? 1 = some g ∧ g.flight = none) :=
  ⟨nofun, rfl, rfl, rfl, rfl, rfl⟩

/-- The handle of the gang of a plain state, which names its team, and one that names nothing. -/
theorem witness_RequestsServed_units :
    (unitOf (plain.handle one) plain.teams plain.gangs = [squad 1] ∧ unitOf 0 plain.teams plain.gangs = [] ∧ plain.saved = [] ∧ plain.savings = []) ∧
    ((0x1000 : W64).toNat % 4096 = 0 ∧ inHbm (0x1000 : W64).toNat (areaSize [squad 1] (plain.gangsIn [1])) = true) ∧
    ((∃ u ∈ returning.saved, u.area = 64) ∧ (64 : W64) ∉ plain.restores ∧ ∀ u ∈ plain.saved, u.area ≠ 64) := by
  refine ⟨by decide +kernel, by decide +kernel, ⟨_, List.mem_singleton.mpr rfl, rfl⟩, nofun, nofun⟩

/-- A save of the one team, stopped before a word or halted at one, with a condition outstanding, in a module with a deadline. -/
theorem witness_RequestsServed_saves :
    let v : Saving := ⟨0x1000, 0, [1], 5, false⟩
    ([v].find? fun v => decide (v.area = 0x1000)) = some v ∧ v.overrun = false ∧ (∀ u ∈ plain.saved, u.area ≠ 0x1000) ∧
    ∀ g : Gang, g = { busy .halt with flight := none, saving := true } ∨ g = { busy .halt with halt := .halted, saving := true } →
      let s := { small g (squad 1) with savings := [v], dies := [(0, { pdead := 1 })] }
      (∀ g ∈ s.gangs, g.team ∈ v.teams → (g.flight = none ∨ g.halt = .halted) ∧ g.suspended = none ∧ g.stall = none ∧ (∀ o ∈ g.ops, o.isCondition = true ∨ s.heldCopy g o = true) ∧
        ∀ r ∈ s.reds, ∀ c ∈ r.sources, c.2.1 ≠ g.id) ∧ (∀ x ∈ s.teams, x.id ∈ v.teams → s.flushable x.cu = true) ∧ (∀ e ∈ s.hbmStacks, e.2 = .idle) ∧ (s.die v.die).pdead ≠ 0 := by
  refine ⟨rfl, rfl, nofun, fun g hg => ⟨fun h hh _ => ?_, fun _ _ _ => rfl, nofun, fun h => absurd (show (1 : W32) = 0 from h) (by decide)⟩⟩
  obtain rfl := List.mem_singleton.mp hh
  refine ⟨hg.imp (fun e => by rw [e]) (fun e => by rw [e]), hg.elim (fun e => by rw [e]; rfl) (fun e => by rw [e]; rfl), hg.elim (fun e => by rw [e]; rfl) (fun e => by rw [e]; rfl), fun o ho => ?_, nofun⟩
  have : o = job .halt := by rcases hg with rfl | rfl <;> simpa [busy] using ho
  exact .inl (by rw [this]; rfl)

/-- A log of two lines, one of them twice, whole and lost; and a phase with a host's packet. -/
theorem witness_RequestsServed_rollback :
    let a : Undo := ⟨false, 1, 7⟩
    let b : Undo := ⟨false, 2, 8⟩
    let x : Phase := { job := 1, phase := 2, asid := 1, packets := [(some 0, ⟨order 0 22 2, 1, .host 3 9, some 5⟩)] }
    let s := { plain with undo := [a, b, a], phases := [x] }
    (s.undo = [a] ++ b :: [a] ∧ b.common = false ∧ (∀ y ∈ [a], ¬(y.common = false ∧ y.line = b.line)) ∧ (∀ x ∈ s.undo, x.common = false → x.line ≠ 192 / 64)) ∧
    (∀ g ∈ s.gangs, ∀ o ∈ g.ops, o.isEngine = false) ∧ (¬∃ q ∈ s.poisoned, overlap (.phys (s.logAt 0)) (128 * s.undo.length) q 1 = true) ∧
    (∃ q ∈ ({ s with poisoned := [.phys 383] } : State).poisoned, overlap (.phys (s.logAt 0)) (128 * s.undo.length) q 1 = true) ∧
    (x ∈ s.phases ∧ x.asid ≠ 0 ∧ ∃ e ∈ x.packets, e.2.submitter = .host 3 9) :=
  ⟨⟨rfl, rfl, by simp, by simp⟩, by simp [small, one, crew], nofun, ⟨_, List.mem_singleton.mpr rfl, by decide +kernel⟩, List.mem_singleton.mpr rfl, by decide, _, List.mem_singleton.mpr rfl, rfl⟩

/-! ### Host and fabric -/

/-- One byte that can be reached; and a span of it alone. -/
theorem span_one {s : State} {asid : BitVec 8} {k : Kind} {va : W64} {pa : Nat} {new : Option Page} (h : va.toNat < 2 ^ 56)
    (ht : s.engineTranslate asid va.toNat k = .ok pa false new) : SpanOk s asid k va 1 [pa] where
  length := rfl
  each := fun i hi => by
    obtain rfl : i = 0 := by omega
    rw [show va + BitVec.ofNat 64 0 = va by simp]
    exact ⟨h, pa, false, new, rfl, ht, fun _ => rfl⟩

/-- A host-owned queue 7 with `n` packets. -/
def hostQueue (n : Nat) : Queue := { line_ n with num := 7, hostOwned := true }
abbrev hosted (n : Nat) : State := { plain with queues := [hostQueue n] }

theorem witness_HostCommands_queues :
    (∀ k, ¬((256 : W64).toNat ≤ 255 ∧ (hosted 0).queue? (256 : W64).toNat = some k ∧ k.hostOwned = true)) ∧
    (∀ n, (7 : W64).toNat ≤ 255 ∧ (hosted n).queue? (7 : W64).toNat = some (hostQueue n) ∧ (hostQueue n).hostOwned = true) ∧
    ((hostQueue 1).depth ≤ (hostQueue 1).entries.length ∧ (hostQueue 0).entries.length < (hostQueue 0).depth) :=
  ⟨fun k h => absurd h.1 (by decide), fun n => ⟨by decide, rfl, rfl⟩, by decide, by decide⟩

/-- A phase that is open, with a log of `n` GiB. -/
def logging (n : Nat) : State := { mapped one with phases := [{ job := 0, phase := 0, asid := 1 }], ulog := BitVec.ofNat 64 (n * 2 ^ 48) }
/-- The data page's last byte, and the module in which no page of the job can be walked. -/
abbrev lastByte : Nat := bootData + 0xFFFF
def blocked : State := { mapped one with poisoned := [.phys (bootTable 4)] }

/-- A span past the windows, over a page that may not be written, over an absent page, over one in transit, and over one whose entry cannot be read. -/
theorem witness_HostCommands_stops :
    (SpanFails (mapped one) 1 .write 0xFFFF 2 1 ∧ (mapped one).engineTranslate 1 (0xFFFF + BitVec.ofNat 64 1 : W64).toNat .write = .protection) ∧
    (SpanFails (mapped one) 1 .write 0x0100000000000000 1 0 ∧ 2 ^ 56 ≤ (0x0100000000000000 + BitVec.ofNat 64 0 : W64).toNat) ∧
    (∀ k, k = .write ∨ k = .read → SpanFails (mapped one) 1 k 0x30000 1 0 ∧ (0x30000 + BitVec.ofNat 64 0 : W64).toNat < 2 ^ 56 ∧
      (mapped one).engineTranslate 1 (0x30000 + BitVec.ofNat 64 0 : W64).toNat k = .fault) ∧
    (SpanFails (mapped one) 255 .read 0 1 0 ∧ (mapped one).engineTranslate 255 (0 + BitVec.ofNat 64 0 : W64).toNat .read = .fault) ∧
    SpanDelays (mapped one) 1 .write 0x20000 1 0 ∧ (∀ k, k = .write ∨ k = .read → SpanDelays blocked 1 k 0 1 0) := by
  have none_before : ∀ s asid k va, ∃ pas, SpanOk s asid k va 0 pas := fun _ _ _ _ => ⟨[], rfl, nofun⟩
  refine ⟨⟨⟨⟨by decide, [lastByte], span_one (by decide) rfl⟩, .inr (.inr rfl)⟩, rfl⟩, ⟨⟨⟨by decide, none_before _ _ _ _⟩, .inl (by decide)⟩, by decide⟩, ?_,
    ⟨⟨⟨by decide, none_before _ _ _ _⟩, .inr (.inl rfl)⟩, rfl⟩, ⟨⟨by decide, none_before _ _ _ _⟩, by decide, .inr ⟨rfl, _, _, rfl⟩⟩, ?_⟩
  · rintro k (rfl | rfl) <;> exact ⟨⟨⟨by decide, none_before _ _ _ _⟩, .inr (.inl rfl)⟩, by decide, rfl⟩
  · rintro k (rfl | rfl) <;> exact ⟨⟨by decide, none_before _ _ _ _⟩, by decide, .inl rfl⟩

/-- A connection that waits, refused and not; and a span over the data page, with no phase open, with room in the log and with none. -/
theorem witness_HostCommands_spans :
    (∀ r, ([(3, 9, r)] : List (Nat × W32 × Bool)).find? (fun e => decide (e.1 = 3)) = some (3, 9, r)) ∧ (∀ e ∈ (mapped one).commands, e.1 ≠ 3) ∧
    (∀ s, s = mapped one ∨ s = logging 1 ∨ s = logging 0 → ∀ k, k = .write ∨ k = .read → SpanOk s 1 k 0xFFFF 1 [lastByte] ∧ ∀ a ∈ [lastByte], s.accessible (.phys a) 1 = true) ∧
    ((mapped one).phases = [] ∧ (mapped one).logFits ([lastByte].map Place.phys) ∧ (logging 1).phases ≠ [] ∧ (logging 1).logFits ([lastByte].map Place.phys) ∧
      ¬(logging 0).logFits ([lastByte].map Place.phys)) ∧
    (∀ s, s = mapped one ∨ s = logging 0 → ¬(s.logNeeds ([lastByte].map Place.phys) = [] ∨ s.undo.length + (s.logNeeds ([lastByte].map Place.phys)).length ≤ s.logRoom) ∧
      ∀ r ∈ s.requests, r.what ≠ .engineLog) ∧
    (logging 1).undo.length + ((logging 1).logNeeds ([lastByte].map Place.phys)).length ≤ (logging 1).logRoom := by
  refine ⟨fun r => rfl, nofun, ?_, ⟨rfl, .inl rfl, nofun, .inr (by decide +kernel), ?_⟩, ?_, by decide +kernel⟩
  · rintro s (rfl | rfl | rfl) k (rfl | rfl) <;> exact ⟨span_one (by decide) rfl, fun a h => by rw [List.mem_singleton.mp h]; rfl⟩
  · unfold State.logFits
    decide +kernel
  · rintro s (rfl | rfl) <;> exact ⟨by decide +kernel, nofun⟩

/-- A phase that is over and was asked for, one not asked for and one that a launch holds; a phase that no launch has opened; a flow of the module; a fabric copy. -/
theorem witness_HostCommands_rest :
    (let x : Phase := { job := 0, phase := 4094, asid := 1, asked := true, peersReady := true }
     let s := { plain with phases := [x], undo := [⟨false, 1, 7⟩] }
     (s.phases.find? fun x => decide (x.job = 0) && decide (x.phase = 4094)) = some x ∧ x.asked = true ∧ x.peersReady = true ∧ s.phaseOver x = true ∧ s.allFlushable = true) ∧
    (let x : Phase := { job := 0, phase := 0, asid := 1, asked := true, peersReady := true }
     ({ plain with phases := [x], launches := [fifth] } : State).phaseOver x = false ∧ ({ x with asked := false } : Phase).asked = false ∧ ({ x with peersReady := false } : Phase).peersReady = false) ∧
    (∀ x ∈ plain.phases, ¬(x.job = 0 ∧ x.phase = 4094)) ∧
    (let f : Flow := ⟨5, true, 0, 1⟩
     ¬Serves plain 5 1 ∧ ¬Serves { plain with flows := [f] } 5 2 ∧ ¬Serves { plain with flows := [f] } 5 0 ∧ Serves { plain with flows := [f] } 5 1) ∧
    (let c := { carried with remote := some ⟨5, false, none⟩ }; HasOp (small (busy (.copy c)) (squad 1)) (busy (.copy c)) (job (.copy c)) ∧ c.remote = some ⟨5, false, none⟩ ∧ c.fail = none) := by
  refine ⟨⟨rfl, rfl, rfl, by decide +kernel, rfl⟩, by decide +kernel, nofun, ⟨fun h => (nomatch h.2), ?_, fun h => h.1 rfl, by decide, _, List.mem_singleton.mpr rfl, rfl, rfl⟩, ⟨rfl, rfl⟩, rfl, rfl⟩
  rintro ⟨-, x, h, -, e⟩
  rw [List.mem_singleton.mp h] at e
  exact absurd e (by decide)

/-! ### Debug and management -/

/-- A halted gang with sr.dbsel, and its sub-group in flight or not. -/
def held (sel : BitVec 7) (f : Option Flight) : Gang := { one with halt := .halted, dbsel := sel, flight := f }
abbrev stopped (g : Gang) : State := small g (squad 1)

/-- The handle of the one gang of a small module. -/
theorem named (g : Gang) (h1 : g.team = 1) (h2 : g.index = 0) : (stopped g).gangs.find? (fun x => decide ((stopped g).handle x = 1) && decide (x.index.toNat = 0)) = some g := by
  have e : (stopped g).handle g = 1 := by
    rw [State.handle, show (stopped g).teamOf g = squad 1 by simp [State.teamOf, State.team?, small, h1, squad]]
    exact (by decide +kernel : BitVec.ofNat 64 ((squad 1).origin.id.toNat + (squad 1).index % 65536 * 2 ^ 32) = 1)
  rw [show (stopped g).gangs = [g] from rfl, List.find?_cons, e, h2]
  rfl

theorem witness_DebugRequests_steps :
    (∀ sel f, Names (stopped (held sel f)) 1 0 (held sel f) ∧ (held sel f).halt = .halted ∧ (held sel f).stopped = false) ∧ (Names plain 1 0 one ∧ one.halt = .no ∧ one.halt ≠ .halted) ∧
    ((0x50 : BitVec 7).getLsbD 6 = true ∧ here.lanes.getLsbD ((0x50 : BitVec 7).toNat % 64) = false ∧ (0x4F : BitVec 7).getLsbD 6 = true ∧ here.lanes.getLsbD ((0x4F : BitVec 7).toNat % 64) = true) ∧
    (∀ q ∈ (stopped (held 0x50 none)).readyGroups (held 0x50 none), (0x50 : BitVec 7).getLsbD 6 = true ∧ q.lanes.getLsbD ((0x50 : BitVec 7).toNat % 64) = false) ∧
    (((stopped (held 0x4F none)).readyGroups (held 0x4F none)).find? fun q => q.lanes.getLsbD ((0x4F : BitVec 7).toNat % 64)).isSome = true :=
  ⟨fun sel f => ⟨⟨named _ rfl rfl, rfl⟩, rfl, rfl⟩, ⟨⟨named _ rfl rfl, rfl⟩, rfl, by decide⟩, by decide, by decide +kernel, by decide +kernel⟩

/-- The ends of each register's range, and values that are not taken. -/
theorem witness_DebugRequests_writes :
    (let g := held 0 (some here)
     g.takes (.vector 16 0) 0 = false ∧ g.takes (.carousel 0) 0 = false ∧ g.takes (.pc 15) 1 = false ∧ g.takes (.slot 0) 1 = false ∧ g.takes (.layout 0) 0xF000000000000000 = false ∧
      g.takes (.special 18 0) 24 = false ∧ 15 < g.width ∧ 15 < 64 ∧ 15 < g.threads.length ∧ 119 < g.vcount ∧ lyLegal 0 = true ∧ mcLegal 0 = true ∧
      (0x10002 : BitVec 256).getLsbD 0 = false ∧ (g.thread 15).status ≠ .exited) ∧
    ((23 : BitVec 256).toNat < 24 ∧ (255 : BitVec 256).toNat < 2 ^ 8 ∧ (2 ^ 56 - 1 : BitVec 256).toNat < 2 ^ 56) := by
  decide +kernel

/-- The ends of the ranges of the registers that name what a gang is and where it runs, and a die without records that wait. -/
theorem witness_DebugRequests_places : let g := held 0 (some here)
    PlaceValue g 0 15 ∧ ¬PlaceValue g 0 16 ∧ PlaceValue g 6 4095 ∧ ¬PlaceValue g 6 4096 ∧ PlaceValue g 32 255 ∧ ¬PlaceValue g 12 0 ∧ ((stopped g).die 0).pending = [] := by
  simp only [PlaceValue]
  exact ⟨by decide, by decide, by decide, by decide, by decide, by decide, rfl⟩

/-- A halted gang of which each lane holds a trap delivery and an open cursor; and what a write to the cursor may say. -/
theorem witness_DebugRequests_lanes :
    let d : Delivery := { cause := 3, pc := 0x10000, mask := 1, addr := 8, rePc := 0x10000, reAt := none, nextPc := 0x10002, nextAt := none, temps := [], clause := 0, unreturned := true, grp := none }
    let c : Cursor := ⟨0, []⟩
    let g := { held 0 (some here) with threads := List.replicate 16 { pc := 0x10004, place := some spot, delivery := some d, cursors := [(7, c)] } }
    Names (stopped g) 1 0 g ∧ g.halt = .halted ∧ 15 < g.width ∧ 15 < 64 ∧ 15 < g.threads.length ∧ (g.thread 15).delivery = some d ∧ entry? (g.thread 15).cursors 7 = some c ∧
    (0 : BitVec 256).getLsbD 255 = false ∧ (2 ^ 255 : BitVec 256).getLsbD 255 = true :=
  ⟨⟨named _ rfl rfl, rfl⟩, rfl, by decide, by decide, by decide, rfl, rfl, by decide, by decide +kernel⟩

/-- A public key, and the signature under its private half over the digest of one zero byte at 0xFFFF, worked in exact integers outside the model. -/
def signer : BitVec 768 := 0x7ae9e1db1160794c70c1ef071be5191f6c66240f4608fbe8a44ecd36c3ed5db97500f2e4d84e3fb45850fd6f4303302bd8ac21444cd80d241538d8034b399a0dee3636eb5cb00b9499d061a571db0f14bb47ed79453948ed63f3a6ccbbf6e74f
def signature : BitVec 768 := 0x283c1d7365ce4788f29f8ebf234edffead6fe997fbea5ffa2d58cc9dfa7b1c508b05526f55b9ebb2040f05b48fb6d0e1803646bc50906181c22d77491eb3d35f9fa82019210ceb4bf3dda5800782ea9eb1f4ef667bbd4503810e0f4d25aea278

/-- SHA-384 of the letters abc, the worked example of FIPS 180-4. -/
theorem test_sha384_abc : sha384 [0x61, 0x62, 0x63] =
    0xcb00753f45a35e8bb5a03d699ac65007272c32ab0eded1631a8b605a43ff5bed8086072ba1e7cc2358baeca134c825a7 := by decide +kernel

/-- The signature verifies under its key, and no longer once a bit of it is changed. -/
theorem test_signature : ({ plain with keys := [(0, [signer])] } : State).signed 0 (sha384 [0]) 0xFFFF signature = true ∧
    ({ plain with keys := [(0, [signer])] } : State).signed 0 (sha384 [0]) 0xFFFF (signature ^^^ 1) = false := by decide +kernel

/-- A segment of one byte whose entries can be marked, with a good and a bad digest and signature. -/
def segment : Segment := { job := 0, asid := 1, va := 0xFFFF, len := 1, measurement := sha384 [0], signature := signature }

theorem witness_Management_segments :
    let s := { mapped one with keys := [(0, [signer])] }
    s.ptbase.toNat % 8 = 0 ∧ s.writtenBack = s ∧ SpanFails s 1 .read 0x30000 1 0 ∧ (blocked.writtenBack = blocked ∧ blocked.ptbase.toNat % 8 = 0 ∧ SpanDelays blocked 1 .read 0xFFFF 1 0) ∧ SpanOk s 1 .read 0xFFFF 1 [bootData + 0xFFFF] ∧
    s.allFlushable = true ∧
    (let p := spanMatches 1 0xFFFF 1
     s.pagesQuiet p s.serial = true ∧ (mapped (busy (.mem (.load 4) [touchOf 4 [] [2]]))).pagesQuiet p 9 = true ∧
      (mapped (busy (.mem (.load 4) [{ touchOf 4 [] [2] with place := .phys 0 }]))).pagesQuiet p 9 = false) ∧
    s.accessible (.phys (bootData + 0xFFFF)) 1 = true ∧ [bootData + 0xFFFF].map (look s.phys) = [0] ∧
    (segment.measurement = sha384 [0] ∧ ({ segment with measurement := 0 } : Segment).measurement ≠ sha384 [0]) ∧
    (s.signed segment.job (sha384 [0]) segment.va segment.signature = true ∧ s.signed segment.job (sha384 [0]) segment.va (segment.signature ^^^ 1) = false) := by
  refine ⟨rfl, rfl, ⟨⟨by decide, [], rfl, nofun⟩, .inr (.inl rfl)⟩, ⟨rfl, rfl, ⟨by decide, [], rfl, nofun⟩, by decide, .inl rfl⟩, span_one (by decide) rfl, rfl, by decide +kernel, rfl, by decide +kernel, ⟨rfl, by decide +kernel⟩,
    test_signature⟩

/-- The states of a stack, and of a die. -/
theorem witness_Management_dies :
    (entry .idle plain.hbmStacks 7 = .idle ∧ entry .idle [(7, Retrain.waiting 3)] 7 = .waiting 3 ∧ entry .idle [(7, Retrain.running 3)] 7 = .running 3 ∧ Retrain.running 3 ≠ .idle) ∧
    ((plain.die 0).stretching = false ∧ (({ plain with dies := [(0, { stretching := true })] } : State).die 0).stretching = true) ∧
    (one ∈ kernel.gangs ∧ kernel.system one = true ∧ dieOf (kernel.cuOf one) = 0 ∧ one.crashed = false) := by
  refine ⟨⟨rfl, rfl, rfl, nofun⟩, ⟨rfl, rfl⟩, List.mem_singleton.mpr rfl, rfl, rfl, rfl⟩

/-- A crashed gang of the runtime, of the shape that its packet gives it. -/
theorem witness_Management_restart : let g := { bootGang 0x10000 false with id := 1, crashed := true }
    let s := small g bootTeam
    g ∈ s.gangs ∧ s.system g = true ∧ dieOf (s.cuOf g) = 0 ∧ g.crashed = true ∧ s.gang? g.id = some g ∧ (∀ x ∈ s.gangs, x.id = g.id → x.team = g.team) ∧
    (∀ p ∈ s.phases, p.asid ≠ 0 → ∀ x ∈ s.teams, x.id = g.team → p.owns x.origin.packet = false) ∧ g.width = pktWidth (s.teamOf g).origin.packet ∧ g.vcount = pktVregs (s.teamOf g).origin.packet := by
  refine ⟨List.mem_singleton.mpr rfl, rfl, rfl, rfl, rfl, ?_, nofun, by decide +kernel, by decide +kernel⟩
  intro x h _
  rw [List.mem_singleton.mp h]

/-! ### The whole machine -/

/-- Reset has the form, and a module in it takes a step. -/
theorem witness_StepKeepsMemoryForm : State.reset.MemoryForm ∧ ∃ t, step (State.reset.withFetchWord 16 0x001E) = .next t ∧ (State.reset.withFetchWord 16 0x001E).MemoryForm := by
  refine ⟨memoryForm_reset, _, rfl, by decide +kernel, by decide +kernel, by decide +kernel, by decide +kernel⟩

/-! ### Errors, pins, groups, killed units -/

/-- Register v2 of every lane of a gang is in error. -/
def Machine.Gang.spoil2 (g : Gang) : Gang := { g with threads := g.threads.map fun t => { t with bad := [2] } }

/-- A word of the loaded gang that would consume v2, which is in error. -/
theorem witness_StepRunsDecodedWord_consumes :
    let s := { State.reset.withFetchWord 16 0x0860 with gangs := [(bootGang 0x10000 false).spoil2] }
    ∃ t x g, ∃ f : Flight, s.pick = some (.issue 2, t) ∧ t.gang? 2 = some x ∧ (t.begin x).gang? 2 = some g ∧ g.flight = some f ∧
      (t.begin x).fetch 0 0 f.pc = .word 0x0860 2 ∧ decode (leBytes 2 0x0860) = .ok (.movShort 0 2 3, 2) ∧ f.place = some ⟨0, 1, 1⟩ ∧
      (∀ o ∈ (Instr.sig (.movShort 0 2 3)).ops, o.beyond g.vcount = false) ∧ Erroneous g (readLanes f.lanes (.movShort 0 2 3)) (.vec 2 1) :=
  ⟨_, _, _, ⟨BitVec.allOnes 64, 0x10000, some ⟨0, 1, 1⟩⟩, rfl, rfl, rfl, rfl, rfl, rfl, rfl, by decide, 0, 0, by decide, by decide, rfl⟩

/-- The same word in a small module, and a module without an error. -/
theorem witness_ConsumesError : ConsumesError (.movShort 0 2 3) plain one.spoil2 here ∧ ¬ConsumesError (.movShort 0 2 3) plain one here := by
  refine ⟨⟨⟨_, rfl, nofun⟩, rfl, nofun, by decide, _, List.mem_singleton.mpr rfl, 0, 0, rfl, by decide, rfl⟩, fun ⟨_, _, _, _, o, ho, h⟩ => ?_⟩
  obtain rfl := List.mem_singleton.mp ho
  obtain ⟨l, k, hl, hk, h⟩ := h
  obtain rfl : k = 0 := by omega
  exact absurd h ((by decide : ∀ l, l < 16 → one.sound l (2 + 0) ≠ false) l (lanes_lt (by decide) hl))

/-- A wait on a mask in error, exchanges that read nothing in error, and one whose mask is. -/
theorem witness_exchanges_in_error :
    (let g := { wide .ready with badMasks := [2] }; Issues (.wait 2) (small g (squad 1)) g here spot ∧ g.withheld = [] ∧ g.quiet ∧ (2 : BitVec 4).toNat ∈ g.badMasks) ∧
    (∀ i ∈ [Instr.shflkUp 2 1 1 2, .xredScanI32 1 1 2, .voteAll 2 1 0, .voteBallotMask 2 1 11], ∀ n k, memberOf i = some (n, k) → one.exchangeSound here.lanes n k = true) ∧
    (let g := { one with badMasks := [2] }
     Issues (.shflkUp 2 1 1 2) (small g (squad 1)) g here spot ∧ g.quiet ∧ here.lanes &&& ~~~g.lanes = 0 ∧ g.exchangeSound here.lanes 2 (.shflk false 1 1 2) = false) := by
  refine ⟨⟨issues, rfl, quiet_of, by decide⟩, fun i hi n k h => ?_, issues, quiet_of, by decide, by decide⟩
  simp only [List.mem_cons, List.not_mem_nil, or_false] at hi
  rcases hi with rfl | rfl | rfl | rfl <;> (obtain ⟨rfl, rfl⟩ := Prod.mk.inj (Option.some.inj h); decide)

/-- No debugger has written a register of the plain gang; a load has landed a result and has not completed, and a word stalls for it. -/
theorem witness_shown_and_supply : (∀ k, entry? one.shown k = none) ∧ one.suppliers = [] ∧
    (let g := { one with ops := [{ job (.mem (.load 4) []) with landed := [(0, 2)] }] }
     g.suppliers ≠ [] ∧ cancelForm (.cancelJob 5) = some (3, 5) ∧ Issues (.cancelJob 5) (small g (squad 1)) g here spot) ∧
    ({ one with stall := some .supply } : Gang).suppliers = [] :=
  ⟨fun _ => rfl, rfl, ⟨by decide, rfl, issues⟩, rfl⟩

/-- A wait for a round after one that held a remote arrival which no wait has acquired. -/
theorem witness_BarrierWords_owed : let x := { grouped with barriers := [(14, { exp := 16, rnd := 6, owed := [5] })] }
    let g := { one with targets := [(14, 6)] }
    Issues (.barWait 14) (small g x) g here spot ∧ (small g x).team? g.team = some x ∧ (∃ m ∈ (x.barrier 14).owed, (look g.targets 14 - m).toNat < 2 ^ 15) ∧
      ((x.barrier 14).rnd - look g.targets 14).toNat < 2 ^ 15 := ⟨issues, rfl, ⟨5, by decide, by decide⟩, by decide⟩

/-- A gang of which lane 15 holds pin 3 on a list in cursor c7 and pin 4, of which nothing was read yet, in c6; and its module with graph 5. -/
def pinner (b : OpBody) : Gang := { busy b with threads := List.replicate 15 {} ++ [{ cursors := [(7, ⟨3, []⟩), (6, ⟨4, []⟩)] }] }
def pinned (b : OpBody) : State :=
  { small (pinner b) (squad 1) with graph := { graphs := [five], pins := [⟨3, 5, false, 0, 0, some [(1, 7), (2, 8)]⟩, ⟨4, 5, true, 1, 0, none⟩] } }

/-- Property writes of which two name one vertex, an open, a read at the first and past the last edge, a seek and a close. -/
theorem witness_GraphCompletes_cursors :
    (let ls : List GraphLane := [⟨14, 3, 0, 7, 1, 0, [], false⟩, ⟨15, 3, 0, 8, 1, 0, [], false⟩]
     let b := OpBody.graph .gvst 5 0 ls
     HasOp (store 2 2 (busy b)) (busy b) (job b) ∧ (store 2 2 (busy b)).graph.find 5 = some five ∧ (store 2 2 (busy b)).mayGraph (busy b) (job b) = true ∧
       (ls.map GraphLane.lane).Pairwise (fun a b => a < b) ∧ (3 : W32).toNat < five.vn ∧ five.vn ≤ (4 : W32).toNat) ∧
    (let ls : List GraphLane := [⟨15, 1, 0, 0, 0, 4, [], false⟩]
     let b := OpBody.graph (.copen true) 5 118 ls
     HasOp (pinned b) (pinner b) (job b) ∧ (pinned b).graph.find 5 = some five ∧ (pinned b).mayGraph (pinner b) (job b) = true ∧ (ls.map GraphLane.lane).Nodup ∧ (ls.map GraphLane.pin).Nodup ∧
       (∀ l ∈ ls, l.lane < (pinner b).threads.length ∧ l.lane < 64) ∧ 4 ∈ (pinned b).heldPins ∧ (pinned b).pin? 4 = some ⟨4, 5, true, 1, 0, none⟩ ∧ 3 ∈ (pinned b).heldPins) ∧
    (∀ k steps, k = .cnext ∨ k = .crank ∨ k = .cseek ∨ k = .cclose → steps = [] ∨ steps = [CursorStep.seek 2] →
      let ls : List GraphLane := [⟨15, 0, 0, 0, 0, 3, steps, false⟩]
      let b := OpBody.graph k 0 118 ls
      HasOp (pinned b) (pinner b) (job b) ∧ (pinned b).mayGraph (pinner b) (job b) = true ∧ (ls.map GraphLane.lane).Nodup ∧ (∀ l ∈ ls, l.lane < (pinner b).threads.length ∧ l.lane < 64) ∧
        (pinned b).pin? 3 = some ⟨3, 5, false, 0, 0, some [(1, 7), (2, 8)]⟩ ∧ (rankAfter 2 steps = 0 ∨ rankAfter 2 steps = 2) ∧ 9 ∉ (pinned b).heldPins) :=
  ⟨⟨⟨rfl, rfl⟩, rfl, rfl, by decide, by decide, by decide⟩,
   ⟨⟨rfl, rfl⟩, rfl, by decide +kernel, by decide, by decide, by decide, by decide +kernel, rfl, by decide +kernel⟩,
   fun k steps hk hs => by
    rcases hs with rfl | rfl <;> rcases hk with rfl | rfl | rfl | rfl <;>
      exact ⟨⟨rfl, rfl⟩, by decide +kernel, by decide, by decide, rfl, by decide, by decide +kernel⟩⟩

/-- A launch of cluster groups of two teams at the head of a queue, for the CUs of the first cluster. -/
def pairing : State :=
  let p := order 0 22 2 ||| BitVec.ofNat 512 (2 * 2 ^ 46)
  { State.reset with queues := [⟨7, 1, false, 1, [⟨p, 1, .host 0 0, some 5⟩]⟩], launches := [{ fifth with origin := ⟨5, 1, p⟩ }] }

theorem witness_PlacementAndRetirement_groups :
    pairing.decision = some (0, 22, .team 7 5 [0, 1]) ∧ (pairing.launch? 5).map (fun l => pktGroup l.origin.packet) = some 2 := by decide +kernel

/-- A task gang of which every lane has exited: with one record, with two of which the counter holds three, and with a re-fire of slot 64 that runs. -/
theorem witness_PlacementAndRetirement_tasks :
    let x := { squad 1 with origin := ⟨5, 1, order 1 22 2⟩, isTask := true }
    let off := pktCounter x.origin.packet
    (∀ ps, let g := { one with threads := List.replicate 16 { pc := 0x10004, status := .exited }, flight := none, packed := ps }
      ∀ m, let s := { small g x with slots := [⟨64, 9, []⟩], common := m }
      s.gang? 1 = some g ∧ s.team? 1 = some x ∧ (∀ t ∈ g.threads, t.status = .exited) ∧ g.ops = [] ∧ s.reds = [] ∧ s.flushable 0 = true ∧ s.slot? 64 = some ⟨64, 9, []⟩) ∧
    CountsOne x { one with packed := [⟨none, 0⟩] } True ∧ ({ plain with common := storeNat [] off 8 3 } : State).count off = 3 ∧
    (let p : List Packed := [⟨none, 0⟩, ⟨none, 0⟩]; (∀ y ∈ p, y.refire = none) ∧ p.length < 3) ∧ (128 + 8 ≤ 64 ∨ 64 + 64 ≤ 128) ∧
    hdrNrun (({ plain with common := storeNat [] 64 64 (2 ^ 96) } : State).header 64) = 1 := by
  refine ⟨fun ps m => ⟨rfl, rfl, fun t h => by rw [List.eq_of_mem_replicate h], rfl, rfl, rfl, rfl⟩, .inr ⟨rfl, 0, rfl⟩, by decide +kernel, by decide, by decide, by decide +kernel⟩

/-- A saved unit with a copy that its engine held, and one without. -/
theorem witness_RequestsServed_killed :
    (∀ ops, ops = [] ∨ ops = [job (.copy carried)] → let s := { State.reset with saved := [⟨64, [squad 1], [{ one with ops := ops }]⟩] }
      unitOf 1 s.teams s.gangs = [] ∧ (s.saved.find? fun u => decide (unitOf 1 u.teams u.gangs ≠ [])) = some ⟨64, [squad 1], [{ one with ops := ops }]⟩) ∧
    one.copies = [] ∧ ({ one with ops := [job (.copy carried)] } : Gang).copies ≠ [] := by
  refine ⟨fun ops h => ⟨rfl, ?_⟩, rfl, by decide⟩
  rcases h with rfl | rfl <;> exact List.find?_cons_of_pos (by decide +kernel)

/-- A write to cursor c7 that names the list of its pin, and one that names another list of a live graph. -/
theorem witness_DebugRequests_cursors : let s := pinned .halt
    (s.pin? 3).map (fun p => decide (p.handle.toNat = (5 : Nat)) && !p.inList && decide (p.vertex = 0)) = some true ∧ s.liveGraph 1 5 = some five ∧
    (2 ^ 255 + 5 * 2 ^ 64 : BitVec 256).getLsbD 255 = true ∧ (2 ^ 255 + 5 * 2 ^ 64 : BitVec 256).toNat / 2 ^ 64 % 2 ^ 64 = 5 := ⟨rfl, rfl, by decide +kernel, by decide +kernel⟩

/-- A phase in progress with a packet that a queue took and one that no queue took; and a packet of the reserved phase. -/
theorem witness_RequestsServed_packets :
    let e : Entry := ⟨order 0 22 2, 1, .host 3 9, some 5⟩
    let x : Phase := { job := 1, phase := 2, asid := 1, packets := [(some 255, e), (none, e)] }
    let s := { plain with phases := [x], queues := [line_ 0] }
    x ∈ s.phases ∧ x.asid ≠ 0 ∧ (s.queue? 255).isSome = true ∧ (none, e) ∈ x.packets ∧ (some 255, e) ∈ x.packets ∧ (0 : BitVec 12) ≠ 4095 :=
  ⟨List.mem_singleton.mpr rfl, by decide, rfl, by decide +kernel, by decide +kernel, by decide⟩

/-! ## Results of one word: values worked by hand from the rules -/

/-- The gang after a word, in user mode. -/
def after (i : Instr) (g : Gang) : Gang :=
  match exec i (small g (squad 1)) with
  | .next t => (t.gang? 1).getD g
  | _ => { g with killed := true }
/-- V[3] of lane 7 after a word on V[1] = `a`, V[2] = `b` and V[3] = `d`. -/
def third (i : Instr) (a b d : W32) : W32 := (after i (crew [(1, a), (2, b), (3, d)] [])).vreg 7 3

/-- R96: sums wrap, mulhi keeps the upper half with and without signs, mad reads D, a shift takes the amount mod 32. -/
theorem test_iop : third (.addI32 2 1 3) 0xFFFFFFFF 2 9 = 1 ∧ third (.subI32 2 1 3) 1 2 9 = 0xFFFFFFFF ∧ third (.mulhiI32 2 1 3) 0xFFFFFFFF 2 9 = 0xFFFFFFFF ∧
    third (.mulhiN32 2 1 3) 0xFFFFFFFF 2 9 = 1 ∧ third (.madI32 2 1 3) 3 5 7 = 22 ∧ third (.sar 2 1 3) 0x80000000 33 9 = 0xC0000000 ∧ third (.shl 2 1 3) 1 31 9 = 0x80000000 := by decide +kernel

/-- R97, R98, R104: imm11 is sign-extended for the logical forms too, liu is not. -/
theorem test_immediates : third (.andi 0x7FF 1 3) 0x12345678 0 0 = 0x12345678 ∧ third (.rol 4 1 3) 0xF0000001 0 0 = 0x0000001F ∧ third (.li 0x20000 3) 0 0 0 = 0xFFFE0000 ∧
    third (.liu 0x3FFFF 3) 0 0 0 = 0xFFFFC000 := by decide +kernel

/-- R112, R114: 1 + 2 = 3; 1 + 2^-24 is a tie and goes to the even 1; f32 overflow. -/
theorem test_float_sums : third (.addF32 2 1 3) 0x3F800000 0x40000000 0 = 0x40400000 ∧ third (.addF32 2 1 3) 0x3F800000 0x33800000 0 = 0x3F800000 ∧
    third (.addF32 2 1 3) 0x7F7FFFFF 0x7F7FFFFF 0 = 0x7F800000 := by decide +kernel

/-- R102, R141: a compare writes only the bits of issuing lanes; mask values stay below the width of 16. -/
theorem test_masks : (after (.icmpLtN 2 1 1) (crew [(1, 1), (2, 0xFFFFFFFF)] [])).mreg 1 = 0xFFFF ∧ (after (.icmpLtI 2 1 1) (crew [(1, 1), (2, 0xFFFFFFFF)] [])).mreg 1 = 0 ∧
    (after (.mnot 1 3) one).mreg 3 = 0xFF00 := by decide +kernel

/-- R90, R105: s0 takes nothing. -/
theorem test_scalars : (after (.sadd 2 1 3) (crew [] [(1, 0xFFFFFFFFFFFFFFFF), (2, 2)])).sreg 3 = 1 ∧ (after (.sadd 2 1 0) (crew [] [(1, 5), (2, 2)])).sreg 0 = 0 := by decide +kernel

/-- R145: a call leaves PC + 4 in s63, and its lanes stand at PC + 2·off. -/
theorem test_call : (after (.call 4) one).sreg 63 = 0x10008 ∧ ((after (.call 4) one).thread 15).pc = 0x1000C := by decide +kernel

end Sys2Proof
end

section
/-!
Proofs: the bits and bytes of a cached line (R177): what a line shows as its home holds it, and after a patch.
-/
namespace Sys2Proof.Machine

/-! ## Bits and bytes of a line -/

theorem testBit_leNat (bs : List Byte) (k : Nat) : (leNat bs).testBit k = (bs.getD (k / 8) 0).getLsbD (k % 8) := by
  induction bs generalizing k with
  | nil => simp [leNat]
  | cons b r ih =>
    have e : leNat (b :: r) = 2 ^ 8 * leNat r + b.toNat := by simp [leNat, Nat.add_comm]
    rw [e, Nat.testBit_two_pow_mul_add _ b.isLt]
    by_cases h : k < 8
    · rw [if_pos h, Nat.div_eq_of_lt h, Nat.mod_eq_of_lt h]; rfl
    · obtain ⟨j, rfl⟩ : ∃ j, k = j + 8 := ⟨k - 8, by omega⟩
      rw [if_neg h, Nat.add_sub_cancel, ih, Nat.add_div_right _ (by omega), Nat.add_mod_right]; rfl

theorem bytesAt_eq_map (m : List Host.Cell) (a n : Nat) : bytesAt m a n = (List.range n).map fun i => look m (a + i) := by
  induction n generalizing a with
  | zero => rfl
  | succ n ih =>
    simp only [bytesAt, ih, List.range_succ_eq_map, List.map_cons, List.map_map, Nat.add_zero, Function.comp_def, Nat.succ_eq_add_one]
    simp only [Nat.add_assoc, Nat.add_comm 1]

theorem getLsbD_byte (l : Line) (o i : Nat) : (l.byte o).getLsbD i = (decide (i < 8) && l.data.getLsbD (8 * o + i)) := by
  rw [Line.byte, BitVec.getLsbD_ofNat, fld, show 8 * o + 7 + 1 - 8 * o = 8 by omega, Nat.testBit_mod_two_pow, ← Nat.shiftRight_eq_div_pow, Nat.testBit_shiftRight]
  by_cases h : i < 8 <;> simp [h, BitVec.getLsbD]

/-- A line as its home holds it shows the bytes of its home. -/
theorem byte_homeLine (s : State) (n o : Nat) (h : o < 64) : (s.homeLine n).byte o = look s.phys (64 * n + o) := by
  refine BitVec.eq_of_getLsbD_eq fun i hi => ?_
  have hk : 8 * o + i < 512 := by omega
  rw [getLsbD_byte, State.homeLine, BitVec.getLsbD_ofNat, readNat, testBit_leNat, bytesAt_eq_map, show (8 * o + i) / 8 = o by omega,
    show (8 * o + i) % 8 = i by omega]
  simp [hi, hk, h, List.getD]

/-- A patched line shows the new bytes where they lie and its old ones elsewhere. -/
theorem byte_patch (l : Line) (d : Bool) (o : Nat) (bs : List Byte) (j : Nat) (hj : j < 64) :
    (l.patch d o bs).byte j = if o ≤ j ∧ j < o + bs.length then bs.getD (j - o) 0 else l.byte j := by
  refine BitVec.eq_of_getLsbD_eq fun i hi => ?_
  have hk : 8 * j + i < 512 := by omega
  have hmk : (2 ^ (8 * bs.length) - 1).testBit (8 * j + i - 8 * o) = decide (8 * j + i - 8 * o < 8 * bs.length) := Nat.testBit_two_pow_sub_one _ _
  rw [apply_ite (fun b : Byte => b.getLsbD i), getLsbD_byte, getLsbD_byte]
  simp only [Line.patch, BitVec.getLsbD_or, BitVec.getLsbD_and, BitVec.getLsbD_not, BitVec.getLsbD_shiftLeft, BitVec.getLsbD_ofNat, hmk, testBit_leNat, hi, hk,
    decide_true, Bool.true_and]
  by_cases h1 : o ≤ j
  · have h2 : ¬8 * j + i < 8 * o := by omega
    rw [show (8 * j + i - 8 * o) / 8 = j - o by omega, show (8 * j + i - 8 * o) % 8 = i by omega]
    by_cases h3 : j < o + bs.length
    · simp [h1, h2, h3, show 8 * j + i - 8 * o < 512 by omega, show 8 * j + i - 8 * o < 8 * bs.length by omega]
    · simp [h2, h3, show ¬8 * j + i - 8 * o < 8 * bs.length by omega, List.getD, List.getElem?_eq_none (show bs.length ≤ j - o by omega)]
  · simp [h1, show 8 * j + i < 8 * o by omega]

@[simp] theorem patch_line (l : Line) (d : Bool) (o : Nat) (bs : List Byte) : (l.patch d o bs).line = l.line := rfl

end Sys2Proof.Machine
end

section
/-!
Proofs: view caches (R13, R177, R178): what a CU sees at a physical address, and what a line that is given up or taken in changes.
-/
namespace Sys2Proof.Machine

/-! ## The caches of the CUs -/

theorem cu_onCu (s : State) (n : Nat) (f : Cu → Cu) (k : Nat) : (s.onCu n f).cu k = if n = k then f (s.cu n) else s.cu k := entry_setEntry _ _ _ _ _

theorem line?_line {c : Cu} {n : Nat} {l : Line} (h : c.line? n = some l) : l.line = n := by
  have := List.find?_some h; simpa using this

theorem line?_mem {c : Cu} {n : Nat} {l : Line} (h : c.line? n = some l) : l ∈ c.lines := List.mem_of_find?_eq_some h

theorem line?_map (c : Cu) (m n : Nat) (f : Line → Line) (hf : ∀ l, (f l).line = l.line) :
    ({ c with lines := c.lines.map fun l => if l.line = m then f l else l } : Cu).line? n = if m = n then (c.line? n).map f else c.line? n := by
  simp only [Cu.line?, List.find?_map]
  have e : ((fun l : Line => decide (l.line = n)) ∘ fun l => if l.line = m then f l else l) = fun l => decide (l.line = n) := by
    funext l; simp only [Function.comp]; split <;> simp [hf]
  rw [e]
  cases h : c.lines.find? fun l => decide (l.line = n) with
  | none => simp
  | some l =>
    have := List.find?_some h
    simp only [decide_eq_true_eq] at this
    by_cases e : m = n <;> simp [this, e, eq_comm]

theorem line?_filter (c : Cu) (m n : Nat) :
    ({ c with lines := c.lines.filter fun l => decide (l.line ≠ m) } : Cu).line? n = if m = n then none else c.line? n := by
  simp only [Cu.line?, List.find?_filter]
  by_cases h : m = n
  · subst h; rw [if_pos rfl, List.find?_eq_none]; intro l _; simp
  · rw [if_neg h]; congr 1; funext l
    by_cases e : l.line = n
    · simp [e, Ne.symm h]
    · simp [e]

theorem line?_append (c : Cu) (l : Line) (n : Nat) (w : W64) :
    ({ c with lines := c.lines ++ [l], misses := w } : Cu).line? n = (c.line? n).or (if l.line = n then some l else none) := by
  simp only [Cu.line?, List.find?_append, List.find?_cons, List.find?_nil]
  congr 1; split <;> simp_all

theorem cu_onLine (s : State) (cu n : Nat) (f : Line → Line) (hf : ∀ l, (f l).line = l.line) (k m : Nat) :
    ((s.onLine cu n f).cu k).line? m = if cu = k ∧ n = m then ((s.cu k).line? m).map f else (s.cu k).line? m := by
  rw [State.onLine, cu_onCu]
  by_cases h : cu = k
  · subst h; rw [if_pos rfl, line?_map _ _ _ _ hf]; simp
  · simp [h]

/-! ## What a CU sees (R178) -/

/-- The byte that a CU sees at a physical address: that of its line, or else the home's. -/
def State.seen (s : State) (cu a : Nat) : Byte := (((s.cu cu).line? (a / 64)).map fun l => l.byte (a % 64)).getD (look s.phys a)

theorem seen_of_line {s : State} {cu a : Nat} {l : Line} (h : (s.cu cu).line? (a / 64) = some l) : s.seen cu a = l.byte (a % 64) := by simp [State.seen, h]

theorem seen_of_none {s : State} {cu a : Nat} (h : (s.cu cu).line? (a / 64) = none) : s.seen cu a = look s.phys a := by simp [State.seen, h]

/-- The view of bytes of one line is what the CU sees at each address. -/
theorem viewBytes_phys (s : State) (cu a n : Nat) (h : a % 64 + n ≤ 64) : s.viewBytes cu (.phys a) n = (List.range n).map fun i => s.seen cu (a + i) := by
  have hd : ∀ i ∈ List.range n, (a + i) / 64 = a / 64 ∧ (a + i) % 64 = a % 64 + i := fun i hi => by have := List.mem_range.mp hi; omega
  simp only [State.viewBytes]
  cases hl : (s.cu cu).line? (a / 64) with
  | none =>
    simp only [State.homeBytes, bytesAt_eq_map]
    exact List.map_congr_left fun i hi => (seen_of_none (by rw [(hd i hi).1]; exact hl)).symm
  | some l =>
    refine List.map_congr_left fun i hi => ?_
    rw [seen_of_line (l := l) (by rw [(hd i hi).1]; exact hl), (hd i hi).2]

theorem viewBytes_one (s : State) (cu a : Nat) : s.viewBytes cu (.phys a) 1 = [s.seen cu a] := by
  rw [viewBytes_phys _ _ _ _ (by omega)]; rfl

theorem homeBytes_one (s : State) (a : Nat) : s.homeBytes (.phys a) 1 = [look s.phys a] := rfl

/-- Outside physical memory a CU sees the home. -/
theorem viewBytes_common (s : State) (cu o n : Nat) : s.viewBytes cu (.common o) n = s.homeBytes (.common o) n := rfl
theorem viewBytes_scratch (s : State) (cu t o n : Nat) : s.viewBytes cu (.scratch t o) n = s.homeBytes (.scratch t o) n := rfl

/-! ## A line that is given up (R178) -/

theorem look_writeBackLine (s : State) (cu n a : Nat) : look (s.writeBackLine cu n).phys a =
    if a / 64 = n then (((s.cu cu).line? n).map fun l => if l.dirty.getLsbD (a % 64) then l.byte (a % 64) else look s.phys a).getD (look s.phys a)
    else look s.phys a := by
  unfold State.writeBackLine
  cases h : (s.cu cu).line? n with
  | none => simp
  | some l =>
    have hl := line?_line h
    simp only [State.onLine, onCu_phys, look_flushBytes, hl]
    by_cases e : a / 64 = n
    · have e1 : a - 64 * n = a % 64 := by omega
      have e2 : 64 * n ≤ a ∧ a < 64 * n + 64 := by omega
      simp [e, e1, e2]
    · have e2 : ¬(64 * n ≤ a ∧ a < 64 * n + 64) := by omega
      rw [if_neg (fun hh => e2 ⟨hh.1, hh.2.1⟩), if_neg e]

theorem lines_writeBackLine (s : State) (cu n k m : Nat) :
    ((s.writeBackLine cu n).cu k).line? m = if cu = k ∧ n = m then ((s.cu k).line? m).map fun l => { l with dirty := 0 } else (s.cu k).line? m := by
  unfold State.writeBackLine
  cases h : (s.cu cu).line? n with
  | none =>
    simp only
    split
    · next e => obtain ⟨rfl, rfl⟩ := e; simp [h]
    · rfl
  | some l => exact cu_onLine _ _ _ (fun l => { l with dirty := 0 }) (fun _ => rfl) _ _

theorem look_evict (s : State) (cu n a : Nat) : look (s.evict cu n).phys a = look (s.writeBackLine cu n).phys a := rfl

theorem lines_evict (s : State) (cu n k m : Nat) :
    ((s.evict cu n).cu k).line? m = if cu = k ∧ n = m then none else (s.cu k).line? m := by
  rw [State.evict, cu_onCu]
  by_cases h : cu = k
  · subst h
    rw [if_pos rfl, line?_filter, lines_writeBackLine]
    by_cases e : n = m <;> simp [e]
  · simp only [h, if_false, false_and, lines_writeBackLine]

/-- What giving up a line leaves: its dirty bytes are at their home, and every CU sees its bytes as before or as their home has them. -/
structure GaveUp (s t : State) (cu : Nat) : Prop where
  home : ∀ a, look t.phys a = look s.phys a ∨ ∃ x ∈ (s.cu cu).lines, x.line = a / 64 ∧ x.dirty.getLsbD (a % 64) = true ∧ look t.phys a = x.byte (a % 64)
  view : ∀ k a, t.seen k a = s.seen k a ∨ t.seen k a = look t.phys a
  rest : { t with phys := s.phys, cus := s.cus } = s

theorem GaveUp.refl (s : State) (cu : Nat) : GaveUp s s cu := ⟨fun _ => .inl rfl, fun _ _ => .inl rfl, rfl⟩

theorem rest_writeBackLine (s : State) (cu n : Nat) : { s.writeBackLine cu n with phys := s.phys, cus := s.cus } = s := by
  unfold State.writeBackLine; split <;> rfl

theorem evict_gaveUp (s : State) (cu n : Nat) : GaveUp s (s.evict cu n) cu where
  home a := by
    rw [look_evict, look_writeBackLine]
    by_cases e : a / 64 = n
    · rw [if_pos e]
      cases h : (s.cu cu).line? n with
      | none => exact .inl rfl
      | some l =>
        simp only [Option.map_some, Option.getD_some]
        split
        · next d => exact .inr ⟨l, line?_mem h, (line?_line h).trans e.symm, d, rfl⟩
        · exact .inl rfl
    · exact .inl (if_neg e)
  view k a := by
    by_cases h : cu = k ∧ n = a / 64
    · exact .inr (seen_of_none (by rw [lines_evict, if_pos h]))
    · cases hl : (s.cu k).line? (a / 64) with
      | none => exact .inr (seen_of_none (by rw [lines_evict, if_neg h, hl]))
      | some l => exact .inl (by rw [seen_of_line hl, seen_of_line (by rw [lines_evict, if_neg h, hl])])
  rest := rest_writeBackLine s cu n

/-! ## A line that is taken in (R178) -/

/-- What a CU does to hold a line that it does not hold: it makes room, and takes the line in as its home has it. -/
theorem fillLine_of_none {s : State} {cu n : Nat} (h : (s.cu cu).line? n = none) :
    s.fillLine cu n = (s.makeRoom cu).onCu cu fun c => { c with lines := c.lines ++ [s.homeLine n], misses := c.misses + 1 } := by simp [State.fillLine, h]

theorem fillLine_of_some {s : State} {cu n : Nat} (h : ((s.cu cu).line? n).isSome = true) : s.fillLine cu n = s := by
  obtain ⟨l, hl⟩ := Option.isSome_iff_exists.mp h
  simp [State.fillLine, hl]

/-- Making room gives up at most one line, which is one that the CU holds, and none while there is room. -/
theorem makeRoom_cases (s : State) (cu : Nat) : s.makeRoom cu = s ∨ 2048 ≤ (s.cu cu).lines.length ∧ ∃ l ∈ (s.cu cu).lines, s.makeRoom cu = s.evict cu l.line := by
  unfold State.makeRoom
  split
  · exact .inl rfl
  · next h =>
    split
    · next l hl => exact .inr ⟨by omega, l, List.mem_of_find?_eq_some hl, rfl⟩
    · exact .inl rfl

theorem makeRoom_gaveUp (s : State) (cu : Nat) : GaveUp s (s.makeRoom cu) cu := by
  rcases makeRoom_cases s cu with e | ⟨-, l, -, e⟩ <;> rw [e]
  · exact .refl s cu
  · exact evict_gaveUp s cu l.line

/-- A line that the CU does not hold is as before once room has been made, at home and in the CU. -/
theorem makeRoom_line {s : State} {cu n : Nat} (h : (s.cu cu).line? n = none) :
    ((s.makeRoom cu).cu cu).line? n = none ∧ ∀ a, a / 64 = n → look (s.makeRoom cu).phys a = look s.phys a := by
  rcases makeRoom_cases s cu with e | ⟨-, l, hl, e⟩ <;> rw [e]
  · exact ⟨h, fun _ _ => rfl⟩
  · have hne : l.line ≠ n := by
      intro he
      have : ((s.cu cu).lines.find? fun x => decide (x.line = n)).isSome = true := List.find?_isSome.mpr ⟨l, hl, decide_eq_true he⟩
      rw [Cu.line?] at h; simp [h] at this
    refine ⟨by rw [lines_evict, if_neg (fun hh => hne hh.2)]; exact h, fun a ha => ?_⟩
    rw [look_evict, look_writeBackLine, if_neg (fun hh => hne (hh.symm.trans ha))]

theorem lines_fillLine {s : State} {cu n : Nat} (h : (s.cu cu).line? n = none) (k m : Nat) :
    ((s.fillLine cu n).cu k).line? m = if cu = k ∧ n = m then some (s.homeLine n) else ((s.makeRoom cu).cu k).line? m := by
  rw [fillLine_of_none h, cu_onCu]
  by_cases hk : cu = k
  · subst hk
    rw [if_pos rfl, line?_append]
    by_cases e : n = m
    · subst e; rw [(makeRoom_line h).1]; simp [State.homeLine]
    · simp [State.homeLine, e]
  · simp [hk]

theorem phys_fillLine {s : State} {cu n : Nat} (h : (s.cu cu).line? n = none) : (s.fillLine cu n).phys = (s.makeRoom cu).phys := by rw [fillLine_of_none h]; rfl

/-- Taking a line in changes what a CU sees by no more than making room does. -/
theorem seen_fillLine {s : State} {cu n : Nat} (h : (s.cu cu).line? n = none) (k a : Nat) : (s.fillLine cu n).seen k a = (s.makeRoom cu).seen k a := by
  by_cases e : cu = k ∧ n = a / 64
  · obtain ⟨rfl, rfl⟩ := e
    obtain ⟨h1, h2⟩ := makeRoom_line h
    rw [seen_of_none h1, seen_of_line (by rw [lines_fillLine h, if_pos ⟨rfl, rfl⟩]), byte_homeLine _ _ _ (by omega), h2 a rfl, Nat.div_add_mod]
  · simp only [State.seen, phys_fillLine h, lines_fillLine h, if_neg e]

theorem fillLine_gaveUp (s : State) (cu n : Nat) : GaveUp s (s.fillLine cu n) cu := by
  cases h : (s.cu cu).line? n with
  | some l => rw [fillLine_of_some (by rw [h]; rfl)]; exact .refl s cu
  | none =>
    have g := makeRoom_gaveUp s cu
    refine ⟨by rw [phys_fillLine h]; exact g.home, by simp only [phys_fillLine h, seen_fillLine h]; exact g.view, ?_⟩
    rw [fillLine_of_none h]; exact g.rest

/-- The CU then holds the line. -/
theorem fillLine_holds (s : State) (cu n : Nat) : (((s.fillLine cu n).cu cu).line? n).isSome = true := by
  cases h : (s.cu cu).line? n with
  | some l => rw [fillLine_of_some (by rw [h]; rfl), h]; rfl
  | none => rw [lines_fillLine h, if_pos ⟨rfl, rfl⟩]; rfl

/-- The bytes of the line itself are seen as before. -/
theorem seen_fillLine_self (s : State) (cu a : Nat) : (s.fillLine cu (a / 64)).seen cu a = s.seen cu a := by
  cases h : (s.cu cu).line? (a / 64) with
  | some l => rw [fillLine_of_some (by rw [h]; rfl)]
  | none =>
    obtain ⟨h1, h2⟩ := makeRoom_line h
    rw [seen_fillLine h, seen_of_none h1, h2 a rfl, seen_of_none h]

/-- With room, no byte changes in any view or home. -/
theorem fillLine_room {s : State} {cu a : Nat} (h : s.viewRoom cu (.phys a)) :
    (s.fillLine cu (a / 64)).phys = s.phys ∧ ∀ k b, (s.fillLine cu (a / 64)).seen k b = s.seen k b := by
  cases hl : (s.cu cu).line? (a / 64) with
  | some l => rw [fillLine_of_some (by rw [hl]; rfl)]; exact ⟨rfl, fun _ _ => rfl⟩
  | none =>
    have hr : s.makeRoom cu = s := by
      rcases h a rfl with h1 | h1
      · rw [hl] at h1; cases h1
      · exact if_pos h1
    simp only [phys_fillLine hl, seen_fillLine hl, hr]; exact ⟨trivial, fun _ _ => trivial⟩

end Sys2Proof.Machine
end

section
/-!
Proofs: loads (R170, R178): what touching a place changes, and what the accesses of one operation to one place leave of the operation.
-/
namespace Sys2Proof.Machine

/-! ## Bytes at every place -/

theorem homeBytes_of_rest {s t : State} (h : { t with phys := s.phys, cus := s.cus } = s) (p : Place) (n : Nat) (hp : ∀ a, p ≠ .phys a) : t.homeBytes p n = s.homeBytes p n := by
  cases p with
  | phys a => exact absurd rfl (hp a)
  | common o => rw [← h]; rfl
  | scratch u o => rw [← h]; rfl

theorem viewBytes_eq_homeBytes (s : State) (cu : Nat) (p : Place) (n : Nat) (hp : ∀ a, p ≠ .phys a) : s.viewBytes cu p n = s.homeBytes p n := by
  cases p with
  | phys a => exact absurd rfl (hp a)
  | common o => rfl
  | scratch u o => rfl

/-- A line that was given up keeps every byte as R177 and R178 allow. -/
theorem GaveUp.kept {s t : State} {cu : Nat} (h : GaveUp s t cu) (k : Nat) (p : Place) : HomeKept s t cu p ∧ ViewKept s t k p := by
  cases p with
  | phys a =>
    simp only [HomeKept, ViewKept, viewBytes_one, homeBytes_one, List.cons.injEq, and_true]
    refine ⟨(h.home a).imp id ?_, h.view k a⟩
    rintro ⟨x, h1, h2, h3, h4⟩
    exact ⟨a, x, rfl, h1, h2, h3, h4⟩
  | common o => exact ⟨.inl (homeBytes_of_rest h.rest _ _ nofun), .inl (homeBytes_of_rest h.rest (.common o) 1 nofun)⟩
  | scratch u o => exact ⟨.inl (homeBytes_of_rest h.rest _ _ nofun), .inl (homeBytes_of_rest h.rest (.scratch u o) 1 nofun)⟩

/-- Two states with one physical memory and one view in every CU, and else alike, show the same bytes. -/
theorem bytes_same {s t : State} (hp : t.phys = s.phys) (hv : ∀ k a, t.seen k a = s.seen k a) (hr : { t with phys := s.phys, cus := s.cus } = s) (k : Nat) (p : Place) :
    t.homeBytes p 1 = s.homeBytes p 1 ∧ t.viewBytes k p 1 = s.viewBytes k p 1 := by
  cases p with
  | phys a => simp only [viewBytes_one, homeBytes_one, hp, hv]; exact ⟨trivial, trivial⟩
  | common o => exact ⟨homeBytes_of_rest hr _ _ nofun, homeBytes_of_rest hr (.common o) 1 nofun⟩
  | scratch u o => exact ⟨homeBytes_of_rest hr _ _ nofun, homeBytes_of_rest hr (.scratch u o) 1 nofun⟩

/-! ## A load touches its place (R178) -/

/-- The CU holds the line of a place, if the place has one. -/
def State.holds (s : State) (cu : Nat) (p : Place) : Prop := ∀ a, p = .phys a → ((s.cu cu).line? (a / 64)).isSome = true

theorem holds_viewRoom {s : State} {cu : Nat} {p : Place} (h : s.holds cu p) : s.viewRoom cu p := fun a e => .inl (h a e)

theorem touch_gaveUp (s : State) (cu : Nat) (p : Place) : GaveUp s (s.touch cu p) cu := by
  cases p with
  | phys a => exact fillLine_gaveUp s cu (a / 64)
  | common o => exact .refl s cu
  | scratch u o => exact .refl s cu

theorem touch_holds (s : State) (cu : Nat) (p : Place) : (s.touch cu p).holds cu p := by
  rintro a rfl; exact fillLine_holds s cu (a / 64)

theorem touch_held {s : State} {cu : Nat} {p : Place} (h : s.holds cu p) : s.touch cu p = s := by
  cases p with
  | phys a => exact fillLine_of_some (h a rfl)
  | common o => rfl
  | scratch u o => rfl

theorem touch_room {s : State} {cu : Nat} {p : Place} (h : s.viewRoom cu p) (k : Nat) (q : Place) :
    (s.touch cu p).homeBytes q 1 = s.homeBytes q 1 ∧ (s.touch cu p).viewBytes k q 1 = s.viewBytes k q 1 := by
  cases p with
  | phys a => exact bytes_same (fillLine_room h).1 (fillLine_room h).2 (fillLine_gaveUp s cu (a / 64)).rest k q
  | common o => exact ⟨rfl, rfl⟩
  | scratch u o => exact ⟨rfl, rfl⟩

/-- The bytes at the place, which one line holds, are seen as before. -/
theorem viewBytes_touch (s : State) (cu : Nat) (p : Place) (n : Nat) (h : ∀ a, p = .phys a → a % 64 + n ≤ 64) : (s.touch cu p).viewBytes cu p n = s.viewBytes cu p n := by
  cases p with
  | phys a =>
    rw [viewBytes_phys _ _ _ _ (h a rfl), viewBytes_phys _ _ _ _ (h a rfl)]
    refine List.map_congr_left fun i hi => ?_
    have := h a rfl
    have := List.mem_range.mp hi
    have e := seen_fillLine_self s cu (a + i)
    rwa [show (a + i) / 64 = a / 64 by omega] at e
  | common o => rfl
  | scratch u o => rfl

theorem gangs_touch (s : State) (cu : Nat) (p : Place) : (s.touch cu p).gangs = s.gangs := by
  have h := congrArg State.gangs (touch_gaveUp s cu p).rest
  exact h
theorem teams_touch (s : State) (cu : Nat) (p : Place) : (s.touch cu p).teams = s.teams := by
  have h := congrArg State.teams (touch_gaveUp s cu p).rest
  exact h

/-! ## The access of an operation -/

theorem cuOf_teams {s t : State} (h : t.teams = s.teams) (g : Gang) : t.cuOf g = s.cuOf g := by simp only [State.cuOf, State.teamOf, State.team?, h]

theorem onGang_onGang (s : State) (i : Nat) (f h : Gang → Gang) (hf : ∀ g, (f g).id = g.id) : (s.onGang i f).onGang i h = s.onGang i fun g => h (f g) := by
  simp only [State.onGang, List.map_map]
  congr 1
  refine List.map_congr_left fun g _ => ?_
  by_cases e : g.id = i <;> simp [e, hf]

theorem onGang_id (s : State) (i : Nat) : (s.onGang i fun g => g) = s := by simp [State.onGang]

theorem foldl_onGang {α : Type} (s : State) (i : Nat) (f : α → Gang → Gang) (hf : ∀ x g, (f x g).id = g.id) (L : List α) :
    L.foldl (fun t x => t.onGang i (f x)) s = s.onGang i fun g => L.foldl (fun g x => f x g) g := by
  induction L generalizing s with
  | nil => exact (onGang_id s i).symm
  | cons x r ih => rw [List.foldl_cons, ih, onGang_onGang _ _ _ _ (hf x)]; rfl

theorem gang?_onGang {s : State} {i : Nat} {g : Gang} (f : Gang → Gang) (hf : ∀ g, (f g).id = g.id) (h : s.gang? i = some g) : (s.onGang i f).gang? i = some (f g) := by
  have e : ((fun x : Gang => decide (x.id = i)) ∘ fun x => if x.id = i then f x else x) = fun x => decide (x.id = i) := by
    funext x; simp only [Function.comp]; split <;> simp [hf]
  simp only [State.gang?, State.onGang, List.find?_map, e] at h ⊢
  have hi : g.id = i := gang?_id s i g h
  simp [h, hi]

theorem op?_mapOp {g : Gang} {i : Nat} {o : Op} (f : Op → Op) (hf : ∀ o, (f o).id = o.id) (h : g.op? i = some o) : (g.mapOp i f).op? i = some (f o) := by
  have e : ((fun x : Op => decide (x.id = i)) ∘ fun x => if x.id = i then f x else x) = fun x => decide (x.id = i) := by
    funext x; simp only [Function.comp]; split <;> simp [hf]
  simp only [Gang.op?, Gang.mapOp, List.find?_map, e] at h ⊢
  have hi : o.id = i := by have := List.find?_some h; simpa using this
  simp [h, hi]

theorem op?_of_gang {s : State} {g : Gang} {i j : Nat} {o : Op} (hg : s.gang? i = some g) (ho : g.op? j = some o) : s.op? i j = some (g, o) := by simp [State.op?, hg, ho]

theorem accessDone_id (g : Gang) (o i : Nat) (land : List Landing) : (g.accessDone o i land).id = g.id := rfl

theorem accessDones_id (i : Nat) (land : Access × Nat → List Landing) (L : List (Access × Nat)) (g : Gang) :
    (L.foldl (fun g x => g.accessDone i x.2 (land x)) g).id = g.id :=
  foldl_keeps (fun h : Gang => h.id = g.id) (fun g x => g.accessDone i x.2 (land x)) (fun _ _ e => e) L g rfl

theorem mapFrom_getElem? {α : Type} (f : Nat → α → α) (n : Nat) (xs : List α) (i : Nat) : (mapFrom f n xs)[i]? = xs[i]?.map (f (n + i)) := by
  induction xs generalizing n i with
  | nil => simp [mapFrom]
  | cons x r ih =>
    cases i with
    | zero => simp [mapFrom]
    | succ i => simp [mapFrom, ih, Nat.add_assoc, Nat.add_comm 1]

/-- Accesses performed one after another leave the results of all of them to land, and mark each of them. -/
theorem op?_accessDones {k : MemKind} (i : Nat) (land : Access × Nat → List Landing) (L : List (Access × Nat)) (g : Gang) (o : Op) (accs : List Access) (h : g.op? i = some o)
    (hb : o.body = .mem k accs) :
    ∃ q accs', (L.foldl (fun g x => g.accessDone i x.2 (land x)) g).op? i = some q ∧ q.land = o.land ++ (L.map land).flatten ∧ q.body = .mem k accs' ∧
      ∀ j : Nat, accs'[j]? = accs[j]?.map fun b => if j ∈ L.map Prod.snd then { b with done := true } else b := by
  induction L generalizing g o accs with
  | nil => exact ⟨o, accs, h, by simp, hb, fun j => by simp⟩
  | cons x r ih =>
    have h1 := op?_mapOp (fun y : Op => match y.body with
      | .mem k accs => { y with land := y.land ++ land x, body := .mem k (mapFrom (fun j a => if j = x.2 then { a with done := true } else a) 0 accs) }
      | _ => y) (fun y => by split <;> rfl) h
    simp only [hb] at h1
    obtain ⟨q, accs', e1, e2, e3, e4⟩ := ih (g.accessDone i x.2 (land x)) _ _ h1 rfl
    refine ⟨q, accs', e1, by rw [e2]; simp, e3, fun j => ?_⟩
    rw [e4, mapFrom_getElem?, Option.map_map]
    congr 1
    funext b
    by_cases h2 : j = x.2 <;> by_cases h3 : j ∈ r.map Prod.snd <;> simp [h2, h3]

theorem mem_samePlace {accs : List Access} {a b : Access} {j : Nat} : (b, j) ∈ samePlace accs a ↔ accs[j]? = some b ∧ b.done = false ∧ b.place = a.place := by
  rw [samePlace, List.mem_filter, List.range_eq_range', ← List.zipIdx_eq_zip_range', List.mem_zipIdx_iff_getElem?]
  simp

/-- The accesses of one place, marked: those that were done before are marked already. -/
theorem marked_samePlace {accs : List Access} {a b : Access} {j : Nat} (h : accs[j]? = some b) :
    (if j ∈ (samePlace accs a).map Prod.snd then { b with done := true } else b) = if b.place = a.place then { b with done := true } else b := by
  have e : j ∈ (samePlace accs a).map Prod.snd ↔ b.done = false ∧ b.place = a.place := by
    simp only [List.mem_map, Prod.exists, exists_eq_right]
    constructor
    · rintro ⟨c, hc⟩
      obtain ⟨h1, h2⟩ := mem_samePlace.mp hc
      rw [h] at h1; cases h1; exact h2
    · rintro h2; exact ⟨b, mem_samePlace.mpr ⟨h, h2⟩⟩
  simp only [e]
  by_cases hd : b.done = true
  · have : { b with done := true } = b := by rw [← hd]
    simp [this]
  · simp [hd]

/-! ## The accesses of a load to one place (R170, R178) -/

variable {s : State} {g : Gang} {o : Op} {k : MemKind} {accs : List Access} {a : Access} {i : Nat}

theorem mayPerformAll_mem (hb : o.body = .mem k accs) (h : s.mayPerformAll g o i a = true) : a.done = false := by
  simp only [State.mayPerformAll, hb, State.mayPerform, Bool.and_eq_true, Bool.not_eq_true'] at h
  exact h.1.1.1.1.1.1.1

theorem own_perform (hg : s.gang? g.id = some g) (ho : g.op? o.id = some o) (hb : o.body = .mem k accs) (hi : accs[i]? = some a) (h : s.mayPerformAll g o i a = true) :
    s.own (.perform g.id o.id i) = some (s.perform g o a) := by
  simp [State.own, State.ownPerform, op?_of_gang hg ho, hb, hi, onlyIf, h]

theorem performOne_load (s : State) (g : Gang) (o : Op) (w i : Nat) (a : Access) : s.performOne g o (.load w) i a =
    (s.touch (s.cuOf g) a.place).onGang g.id fun x => x.accessDone o.id i (landings a (loadWords w (s.viewBytes (s.cuOf g) a.place a.size))) := rfl

/-- Loads of a place whose line the CU holds change only the operation. -/
theorem foldl_load_held (w : Nat) (p : Place) (L : List (Access × Nat)) (s : State) (h : s.holds (s.cuOf g) p) (hL : ∀ x ∈ L, x.1.place = p) :
    L.foldl (fun t x => t.performOne g o (.load w) x.2 x.1) s =
      s.onGang g.id fun h => L.foldl (fun h x => h.accessDone o.id x.2 (landings x.1 (loadWords w (s.viewBytes (s.cuOf g) p x.1.size)))) h := by
  rw [← foldl_onGang s g.id (fun (x : Access × Nat) h => h.accessDone o.id x.2 (landings x.1 (loadWords w (s.viewBytes (s.cuOf g) p x.1.size)))) (fun _ _ => rfl) L]
  induction L generalizing s with
  | nil => rfl
  | cons x r ih =>
    have hx : x.1.place = p := hL x (List.mem_cons_self ..)
    rw [List.foldl_cons, List.foldl_cons, performOne_load, hx, touch_held h, ih (s.onGang g.id _) h fun y hy => hL y (List.mem_cons_of_mem _ hy)]
    simp only [State.onGang, viewBytes_gangs]
    rfl

/-- The accesses of a load to one place: the CU touches the place, and each access takes the bytes that the CU's view held there before. -/
theorem foldl_load (w : Nat) (p : Place) (x : Access × Nat) (r : List (Access × Nat)) (hL : ∀ y ∈ x :: r, y.1.place = p)
    (hn : ∀ n, p = .phys n → ∀ y ∈ x :: r, n % 64 + y.1.size ≤ 64) :
    (x :: r).foldl (fun t x => t.performOne g o (.load w) x.2 x.1) s =
      (s.touch (s.cuOf g) p).onGang g.id fun h =>
        (x :: r).foldl (fun h y => h.accessDone o.id y.2 (landings y.1 (loadWords w (s.viewBytes (s.cuOf g) p y.1.size)))) h := by
  have hx : x.1.place = p := hL x (List.mem_cons_self ..)
  have hc : (s.touch (s.cuOf g) p).cuOf g = s.cuOf g := cuOf_teams (teams_touch _ _ _) g
  have hv : ∀ y ∈ x :: r, (s.touch (s.cuOf g) p).viewBytes (s.cuOf g) p y.1.size = s.viewBytes (s.cuOf g) p y.1.size := fun y hy =>
    viewBytes_touch _ _ _ _ fun n e => hn n e y hy
  have step : (x :: r).foldl (fun t x => t.performOne g o (.load w) x.2 x.1) s =
      (x :: r).foldl (fun t x => t.performOne g o (.load w) x.2 x.1) (s.touch (s.cuOf g) p) := by
    rw [List.foldl_cons, List.foldl_cons, performOne_load, performOne_load, hx, hc, touch_held (touch_holds s (s.cuOf g) p), hv x (List.mem_cons_self ..)]
  rw [step, foldl_load_held w p _ _ (by rw [hc]; exact touch_holds _ _ _) hL, hc]
  congr 1
  funext h
  exact List.foldl_rel (r := Eq) rfl fun y hy h h' e => by rw [hv y hy, e]

end Sys2Proof.Machine
end

section
/-!
Proofs: stores in the CU's view (R170, R177, R178), the registers of a load, and the performance of loads and stores (O27).
-/
namespace Sys2Proof.Machine

variable {s : State} {g : Gang} {o : Op} {k : MemKind} {accs : List Access} {a : Access} {i : Nat}

/-- Bytes that one line holds lie within its 64. -/
theorem within_line {n m : Nat} (h : n / 64 = (n + m - 1) / 64) : n % 64 + m ≤ 64 := by omega

theorem samePlace_ne_nil (hi : accs[i]? = some a) (hd : a.done = false) : samePlace accs a ≠ [] := List.ne_nil_of_mem (mem_samePlace.mpr ⟨hi, hd, rfl⟩)

/-- What performing an access of a load does. -/
theorem perform_load {w : Nat} (hb : o.body = .mem (.load w) accs) (hi : accs[i]? = some a) (h : s.mayPerformAll g o i a = true)
    (hn : ∀ n, a.place = .phys n → ∀ c ∈ accs, c.place = a.place → n / 64 = (n + c.size - 1) / 64) :
    s.perform g o a = (s.touch (s.cuOf g) a.place).onGang g.id fun x =>
      (samePlace accs a).foldl (fun x y => x.accessDone o.id y.2 (landings y.1 (loadWords w (s.viewBytes (s.cuOf g) a.place y.1.size)))) x := by
  have hp : ∀ y ∈ samePlace accs a, accs[y.2]? = some y.1 ∧ y.1.place = a.place := fun y hy => by
    obtain ⟨h1, -, h2⟩ := mem_samePlace.mp hy; exact ⟨h1, h2⟩
  cases hs : samePlace accs a with
  | nil => exact absurd hs (samePlace_ne_nil hi (mayPerformAll_mem hb h))
  | cons x r =>
    rw [hs] at hp
    simp only [State.perform, hb, hs]
    exact foldl_load w a.place x r (fun y hy => (hp y hy).2) fun n e y hy => within_line (hn n e y.1 (List.mem_of_getElem? (hp y hy).1) (hp y hy).2)

/-! ## The registers of a load (R170) -/

theorem toNat_append_byte {w : Nat} (y : BitVec w) (x : Byte) : (y ++ x).toNat = 256 * y.toNat + x.toNat := by
  rw [BitVec.toNat_append, Nat.shiftLeft_eq, Nat.mul_comm, ← Nat.two_pow_add_eq_or_of_lt x.isLt]

theorem ofNat_bytes2 (x y : Byte) : BitVec.ofNat 16 (leNat [x, y]) = y ++ x := by
  refine BitVec.eq_of_toNat_eq ?_
  have := x.isLt; have := y.isLt
  rw [toNat_append_byte, BitVec.toNat_ofNat]
  simp only [leNat]; omega

theorem ofNat_bytes4 (a b c d : Byte) (n : Nat) : BitVec.ofNat 32 (a.toNat + 256 * (b.toNat + 256 * (c.toNat + 256 * (d.toNat + 256 * n)))) = d ++ c ++ b ++ a := by
  refine BitVec.eq_of_toNat_eq ?_
  have := a.isLt; have := b.isLt; have := c.isLt; have := d.isLt
  rw [toNat_append_byte, toNat_append_byte, toNat_append_byte, BitVec.toNat_ofNat]
  omega

theorem loadWords_one (x : Byte) : loadWords 0 [x] = [BitVec.ofInt 32 x.toInt] ∧ loadWords 1 [x] = [BitVec.ofNat 32 x.toNat] := by
  simp [loadWords, leNat, BitVec.signExtend]

theorem loadWords_two (x y : Byte) : loadWords 2 [x, y] = [BitVec.ofInt 32 (y ++ x).toInt] ∧ loadWords 3 [x, y] = [BitVec.ofNat 32 (x.toNat + 256 * y.toNat)] := by
  simp only [loadWords, ofNat_bytes2, BitVec.signExtend]
  simp [leNat]

theorem loadWords_four (a b c d : Byte) : loadWords 4 [a, b, c, d] = [d ++ c ++ b ++ a] := by
  simp only [loadWords, leNat, ofNat_bytes4]

theorem loadWords_eight (a b c d p q r s : Byte) (w : Nat) (h : w = 5 ∨ w = 6) :
    loadWords w [a, b, c, d, p, q, r, s] = [d ++ c ++ b ++ a, s ++ r ++ q ++ p] := by
  have hi : leNat [a, b, c, d, p, q, r, s] / 2 ^ 32 = p.toNat + 256 * (q.toNat + 256 * (r.toNat + 256 * (s.toNat + 256 * 0))) := by
    have := a.isLt; have := b.isLt; have := c.isLt; have := d.isLt
    simp only [leNat]; omega
  rcases h with rfl | rfl <;> simp only [loadWords, hi, ofNat_bytes4] <;> simp only [leNat, ofNat_bytes4]

/-! ## A store in the CU's view (R170, R177, R178) -/

theorem storeOf_length (n : Nat) (vs : List W32) : (storeOf n vs).length = n := leBytes_length _ _

/-- What a store of bytes at a place by a CU leaves. -/
structure Stores (s t : State) (cu : Nat) (p : Place) (bs : List Byte) : Prop where
  shown : t.viewBytes cu p bs.length = bs
  holds : t.holds cu p
  exact : s.viewRoom cu p → ∀ q, overlap q 1 p bs.length = false → t.homeBytes q 1 = s.homeBytes q 1 ∧ ∀ k, t.viewBytes k q 1 = s.viewBytes k q 1
  cached : s.viewRoom cu p → ∀ a, p = .phys a → ∀ q, t.homeBytes q 1 = s.homeBytes q 1 ∧ ∀ k, k ≠ cu → t.viewBytes k q 1 = s.viewBytes k q 1
  kept : ∀ k q, overlap q 1 p bs.length = false → HomeKept s t cu q ∧ ViewKept s t k q
  teams : ∀ u, ((t.team? u).map fun x => (x.id, x.cu)) = (s.team? u).map fun x => (x.id, x.cu)

theorem Stores.trans {s t u : State} {cu : Nat} {p : Place} {bs cs : List Byte} (h : Stores s t cu p bs) (k : Stores t u cu p cs) (e : bs.length = cs.length) :
    Stores s u cu p cs where
  shown := k.shown
  holds := k.holds
  exact hr q hq := by
    obtain ⟨h1, h2⟩ := h.exact hr q (by rw [e]; exact hq)
    obtain ⟨k1, k2⟩ := k.exact (holds_viewRoom h.holds) q hq
    exact ⟨k1.trans h1, fun j => (k2 j).trans (h2 j)⟩
  cached hr a ha q := by
    obtain ⟨h1, h2⟩ := h.cached hr a ha q
    obtain ⟨k1, k2⟩ := k.cached (holds_viewRoom h.holds) a ha q
    exact ⟨k1.trans h1, fun j hj => (k2 j hj).trans (h2 j hj)⟩
  kept j q hq := by
    obtain ⟨k1, k2⟩ := k.exact (holds_viewRoom h.holds) q hq
    obtain ⟨h1, h2⟩ := h.kept j q (by rw [e]; exact hq)
    simp only [HomeKept, ViewKept, k1, k2]; exact ⟨h1, h2⟩
  teams v := (k.teams v).trans (h.teams v)

/-- The bytes seen after a line has been patched. -/
theorem seen_patch (s : State) (cu a : Nat) (d : Bool) (bs : List Byte) (hl : ((s.cu cu).line? (a / 64)).isSome = true) (hn : a % 64 + bs.length ≤ 64) (k b : Nat) :
    (s.onLine cu (a / 64) fun l => l.patch d (a % 64) bs).seen k b = if k = cu ∧ a ≤ b ∧ b < a + bs.length then bs.getD (b - a) 0 else s.seen k b := by
  have hline := cu_onLine s cu (a / 64) (fun l => l.patch d (a % 64) bs) (fun _ => rfl) k (b / 64)
  by_cases h : cu = k ∧ a / 64 = b / 64
  · obtain ⟨rfl, hab⟩ := h
    obtain ⟨l, hl⟩ := Option.isSome_iff_exists.mp hl
    rw [hab] at hl
    rw [if_pos ⟨rfl, hab⟩, hl, Option.map_some] at hline
    rw [seen_of_line hline, seen_of_line hl, byte_patch _ _ _ _ _ (by omega)]
    by_cases hr : a ≤ b ∧ b < a + bs.length
    · rw [if_pos (by omega), if_pos ⟨rfl, hr⟩]; congr 1; omega
    · rw [if_neg (by omega), if_neg fun hh => hr hh.2]
  · rw [if_neg h] at hline
    rw [if_neg (by rintro ⟨h1, h2, h3⟩; exact h ⟨h1.symm, by omega⟩)]
    simp only [State.seen, hline]; rfl

theorem getD_map_range (bs : List Byte) : ((List.range bs.length).map fun i => bs.getD i 0) = bs := by
  refine List.ext_getElem (by simp) fun i h1 h2 => ?_
  simp [List.getD, List.getElem?_eq_getElem h2]

theorem overlap_phys {b a n : Nat} : overlap (.phys b) 1 (.phys a) n = false ↔ ¬(a ≤ b ∧ b < a + n) := by
  simp only [overlap, Bool.and_eq_false_iff, decide_eq_false_iff_not]; omega

/-- A store to physical memory is performed in the CU's view: its bytes are dirty in the CU's line. -/
theorem storeView_phys (s : State) (cu a : Nat) (bs : List Byte) (hn : a % 64 + bs.length ≤ 64) : Stores s (s.storeView cu (.phys a) bs) cu (.phys a) bs := by
  have hg := fillLine_gaveUp s cu (a / 64)
  have hseen := seen_patch (s.fillLine cu (a / 64)) cu a true bs (fillLine_holds s cu (a / 64)) hn
  have hout : ∀ k q, overlap q 1 (.phys a) bs.length = false →
      (s.storeView cu (.phys a) bs).homeBytes q 1 = (s.fillLine cu (a / 64)).homeBytes q 1 ∧
      (s.storeView cu (.phys a) bs).viewBytes k q 1 = (s.fillLine cu (a / 64)).viewBytes k q 1 := by
    intro k q hq
    cases q with
    | phys b =>
      refine ⟨rfl, ?_⟩
      rw [viewBytes_one, viewBytes_one, State.storeView, hseen, if_neg fun h => overlap_phys.mp hq h.2]
    | common o => exact ⟨rfl, rfl⟩
    | scratch u o => exact ⟨rfl, rfl⟩
  refine ⟨?_, ?_, fun hr q hq => ?_, fun hr b hb q => ?_, fun k q hq => ?_, fun u => ?_⟩
  · rw [viewBytes_phys _ _ _ _ hn]
    refine Eq.trans (List.map_congr_left fun i hi => ?_) (getD_map_range bs)
    have := List.mem_range.mp hi
    rw [State.storeView, hseen, if_pos ⟨rfl, by omega, by omega⟩, Nat.add_sub_cancel_left]
  · rintro b hb; cases hb
    rw [State.storeView, cu_onLine _ _ _ (fun l => l.patch true (a % 64) bs) fun _ => rfl]
    simp [fillLine_holds]
  · have hk := touch_room hr
    exact ⟨(hout 0 q hq).1.trans (hk 0 q).1, fun k => (hout k q hq).2.trans (hk k q).2⟩
  · have hk := touch_room hr
    cases q with
    | phys c =>
      refine ⟨(hk 0 (.phys c)).1, fun k hne => ?_⟩
      have := (hk k (.phys c)).2
      rw [viewBytes_one] at this ⊢
      rw [← this, State.storeView, hseen, if_neg fun h => hne h.1]; rfl
    | common o => exact ⟨(hk 0 (.common o)).1, fun k _ => (hk k (.common o)).2⟩
    | scratch u o => exact ⟨(hk 0 (.scratch u o)).1, fun k _ => (hk k (.scratch u o)).2⟩
  · obtain ⟨h1, h2⟩ := hg.kept k q
    obtain ⟨e1, e2⟩ := hout k q hq
    simp only [HomeKept, ViewKept, e1, e2]; exact ⟨h1, h2⟩
  · have h := congrArg State.teams hg.rest
    replace h : (s.storeView cu (.phys a) bs).teams = s.teams := h
    simp only [State.team?, h]

theorem homeBytes_common_storeHome (s : State) (o : Nat) (bs : List Byte) : (s.storeHome (.common o) bs).homeBytes (.common o) bs.length = bs := bytesAt_storeBytes _ _ _

/-- A store to common memory acts at the home. -/
theorem storeView_common (s : State) (cu o : Nat) (bs : List Byte) : Stores s (s.storeView cu (.common o) bs) cu (.common o) bs := by
  have hout : ∀ q, overlap q 1 (.common o) bs.length = false → (s.storeHome (.common o) bs).homeBytes q 1 = s.homeBytes q 1 := by
    intro q hq
    cases q with
    | phys b => rfl
    | common b =>
      refine bytesAt_congr _ _ _ _ fun j h1 h2 => ?_
      simp only [overlap, Bool.and_eq_false_iff, decide_eq_false_iff_not] at hq
      exact (look_storeBytes _ _ _ _).trans (if_neg (by omega))
    | scratch u b => rfl
  have hview : ∀ k q, overlap q 1 (.common o) bs.length = false → (s.storeHome (.common o) bs).viewBytes k q 1 = s.viewBytes k q 1 := by
    intro k q hq
    cases q with
    | phys b => rfl
    | common b => exact hout _ hq
    | scratch u b => rfl
  exact ⟨homeBytes_common_storeHome s o bs, nofun, fun _ q hq => ⟨hout q hq, fun k => hview k q hq⟩, nofun,
    fun k q hq => ⟨.inl (hout q hq), .inl (hview k q hq)⟩, fun _ => rfl⟩

theorem team?_onTeam (s : State) (t : Nat) (f : Team → Team) (hf : ∀ x, (f x).id = x.id) (u : Nat) :
    (s.onTeam t f).team? u = if u = t then (s.team? u).map f else s.team? u := by
  have e : ((fun x : Team => decide (x.id = u)) ∘ fun x => if x.id = t then f x else x) = fun x => decide (x.id = u) := by
    funext x; simp only [Function.comp]; split <;> simp [hf]
  simp only [State.team?, State.onTeam, List.find?_map, e]
  cases h : s.teams.find? fun x => decide (x.id = u) with
  | none => simp
  | some x =>
    have : x.id = u := by have := List.find?_some h; simpa using this
    by_cases hu : u = t <;> simp [this, hu]

/-- A store to scratch acts at the home. -/
theorem storeView_scratch (s : State) (cu t o : Nat) (bs : List Byte) (ht : (s.team? t).isSome = true) : Stores s (s.storeView cu (.scratch t o) bs) cu (.scratch t o) bs := by
  have hteam := team?_onTeam s t (fun x => { x with scratch := storeBytes x.scratch o bs }) (fun _ => rfl)
  obtain ⟨x, hx⟩ := Option.isSome_iff_exists.mp ht
  have hout : ∀ q, overlap q 1 (.scratch t o) bs.length = false → (s.storeHome (.scratch t o) bs).homeBytes q 1 = s.homeBytes q 1 := by
    intro q hq
    cases q with
    | phys b => rfl
    | common b => rfl
    | scratch u b =>
      simp only [State.homeBytes, State.storeHome, hteam]
      by_cases hu : u = t
      · subst hu
        rw [if_pos rfl, hx]
        refine bytesAt_congr _ _ _ _ fun j h1 h2 => ?_
        simp only [overlap, decide_true, Bool.true_and, Bool.and_eq_false_iff, decide_eq_false_iff_not] at hq
        exact (look_storeBytes _ _ _ _).trans (if_neg (by omega))
      · rw [if_neg hu]
  have hview : ∀ k q, overlap q 1 (.scratch t o) bs.length = false → (s.storeHome (.scratch t o) bs).viewBytes k q 1 = s.viewBytes k q 1 := by
    intro k q hq
    cases q with
    | phys b => rfl
    | common b => rfl
    | scratch u b => exact hout _ hq
  refine ⟨?_, nofun, fun _ q hq => ⟨hout q hq, fun k => hview k q hq⟩, nofun, fun k q hq => ⟨.inl (hout q hq), .inl (hview k q hq)⟩, fun u => ?_⟩
  · simp only [State.viewBytes, State.storeView, State.homeBytes, State.storeHome, hteam, if_true, hx, Option.map_some]
    exact bytesAt_storeBytes _ _ _
  · simp only [State.storeView, State.storeHome, hteam]
    by_cases hu : u = t <;> simp [hu, Function.comp_def]

theorem storeView_stores (s : State) (cu : Nat) (p : Place) (bs : List Byte) (hn : ∀ a, p = .phys a → a % 64 + bs.length ≤ 64)
    (ht : ∀ t n, p = .scratch t n → (s.team? t).isSome = true) : Stores s (s.storeView cu p bs) cu p bs := by
  cases p with
  | phys a => exact storeView_phys s cu a bs (hn a rfl)
  | common o => exact storeView_common s cu o bs
  | scratch t o => exact storeView_scratch s cu t o bs (ht t o rfl)

theorem Stores.onGang {s t : State} {cu : Nat} {p : Place} {bs : List Byte} (h : Stores s t cu p bs) (j : Nat) (f : Gang → Gang) : Stores s (t.onGang j f) cu p bs := by
  have hv : ∀ k q n, (t.onGang j f).viewBytes k q n = t.viewBytes k q n := fun k q n => viewBytes_gangs t _ k q n
  have hh : ∀ q n, (t.onGang j f).homeBytes q n = t.homeBytes q n := fun q n => homeBytes_gangs t _ q n
  exact ⟨by rw [hv]; exact h.shown, h.holds, by simp only [hv, hh]; exact h.exact, by simp only [hv, hh]; exact h.cached,
    by simp only [HomeKept, ViewKept, hv, hh]; exact h.kept, h.teams⟩

theorem Stores.cuOf {s t : State} {cu : Nat} {p : Place} {bs : List Byte} (h : Stores s t cu p bs) (g : Gang) : t.cuOf g = s.cuOf g := by
  have := h.teams g.team
  simp only [State.cuOf, State.teamOf]
  cases h1 : t.team? g.team <;> cases h2 : s.team? g.team <;> simp_all

theorem Stores.hasTeam {s t : State} {cu : Nat} {p : Place} {bs : List Byte} (h : Stores s t cu p bs) (u : Nat) : (t.team? u).isSome = (s.team? u).isSome := by
  have := congrArg Option.isSome (h.teams u)
  simpa using this

/-- The accesses of a store to one place, one after another: the last one's bytes stay. -/
theorem foldl_store {p : Place} {n : Nat} {b : Access × Nat} (L : List (Access × Nat)) (s : State) (hb : L.getLast? = some b)
    (hL : ∀ x ∈ L, x.1.place = p ∧ x.1.size = n) (hn : ∀ a, p = .phys a → a % 64 + n ≤ 64) (ht : ∀ t n, p = .scratch t n → (s.team? t).isSome = true) :
    Stores s (L.foldl (fun t x => t.performOne g o .store x.2 x.1) s) (s.cuOf g) p (storeOf n (b.1.values.getD [])) := by
  induction L generalizing s with
  | nil => cases hb
  | cons x r ih =>
    obtain ⟨hp, hsz⟩ := hL x (List.mem_cons_self ..)
    have h1 : Stores s (s.performOne g o .store x.2 x.1) (s.cuOf g) p (storeOf n (x.1.values.getD [])) := by
      have := (storeView_stores s (s.cuOf g) p (storeOf n (x.1.values.getD [])) (by simpa only [storeOf_length] using hn) ht).onGang g.id
        fun h => h.accessDone o.id x.2 []
      rw [← hp, ← hsz] at this ⊢; exact this
    rw [List.foldl_cons]
    cases r with
    | nil => cases hb; exact h1
    | cons y r =>
      have h2 := ih (s.performOne g o .store x.2 x.1) (by simpa using hb) (fun z hz => hL z (List.mem_cons_of_mem _ hz)) fun t m e => by
        rw [h1.hasTeam]; exact ht t m e
      rw [h1.cuOf] at h2
      exact h1.trans h2 (by rw [storeOf_length, storeOf_length])

/-- An access of a load is performed. -/
theorem load_performed {w : Nat} (hg : s.gang? g.id = some g) (ho : g.op? o.id = some o) (hb : o.body = .mem (.load w) accs) (hi : accs[i]? = some a)
    (h : s.mayPerformAll g o i a = true) (hn : ∀ n, a.place = .phys n → ∀ c ∈ accs, c.place = a.place → n / 64 = (n + c.size - 1) / 64) :
    ∃ t h q, s.own (.perform g.id o.id i) = some t ∧ t.gang? g.id = some h ∧ h.op? o.id = some q ∧
      q.land = o.land ++ ((samePlace accs a).map fun b =>
        (b.1.dst.zip (loadWords w (s.viewBytes (s.cuOf g) a.place b.1.size))).map fun p => (⟨b.1.lane, p.1, p.2⟩ : Landing)).flatten ∧
      (∃ accs', q.body = .mem (.load w) accs' ∧ ∀ j : Nat, accs'[j]? = accs[j]?.map fun (b : Access) => if b.place = a.place then { b with done := true } else b) ∧
      (s.viewRoom (s.cuOf g) a.place → (∀ cu p, t.viewBytes cu p 1 = s.viewBytes cu p 1) ∧ ∀ p, t.homeBytes p 1 = s.homeBytes p 1) ∧
      (∀ cu p, HomeKept s t (s.cuOf g) p ∧ ViewKept s t cu p) := by
  obtain ⟨q, accs', hq, hland, hbody, hacc⟩ :=
    op?_accessDones o.id (fun y => landings y.1 (loadWords w (s.viewBytes (s.cuOf g) a.place y.1.size))) (samePlace accs a) g o accs ho hb
  have hgang := gang?_onGang (s := s.touch (s.cuOf g) a.place) (i := g.id) (fun x => (samePlace accs a).foldl
    (fun x y => x.accessDone o.id y.2 (landings y.1 (loadWords w (s.viewBytes (s.cuOf g) a.place y.1.size)))) x)
    (accessDones_id o.id (fun y => landings y.1 (loadWords w (s.viewBytes (s.cuOf g) a.place y.1.size))) _) (by rw [State.gang?, gangs_touch]; exact hg)
  refine ⟨_, _, q, own_perform hg ho hb hi h, by rw [perform_load hb hi h hn]; exact hgang, hq, hland, ⟨accs', hbody, fun j => ?_⟩, fun hr => ?_, fun cu p => ?_⟩
  · rw [hacc]
    cases hj : accs[j]? with
    | none => rfl
    | some b => exact congrArg some (marked_samePlace hj)
  · rw [perform_load hb hi h hn]
    exact ⟨fun cu p => (viewBytes_gangs _ _ cu p 1).trans (touch_room hr cu p).2, fun p => (homeBytes_gangs _ _ p 1).trans (touch_room hr 0 p).1⟩
  · obtain ⟨h1, h2⟩ := (touch_gaveUp s (s.cuOf g) a.place).kept cu p
    rw [perform_load hb hi h hn]
    simp only [HomeKept, ViewKept, State.onGang, viewBytes_gangs, homeBytes_gangs]
    exact ⟨h1, h2⟩

/-- An access of a store is performed. -/
theorem store_performed {n : Nat} {b : Access} {vs : List W32} (hg : s.gang? g.id = some g) (ho : g.op? o.id = some o) (hb : o.body = .mem .store accs)
    (hi : accs[i]? = some a) (h : s.mayPerformAll g o i a = true) (hl : (samePlace accs a).getLast? = some (b, n)) (hv : b.values = some vs)
    (hsz : ∀ c ∈ accs, c.place = a.place → c.size = a.size) (hn : ∀ n, a.place = .phys n → n / 64 = (n + a.size - 1) / 64)
    (ht : ∀ t n, a.place = .scratch t n → (s.team? t).isSome = true) :
    ∃ t, s.own (.perform g.id o.id i) = some t ∧ Stores s t (s.cuOf g) a.place (storeOf a.size vs) := by
  refine ⟨_, own_perform hg ho hb hi h, ?_⟩
  have hs := foldl_store (g := g) (o := o) (samePlace accs a) s hl (fun x hx => ?_) (fun m e => within_line (hn m e)) ht
  · simp only [hv, Option.getD_some] at hs
    simp only [State.perform, hb]
    exact hs
  · obtain ⟨h1, -, h2⟩ := mem_samePlace.mp hx
    exact ⟨h2, hsz x.1 (List.mem_of_getElem? h1) h2⟩

end Sys2Proof.Machine

namespace Sys2Proof
open Machine

/-- Settles O27: the loads of one place change nothing but the operation and, where the CU must take the line in, which lines it holds; the stores of one
place leave the bytes of the last one in the CU's view, line by line. -/
theorem accessPerforms : Obligations.AccessPerforms := by
  refine ⟨⟨fun s g o w i accs a hg ho hb hi h hn => load_performed hg ho hb hi h hn, loadWords_one, loadWords_two, loadWords_four, loadWords_eight⟩, ?_⟩
  intro s g o i n accs a b vs hg ho hb hi h hl hv hsz hn ht _
  obtain ⟨t, e, hs⟩ := store_performed hg ho hb hi h hl hv hsz hn ht
  have hlen := storeOf_length a.size vs
  refine ⟨t, e, by simpa only [hlen] using hs.shown, fun hr => ⟨fun p hp => (hs.exact hr p (hlen.symm ▸ hp)).2 _, fun m hm => ?_⟩, fun cu p hp => hs.kept cu p (hlen.symm ▸ hp)⟩
  exact ⟨fun p => (hs.cached hr m hm p).1, fun cu p hne => (hs.cached hr m hm p).2 cu hne⟩

end Sys2Proof
end

section
/-!
Proofs: page-table walks (R169): what a walk answers when W and X bits of entries alone differ, and where its entries stand.
-/
namespace Sys2Proof.Machine

/-! ## Page-table entries (R336) -/

theorem getLsbD_read64 (m : List Host.Cell) (a k : Nat) : (read64 m a).getLsbD k = (decide (k < 64) && (look m (a + k / 8)).getLsbD (k % 8)) := by
  rw [read64, readNat, BitVec.getLsbD_ofNat, testBit_leNat, bytesAt_eq_map]
  by_cases h : k < 64
  · simp [h, show k / 8 < 8 by omega, List.getD]
  · simp [h]

theorem testBit_fld {w : Nat} (x : BitVec w) (hi lo i : Nat) : (fld x hi lo).testBit i = (decide (i < hi + 1 - lo) && x.getLsbD (lo + i)) := by
  rw [fld, Nat.testBit_mod_two_pow, ← Nat.shiftRight_eq_div_pow, Nat.testBit_shiftRight]; rfl

theorem fld_congr {w : Nat} {x y : BitVec w} {hi lo : Nat} (h : ∀ i, lo ≤ i → i ≤ hi → y.getLsbD i = x.getLsbD i) : fld y hi lo = fld x hi lo := by
  refine Nat.eq_of_testBit_eq fun i => ?_
  rw [testBit_fld, testBit_fld]
  by_cases hi' : i < hi + 1 - lo
  · rw [h _ (by omega) (by omega)]
  · simp [hi']

/-- Two page-table entries that a read walk does not tell apart: they differ at most in W and X, and only where they map a page. -/
structure EntryAlike (x y : W64) : Prop where
  table : x.getLsbD 7 = false → y = x
  bits : ∀ i, i ≠ 1 → i ≠ 2 → y.getLsbD i = x.getLsbD i

theorem EntryAlike.fld {x y : W64} (h : EntryAlike x y) (hi lo : Nat) (hl : 3 ≤ lo) : fld y hi lo = fld x hi lo := fld_congr fun i h1 _ => h.bits i (by omega) (by omega)

theorem EntryAlike.malformed {x y : W64} (h : EntryAlike x y) (lvl : Nat) : malformed y lvl = malformed x lvl := by
  by_cases h7 : x.getLsbD 7 = true
  · have h7' : y.getLsbD 7 = true := (h.bits 7 (by omega) (by omega)).trans h7
    unfold Machine.malformed pteAddr
    rw [h7, h7', h.fld 63 46 (by omega), h.fld 12 8 (by omega), h.fld 45 13 (by omega), h.bits 3 (by omega) (by omega)]
    rfl
  · rw [h.table (Bool.eq_false_iff.mpr h7)]

/-! ## Walks that read alike (R337) -/

/-- Two states in which every walk for a read finds the same: their page-table entries differ at most as `EntryAlike` says. -/
structure ReadsAlike (s t : State) : Prop where
  base : t.ptbase = s.ptbase
  errors : t.poisoned = s.poisoned
  retrains : t.hbmStacks = s.hbmStacks
  bytes : ∀ a, look t.phys a = look s.phys a ∨
    a % 8 = 0 ∧ (look s.phys a).getLsbD 7 = true ∧ ∀ i, i ≠ 1 → i ≠ 2 → (look t.phys a).getLsbD i = (look s.phys a).getLsbD i

theorem ReadsAlike.refl (s : State) : ReadsAlike s s := ⟨rfl, rfl, rfl, fun _ => .inl rfl⟩

theorem ReadsAlike.accessible {s t : State} (h : ReadsAlike s t) (p : Place) (n : Nat) : t.accessible p n = s.accessible p n := by
  simp only [State.accessible, h.errors, h.retrains]

theorem ReadsAlike.entry {s t : State} (h : ReadsAlike s t) {a : Nat} (ha : a % 8 = 0) : EntryAlike (read64 s.phys a) (read64 t.phys a) := by
  have hrest : ∀ k, 8 ≤ k → (read64 t.phys a).getLsbD k = (read64 s.phys a).getLsbD k := by
    intro k hk
    rw [getLsbD_read64, getLsbD_read64]
    by_cases hk2 : k < 64
    · rcases h.bytes (a + k / 8) with e | ⟨e, -⟩
      · rw [e]
      · omega
    · simp [hk2]
  have hlow : ∀ (m : List Host.Cell) k, k < 8 → (read64 m a).getLsbD k = (look m a).getLsbD k := by
    intro m k hk
    rw [getLsbD_read64, Nat.div_eq_of_lt hk, Nat.mod_eq_of_lt hk]; simp [show k < 64 by omega]
  refine ⟨fun h7 => BitVec.eq_of_getLsbD_eq fun k _ => ?_, fun k h1 h2 => ?_⟩
  · by_cases hk : 8 ≤ k
    · exact hrest k hk
    · rw [hlow _ k (by omega), hlow _ k (by omega)]
      rcases h.bytes a with e | ⟨-, e, -⟩
      · rw [e]
      · rw [hlow _ 7 (by omega), e] at h7; cases h7
  · by_cases hk : 8 ≤ k
    · exact hrest k hk
    · rw [hlow _ k (by omega), hlow _ k (by omega)]
      rcases h.bytes a with e | ⟨-, -, e⟩
      · rw [e]
      · exact e k h1 h2

theorem walkFrom_alike {s t : State} (h : ReadsAlike s t) (va : Nat) (lvls : List Nat) (tb : Nat) (ht : tb % 8 = 0) :
    t.walkFrom va .read lvls tb = s.walkFrom va .read lvls tb := by
  induction lvls generalizing tb with
  | nil => rfl
  | cons lvl rest ih =>
    have he := h.entry (a := tb + 8 * (va / pageSize lvl % 1024)) (by omega)
    have hp : pteAddr (read64 t.phys (tb + 8 * (va / pageSize lvl % 1024))) = pteAddr (read64 s.phys (tb + 8 * (va / pageSize lvl % 1024))) := by
      simp only [pteAddr, he.fld 45 13 (by omega)]
    have hnext : ∀ e : W64, t.walkFrom va .read rest (pteAddr e) = s.walkFrom va .read rest (pteAddr e) := fun e => ih _ (by simp only [pteAddr]; omega)
    simp only [State.walkFrom, h.accessible, he.malformed, hp, hnext, he.bits 0 (by omega) (by omega), he.bits 4 (by omega) (by omega), he.bits 7 (by omega) (by omega),
      reduceCtorEq, false_and, if_false]

/-- A walk for a read finds the same in both states. -/
theorem walk_alike {s t : State} (h : ReadsAlike s t) (hb : s.ptbase.toNat % 8 = 0) (asid : BitVec 8) (va : Nat) : t.walk asid va .read = s.walk asid va .read := by
  have he := h.entry (a := s.ptbase.toNat + 8 * asid.toNat) (by omega)
  have hw : ∀ e : W64, t.walkFrom (va % 2 ^ 56) .read [1, 2, 3, 4] (pteAddr e) = s.walkFrom (va % 2 ^ 56) .read [1, 2, 3, 4] (pteAddr e) := fun e =>
    walkFrom_alike h _ _ _ (by simp only [pteAddr]; omega)
  simp only [State.walk, h.base, h.accessible, hw]
  by_cases h7 : (read64 s.phys (s.ptbase.toNat + 8 * asid.toNat)).getLsbD 7 = true
  · have hbad : ∀ e : W64, e.getLsbD 7 = true → decide (fld e 12 1 ≠ 0) = true := by
      intro e h7
      refine decide_eq_true fun h0 => ?_
      have := testBit_fld e 12 1 6
      rw [h0, h7] at this; simp at this
    simp only [hbad _ h7, hbad _ ((he.bits 7 (by omega) (by omega)).trans h7), Bool.or_true, Bool.true_or, if_true]
  · rw [he.table (Bool.eq_false_iff.mpr h7)]

/-- A walk that ends in a page ends at an entry that maps one. -/
theorem walkFrom_leaf {s : State} {va : Nat} {k : Kind} {p : Page} (lvls : List Nat) (tb : Nat) (ht : tb % 8 = 0) (h : s.walkFrom va k lvls tb = .page p) :
    p.entry % 8 = 0 ∧ (look s.phys p.entry).getLsbD 7 = true := by
  induction lvls generalizing tb with
  | nil => cases h
  | cons lvl rest ih =>
    simp only [State.walkFrom] at h
    split at h
    · cases h
    split at h
    · cases h
    split at h
    · next h7 =>
      split at h
      · cases h
      split at h
      · cases h
      cases h
      refine ⟨by dsimp only; omega, ?_⟩
      rw [getLsbD_read64] at h7; simpa using h7
    · exact ih _ (by simp only [pteAddr]; omega) h

theorem walk_leaf {s : State} {asid : BitVec 8} {va : Nat} {k : Kind} {p : Page} (h : s.walk asid va k = .page p) :
    p.entry % 8 = 0 ∧ (look s.phys p.entry).getLsbD 7 = true := by
  simp only [State.walk] at h
  split at h
  · cases h
  split at h
  · cases h
  split at h
  · cases h
  exact walkFrom_leaf _ _ (by simp only [pteAddr]; omega) h

/-- A walk finds the same for every address of one 64 KiB page. -/
theorem walkFrom_block (s : State) {a b : Nat} (h : a / 65536 = b / 65536) (k : Kind) (lvls : List Nat) (hl : ∀ l ∈ lvls, l ≤ 4) (tb : Nat) :
    s.walkFrom a k lvls tb = s.walkFrom b k lvls tb := by
  induction lvls generalizing tb with
  | nil => rfl
  | cons lvl rest ih =>
    have hp : a / pageSize lvl = b / pageSize lvl := by
      have e : pageSize lvl = 65536 * 2 ^ (40 - 10 * lvl) := by
        have := hl lvl (List.mem_cons_self ..)
        rw [show 65536 = 2 ^ 16 by rfl, ← Nat.pow_add, pageSize]; congr 1; omega
      rw [e, ← Nat.div_div_eq_div_mul, ← Nat.div_div_eq_div_mul, h]
    simp only [State.walkFrom, hp, ih fun l hl' => hl l (List.mem_cons_of_mem _ hl')]

theorem walk_block (s : State) (asid : BitVec 8) {a b : Nat} (h : a / 65536 = b / 65536) (k : Kind) : s.walk asid a k = s.walk asid b k := by
  have hm : a % 2 ^ 56 / 65536 = b % 2 ^ 56 / 65536 := by omega
  simp only [State.walk, walkFrom_block s hm k [1, 2, 3, 4] (by decide)]

end Sys2Proof.Machine
end

section
/-!
Proofs: the span of a segment (R19, R372): what it answers, and the pages that a measurement or a mark changes.
-/
namespace Sys2Proof.Machine

/-! ## Spans (R366, R372) -/

/-- What a span finds when the bytes before it were found. -/
def Span.behind (pas : List Nat) : Span → Span
  | .ok ps => .ok (pas ++ ps)
  | x => x

theorem window_zero (va : W64) : fld va 63 56 = 0 ↔ va.toNat < 2 ^ 56 := by
  have := va.isLt
  simp only [fld]; omega

theorem next_byte (va : W64) (i : Nat) : va + 1 + BitVec.ofNat 64 i = va + BitVec.ofNat 64 (i + 1) := by
  rw [Nat.add_comm i 1, BitVec.ofNat_add, ← BitVec.add_assoc]; rfl

theorem SpanOk.cons {s : State} {asid : BitVec 8} {k : Kind} {va : W64} {n pa : Nat} {pas : List Nat} (h : SpanOk s asid k va (n + 1) (pa :: pas)) :
    (va.toNat < 2 ^ 56 ∧ ∃ tr new, s.engineTranslate asid va.toNat k = .ok pa tr new ∧ (k = .write → tr = false)) ∧ SpanOk s asid k (va + 1) n pas := by
  refine ⟨?_, by simpa using h.length, fun i hi => ?_⟩
  · obtain ⟨h1, pa', tr, new, h2, h3, h4⟩ := h.each 0 (by omega)
    simp only [List.getElem?_cons_zero, Option.some.injEq] at h2
    simp only [BitVec.add_zero] at h1 h3
    exact ⟨h1, tr, new, h2 ▸ h3, h4⟩
  · have := h.each (i + 1) (by omega)
    rwa [List.getElem?_cons_succ, ← next_byte] at this

/-- A span whose first bytes are found goes on behind them. -/
theorem span_behind {s : State} {asid : BitVec 8} {k : Kind} (i m : Nat) {va : W64} {pas : List Nat} (h : SpanOk s asid k va i pas) :
    s.span asid k va (i + m) = (s.span asid k (va + BitVec.ofNat 64 i) m).behind pas := by
  induction i generalizing va pas with
  | zero =>
    have : pas = [] := List.length_eq_zero_iff.mp h.length
    subst this
    rw [Nat.zero_add, show va + BitVec.ofNat 64 0 = va from BitVec.add_zero va]
    cases s.span asid k va m <;> rfl
  | succ i ih =>
    cases pas with
    | nil => exact absurd h.length (by simp)
    | cons pa pas =>
      obtain ⟨⟨h1, tr, new, h2, h3⟩, ht⟩ := h.cons
      have hw : (tr && decide (k = .write)) = false := by
        by_cases hk : k = .write
        · rw [h3 hk]; rfl
        · simp [hk]
      rw [show i + 1 + m = i + m + 1 by omega, State.span, if_neg (by rw [(window_zero va).mpr h1]; simp), h2]
      simp only [hw, Bool.false_eq_true, if_false, ih ht]
      rw [next_byte]
      cases s.span asid k (va + BitVec.ofNat 64 (i + 1)) m <;> rfl

theorem span_ok {s : State} {asid : BitVec 8} {k : Kind} {va : W64} {n : Nat} {pas : List Nat} (h : SpanOk s asid k va n pas) : s.span asid k va n = .ok pas := by
  rw [← Nat.add_zero n, span_behind n 0 h, State.span, Span.behind, List.append_nil]

/-- A span that stops at a byte finds what that byte gives. -/
theorem span_stops {s : State} {asid : BitVec 8} {k : Kind} {va : W64} {n i : Nat} (h : SpanStops s asid k va n i) :
    ∃ pas m, s.span asid k va n = (s.span asid k (va + BitVec.ofNat 64 i) (m + 1)).behind pas := by
  obtain ⟨pas, hp⟩ := h.before
  have hi := h.inside
  obtain ⟨m, rfl⟩ : ∃ m, n = i + (m + 1) := ⟨n - i - 1, by omega⟩
  exact ⟨pas, m, span_behind i (m + 1) hp⟩

theorem span_delays {s : State} {asid : BitVec 8} {k : Kind} {va : W64} {n i : Nat} (h : SpanDelays s asid k va n i) : s.span asid k va n = .wait := by
  obtain ⟨pas, m, e⟩ := span_stops h.stops
  rw [e, State.span, if_neg (by rw [(window_zero _).mpr h.inside]; simp)]
  rcases h.why with hw | ⟨rfl, pa, new, hw⟩ <;> rw [hw] <;> rfl

theorem span_fails {s : State} {asid : BitVec 8} {k : Kind} {va : W64} {n i : Nat} (h : SpanFails s asid k va n i) :
    s.span asid k va n = .bad ∨ ∃ a, s.span asid k va n = .absent a := by
  obtain ⟨pas, m, e⟩ := span_stops h.stops
  rw [e, State.span]
  by_cases hw : fld (va + BitVec.ofNat 64 i) 63 56 = 0
  · rw [if_neg (by rw [hw]; simp)]
    rcases h.why with h1 | h1 | h1
    · exact absurd ((window_zero _).mp hw) (by omega)
    · rw [h1]; exact .inr ⟨_, rfl⟩
    · rw [h1]; exact .inl rfl
  · rw [if_pos hw]; exact .inl rfl

/-- Spans that are read find the same in states that read alike. -/
theorem span_alike {s t : State} (h : ReadsAlike s t) (hb : s.ptbase.toNat % 8 = 0) (asid : BitVec 8) (va : W64) (n : Nat) : t.span asid .read va n = s.span asid .read va n := by
  induction n generalizing va with
  | zero => rfl
  | succ n ih => simp only [State.span, State.engineTranslate, walk_alike h hb, ih]

theorem spanFree_alike {s t : State} (h : ReadsAlike s t) (pas : List Nat) : t.spanFree pas = s.spanFree pas := by
  simp only [State.spanFree, h.accessible]

theorem spanFree_iff {s : State} {pas : List Nat} : s.spanFree pas = true ↔ ∀ a ∈ pas, s.accessible (.phys a) 1 = true := List.all_eq_true

/-! ## The entries that map a span (R372) -/

/-- An entry's byte with bits set and cleared. -/
def remark (on off b : Byte) : Byte := (b ||| on) &&& ~~~off

theorem remark_remark (on off b : Byte) : remark on off (remark on off b) = remark on off b := by
  refine BitVec.eq_of_getLsbD_eq fun i hi => ?_
  simp only [remark, BitVec.getLsbD_and, BitVec.getLsbD_or, BitVec.getLsbD_not, hi, decide_true, Bool.true_and]
  cases b.getLsbD i <;> cases on.getLsbD i <;> cases off.getLsbD i <;> rfl

/-- Bits that a mark of W or X leaves alone. -/
def OnlyWX (m : Byte) : Prop := ∀ i, i ≠ 1 → i ≠ 2 → m.getLsbD i = false

theorem onlyWX_of_lt {m : Byte} (h : m &&& 0xF9 = 0) : OnlyWX m := by
  intro i h1 h2
  by_cases hi : i < 8
  · have hm : ∀ i, i < 8 → i ≠ 1 → i ≠ 2 → (0xF9 : Byte).getLsbD i = true := by decide
    have hz : (m &&& 0xF9).getLsbD i = false := by rw [h]; exact BitVec.getLsbD_zero
    rwa [BitVec.getLsbD_and, hm i hi h1 h2, Bool.and_true] at hz
  · exact BitVec.getLsbD_of_ge _ _ (by omega)

theorem getLsbD_remark {on off : Byte} (h1 : OnlyWX on) (h2 : OnlyWX off) (b : Byte) (i : Nat) (hi1 : i ≠ 1) (hi2 : i ≠ 2) : (remark on off b).getLsbD i = b.getLsbD i := by
  by_cases hi : i < 8
  · rw [remark, BitVec.getLsbD_and, BitVec.getLsbD_or, BitVec.getLsbD_not, h1 i hi1 hi2, h2 i hi1 hi2]; simp [hi]
  · rw [BitVec.getLsbD_of_ge _ _ (by omega), BitVec.getLsbD_of_ge _ _ (by omega)]

/-- Marks the entry that maps one address. -/
def State.markPage (asid : BitVec 8) (on off : Byte) (s : State) (a : Nat) : State :=
  match s.walk asid a .read with
  | .page p => { s with phys := put s.phys p.entry (remark on off (look s.phys p.entry)) }
  | _ => s

theorem markPages_eq (s : State) (asid : BitVec 8) (va : W64) (n : Nat) (on off : Byte) :
    s.markPages asid va n on off = (pageSteps va n).foldl (State.markPage asid on off) s := rfl

/-- The entry `e` maps one of some addresses. -/
def State.maps (s : State) (asid : BitVec 8) (L : List Nat) (e : Nat) : Prop := ∃ a ∈ L, ∃ p, s.walk asid a .read = .page p ∧ p.entry = e

section
variable {s : State} {asid : BitVec 8} {on off : Byte}

theorem markPage_rest (t : State) (a : Nat) : { State.markPage asid on off t a with phys := t.phys } = t := by
  unfold State.markPage; split <;> rfl

theorem markPages_rest (s : State) (va : W64) (n : Nat) : { s.markPages asid va n on off with phys := s.phys } = s := by
  rw [markPages_eq]
  refine foldl_keeps (fun t : State => { t with phys := s.phys } = s) _ (fun t a h => ?_) _ s rfl
  have := congrArg (fun x : State => { x with phys := s.phys }) (markPage_rest (asid := asid) (on := on) (off := off) t a)
  exact Eq.trans this h

/-- What marking one address does in a state that reads as `s` does. -/
theorem markPage_alike (hb : s.ptbase.toNat % 8 = 0) (h1 : OnlyWX on) (h2 : OnlyWX off) {t : State} (h : ReadsAlike s t) (a : Nat) :
    ReadsAlike s (State.markPage asid on off t a) ∧ ∀ e,
      (s.maps asid [a] e → look (State.markPage asid on off t a).phys e = remark on off (look t.phys e)) ∧
      (¬s.maps asid [a] e → look (State.markPage asid on off t a).phys e = look t.phys e) := by
  have hw := walk_alike h hb asid a
  unfold State.markPage
  cases hs : s.walk asid a .read with
  | page p =>
    rw [hs] at hw
    rw [hw]
    obtain ⟨h8, h7⟩ := walk_leaf hs
    refine ⟨⟨h.base, h.errors, h.retrains, fun e => ?_⟩, fun e => ⟨?_, fun hne => ?_⟩⟩
    · simp only [look_put]
      by_cases he : p.entry = e
      · subst he
        rw [if_pos rfl]
        refine .inr ⟨h8, h7, fun i hi1 hi2 => ?_⟩
        rw [getLsbD_remark h1 h2 _ i hi1 hi2]
        rcases h.bytes p.entry with e | ⟨-, -, e⟩
        · rw [e]
        · exact e i hi1 hi2
      · rw [if_neg he]; exact h.bytes e
    · rintro ⟨b, hb', q, hq, rfl⟩
      rw [List.mem_singleton.mp hb', hs] at hq; cases hq
      exact look_put_self _ _ _
    · exact look_put_other _ _ _ _ fun he => hne ⟨a, List.mem_singleton_self a, p, hs, he⟩
  | _ =>
    rw [hs] at hw
    rw [hw]
    refine ⟨h, fun e => ⟨?_, fun _ => rfl⟩⟩
    rintro ⟨b, hb', q, hq, -⟩
    rw [List.mem_singleton.mp hb', hs] at hq; cases hq

theorem foldl_markPage (hb : s.ptbase.toNat % 8 = 0) (h1 : OnlyWX on) (h2 : OnlyWX off) (L : List Nat) {t : State} (h : ReadsAlike s t) :
    ReadsAlike s (L.foldl (State.markPage asid on off) t) ∧ ∀ e,
      (s.maps asid L e → look (L.foldl (State.markPage asid on off) t).phys e = remark on off (look t.phys e)) ∧
      (¬s.maps asid L e → look (L.foldl (State.markPage asid on off) t).phys e = look t.phys e) := by
  induction L generalizing t with
  | nil => exact ⟨h, fun e => ⟨fun ⟨_, ha, _⟩ => (List.not_mem_nil ha).elim, fun _ => rfl⟩⟩
  | cons a r ih =>
    obtain ⟨ha, hbyte⟩ := markPage_alike (asid := asid) hb h1 h2 h a
    obtain ⟨hr, hrest⟩ := ih ha
    refine ⟨hr, fun e => ?_⟩
    have hcons : s.maps asid (a :: r) e ↔ s.maps asid [a] e ∨ s.maps asid r e := by simp [State.maps]
    simp only [List.foldl_cons]
    obtain ⟨b1, b2⟩ := hbyte e
    obtain ⟨r1, r2⟩ := hrest e
    by_cases ea : s.maps asid [a] e <;> by_cases er : s.maps asid r e
    · exact ⟨fun _ => by rw [r1 er, b1 ea, remark_remark], fun hn => absurd (hcons.mpr (.inl ea)) hn⟩
    · exact ⟨fun _ => by rw [r2 er, b1 ea], fun hn => absurd (hcons.mpr (.inl ea)) hn⟩
    · exact ⟨fun _ => by rw [r1 er, b2 ea], fun hn => absurd (hcons.mpr (.inr er)) hn⟩
    · exact ⟨fun hm => absurd (hcons.mp hm) (not_or.mpr ⟨ea, er⟩), fun _ => by rw [r2 er, b2 ea]⟩

end

theorem mem_pageSteps {va : W64} {n b : Nat} : b ∈ pageSteps va n ↔ 0 < n ∧ ∃ i, i < n / 65536 + 2 ∧ b = va.toNat + min (65536 * i) (n - 1) := by
  simp only [pageSteps, List.mem_filter, List.mem_map, List.mem_range, decide_eq_true_eq]
  constructor
  · rintro ⟨⟨i, hi, rfl⟩, h⟩; exact ⟨h, i, hi, rfl⟩
  · rintro ⟨h, i, hi, rfl⟩; exact ⟨⟨i, hi, rfl⟩, h⟩

/-- Every page of a span has an address among its steps, and the steps lie in the span. -/
theorem pageSteps_cover {va : W64} {n i : Nat} (h : i < n) : ∃ b ∈ pageSteps va n, b / 65536 = (va.toNat + i) / 65536 := by
  by_cases hc : (va.toNat + 65536 * (i / 65536)) / 65536 = (va.toNat + i) / 65536
  · exact ⟨_, mem_pageSteps.mpr ⟨by omega, i / 65536, by omega, rfl⟩, by omega⟩
  · exact ⟨_, mem_pageSteps.mpr ⟨by omega, i / 65536 + 1, by omega, rfl⟩, by omega⟩

theorem pageSteps_inside {va : W64} {n b : Nat} (h : b ∈ pageSteps va n) : ∃ i, i < n ∧ b = va.toNat + i := by
  obtain ⟨h0, i, -, rfl⟩ := mem_pageSteps.mp h
  exact ⟨min (65536 * i) (n - 1), by omega, rfl⟩

/-- The entries of a span's pages are marked once each, and nothing else changes. -/
theorem markPages_marked {s m : State} {asid : BitVec 8} {on off : Byte} (hb : m.ptbase.toNat % 8 = 0) (h1 : OnlyWX on) (h2 : OnlyWX off) (hs : ReadsAlike m s)
    (hp : s.phys = m.phys) (hsame : s.common = m.common ∧ s.gangs = m.gangs ∧ s.teams = m.teams) (va : W64) (n : Nat) :
    ReadsAlike m (s.markPages asid va n on off) ∧ Marked m (s.markPages asid va n on off) asid va n (remark on off) := by
  obtain ⟨hr, hbytes⟩ := foldl_markPage (asid := asid) hb h1 h2 (pageSteps va n) hs
  rw [hp] at hbytes
  refine ⟨hr, fun i p hi hw => ?_, fun a ha => ?_, ?_⟩
  · obtain ⟨b, hbs, hblock⟩ := pageSteps_cover (va := va) hi
    exact (hbytes p.entry).1 ⟨b, hbs, p, by rw [walk_block m asid hblock]; exact hw, rfl⟩
  · refine (hbytes a).2 ?_
    rintro ⟨b, hbs, p, hw, he⟩
    obtain ⟨i, hi, rfl⟩ := pageSteps_inside hbs
    exact ha i p hi hw he
  · obtain ⟨e1, e2, e3⟩ := hsame
    have hrest := markPages_rest (asid := asid) (on := on) (off := off) s va n
    have hc := congrArg State.common hrest
    have hg := congrArg State.gangs hrest
    have ht := congrArg State.teams hrest
    exact ⟨Eq.trans hc e1, Eq.trans hg e2, Eq.trans ht e3⟩

/-! ## Every CU drops its view cache (R343, R372) -/

theorem writeBackLine_rest (s t : State) (cu n : Nat) (h : { t with phys := s.phys, cus := s.cus } = s) : { t.writeBackLine cu n with phys := s.phys, cus := s.cus } = s := by
  have := congrArg (fun x : State => { x with phys := s.phys, cus := s.cus }) (rest_writeBackLine t cu n)
  exact Eq.trans this h

theorem writeBack_rest (s t : State) (cu : Nat) (h : { t with phys := s.phys, cus := s.cus } = s) : { t.writeBack cu with phys := s.phys, cus := s.cus } = s :=
  foldl_keeps (fun u : State => { u with phys := s.phys, cus := s.cus } = s) (fun u (l : Line) => u.writeBackLine cu l.line) (fun u _ h => writeBackLine_rest s u cu _ h) _ t h

theorem writtenBack_rest (s : State) : { s.writtenBack with phys := s.phys, cus := s.cus } = s :=
  foldl_keeps (fun u : State => { u with phys := s.phys, cus := s.cus } = s) State.writeBack (fun u cu h => writeBack_rest s u cu h) _ s rfl

/-- A CU after a drop. -/
def Cu.dropped (p : Kept → Bool) (code : Bool) (c : Cu) : Cu :=
  { c with lines := [], kept := c.kept.filter (fun k => !p k), icode := if code then [] else c.icode, badCode := if code then [] else c.badCode }

theorem dropKept_eq (s : State) (p : Kept → Bool) (code : Bool) :
    s.dropKept p code = { s.writtenBack with cus := s.writtenBack.cus.map fun c => (c.1, c.2.dropped p code) } := rfl

theorem entry_map {α β : Type} (f : α → β) (d : α) (m : List (Nat × α)) (k : Nat) : entry (f d) (m.map fun c => (c.1, f c.2)) k = f (entry d m k) := by
  induction m with
  | nil => rfl
  | cons x r ih => simp only [List.map_cons, entry, ih]; split <;> rfl

theorem cu_dropKept (s : State) (p : Kept → Bool) (code : Bool) (c : Nat) : (s.dropKept p code).cu c = (s.writtenBack.cu c).dropped p code := by
  have h0 : ({} : Cu) = ({} : Cu).dropped p code := by cases code <;> rfl
  rw [dropKept_eq, State.cu, h0, entry_map]; rfl

theorem dropKept_dropped {s t : State} {asid : BitVec 8} {va : W64} {n : Nat} {code : Bool} (h : t.cus = (s.dropKept (spanMatches asid va n) code).cus) :
    Dropped t (keptOf asid va n) code := by
  have hc : ∀ c, t.cu c = (s.writtenBack.cu c).dropped (spanMatches asid va n) code := fun c => by rw [← cu_dropKept]; simp only [State.cu, h]
  refine ⟨fun c => by rw [hc]; rfl, fun c k hk => ?_, fun hcode c => by rw [hc, hcode]; rfl⟩
  rw [hc] at hk
  have hm := (List.mem_filter.mp hk).2
  rintro ⟨h1, h2, h3⟩
  simp [spanMatches, h1, h2, h3] at hm

theorem dropKept_alike (s : State) (p : Kept → Bool) (code : Bool) : ReadsAlike s.writtenBack (s.dropKept p code) := ⟨rfl, rfl, rfl, fun _ => .inl rfl⟩

theorem writtenBack_base (s : State) : s.writtenBack.ptbase = s.ptbase := by
  have h := congrArg State.ptbase (writtenBack_rest s)
  exact h

theorem writtenBack_accessible (s : State) (p : Place) (n : Nat) : s.writtenBack.accessible p n = s.accessible p n := by
  have h1 := congrArg State.poisoned (writtenBack_rest s)
  have h2 := congrArg State.hbmStacks (writtenBack_rest s)
  replace h1 : s.writtenBack.poisoned = s.poisoned := h1
  replace h2 : s.writtenBack.hbmStacks = s.hbmStacks := h2
  simp only [State.accessible, h1, h2]

end Sys2Proof.Machine
end

section
/-!
Proofs: the management plane (R19, R22, R355, R357, R372-R374): measurements, marks, power, retrains and errors.
-/
namespace Sys2Proof.Machine

/-! ## Measurements (R19, R372) -/

theorem span_dropKept {s : State} (hb : s.ptbase.toNat % 8 = 0) (p : Kept → Bool) (code : Bool) (asid : BitVec 8) (va : W64) (n : Nat) :
    (s.dropKept p code).span asid .read va n = s.writtenBack.span asid .read va n :=
  span_alike (dropKept_alike s p code) (by rw [writtenBack_base]; exact hb) asid va n

theorem markPages_cus (s : State) (asid : BitVec 8) (va : W64) (n : Nat) (on off : Byte) : (s.markPages asid va n on off).cus = s.cus := by
  have h := congrArg State.cus (markPages_rest (asid := asid) (on := on) (off := off) s va n)
  exact h

theorem markPages_outbox (s : State) (asid : BitVec 8) (va : W64) (n : Nat) (on off : Byte) : (s.markPages asid va n on off).outbox = s.outbox := by
  have h := congrArg State.outbox (markPages_rest (asid := asid) (on := on) (off := off) s va n)
  exact h

theorem markPages_attest (s : State) (asid : BitVec 8) (va : W64) (n : Nat) (on off : Byte) : (s.markPages asid va n on off).attest = s.attest := by
  have h := congrArg State.attest (markPages_rest (asid := asid) (on := on) (off := off) s va n)
  exact h

theorem dropKept_outbox (s : State) (p : Kept → Bool) (code : Bool) : (s.dropKept p code).outbox = s.outbox := by
  have h := congrArg State.outbox (writtenBack_rest s)
  exact h

theorem dropKept_attest (s : State) (p : Kept → Bool) (code : Bool) : (s.dropKept p code).attest = s.attest := by
  have h := congrArg State.attest (writtenBack_rest s)
  exact h

theorem Marked.same_memory {m s t : State} {asid : BitVec 8} {va : W64} {n : Nat} {f : Byte → Byte} (h : Marked m s asid va n f) (hp : t.phys = s.phys)
    (hc : t.common = s.common) (hg : t.gangs = s.gangs) (ht : t.teams = s.teams) : Marked m t asid va n f :=
  ⟨by rw [hp]; exact h.pages, by rw [hp]; exact h.others, by rw [hc, hg, ht]; exact h.same⟩

/-- A segment whose pages are marked once every CU has dropped what it holds of it. -/
theorem markPages_dropKept {s : State} (hb : s.ptbase.toNat % 8 = 0) (p : Kept → Bool) (code : Bool) {on off : Byte} (h1 : OnlyWX on) (h2 : OnlyWX off) (asid : BitVec 8)
    (va : W64) (n : Nat) : ReadsAlike s.writtenBack ((s.dropKept p code).markPages asid va n on off) ∧
      Marked s.writtenBack ((s.dropKept p code).markPages asid va n on off) asid va n (remark on off) :=
  markPages_marked (by rw [writtenBack_base]; exact hb) h1 h2 (dropKept_alike s p code) rfl ⟨rfl, rfl, rfl⟩ va n

theorem remark_clearW : remark 0 0x02 = fun b => b &&& 0xFD := by
  funext b
  rw [remark, show b ||| 0 = b from BitVec.or_zero]; rfl

theorem remark_setX : remark 0x04 0x02 = fun b => b &&& 0xFD ||| 4 := by
  funext b
  refine BitVec.eq_of_getLsbD_eq fun i hi => ?_
  have h : ∀ i, i < 8 → (!(0x02 : Byte).getLsbD i) = (0xFD : Byte).getLsbD i ∧ ((0x04 : Byte).getLsbD i = true → (0xFD : Byte).getLsbD i = true) := by decide
  obtain ⟨e1, e2⟩ := h i hi
  simp only [remark, BitVec.getLsbD_and, BitVec.getLsbD_or, BitVec.getLsbD_not, hi, decide_true, Bool.true_and, e1]
  cases hx : (0x04 : Byte).getLsbD i
  · simp
  · rw [Bool.or_true, e2 hx, Bool.or_true, Bool.true_and]

section
variable {d : Nat} {asid : BitVec 8} {va : W64} {n : Nat} {s : State}

theorem measurementRead_refused (hb : s.ptbase.toNat % 8 = 0) {i : Nat} (h : SpanFails s.writtenBack asid .read va n i) :
    exec (.measurementRead d asid va n) s = .next (s.send (.loadRefused va)) := by
  rw [exec_measurementRead, execMeasurementRead, span_dropKept hb]
  rcases span_fails h with e | ⟨a, e⟩ <;> rw [e]

theorem measurementRead_waits (hb : s.ptbase.toNat % 8 = 0) (h : (∃ i, SpanDelays s.writtenBack asid .read va n i) ∨
    (∃ pas, SpanOk s.writtenBack asid .read va n pas) ∧ s.pagesQuiet (spanMatches asid va n) s.serial = false) :
    exec (.measurementRead d asid va n) s = .fault .notEnabled := by
  rw [exec_measurementRead, execMeasurementRead, span_dropKept hb]
  rcases h with ⟨i, hd⟩ | ⟨⟨pas, ho⟩, hq⟩
  · rw [span_delays hd]
  · simp [span_ok ho, hq]

theorem measurementRead_answers (hb : s.ptbase.toNat % 8 = 0) {pas : List Nat} (ho : SpanOk s.writtenBack asid .read va n pas)
    (hq : s.pagesQuiet (spanMatches asid va n) s.serial = true) (hf : s.allFlushable = true) (ha : ∀ a ∈ pas, s.accessible (.phys a) 1 = true) :
    ∃ t, exec (.measurementRead d asid va n) s = .next t ∧ Marked s.writtenBack t asid va n (fun b => b &&& 0xFD) ∧ Dropped t (keptOf asid va n) false ∧
      t.outbox = s.outbox ++ [.measured (pas.map (look t.phys))] ∧ t.attest = s.attest := by
  obtain ⟨hr, hm⟩ := markPages_dropKept hb (spanMatches asid va n) false (on := 0) (off := 0x02) (onlyWX_of_lt rfl) (onlyWX_of_lt rfl) asid va n
  have hfree : ((s.dropKept (spanMatches asid va n) false).markPages asid va n 0 0x02).spanFree pas = true := by
    rw [spanFree_alike hr, spanFree_iff]; intro a h; rw [writtenBack_accessible]; exact ha a h
  rw [exec_measurementRead, execMeasurementRead, span_dropKept hb, span_ok ho]
  simp only [hq, hf, hfree, Bool.and_self, if_true]
  refine ⟨_, rfl, ?_, dropKept_dropped (markPages_cus _ _ _ _ _ _), ?_, ?_⟩
  · rw [← remark_clearW]; exact hm.same_memory rfl rfl rfl rfl
  · have := (markPages_outbox (s.dropKept (spanMatches asid va n) false) asid va n 0 0x02).trans (dropKept_outbox s _ _)
    exact congrArg (· ++ [_]) this
  · exact (markPages_attest (s.dropKept (spanMatches asid va n) false) asid va n 0 0x02).trans (dropKept_attest s _ _)

end

/-! ## Code that becomes executable (R372) -/

theorem leBytes_eq_map (n v : Nat) : leBytes n v = (List.range n).map fun i => BitVec.ofNat 8 (v / 2 ^ (8 * i)) := by
  induction n generalizing v with
  | zero => rfl
  | succ n ih =>
    rw [leBytes, ih, List.range_succ_eq_map, List.map_cons, List.map_map]
    congr 1
    · simp
    · refine List.map_congr_left fun i _ => ?_
      rw [Function.comp, Nat.succ_eq_add_one, Nat.mul_succ, Nat.pow_add, Nat.mul_comm (2 ^ (8 * i)), ← Nat.div_div_eq_div_mul]

theorem digestBytes_eq (x : BitVec 384) : digestBytes x = bigEndian x := by
  rw [digestBytes, bigBytes, leBytes_eq_map, bigEndian]
  refine List.ext_getElem (by simp) fun i h1 h2 => ?_
  simp only [List.getElem_reverse, List.getElem_map, List.getElem_range, List.length_map, List.length_range]

section
variable {d : Nat} {x : Segment} {s : State}

theorem markExecutable_refused (hb : s.ptbase.toNat % 8 = 0) {i : Nat} (h : SpanFails s.writtenBack x.asid .read x.va x.len i) :
    exec (.markExecutable d x) s = .next (s.send (.loadRefused x.va)) := by
  rw [exec_markExecutable, execMarkExecutable, span_dropKept hb]
  rcases span_fails h with e | ⟨a, e⟩ <;> rw [e]

theorem markExecutable_delayed (hb : s.ptbase.toNat % 8 = 0) {i : Nat} (h : SpanDelays s.writtenBack x.asid .read x.va x.len i) :
    exec (.markExecutable d x) s = .fault .notEnabled := by
  rw [exec_markExecutable, execMarkExecutable, span_dropKept hb, span_delays h]

theorem spanFree_dropKept {pas : List Nat} (p : Kept → Bool) (code : Bool) (ha : ∀ a ∈ pas, s.accessible (.phys a) 1 = true) : (s.dropKept p code).spanFree pas = true := by
  rw [spanFree_alike (dropKept_alike s p code), spanFree_iff]; intro a h; rw [writtenBack_accessible]; exact ha a h

theorem markExecutable_unsigned (hb : s.ptbase.toNat % 8 = 0) {pas : List Nat} (ho : SpanOk s.writtenBack x.asid .read x.va x.len pas)
    (ha : ∀ a ∈ pas, s.accessible (.phys a) 1 = true)
    (h : sha384 (pas.map (look s.writtenBack.phys)) ≠ x.measurement ∨ s.signed x.job (sha384 (pas.map (look s.writtenBack.phys))) x.va x.signature = false) :
    exec (.markExecutable d x) s = .next (s.send (.loadRefused x.va)) := by
  have hf := spanFree_dropKept (spanMatches x.asid x.va x.len) true ha
  have hd : (s.dropKept (spanMatches x.asid x.va x.len) true).phys = s.writtenBack.phys := rfl
  rw [exec_markExecutable, execMarkExecutable, span_dropKept hb, span_ok ho]
  simp only [hf, hd, Bool.not_true, Bool.false_eq_true, if_false]
  rw [if_neg]
  simp only [Bool.and_eq_true, decide_eq_true_eq, not_and, Bool.not_eq_true]
  exact fun e => h.resolve_left (fun hne => hne e)

theorem markExecutable_waits (hb : s.ptbase.toNat % 8 = 0) {pas : List Nat} (ho : SpanOk s.writtenBack x.asid .read x.va x.len pas)
    (ha : ∀ a ∈ pas, s.accessible (.phys a) 1 = true) (hm : sha384 (pas.map (look s.writtenBack.phys)) = x.measurement)
    (hs : s.signed x.job (sha384 (pas.map (look s.writtenBack.phys))) x.va x.signature = true)
    (hq : s.pagesQuiet (spanMatches x.asid x.va x.len) s.serial = false) : exec (.markExecutable d x) s = .fault .notEnabled := by
  have hf := spanFree_dropKept (spanMatches x.asid x.va x.len) true ha
  have hd : (s.dropKept (spanMatches x.asid x.va x.len) true).phys = s.writtenBack.phys := rfl
  rw [exec_markExecutable, execMarkExecutable, span_dropKept hb, span_ok ho]
  simp only [hf, hd, Bool.not_true, Bool.false_eq_true, if_false]
  rw [if_pos (by rw [hs, Bool.and_true]; exact decide_eq_true hm), hq]
  rfl

theorem markExecutable_marks (hb : s.ptbase.toNat % 8 = 0) {pas : List Nat} (ho : SpanOk s.writtenBack x.asid .read x.va x.len pas)
    (ha : ∀ a ∈ pas, s.accessible (.phys a) 1 = true) (hm : sha384 (pas.map (look s.writtenBack.phys)) = x.measurement)
    (hs : s.signed x.job (sha384 (pas.map (look s.writtenBack.phys))) x.va x.signature = true)
    (hq : s.pagesQuiet (spanMatches x.asid x.va x.len) s.serial = true) (hfl : s.allFlushable = true) :
    ∃ t, exec (.markExecutable d x) s = .next t ∧ Marked s.writtenBack t x.asid x.va x.len (fun b => b &&& 0xFD ||| 4) ∧ Dropped t (keptOf x.asid x.va x.len) true ∧
      t.outbox = s.outbox ∧
      entry 0 t.attest x.job.toNat = sha384 (bigEndian (entry 0 s.attest x.job.toNat) ++ bigEndian (sha384 (pas.map (look s.writtenBack.phys)))) ∧
      ∀ k, k ≠ x.job.toNat → entry 0 t.attest k = entry 0 s.attest k := by
  obtain ⟨-, hmark⟩ := markPages_dropKept hb (spanMatches x.asid x.va x.len) true (on := 0x04) (off := 0x02) (onlyWX_of_lt rfl) (onlyWX_of_lt rfl) x.asid x.va x.len
  have hf := spanFree_dropKept (spanMatches x.asid x.va x.len) true ha
  have hd : (s.dropKept (spanMatches x.asid x.va x.len) true).phys = s.writtenBack.phys := rfl
  have hat : ((s.dropKept (spanMatches x.asid x.va x.len) true).markPages x.asid x.va x.len 0x04 0x02).attest = s.attest :=
    (markPages_attest _ _ _ _ _ _).trans (dropKept_attest s _ _)
  rw [exec_markExecutable, execMarkExecutable, span_dropKept hb, span_ok ho]
  simp only [hf, hd, Bool.not_true, Bool.false_eq_true, if_false]
  rw [if_pos (by rw [hs, Bool.and_true]; exact decide_eq_true hm), hq, hfl]
  refine ⟨_, rfl, ?_, dropKept_dropped (markPages_cus _ _ _ _ _ _), ?_, ?_, fun k hk => ?_⟩
  · rw [← remark_setX]; exact hmark.same_memory rfl rfl rfl rfl
  · exact (markPages_outbox _ _ _ _ _ _).trans (dropKept_outbox s _ _)
  · simp only [hat, entry_setEntry, if_true, digestBytes_eq]
  · simp only [hat, entry_setEntry, if_neg (Ne.symm hk)]

end

/-! ## Telemetry, power and retrains (R22, R355, R373, R374) -/

theorem die_onDie (s : State) (d : Nat) (f : Die → Die) (k : Nat) : (s.onDie d f).die k = if d = k then f (s.die d) else s.die k := entry_setEntry _ _ _ _ _

/-- A change of a die changes that die alone. -/
theorem dieIs_onDie (s : State) (d : Nat) (f : Die → Die) : DieIs s (s.onDie d f) d (f (s.die d)) :=
  ⟨by rw [die_onDie, if_pos rfl], fun k hk => by rw [die_onDie, if_neg (Ne.symm hk)], rfl⟩

theorem powerCapSet_inside {s : State} (d : Nat) {w : Nat} (h1 : 200 ≤ w) (h2 : w ≤ 440) : exec (.powerCapSet d w) s = .next (s.onDie d fun x => { x with cap := w }) :=
  congrArg Host.Outcome.next (if_pos ⟨h1, h2⟩)

theorem powerCapSet_outside {s : State} (d : Nat) {w : Nat} (h : w < 200 ∨ 440 < w) : exec (.powerCapSet d w) s = .next s :=
  congrArg Host.Outcome.next (if_neg (by omega))

theorem stretchEnd_stretching {s : State} {d : Nat} (h : (s.die d).stretching = true) : exec (.stretchEnd d) s = .next (s.onDie d fun x => { x with stretching := false }) := if_pos h

theorem stretchEnd_idle {s : State} {d : Nat} (h : (s.die d).stretching = false) : exec (.stretchEnd d) s = .fault .notEnabled := if_neg (by rw [h]; exact Bool.false_ne_true)

theorem stack_setStack (s : State) (h : Nat) (r : Retrain) (k : Nat) : (s.setStack h r).stack k = if h = k then r else s.stack k := entry_setEntry _ _ _ _ _

/-- A change of one stack, and the messages that go with it. -/
theorem stackIs_setStack {s t : State} {h : Nat} {r : Retrain} {out : List Message} (e : t = { s.setStack h r with outbox := s.outbox ++ out }) : StackIs s t h r out := by
  subst e
  exact ⟨(stack_setStack s h r h).trans (if_pos rfl), fun k hk => (stack_setStack s h r k).trans (if_neg (Ne.symm hk)), rfl, rfl⟩

theorem retrainRequest_idle {s : State} {h : Nat} (rate : Nat) (h8 : h < 8) (hi : s.stack h = .idle) : exec (.retrainRequest h rate) s = .next (s.setStack h (.waiting rate)) :=
  congrArg Host.Outcome.next (if_pos ⟨h8, hi⟩)

theorem retrainRequest_busy {s : State} {h : Nat} (rate : Nat) (hi : s.stack h ≠ .idle) : exec (.retrainRequest h rate) s = .next s :=
  congrArg Host.Outcome.next (if_neg fun e => hi e.2)

/-- No byte of a stack that retrains may be accessed (R355). -/
theorem running_inaccessible {s : State} {h r : Nat} (e : s.stack h = .running r) (a n : Nat) (ha : Config.stackOf (a / 64) = h) : s.accessible (.phys a) n = false := by
  replace e : entry .idle s.hbmStacks h = .running r := e
  simp only [State.accessible, ha, e, Bool.and_false]

/-- The steps of a retrain: it waits, is refused, runs and ends (R355). -/
theorem retrain_steps (h rate : Nat) (s : State) :
    let now := entry .idle s.hbmStacks h
    (h < 8 → now = .idle → ∃ t, exec (.retrainRequest h rate) s = .next t ∧ StackIs s t h (.waiting rate) []) ∧
    (h < 8 → now = .waiting rate → (∃ t, exec (.retrainTimeout h) s = .next t ∧ StackIs s t h .idle [.retrainRefused h]) ∧
      (∃ t, s.own (.retrain h) = some t ∧ StackIs s t h (.running rate) [] ∧ ∀ a n, Config.stackOf (a / 64) = h → t.accessible (.phys a) n = false) ∧
      exec (.retrainEnd h) s = .fault .notEnabled) ∧
    (now = .running rate → exec (.retrainTimeout h) s = .fault .notEnabled ∧ s.own (.retrain h) = none ∧ ∃ t, exec (.retrainEnd h) s = .next t ∧ StackIs s t h .idle []) ∧
    (now ≠ .idle → exec (.retrainRequest h rate) s = .next s) := by
  have plain : ∀ r, StackIs s (s.setStack h r) h r [] := fun r => stackIs_setStack (by rw [List.append_nil]; rfl)
  refine ⟨fun h8 hi => ⟨_, retrainRequest_idle rate h8 hi, plain _⟩, fun _ hw => ?_, fun hr => ?_, fun hn => retrainRequest_busy rate hn⟩
  · replace hw : s.stack h = .waiting rate := hw
    refine ⟨⟨(s.setStack h .idle).send (.retrainRefused h), ?_, stackIs_setStack rfl⟩, ⟨s.setStack h (.running rate), ?_, plain _, fun a n ha => ?_⟩, ?_⟩
    · rw [exec_retrainTimeout, execRetrainTimeout, hw]
    · simp only [State.own, State.startRetrain, hw]
    · exact running_inaccessible ((stack_setStack s h _ h).trans (if_pos rfl)) a n ha
    · rw [exec_retrainEnd, execRetrainEnd, hw]
  · replace hr : s.stack h = .running rate := hr
    refine ⟨?_, ?_, ⟨s.setStack h .idle, ?_, plain _⟩⟩
    · rw [exec_retrainTimeout, execRetrainTimeout, hr]
    · simp only [State.own, State.startRetrain, hr]
    · rw [exec_retrainEnd, execRetrainEnd, hr]

/-! ## Errors (R357) -/

/-- A corrected error is counted at its array, and nowhere else. -/
theorem correctedSoftError_counts (d a : Nat) (s : State) : ∃ t x, exec (.correctedSoftError d a) s = .next t ∧ DieIs s t d x ∧
    { x with softErrors := (s.die d).softErrors } = s.die d ∧ ∀ k, look x.softErrors k = if k = a then look (s.die d).softErrors k + 1 else look (s.die d).softErrors k := by
  refine ⟨_, _, rfl, dieIs_onDie s d _, rfl, fun k => ?_⟩
  simp only [look_put]
  by_cases h : a = k
  · subst h; simp
  · simp [h, Ne.symm h]

theorem located_eq (loc : ErrorLoc) : errorAt loc = located loc := by
  cases loc with
  | mem p => cases p <;> rfl
  | _ => rfl

theorem overlap_self (p : Place) : overlap p 1 p 1 = true := by cases p <;> simp [overlap]

/-- What a spoiled location is once the record is on its way: the record changes neither it nor anything that it is read from. -/
theorem spoiled_record {s t : State} (loc : ErrorLoc) (h : { t with common := (s.spoil loc).common, dies := (s.spoil loc).dies } = s.spoil loc) : Spoiled s t loc := by
  have hgang : ∀ j, t.gang? j = (s.spoil loc).gang? j := fun j => by
    have e := congrArg State.gangs h
    replace e : t.gangs = (s.spoil loc).gangs := e
    simp only [State.gang?, e]
  have hcu : ∀ c, t.cu c = (s.spoil loc).cu c := fun c => by
    have e := congrArg State.cus h
    replace e : t.cus = (s.spoil loc).cus := e
    simp only [State.cu, e]
  cases loc with
  | mem p =>
    have e := congrArg State.poisoned h
    replace e : t.poisoned = s.poisoned ++ [p] := e
    simp only [Spoiled, State.accessible, e, List.all_append, List.all_cons, overlap_self, Bool.not_true, Bool.false_and, Bool.and_false]
  | register j l n =>
    intro y hy hl64 hl
    have hlane : (lane l).getLsbD l = true := by rw [getLsbD_lane]; simp [hl64]
    refine ⟨_, (hgang j).trans (gang?_onGang _ (fun _ => rfl) hy), fun r => ?_, ?_, fun k hk => ?_, rfl⟩
    · exact congrArg (fun v => look v r) (thread_mapLanes_same Thread.vregs y (lane l) (fun _ t => { t with bad := t.bad ++ [n] }) l fun _ _ => rfl)
    · rw [thread_mapLanes, if_pos ⟨hlane, hl⟩]; simp
    · exact thread_mapLanes_other _ _ _ _ (by rw [getLsbD_lane]; simp [Ne.symm hk])
  | scalar j n =>
    intro hn y hy
    refine (hgang j).trans ((gang?_onGang _ (fun x => ?_) hy).trans ?_)
    · split <;> rfl
    · rw [if_neg hn]
  | mask j n => exact fun y hy => (hgang j).trans (gang?_onGang _ (fun _ => rfl) hy)
  | line c n =>
    intro x hx hn
    rw [hcu, State.spoil, State.onLine, cu_onCu, if_pos rfl] at hx
    obtain ⟨y, -, rfl⟩ := List.mem_map.mp hx
    split at hn
    · next e => rw [if_pos e]
    · next e => exact absurd hn e
  | code c n => show n ∈ (t.cu c).badCode; rw [hcu, State.spoil, cu_onCu, if_pos rfl]; simp
  | teamMacro j n =>
    intro x hx m hm hn
    have e := congrArg State.teams h
    replace e : t.teams = (s.spoil (.teamMacro j n)).teams := e
    have e2 : t.team? j = (s.spoil (.teamMacro j n)).team? j := by simp only [State.team?, e]
    rw [e2, State.spoil, team?_onTeam, if_pos rfl, Option.map_eq_some_iff] at hx
    · obtain ⟨y, -, rfl⟩ := hx
      obtain ⟨k, -, rfl⟩ := List.mem_map.mp hm
      split at hn
      · next e => rw [if_pos e]
      · next e => exact absurd hn e
    · intro _; rfl
  | graph hd =>
    intro x hx hn
    have e := congrArg (fun u : State => u.graph.graphs) h
    replace e : t.graph.graphs = s.graph.graphs.map fun g => if g.handle = hd then { g with bad := true } else g := e
    rw [e] at hx
    obtain ⟨y, -, rfl⟩ := List.mem_map.mp hx
    split at hn
    · next e => rw [if_pos e]
    · next e => exact absurd hn e
  | mirror c off =>
    intro m hm h1 h2
    have e := congrArg State.mirrors h
    replace e : t.mirrors = s.mirrors.map fun m => if m.cluster = c ∧ m.off = off then { m with bad := true } else m := e
    rw [e] at hm
    obtain ⟨y, -, rfl⟩ := List.mem_map.mp hm
    split at h1
    · next e => rw [if_pos e]
    · next e => rw [if_neg e] at h2; exact absurd ⟨h1, h2⟩ e
  | deque c => show (t.cu c).badDeque = true; rw [hcu, State.spoil, cu_onCu, if_pos rfl]

/-- An uncorrectable error is recorded with CAUSE 0x15, and spoils its location. -/
theorem uncorrectableError_recorded (d : Nat) (loc : ErrorLoc) (s : State) : ∃ t u, exec (.uncorrectableError d loc) s = .next t ∧
    t = State.record u d 6 0x15 0 0xFFFFFFFFFFFFFFFF (located loc) ∧ Spoiled s t loc ∧ (∀ p, loc = .mem p → u = { s with poisoned := s.poisoned ++ [p] }) ∧
    u.phys = s.phys ∧ u.common = s.common := by
  refine ⟨_, s.spoil loc, rfl, by rw [located_eq]; rfl, spoiled_record loc (record_frame _ _ _ _ _ _ _), ?_, ?_, ?_⟩
  · rintro p rfl; rfl
  · cases loc <;> rfl
  · cases loc <;> rfl

end Sys2Proof.Machine
end

section
/-!
Proofs: what the steps of the engines (R214-R227, R234-R243, R329-R332) leave of gangs, teams and launches.
-/
namespace Sys2Proof.Machine

/-! ## Gangs, teams and launches that are left -/

/-- No lane of the gang waits for a carousel slot. -/
def Gang.Untaking (g : Gang) : Prop := ∀ c k, g.takers c k = 0

/-- A change that makes no gang, team or launch, and leaves every gang as it is but those numbered in `G` and those that wait for a carousel. -/
structure Shrinks (G : Nat → Prop) (s t : State) : Prop where
  gangs : ∀ x ∈ t.gangs, ∃ y ∈ s.gangs, y.id = x.id ∧ y.team = x.team
  teams : ∀ x ∈ t.teams, ∃ y ∈ s.teams, y.id = x.id ∧ y.origin = x.origin
  launches : ∀ l ∈ t.launches, l ∈ s.launches
  stays : ∀ h : Gang, ¬G h.id → h.Untaking → s.gang? h.id = some h → t.gang? h.id = some h

section
variable {G : Nat → Prop} {s t u : State}

theorem Shrinks.same (h : Shrinks G s t) (hg : u.gangs = t.gangs) (ht : u.teams = t.teams) (hl : u.launches = t.launches) : Shrinks G s u where
  gangs := by rw [hg]; exact h.gangs
  teams := by rw [ht]; exact h.teams
  launches := by rw [hl]; exact h.launches
  stays x hx hu e := by have := h.stays x hx hu e; rwa [State.gang?, ← hg] at this

theorem Shrinks.refl (G : Nat → Prop) (s : State) : Shrinks G s s :=
  ⟨fun x h => ⟨x, h, rfl, rfl⟩, fun x h => ⟨x, h, rfl, rfl⟩, fun _ h => h, fun _ _ _ e => e⟩

theorem Shrinks.trans (h1 : Shrinks G s t) (h2 : Shrinks G t u) : Shrinks G s u where
  gangs x hx := by
    obtain ⟨y, hy, e1, e2⟩ := h2.gangs x hx
    obtain ⟨z, hz, e3, e4⟩ := h1.gangs y hy
    exact ⟨z, hz, e3.trans e1, e4.trans e2⟩
  teams x hx := by
    obtain ⟨y, hy, e1, e2⟩ := h2.teams x hx
    obtain ⟨z, hz, e3, e4⟩ := h1.teams y hy
    exact ⟨z, hz, e3.trans e1, e4.trans e2⟩
  launches l hl := h1.launches l (h2.launches l hl)
  stays x hx hu e := h2.stays x hx hu (h1.stays x hx hu e)

theorem Shrinks.mono {H : Nat → Prop} (h : Shrinks G s t) (hg : ∀ i, G i → H i) : Shrinks H s t :=
  { h with stays := fun x hx => h.stays x fun hg2 => hx (hg _ hg2) }

/-- What a view cache gives up or takes in is neither a gang nor a team nor a launch. -/
theorem Shrinks.rest (h : Shrinks G s t) (e : { u with phys := t.phys, cus := t.cus } = t) : Shrinks G s u :=
  h.same (congrArg State.gangs e :) (congrArg State.teams e :) (congrArg State.launches e :)

/-- A record on the ring is neither. -/
theorem Shrinks.recorded (h : Shrinks G s t) (e : { u with common := t.common, dies := t.dies } = t) : Shrinks G s u :=
  h.same (congrArg State.gangs e :) (congrArg State.teams e :) (congrArg State.launches e :)

theorem find?_map_id {α : Type} (key : α → Nat) (f : α → α) (hf : ∀ x, key (f x) = key x) (L : List α) (i : Nat) :
    (L.map f).find? (fun x => decide (key x = i)) = (L.find? fun x => decide (key x = i)).map f := by
  rw [List.find?_map]
  simp only [Function.comp_def, hf]

/-- Gangs that keep their numbers and teams, where those outside `G` that wait for no carousel stay. -/
theorem Shrinks.mapGangs (h : Shrinks G s t) (f : Gang → Gang) (hi : ∀ g, (f g).id = g.id) (ht : ∀ g, (f g).team = g.team)
    (hf : ∀ g ∈ t.gangs, ¬G g.id → g.Untaking → f g = g) : Shrinks G s { t with gangs := t.gangs.map f } := by
  refine h.trans ⟨fun x hx => ?_, fun x hx => ⟨x, hx, rfl, rfl⟩, fun _ h => h, fun x hx hu e => ?_⟩
  · obtain ⟨y, hy, rfl⟩ := List.mem_map.mp hx
    exact ⟨y, hy, (hi y).symm, (ht y).symm⟩
  · have hm := List.mem_of_find?_eq_some e
    exact (find?_map_id Gang.id f hi t.gangs x.id).trans ((congrArg (Option.map f) e).trans (congrArg some (hf x hm hx hu)))

theorem Shrinks.onGang (h : Shrinks G s t) {i : Nat} (hi : G i) (f : Gang → Gang) (h1 : ∀ g, (f g).id = g.id) (h2 : ∀ g, (f g).team = g.team) :
    Shrinks G s (t.onGang i f) := by
  refine h.mapGangs _ (fun g => ?_) (fun g => ?_) fun g _ hg _ => if_neg fun e : g.id = i => hg (by rw [e]; exact hi)
  · split
    · exact h1 g
    · rfl
  · split
    · exact h2 g
    · rfl

theorem Shrinks.onTeam (h : Shrinks G s t) (i : Nat) (f : Team → Team) (h1 : ∀ x, (f x).id = x.id) (h2 : ∀ x, (f x).origin = x.origin) : Shrinks G s (t.onTeam i f) := by
  refine h.trans { Shrinks.refl G t with teams := fun x hx => ?_ }
  obtain ⟨y, hy, rfl⟩ := List.mem_map.mp hx
  refine ⟨y, hy, ?_⟩
  split
  · exact ⟨(h1 y).symm, (h2 y).symm⟩
  · exact ⟨rfl, rfl⟩

theorem Shrinks.setGang (h : Shrinks G s t) {g x : Gang} (hx : x ∈ t.gangs) (hi : G x.id) (h1 : g.id = x.id) (h2 : g.team = x.team) : Shrinks G s (t.setGang g) := by
  refine h.trans { Shrinks.refl G t with gangs := fun y hy => ?_, stays := fun y hy _ e => ?_ }
  · obtain ⟨z, hz, rfl⟩ := List.mem_map.mp hy
    split
    · exact ⟨x, hx, h1.symm, h2.symm⟩
    · exact ⟨z, hz, rfl, rfl⟩
  · rw [gang?_setGang, if_neg fun e2 => hy (by rw [e2, h1]; exact hi)]; exact e

theorem Shrinks.foldl {α : Type} (f : State → α → State) (hf : ∀ t a, Shrinks G s t → Shrinks G s (f t a)) (L : List α) (h : Shrinks G s t) : Shrinks G s (L.foldl f t) :=
  foldl_keeps (Shrinks G s) f hf L t h

end

/-! ## The steps of an engine for the commands of one gang (R214-R227, R234-R243, R329-R332) -/

theorem op?_gang {s : State} {g o : Nat} {x : Gang} {y : Op} (h : s.op? g o = some (x, y)) : x ∈ s.gangs ∧ x.id = g := by
  unfold State.op? at h
  split at h
  · cases h
  · next z e =>
    obtain ⟨w, -, e2⟩ := Option.map_eq_some_iff.mp h
    cases e2
    exact ⟨List.mem_of_find?_eq_some e, gang?_id s g x e⟩

theorem settle_id (g : Gang) : g.settle.id = g.id := (congrArg Gang.id (settle_kept g).rest :)
theorem settle_team (g : Gang) : g.settle.team = g.team := (congrArg Gang.team (settle_kept g).rest :)

/-- What a completion lands is in the gang's lanes and scalars. -/
theorem complete_same {α : Type} (q : Gang → α) (h1 : ∀ g m f, q (g.mapLanes m f) = q g) (h2 : ∀ g n v, q (g.setSreg n v) = q g) (h3 : ∀ g o, q (g.dropOp o) = q g)
    (g : Gang) (o : Op) : q (g.complete o) = q g := by
  rw [Gang.complete, h3]
  refine foldl_keeps (fun h => q h = q g) _ (fun h x e => (h2 h _ _).trans e) _ _ ?_
  exact foldl_keeps (fun h => q h = q g) _ (fun h x e => (h1 h _ _).trans e) _ _ rfl

@[simp] theorem complete_id (g : Gang) (o : Op) : (g.complete o).id = g.id := complete_same Gang.id mapLanes_id setSreg_id dropOp_id g o
@[simp] theorem complete_team (g : Gang) (o : Op) : (g.complete o).team = g.team := complete_same Gang.team mapLanes_team setSreg_team dropOp_team g o

@[simp] theorem copyDone_id (g : Gang) (o : Op) (c : Copy) : (g.copyDone o c).id = g.id := by
  unfold Gang.copyDone
  split <;> exact complete_id _ _

@[simp] theorem copyDone_team (g : Gang) (o : Op) (c : Copy) : (g.copyDone o c).team = g.team := by
  unfold Gang.copyDone
  split <;> exact complete_team _ _

section
variable {G : Nat → Prop} {s t : State} {i : Nat}

theorem Shrinks.onCopy (h : Shrinks G s t) (hi : G i) (o : Nat) (f : Copy → Copy) : Shrinks G s (t.onCopy i o f) := h.onGang hi _ (fun _ => rfl) fun _ => rfl
theorem Shrinks.onEmbag (h : Shrinks G s t) (hi : G i) (o : Nat) (f : Embag → Embag) : Shrinks G s (t.onEmbag i o f) := h.onGang hi _ (fun _ => rfl) fun _ => rfl

theorem Shrinks.engineUsed (h : Shrinks G s t) (k : Kind) (x : Xlate) : Shrinks G s (t.engineUsed k x) := by
  unfold State.engineUsed
  split
  · exact h.same rfl rfl rfl
  · exact h

theorem Shrinks.passUsed (h : Shrinks G s t) (p : Pass) : Shrinks G s (t.passUsed p) := .foldl _ (fun _ u e => e.engineUsed u.1 u.2) _ h

theorem Shrinks.request (h : Shrinks G s t) (d kind cause : Nat) (handle addr : W64) (what : Pending) : Shrinks G s (t.request d kind cause handle addr what) :=
  (h.same rfl rfl rfl : Shrinks G s { t with named := t.named + 1, requests := t.requests ++ [TagReq.mk t.freshTag addr what] }).recorded (record_frame _ _ _ _ _ _ _)

theorem Shrinks.copyRequest (h : Shrinks G s t) {x : Gang} (hi : G x.id) (o kind cause : Nat) (a : W64) : Shrinks G s (t.copyRequest x o kind cause a) := by
  unfold State.copyRequest
  split
  · exact (h.onGang hi (fun h => { h with crashed := true }) (fun _ => rfl) fun _ => rfl).same rfl rfl rfl
  · exact (h.onCopy hi _ _).request _ _ _ _ _ _

theorem Shrinks.checkPassed (h : Shrinks G s t) {x : Gang} (hi : G x.id) {o : Nat} {c : Copy} {p : Pass} {u : State} (e : t.checkPassed x o c p = some u) : Shrinks G s u := by
  unfold State.checkPassed at e
  simp only at e
  split at e
  · cases e; exact h.onCopy hi _ _
  · split at e <;> cases e
    exact h.copyRequest hi _ _ _ _
  · cases e
  · split at e
    · cases e
    · split at e
      · cases e; exact h.onCopy hi _ _
      · generalize t.itemLines x _ _ = ls at e
        split at e
        · split at e <;> cases e
          exact h.copyRequest hi _ _ _ _
        · cases e; exact (h.onCopy hi _ _).same rfl rfl rfl

theorem Shrinks.checkCopy (h : Shrinks G s t) {x : Gang} (hi : G x.id) {o : Nat} {c : Copy} {u : State} (e : t.checkCopy x o c = some u) : Shrinks G s u := by
  unfold State.checkCopy at e
  simp only at e
  split at e
  · next v hv => cases e; exact (h.passUsed _).checkPassed hi hv
  · split at e
    · cases e
    · cases e; exact h.passUsed _

theorem Shrinks.recheckCopy (h : Shrinks G s t) (hi : G i) {o : Nat} {u : State} (e : t.recheckCopy i o = some u) : Shrinks G s u := by
  unfold State.recheckCopy at e
  split at e
  · next x y hx =>
    split at e
    · split at e
      · exact h.checkCopy (by rw [(op?_gang hx).2]; exact hi) e
      · cases e
    · cases e
  · cases e

theorem Shrinks.onCarousel (h : Shrinks G s t) (n c : Nat) (f : Carousel → Carousel) : Shrinks G s (t.onCarousel n c f) := by
  refine h.onTeam n _ (fun x => ?_) fun x => ?_
  · split <;> rfl
  · split <;> rfl

theorem Shrinks.startCopy (h : Shrinks G s t) {x : Gang} (hi : G x.id) (o : Nat) (c : Copy) : Shrinks G s (t.startCopy x o c) := by
  have h1 : Shrinks G s (t.bump.onCopy x.id o fun c => { c with stage := .checking none, start := t.serial }) := Shrinks.onCopy (t := t.bump) (h.same rfl rfl rfl) hi o _
  unfold State.startCopy
  simp only
  split
  · exact h1
  · exact (h1.onCopy hi _ _).onCarousel _ _ _

theorem nextState_some {r : Result} {u : State} (h : nextState r = some u) : r = .next u := by
  unfold nextState at h
  split at h
  · cases h; rfl
  · cases h

theorem Shrinks.copyEngineStart (h : Shrinks G s t) (hi : G i) {o : Nat} {u : State} (e : execCopyEngineStart i o t = .next u) : Shrinks G s u := by
  unfold execCopyEngineStart at e
  split at e
  · cases e
  · next x y hx =>
    split at e
    · split at e
      · cases e
        have h1 := h.startCopy (x := x) (by rw [(op?_gang hx).2]; exact hi) o ‹_›
        cases hr : (t.startCopy x o ‹_›).recheckCopy i o with
        | none => exact h1
        | some v => exact h1.recheckCopy hi hr
      · cases e
    · cases e

theorem Shrinks.touch (h : Shrinks G s t) (cu : Nat) (p : Place) : Shrinks G s (t.touch cu p) := h.rest (touch_gaveUp t cu p).rest

theorem Shrinks.storeHome (h : Shrinks G s t) (p : Place) (bs : List Byte) : Shrinks G s (t.storeHome p bs) := by
  cases p with
  | phys a => exact h.same rfl rfl rfl
  | common o => exact h.same rfl rfl rfl
  | scratch n o => exact h.onTeam n _ (fun _ => rfl) fun _ => rfl

theorem Shrinks.storeView (h : Shrinks G s t) (cu : Nat) (p : Place) (bs : List Byte) : Shrinks G s (t.storeView cu p bs) := by
  cases p with
  | phys a => exact (h.rest (fillLine_gaveUp t cu (a / 64)).rest).same rfl rfl rfl
  | common o => exact h.storeHome (.common o) bs
  | scratch n o => exact h.storeHome (.scratch n o) bs

theorem Shrinks.moveUnit (h : Shrinks G s t) {x : Gang} (hi : G x.id) (o : Nat) (c : Copy) (n : Nat) : Shrinks G s (t.moveUnit x o c n) := by
  have h1 := Shrinks.foldl (fun (u : State) (w : W64 × Nat) => u.touch (t.cuOf x) (t.copyPlace x c w.1)) (fun u w e => e.touch _ _) (c.localReads n) h
  have h2 := h1.onCopy hi o fun _ => if c.hasDest then c.afterUnit n (if c.hasSource then t.readItems x c (c.localReads n) else (c.brought n).getD [])
    else { c with moved := put c.moved n 1 }
  unfold State.moveUnit
  simp only
  split
  · split
    · exact h2.same rfl rfl rfl
    · exact h2.same rfl rfl rfl
  · exact h2.same rfl rfl rfl

theorem Shrinks.writeByte (h : Shrinks G s t) {x : Gang} (hi : G x.id) (o : Nat) (c : Copy) (j : Nat) (b : CopyByte) : Shrinks G s (t.writeByte x o c j b) :=
  ((h.same rfl rfl rfl : Shrinks G s (t.logLines _)).storeView _ _ _).onCopy hi _ _

theorem Shrinks.stepCopy (h : Shrinks G s t) (hi : G i) {o start : Nat} {u : State} (e : t.stepCopy i o start = some u) : Shrinks G s u := by
  unfold State.stepCopy at e
  split at e
  · next x y hx =>
    have hxi : G x.id := by rw [(op?_gang hx).2]; exact hi
    split at e
    · simp only at e
      split at e
      · obtain ⟨n, -, e2⟩ := Option.bind_eq_some_iff.mp e
        split at e2
        · cases e2; exact h.moveUnit hxi _ _ _
        · obtain ⟨b, -, rfl⟩ := Option.map_eq_some_iff.mp e2
          exact h.writeByte hxi _ _ _ _
      · cases e
    · cases e
  · cases e

/-- What neither a scalar write nor a release of lanes changes is in a gang as before a carousel has released it. -/
theorem released_same {α : Type} (q : Gang → α) (h1 : ∀ g n v, q (g.setSreg n v) = q g) (h2 : ∀ g m, q (g.release m) = q g) (h3 : ∀ g, q g.settle = q g)
    (rs : List Nat) (v : W64) (m : Lanes) (g : Gang) : q ((rs.foldl (fun h d => h.setSreg d v) g).release m).settle = q g := by
  rw [h3, h2]
  exact foldl_keeps (fun h => q h = q g) _ (fun h _ e => (h1 h _ _).trans e) rs g rfl

/-- A carousel that has filled a slot releases only gangs that wait for it. -/
theorem Shrinks.releaseTakes (h : Shrinks G s t) (n c : Nat) : Shrinks G s (t.releaseTakes n c) := by
  unfold State.releaseTakes
  split
  · exact h
  · next k _ =>
    refine h.mapGangs _ (fun g => ?_) (fun g => ?_) fun g _ _ hu => if_neg fun e => e.2.1 (hu c k)
    · dsimp only
      split
      · exact released_same Gang.id setSreg_id (fun _ _ => rfl) settle_id _ _ _ g
      · rfl
    · dsimp only
      split
      · exact released_same Gang.team setSreg_team (fun _ _ => rfl) settle_team _ _ _ g
      · rfl

theorem Shrinks.copyDataLanded (h : Shrinks G s t) (hi : G i) {o : Nat} {u : State} (e : execCopyDataLanded i o t = .next u) : Shrinks G s u := by
  unfold execCopyDataLanded at e
  split at e
  · cases e
  · split at e
    · split at e
      · simp only at e
        split at e
        · cases e; exact h.onCopy hi _ _
        · split at e
          · cases e; exact ((h.onCopy hi _ _).onCarousel _ _ _).releaseTakes _ _
          · cases e; exact h.onCopy hi _ _
      · cases e
    · cases e

theorem Shrinks.followOn (h : Shrinks G s t) (hi : G i) {o : Nat} {u : State} (e : t.followOn i o = some u) : Shrinks G s u := by
  unfold State.followOn at e
  split at e
  · split at e
    · split at e
      · cases e
      · simp only at e
        split at e
        · cases e; exact h.onCopy hi _ _
        · split at e
          · cases e
          · split at e
            · cases e; exact h.onCopy hi _ _
            · cases e
              refine Shrinks.onGang ?_ hi _ (fun _ => rfl) fun _ => rfl
              exact (h.same rfl rfl rfl : Shrinks G s t.bump).onTeam _ _ (fun _ => rfl) fun _ => rfl
    · cases e
  · cases e

theorem Shrinks.copyComplete (h : Shrinks G s t) (hi : G i) {o : Nat} {u : State} (e : execCopyComplete i o t = .next u) : Shrinks G s u := by
  unfold execCopyComplete at e
  split at e
  · cases e
  · next x y hx =>
    split at e
    · split at e
      · cases e
        exact h.setGang (op?_gang hx).1 (by rw [(op?_gang hx).2]; exact hi) (copyDone_id _ _ _) (copyDone_team _ _ _)
      · cases e
    · cases e

theorem Shrinks.doMatrix (h : Shrinks G s t) {x : Gang} (hi : G x.id) (o : Op) (m : Matrix) (n : Nat) : Shrinks G s (t.doMatrix x o m n) := by
  unfold State.doMatrix
  simp only
  split
  · exact h.onGang hi _ (fun _ => rfl) fun _ => rfl
  · refine Shrinks.onGang ?_ hi _ (fun _ => rfl) fun _ => rfl
    exact h.onTeam _ _ (fun _ => rfl) fun _ => rfl

theorem Shrinks.stepMatrix (h : Shrinks G s t) (hi : G i) {o start : Nat} {u : State} (e : t.stepMatrix i o start = some u) : Shrinks G s u := by
  unfold State.stepMatrix at e
  split at e
  · next x y hx =>
    split at e
    · split at e
      · obtain ⟨n, -, rfl⟩ := Option.map_eq_some_iff.mp e
        exact h.doMatrix (by rw [(op?_gang hx).2]; exact hi) _ _ _
      · cases e
    · cases e
  · cases e

theorem finish_same {α : Type} (q : Team → α) (hq : ∀ t m, q { t with macros := m } = q t) (m : Matrix) (t : Team) : q (m.finish t) = q t := by
  unfold Matrix.finish
  split
  · exact hq t _
  · exact hq t _
  · rfl

theorem Shrinks.matrixComplete (h : Shrinks G s t) (hi : G i) {o : Nat} {u : State} (e : execMatrixCommandComplete i o t = .next u) : Shrinks G s u := by
  unfold execMatrixCommandComplete at e
  split at e
  · cases e
  · split at e
    · split at e
      · cases e
        refine Shrinks.onGang ?_ hi _ (fun g => (complete_id _ _).trans (mergeFlags_id _ _)) fun g => (complete_team _ _).trans (mergeFlags_team _ _)
        exact h.onTeam _ _ (finish_same Team.id (fun _ _ => rfl) _) (finish_same Team.origin (fun _ _ => rfl) _)
      · cases e
    · cases e

theorem Shrinks.poolWord (h : Shrinks G s t) {x : Gang} (hi : G x.id) (o : Nat) (b : Embag) (n : Nat) (v : W32 × BitVec 8) : Shrinks G s (t.poolWord x o b n v) :=
  (h.onEmbag hi _ _).onTeam _ _ (fun _ => rfl) fun _ => rfl

theorem Shrinks.bagAbsent (h : Shrinks G s t) {x : Gang} (hi : G x.id) {o b va : Nat} {u : State} (e : t.bagAbsent x o b va = some u) : Shrinks G s u := by
  unfold State.bagAbsent at e
  simp only at e
  split at e
  · split at e
    · cases e
    · cases e; exact (h.onGang hi (fun h => { h with crashed := true }) (fun _ => rfl) fun _ => rfl).same rfl rfl rfl
  · cases e; exact (h.onEmbag hi _ _).request _ _ _ _ _ _

theorem Shrinks.writeBackTier (h : Shrinks G s t) (cu : Nat) : Shrinks G s (t.writeBackTier cu) := .foldl _ (fun u l e => e.rest (rest_writeBackLine u cu l.line)) _ h

theorem Shrinks.poolOne (h : Shrinks G s t) {x : Gang} (hi : G x.id) {o : Nat} {b : Embag} {n : Nat} {u : State} (e : t.poolOne x o b n = some u) : Shrinks G s u := by
  unfold State.poolOne at e
  simp only at e
  split at e
  · cases e; exact h.poolWord hi _ _ _ _
  split at e
  · cases e; exact h.poolWord hi _ _ _ _
  split at e
  · cases e; exact h.poolWord hi _ _ _ _
  split at e
  · cases e; exact h.onEmbag hi _ _
  split at e
  · cases e
  · exact h.bagAbsent hi e
  · cases e; exact (h.engineUsed _ _).onEmbag hi _ _
  · cases e; exact ((h.engineUsed _ _).writeBackTier _).onEmbag hi _ _

theorem Shrinks.stepEmbag (h : Shrinks G s t) (hi : G i) {o start : Nat} {u : State} (e : t.stepEmbag i o start = some u) : Shrinks G s u := by
  unfold State.stepEmbag at e
  split at e
  · next x y hx =>
    split at e
    · split at e
      · cases e
      · split at e
        · exact h.poolOne (by rw [(op?_gang hx).2]; exact hi) e
        · cases e
    · cases e
  · cases e

theorem Shrinks.embagComplete (h : Shrinks G s t) (hi : G i) {o : Nat} {u : State} (e : execEmbagComplete i o t = .next u) : Shrinks G s u := by
  unfold execEmbagComplete at e
  split at e
  · cases e
  · next x y hx =>
    split at e
    · split at e
      · cases e
        exact h.setGang (op?_gang hx).1 (by rw [(op?_gang hx).2]; exact hi) ((complete_id _ _).trans (mergeFlags_id _ _)) ((complete_team _ _).trans (mergeFlags_team _ _))
      · cases e
    · cases e

/-- Whatever an engine does next for a command of a gang. -/
theorem Shrinks.engineMoves (h : Shrinks G s t) (hi : G i) {o : Nat} {b : OpBody} {u : State} (e : some u ∈ t.engineMoves i o b) : Shrinks G s u := by
  unfold State.engineMoves at e
  split at e
  · simp only [List.mem_cons, List.not_mem_nil, or_false] at e
    rcases e with e | e | e | e | e | e
    · exact h.copyEngineStart hi (nextState_some e.symm)
    · exact h.recheckCopy hi e.symm
    · exact h.stepCopy hi e.symm
    · exact h.copyDataLanded hi (nextState_some e.symm)
    · exact h.followOn hi e.symm
    · exact h.copyComplete hi (nextState_some e.symm)
  · simp only [List.mem_cons, List.not_mem_nil, or_false] at e
    rcases e with e | e
    · exact h.stepMatrix hi e.symm
    · exact h.matrixComplete hi (nextState_some e.symm)
  · simp only [List.mem_cons, List.not_mem_nil, or_false] at e
    rcases e with e | e
    · exact h.stepEmbag hi e.symm
    · exact h.embagComplete hi (nextState_some e.symm)
  · cases e

end

/-- The numbers of the gangs of some teams. -/
def State.GangOf (s : State) (T : Nat → Prop) (i : Nat) : Prop := ∃ x ∈ s.gangs, x.id = i ∧ T x.team

theorem GangOf.shrinks {G T : Nat → Prop} {s t : State} (h : Shrinks G s t) {i : Nat} (hi : t.GangOf T i) : s.GangOf T i := by
  obtain ⟨x, hx, rfl, ht⟩ := hi
  obtain ⟨y, hy, e1, e2⟩ := h.gangs x hx
  exact ⟨y, hy, e1, e2 ▸ ht⟩

/-- A step of the engines for some teams is one for a command of one of their gangs. -/
theorem Shrinks.engineStep {ts : List Nat} {s t u : State} (h : Shrinks (s.GangOf (· ∈ ts)) s t) (e : t.engineStep ts = some u) : Shrinks (s.GangOf (· ∈ ts)) s u := by
  unfold State.engineStep at e
  obtain ⟨x, hx, e⟩ := List.exists_of_findSome?_eq_some e
  obtain ⟨o, -, e⟩ := List.exists_of_findSome?_eq_some e
  obtain ⟨m, hm, e⟩ := List.exists_of_findSome?_eq_some e
  obtain ⟨rfl, -⟩ := Option.filter_eq_some_iff.mp e
  obtain ⟨hx, ht⟩ := List.mem_filter.mp hx
  exact h.engineMoves (GangOf.shrinks h ⟨x, hx, rfl, by simpa using ht⟩) hm

end Sys2Proof.Machine
end

section
/-!
Proofs: the end of phases, the rollback (R359), and a restart of the device runtime (R348).
-/
namespace Sys2Proof.Machine

/-! ## The end of a phase (R359) -/

/-- The teams of the launches of a phase. -/
def State.teamsOf (s : State) (p : Phase) : List Nat := (s.teams.filter fun t => p.owns t.origin.packet).map Team.id

theorem mem_teamsOf {s : State} {p : Phase} {n : Nat} : n ∈ s.teamsOf p ↔ ∃ x ∈ s.teams, x.id = n ∧ p.owns x.origin.packet = true := by
  simp only [State.teamsOf, List.mem_map, List.mem_filter]
  exact ⟨fun ⟨x, ⟨hx, ho⟩, e⟩ => ⟨x, hx, e, ho⟩, fun ⟨x, hx, e, ho⟩ => ⟨x, ⟨hx, ho⟩, e⟩⟩

theorem teamsOf_shrinks {G : Nat → Prop} {s t : State} (h : Shrinks G s t) {p : Phase} {n : Nat} (hn : n ∈ t.teamsOf p) : n ∈ s.teamsOf p := by
  obtain ⟨x, hx, rfl, ho⟩ := mem_teamsOf.mp hn
  obtain ⟨y, hy, e1, e2⟩ := h.teams x hx
  exact mem_teamsOf.mpr ⟨y, hy, e1, by rw [e2]; exact ho⟩

/-- Nothing of a phase is left: no team and no launch. -/
def Gone (p : Phase) (t : State) : Prop := (∀ x ∈ t.teams, p.owns x.origin.packet = false) ∧ ∀ l ∈ t.launches, p.owns l.origin.packet = false

theorem Gone.shrinks {G : Nat → Prop} {p : Phase} {s t : State} (h : Gone p s) (hs : Shrinks G s t) : Gone p t := by
  refine ⟨fun x hx => ?_, fun l hl => h.2 l (hs.launches l hl)⟩
  obtain ⟨y, hy, -, e⟩ := hs.teams x hx
  rw [← e]; exact h.1 y hy

/-- The gangs of the launches of some phases. -/
def State.gangsOf (s : State) (ps : List Phase) : Nat → Prop := s.GangOf fun n => ∃ p ∈ ps, n ∈ s.teamsOf p

theorem gangsOf_shrinks {G : Nat → Prop} {s t : State} (h : Shrinks G s t) {ps qs : List Phase} (hq : ∀ p ∈ qs, p ∈ ps) {i : Nat} (hi : t.gangsOf qs i) : s.gangsOf ps i := by
  obtain ⟨x, hx, e, p, hp, hn⟩ := GangOf.shrinks h hi
  exact ⟨x, hx, e, p, hq p hp, teamsOf_shrinks h hn⟩

theorem Shrinks.killTeams {s : State} (ts : List Nat) : Shrinks (s.GangOf (· ∈ ts)) s (s.killTeams ts) := by
  have h := (Shrinks.refl (s.GangOf (· ∈ ts)) s).mapGangs (fun g => if ts.contains g.team then g.die else g) (fun g => by split <;> rfl) (fun g => by split <;> rfl)
    fun g hg hn _ => if_neg fun e => hn ⟨g, hg, rfl, by simpa using e⟩
  exact h.same rfl rfl rfl

theorem find?_filter_keep {α : Type} (p q : α → Bool) (L : List α) (h : ∀ x, p x = true → q x = true) : (L.filter q).find? p = L.find? p := by
  rw [List.find?_filter]
  congr 1
  funext x
  cases hp : p x with
  | false => simp
  | true => simp [h x hp]

theorem removePhase_gone (s : State) (p : Phase) : Gone p (s.removePhase p) := by
  refine ⟨fun x hx => ?_, fun l hl => ?_⟩
  · obtain ⟨hx, hn⟩ := List.mem_filter.mp (show x ∈ s.teams.filter fun t => !(s.teamsOf p).contains t.id from hx)
    cases ho : p.owns x.origin.packet with
    | false => rfl
    | true => rw [List.contains_iff_mem.mpr (mem_teamsOf.mpr ⟨x, hx, rfl, ho⟩)] at hn; cases hn
  · obtain ⟨-, hn⟩ := List.mem_filter.mp (show l ∈ s.launches.filter fun l => !p.owns l.origin.packet from hl)
    simpa using hn

theorem removePhase_shrinks (s : State) (p : Phase) : Shrinks (s.gangsOf [p]) s (s.removePhase p) where
  gangs x hx := ⟨x, (List.mem_filter.mp hx).1, rfl, rfl⟩
  teams x hx := ⟨x, (List.mem_filter.mp hx).1, rfl, rfl⟩
  launches l hl := (List.mem_filter.mp hl).1
  stays h hn _ e := by
    refine Eq.trans (find?_filter_keep _ _ _ fun x hx => ?_) e
    rw [of_decide_eq_true hx, Bool.not_eq_true', ← Bool.not_eq_true, List.contains_iff_mem, List.mem_map]
    rintro ⟨y, hy, hi⟩
    obtain ⟨hy, ht⟩ := List.mem_filter.mp hy
    exact hn ⟨y, hy, hi, p, List.mem_singleton_self p, List.contains_iff_mem.mp ht⟩

theorem endPhase_shrinks (s : State) (p : Phase) : Shrinks (s.gangsOf [p]) s (s.endPhase p) ∧ Gone p (s.endPhase p) := by
  have hts : ∀ i, s.GangOf (· ∈ s.teamsOf p) i → s.gangsOf [p] i := fun i ⟨x, hx, e, hn⟩ => ⟨x, hx, e, p, List.mem_singleton_self p, hn⟩
  have h1 := Shrinks.killTeams (s := s) (s.teamsOf p)
  have h2 := h1.mapGangs (fun g => if (s.teamsOf p).contains g.team then { g with ops := (g.ops.filter Op.isEngine).map fun o => { o with after := [] } } else g)
    (fun g => by split <;> rfl) (fun g => by split <;> rfl)
    fun g hg hn _ => if_neg fun e => hn (GangOf.shrinks h1 ⟨g, hg, rfl, List.contains_iff_mem.mp e⟩)
  have h3 := (exhaust_keeps (Shrinks (s.GangOf (· ∈ s.teamsOf p)) s) (State.engineStep (s.teamsOf p)) (fun a b e h => h.engineStep e) (2 ^ 64) _ h2).mono hts
  refine ⟨h3.trans ((removePhase_shrinks _ p).mono fun i hi => gangsOf_shrinks h3 (fun _ h => h) hi), removePhase_gone _ p⟩

theorem endPhases_shrinks (ps : List Phase) (s : State) : Shrinks (s.gangsOf ps) s (ps.foldl State.endPhase s) ∧ ∀ p ∈ ps, Gone p (ps.foldl State.endPhase s) := by
  induction ps generalizing s with
  | nil => exact ⟨.refl _ s, nofun⟩
  | cons p ps ih =>
    obtain ⟨h1, g1⟩ := endPhase_shrinks s p
    obtain ⟨h2, g2⟩ := ih (s.endPhase p)
    refine ⟨(h1.mono fun i hi => gangsOf_shrinks (.refl (fun _ => False) s) (fun q hq => by rw [List.mem_singleton.mp hq]; exact List.mem_cons_self) hi).trans
      (h2.mono fun i hi => gangsOf_shrinks h1 (fun q hq => List.mem_cons_of_mem p hq) hi), fun q hq => ?_⟩
    rcases List.mem_cons.mp hq with rfl | hq
    · exact g1.shrinks h2
    · exact g2 q hq

/-! ## What a rollback does once the phases have ended (R359) -/

/-- The gangs, teams and launches of the module, and its undo log. -/
def State.units (s : State) : List Gang × List Team × List Launch × List Undo := (s.gangs, s.teams, s.launches, s.undo)

theorem units_foldl {α : Type} (f : State → α → State) (hf : ∀ s a, (f s a).units = s.units) (L : List α) (s : State) : (L.foldl f s).units = s.units :=
  foldl_keeps (fun t : State => t.units = s.units) f (fun t a e => (hf t a).trans e) L s rfl

theorem units_undoOne (s : State) (u : Undo) : (s.undoOne u).units = s.units := by
  unfold State.undoOne
  split <;> rfl

theorem units_restoreGranules (s : State) (p : Phase) : (s.restoreGranules p).units = s.units := by
  unfold State.restoreGranules
  refine units_foldl _ ?_ _ s
  exact fun _ _ => rfl

theorem units_restoreStores (s : State) (p : Phase) : (s.restoreStores p).units = s.units := rfl

theorem units_qputRefused (s : State) (e : Entry) : (s.qputRefused e).units = s.units := by
  unfold State.qputRefused State.spent State.complete
  split <;> rfl

theorem units_requeue (s : State) (p : Phase) : (s.requeue p).units = s.units := by
  refine (units_foldl _ units_qputRefused _ _).trans ((units_foldl _ ?_ _ _).trans ?_)
  · exact fun _ _ => rfl
  · rfl

theorem units_requeued (lost : Bool) (s : State) (p : Phase) : ((if lost then State.failJob else State.requeue) s p).units = s.units := by
  cases lost with
  | true => rfl
  | false => exact units_requeue s p

theorem units_record (s : State) (d kind cause : Nat) (tag : W32) (handle addr : W64) : (s.record d kind cause tag handle addr).units = s.units := by
  have h := congrArg State.units (record_frame s d kind cause tag handle addr)
  exact h

/-- What the bytes of the undo log are put back into is no gang, team or launch. -/
theorem units_undone (s : State) : ({ if s.logLost then s else s.undo.reverse.foldl State.undoOne s with undo := [] } : State).units = (s.gangs, s.teams, s.launches, []) := by
  have h : (if s.logLost then s else s.undo.reverse.foldl State.undoOne s).units = s.units := by
    split
    · rfl
    · exact units_foldl _ units_undoOne _ s
  exact congrArg (fun u : List Gang × List Team × List Launch × List Undo => (u.1, u.2.1, u.2.2.1, ([] : List Undo))) h

/-- A rollback leaves the gangs, teams and launches that the end of the phases leaves, and an empty log. -/
theorem units_rollback (s : State) (d : Nat) : (s.rollback d).units =
    let t := (s.phases.filter fun p => decide (p.asid ≠ 0)).foldl State.endPhase s
    (t.gangs, t.teams, t.launches, []) := by
  unfold State.rollback
  refine (units_record _ _ _ _ _ _ _).trans ?_
  refine Eq.trans (b := State.units (List.foldl _ _ _)) rfl ((units_foldl _ (units_requeued _) _ _).trans ?_)
  exact (units_foldl _ (fun t p => (units_restoreStores _ p).trans (units_restoreGranules t p)) _ _).trans (units_undone _)

theorem rollback_shrinks (s : State) (d : Nat) : Shrinks (s.gangsOf (s.phases.filter fun p => decide (p.asid ≠ 0))) s (s.rollback d) ∧
    (∀ p ∈ s.phases, p.asid ≠ 0 → Gone p (s.rollback d)) ∧ (s.rollback d).undo = [] := by
  obtain ⟨h, g⟩ := endPhases_shrinks (s.phases.filter fun p => decide (p.asid ≠ 0)) s
  have e := units_rollback s d
  simp only [State.units, Prod.mk.injEq] at e
  obtain ⟨eg, et, el, eu⟩ := e
  refine ⟨h.same eg et el, fun p hp ha => ?_, eu⟩
  have := g p (List.mem_filter.mpr ⟨hp, by simpa using ha⟩)
  rwa [Gone, ← et, ← el] at this

/-! ## A gang at its entry point (R89, R348) -/

theorem thread_freshGang (id team idx width v : Nat) (quads : BitVec 4) (prio : Nat) (pc : W64) (tvec : BitVec 56) (live l : Nat) :
    (freshGang id team idx width v quads prio pc tvec live).thread l =
      if l < width then { pc := pc, status := if l < live then .ready else .exited } else { status := .exited } := by
  by_cases h : l < width <;> simp [Gang.thread, freshGang, List.getD_eq_getElem?_getD, h]

theorem thread_restartGang (s : State) (g : Gang) (l : Nat) : (s.restartGang g).thread l =
    if l < g.width then { pc := pktCode (s.teamOf g).origin.packet, status := .ready } else { status := .exited } := by
  have h : (s.restartGang g).thread l = (freshGang g.id g.team g.index.toNat g.width g.vcount g.quads (pktPrio (s.teamOf g).origin.packet) (pktCode (s.teamOf g).origin.packet)
      (pktTvec (s.teamOf g).origin.packet) g.width).thread l := by
    simp only [Gang.thread, State.restartGang, setSreg_threads]
  rw [h, thread_freshGang]
  split <;> rfl

theorem laneSet_none (m : Lanes) (p : Nat → Bool) (h : ∀ l, p l = false) : lanesWhere m p = 0 := by
  rw [lanesWhere, List.filter_eq_nil_iff.mpr fun l _ => by rw [h]; exact Bool.false_ne_true]; rfl

theorem restartGang_untaking (s : State) (g : Gang) : (s.restartGang g).Untaking := fun c k => by
  refine laneSet_none _ _ fun l => ?_
  rw [thread_restartGang]
  split <;> rfl

@[simp] theorem restartGang_id (s : State) (g : Gang) : (s.restartGang g).id = g.id := by simp [State.restartGang, freshGang]
@[simp] theorem restartGang_team (s : State) (g : Gang) : (s.restartGang g).team = g.team := by simp [State.restartGang, freshGang]

theorem restartGang_atEntry (s : State) (g : Gang) (hw : g.width = pktWidth (s.teamOf g).origin.packet) (hv : g.vcount = pktVregs (s.teamOf g).origin.packet) :
    AtEntry (s.restartGang g) (s.teamOf g).origin.packet (pktCode (s.teamOf g).origin.packet) g.width (fun _ _ => 0) fun k =>
      if k = 1 then pktArg (s.teamOf g).origin.packet else if k = 2 then BitVec.ofNat 64 (pktCount (s.teamOf g).origin.packet) else 0 := by
  have hwidth : (s.restartGang g).width = g.width := by simp [State.restartGang, freshGang]
  constructor
  case shape => exact ⟨hwidth.trans hw, by simp [State.restartGang, freshGang, hv]⟩
  case lanes =>
    intro l hl
    rw [hwidth] at hl
    rw [thread_restartGang, if_pos hl, if_pos hl]
    exact ⟨⟨rfl, rfl, rfl⟩, rfl, rfl⟩
  case vregs =>
    intro l n hl
    rw [hwidth] at hl
    rw [Gang.vreg, thread_restartGang, if_pos hl]; rfl
  case sregs =>
    intro n
    refine (sreg_setSreg _ 2 _ n).trans ?_
    rw [sreg_setSreg]
    by_cases h0 : n = 0
    · subst h0; rfl
    · have hf : ∀ h : Gang, h.sregs = [] → h.sreg n = 0 := fun h e => by rw [Gang.sreg, if_neg h0, e]; rfl
      rw [hf _ rfl, if_neg h0, if_neg h0]
      split
      · next h => subst h; rfl
      · split
        · next h => rw [if_pos h.symm]
        · next h2 h1 => rw [if_neg (Ne.symm h1), if_neg (Ne.symm h2)]
  case masks => intro n; simp [State.restartGang, freshGang, Gang.mreg, look]
  case specials => simp [State.restartGang, freshGang]
  case idle => simp [State.restartGang, freshGang]

/-! ## A restart of the runtime (R348) -/

/-- Whether a gang is the runtime's on a die. -/
def State.runtimeOn (s : State) (d : Nat) (g : Gang) : Bool := s.system g && decide (dieOf (s.cuOf g) = d)

/-- The team as a restart of the runtime leaves it. -/
def State.restartTeam (s : State) (d : Nat) (t : Team) : Team :=
  if ((s.gangs.filter (s.runtimeOn d)).map Gang.team).contains t.id then
    { freshTeam t.id t.cu t.origin with index := t.index, isTask := t.isTask, chain := t.chain, group := t.group, groupSize := t.groupSize, rank := t.rank }
  else t

/-- The runtime's gangs and teams on a die are at their entry points. -/
def State.restarted (s : State) (d : Nat) : State :=
  { s with gangs := s.gangs.map fun g => if s.runtimeOn d g then s.restartGang g else g, teams := s.teams.map (s.restartTeam d) }

theorem deviceRuntimeRestart_eq (d : Nat) (s : State) : execDeviceRuntimeRestart d s =
    if s.gangs.any fun g => s.runtimeOn d g && g.crashed then .next (((s.restarted d).rollback d).prunePins) else .fault .notEnabled := rfl

theorem runtimeOn_iff {s : State} {d : Nat} {g : Gang} : s.runtimeOn d g = true ↔ s.system g = true ∧ dieOf (s.cuOf g) = d := by
  rw [State.runtimeOn, Bool.and_eq_true, decide_eq_true_eq]

theorem restartTeam_same (s : State) (d : Nat) (t : Team) : (s.restartTeam d t).id = t.id ∧ (s.restartTeam d t).origin = t.origin := by
  unfold State.restartTeam
  split <;> exact ⟨rfl, rfl⟩

theorem restarted_gang (s : State) (d : Nat) {g : Gang} (hg : s.gang? g.id = some g) (hd : s.runtimeOn d g = true) : (s.restarted d).gang? g.id = some (s.restartGang g) := by
  refine (find?_map_id Gang.id (fun g => if s.runtimeOn d g then s.restartGang g else g) (fun x => ?_) s.gangs g.id).trans ((congrArg (Option.map _) hg).trans ?_)
  · split
    · exact restartGang_id s x
    · rfl
  · rw [Option.map_some, if_pos hd]

/-- The gangs that a phase's end may touch are among those of its teams, as they were before the restart. -/
theorem gangsOf_restarted {s : State} {d i : Nat} {ps : List Phase} (h : (s.restarted d).gangsOf ps i) : s.gangsOf ps i := by
  obtain ⟨x, hx, hi, p, hp, hn⟩ := h
  obtain ⟨y, hy, rfl⟩ := List.mem_map.mp hx
  obtain ⟨z, hz, ez, ho⟩ := mem_teamsOf.mp hn
  obtain ⟨w, hw, rfl⟩ := List.mem_map.mp hz
  obtain ⟨e1, e2⟩ := restartTeam_same s d w
  have hy2 : (if s.runtimeOn d y then s.restartGang y else y).id = y.id ∧ (if s.runtimeOn d y then s.restartGang y else y).team = y.team := by
    split <;> simp
  refine ⟨y, hy, hy2.1.symm.trans hi, p, hp, mem_teamsOf.mpr ⟨w, hw, ?_, by rw [← e2]; exact ho⟩⟩
  rw [← e1, ez, hy2.2]

/-- A runtime of which no gang has faulted is not started again. -/
theorem deviceRuntimeRestart_idle {d : Nat} {s : State} (h : ∀ g ∈ s.gangs, s.runtimeOn d g = true → g.crashed = false) : exec (.deviceRuntimeRestart d) s = .fault .notEnabled := by
  rw [exec_deviceRuntimeRestart, deviceRuntimeRestart_eq, if_neg]
  rw [List.any_eq_true]
  rintro ⟨g, hg, e⟩
  obtain ⟨e1, e2⟩ := Bool.and_eq_true_iff.mp e
  rw [h g hg e1] at e2; cases e2

/-- A runtime of which a gang has faulted is started again, and the phases are rolled back. -/
theorem deviceRuntimeRestart_restarts {d : Nat} {s : State} {g : Gang} (hg : g ∈ s.gangs) (hd : s.runtimeOn d g = true) (hc : g.crashed = true) :
    exec (.deviceRuntimeRestart d) s = .next (((s.restarted d).rollback d).prunePins) := by
  rw [exec_deviceRuntimeRestart, deviceRuntimeRestart_eq, if_pos]
  exact List.any_eq_true.mpr ⟨g, hg, by rw [hd, hc]; rfl⟩

/-- A gang of the runtime whose team is in no phase in progress stands at its entry point after the restart. -/
theorem restarted_atEntry {d : Nat} {s : State} {g : Gang} (hd : s.runtimeOn d g = true) (hg : s.gang? g.id = some g)
    (hn : ¬s.gangsOf (s.phases.filter fun p => decide (p.asid ≠ 0)) g.id) : (((s.restarted d).rollback d).prunePins).gang? g.id = some (s.restartGang g) := by
  have h := (rollback_shrinks (s.restarted d) d).1.stays (s.restartGang g) (fun e => hn ?_) (restartGang_untaking s g) ?_
  · rw [restartGang_id] at h; exact h
  · rw [restartGang_id] at e; exact gangsOf_restarted e
  · rw [restartGang_id]; exact restarted_gang s d hg hd

end Sys2Proof.Machine
end

section
/-!
Proofs: the management obligation (O58).
-/
namespace Sys2Proof

open Machine

/-- Settles O58, clause by clause. -/
theorem management : Obligations.Management := by
  unfold Obligations.Management
  refine ⟨fun d asid va n s hb => ⟨fun i h => ⟨_, measurementRead_refused hb h, rfl⟩, measurementRead_waits hb, fun pas => measurementRead_answers hb⟩,
    fun d x s hb => ⟨fun i h => ⟨_, markExecutable_refused hb h, rfl⟩, fun i h => markExecutable_delayed hb h, fun pas ho ha => ⟨fun h => ⟨_, markExecutable_unsigned hb ho ha h, rfl⟩,
      fun hm hs => ⟨markExecutable_waits hb ho ha hm hs, markExecutable_marks hb ho ha hm hs⟩⟩⟩,
    fun job s => ⟨_, rfl, rfl⟩, fun d s => ⟨_, _, _, rfl, rfl⟩,
    fun d w s => ⟨fun h1 h2 => ⟨_, powerCapSet_inside d h1 h2, dieIs_onDie s d _⟩, powerCapSet_outside d⟩, ?_,
    fun d s => ⟨fun h => ⟨_, stretchEnd_stretching h, dieIs_onDie s d _⟩, stretchEnd_idle⟩,
    retrain_steps, correctedSoftError_counts, uncorrectableError_recorded, fun d s => ?_, fun d s => ⟨fun h => ?_, ?_⟩⟩
  case refine_1 =>
    rintro i d s (rfl | rfl)
    · exact ⟨_, rfl, dieIs_onDie s d _⟩
    · exact ⟨_, rfl, dieIs_onDie s d _⟩
  case refine_2 =>
    have h := dieIs_onDie s d fun x => { pending := x.pending }
    refine ⟨_, rfl, h, ?_⟩
    rw [h.1]
    exact ⟨rfl, rfl, rfl, rfl, rfl, rfl, rfl⟩
  case refine_3 => exact deviceRuntimeRestart_idle fun g hg hd => h g ⟨hg, runtimeOn_iff.mp hd⟩
  case refine_4 =>
    rintro ⟨c, ⟨hc, hr⟩, hf⟩
    obtain ⟨-, hgone, hundo⟩ := rollback_shrinks (s.restarted d) d
    refine ⟨_, deviceRuntimeRestart_restarts hc (runtimeOn_iff.mpr hr) hf, hundo, hgone, fun g ⟨_, hg⟩ hi hone hfree hw hv => ?_⟩
    refine ⟨_, restarted_atEntry (runtimeOn_iff.mpr hg) hi ?_, restartGang_team s g, ?_, ?_, restartGang_atEntry s g hw hv⟩
    · rintro ⟨x, hx, ei, p, hp, ht⟩
      obtain ⟨hp, ha⟩ := List.mem_filter.mp hp
      obtain ⟨y, hy, et, ho⟩ := mem_teamsOf.mp ht
      have := hfree p hp (by simpa using ha) y hy (et.trans (hone x hx ei))
      rw [ho] at this; cases this
    · simp [State.restartGang, freshGang]
    · simp [State.restartGang, freshGang]

end Sys2Proof
end

section
/-!
Proofs: machine integers against exact arithmetic: the sums, products, shifts, fields and counts that the tables of the spec write in exact integers.
-/
namespace Sys2Proof.Machine

/-! ## Sums, products and orders -/

theorem ofInt_add_toInt {w : Nat} (a b : BitVec w) : BitVec.ofInt w (a.toInt + b.toInt) = a + b := by
  rw [BitVec.ofInt_add, BitVec.ofInt_toInt, BitVec.ofInt_toInt]

theorem ofInt_sub_toInt {w : Nat} (a b : BitVec w) : BitVec.ofInt w (a.toInt - b.toInt) = a - b := by
  rw [Int.sub_eq_add_neg, BitVec.ofInt_add, BitVec.ofInt_neg, BitVec.ofInt_toInt, BitVec.ofInt_toInt, BitVec.sub_eq_add_neg]

theorem ofInt_mul_toInt {w : Nat} (a b : BitVec w) : BitVec.ofInt w (a.toInt * b.toInt) = a * b := by
  rw [BitVec.ofInt_mul, BitVec.ofInt_toInt, BitVec.ofInt_toInt]

theorem ofInt_mad_toInt {w : Nat} (a b d : BitVec w) : BitVec.ofInt w (a.toInt * b.toInt + d.toInt) = a * b + d := by
  rw [BitVec.ofInt_add, ofInt_mul_toInt, BitVec.ofInt_toInt]

theorem two_pow_pos_int (w : Nat) : (0 : Int) < 2 ^ w := Int.pow_pos (by decide)

/-- The digit above the lowest of a number in base `k`. -/
theorem emod_sq_ediv (p : Int) {k : Int} (hk : 0 < k) : p % (k * k) / k = p / k % k := by
  rw [Int.emod_def, Int.emod_def, ← Int.ediv_ediv_of_nonneg (Int.le_of_lt hk), Int.sub_eq_add_neg, ← Int.mul_neg, Int.mul_assoc,
    Int.add_mul_ediv_left _ _ (Int.ne_of_gt hk), Int.mul_neg, ← Int.sub_eq_add_neg]

/-- A machine integer of an exact one, as an exact integer. -/
theorem toNat_ofInt_cast (w : Nat) (p : Int) : ((BitVec.ofInt w p).toNat : Int) = p % 2 ^ w := by
  rw [BitVec.toNat_ofInt, Int.natCast_pow]
  exact Int.toNat_of_nonneg (Int.emod_nonneg _ (Int.ne_of_gt (two_pow_pos_int w)))

/-- The upper half of a product of `2w` bits is the exact product shifted down. -/
theorem extract_upper {w : Nat} (p : Int) : (BitVec.ofInt (w + w) p).extractLsb' w w = BitVec.ofInt w (p / 2 ^ w) := by
  refine BitVec.eq_of_toNat_eq (Int.natCast_inj.mp ?_)
  rw [BitVec.extractLsb'_toNat, Nat.shiftRight_eq_div_pow, Int.natCast_emod, Int.natCast_ediv, toNat_ofInt_cast, toNat_ofInt_cast, Int.natCast_pow, Int.pow_add]
  exact (congrArg (· % (2 : Int) ^ w) (emod_sq_ediv p (two_pow_pos_int w))).trans (Int.emod_emod _ _)

theorem ofInt_mul_upper {w : Nat} (a b : BitVec w) :
    BitVec.ofInt w (a.toInt * b.toInt / 2 ^ w) = (a.signExtend (w + w) * b.signExtend (w + w)).extractLsb' w w := by
  rw [← extract_upper, BitVec.ofInt_mul]; rfl

theorem ofNat_mul_upper {w : Nat} (a b : BitVec w) :
    BitVec.ofNat w (a.toNat * b.toNat / 2 ^ w) = (a.setWidth (w + w) * b.setWidth (w + w)).extractLsb' w w := by
  have h : a.toNat * b.toNat < 2 ^ (w + w) := by rw [Nat.pow_add]; exact Nat.mul_lt_mul'' a.isLt b.isLt
  have ha : a.toNat < 2 ^ (w + w) := Nat.lt_of_lt_of_le a.isLt (Nat.pow_le_pow_right (by omega) (by omega))
  have hb : b.toNat < 2 ^ (w + w) := Nat.lt_of_lt_of_le b.isLt (Nat.pow_le_pow_right (by omega) (by omega))
  refine BitVec.eq_of_toNat_eq ?_
  rw [BitVec.extractLsb'_toNat, BitVec.toNat_mul, BitVec.toNat_setWidth, BitVec.toNat_setWidth, Nat.mod_eq_of_lt ha, Nat.mod_eq_of_lt hb, Nat.mod_eq_of_lt h,
    Nat.shiftRight_eq_div_pow, BitVec.toNat_ofNat]

/-- The minimum by the exact order is the model's, which asks whether the second is below the first. -/
theorem min_toInt {w : Nat} (a b : BitVec w) : (if a.toInt ≤ b.toInt then a else b) = if b.slt a = true then b else a := by
  simp only [BitVec.slt_eq_decide, decide_eq_true_eq]
  by_cases h : a.toInt ≤ b.toInt
  · rw [if_pos h, if_neg (by omega)]
  · rw [if_neg h, if_pos (by omega)]

theorem min_toNat {w : Nat} (a b : BitVec w) : (if a.toNat ≤ b.toNat then a else b) = if b.ult a = true then b else a := by
  simp only [BitVec.ult_eq_decide, decide_eq_true_eq]
  by_cases h : a.toNat ≤ b.toNat
  · rw [if_pos h, if_neg (by omega)]
  · rw [if_neg h, if_pos (by omega)]

/-- At equality either operand is the maximum. -/
theorem max_toInt {w : Nat} (a b : BitVec w) : (if a.toInt ≤ b.toInt then b else a) = if a.slt b = true then b else a := by
  simp only [BitVec.slt_eq_decide, decide_eq_true_eq]
  rcases Int.lt_trichotomy a.toInt b.toInt with h | h | h
  · rw [if_pos (Int.le_of_lt h), if_pos h]
  · rw [BitVec.eq_of_toInt_eq h, ite_self, ite_self]
  · rw [if_neg (by omega), if_neg (by omega)]

theorem max_toNat {w : Nat} (a b : BitVec w) : (if a.toNat ≤ b.toNat then b else a) = if a.ult b = true then b else a := by
  simp only [BitVec.ult_eq_decide, decide_eq_true_eq]
  rcases Nat.lt_trichotomy a.toNat b.toNat with h | h | h
  · rw [if_pos (Nat.le_of_lt h), if_pos h]
  · rw [BitVec.eq_of_toNat_eq h, ite_self, ite_self]
  · rw [if_neg (by omega), if_neg (by omega)]

/-! ## Shifts -/

theorem ofNat_mul_two_pow {w : Nat} (m n : Nat) : BitVec.ofNat w (m * 2 ^ n) = BitVec.ofNat w m <<< n := by
  refine BitVec.eq_of_toNat_eq ?_
  rw [BitVec.toNat_shiftLeft, BitVec.toNat_ofNat, BitVec.toNat_ofNat, Nat.shiftLeft_eq, Nat.mod_mul_mod]

theorem ofNat_shiftLeft {w : Nat} (a : BitVec w) (n : Nat) : BitVec.ofNat w (a.toNat * 2 ^ n) = a <<< n := by
  rw [ofNat_mul_two_pow, BitVec.ofNat_toNat, BitVec.setWidth_eq]

theorem ofNat_ushiftRight {w : Nat} (a : BitVec w) (n : Nat) : BitVec.ofNat w (a.toNat / 2 ^ n) = a >>> n := by
  refine BitVec.eq_of_toNat_eq ?_
  rw [BitVec.toNat_ushiftRight, BitVec.toNat_ofNat, Nat.shiftRight_eq_div_pow, Nat.mod_eq_of_lt (Nat.lt_of_le_of_lt (Nat.div_le_self _ _) a.isLt)]

/-- An arithmetic shift takes the exact quotient. -/
theorem ofInt_sshiftRight {w : Nat} (a : BitVec w) (n : Nat) : BitVec.ofInt w (a.toInt / 2 ^ n) = a.sshiftRight n := by
  have e : a.toInt >>> n = a.toInt / 2 ^ n := by rw [Int.shiftRight_eq_div_pow, Int.natCast_pow]; rfl
  rw [← e]; rfl

theorem rotateLeft_exact {w : Nat} (a : BitVec w) {n : Nat} (h : n < w) :
    a.rotateLeft n = BitVec.ofNat w (a.toNat * 2 ^ n) ||| BitVec.ofNat w (a.toNat / 2 ^ (w - n)) := by
  rw [BitVec.rotateLeft_def, Nat.mod_eq_of_lt h, ofNat_shiftLeft, ofNat_ushiftRight]

/-! ## Fields -/

/-- Putting a low field under an exact upper part. -/
theorem ofInt_append {n m : Nat} (x : Int) (lo : BitVec m) : BitVec.ofInt n x ++ lo = BitVec.ofInt (n + m) (x * 2 ^ m + lo.toNat) := by
  have hlo : (lo.toNat : Int) < 2 ^ m := Int.natCast_pow 2 m ▸ Int.ofNat_lt.mpr lo.isLt
  have hx := Int.emod_lt_of_pos x (two_pow_pos_int n)
  have h0 := Int.emod_nonneg x (Int.ne_of_gt (two_pow_pos_int n))
  have hm := two_pow_pos_int m
  refine BitVec.eq_of_toNat_eq (Int.natCast_inj.mp ?_)
  rw [BitVec.toNat_append, ← Nat.shiftLeft_add_eq_or_of_lt lo.isLt, Nat.shiftLeft_eq, Int.natCast_add, Int.natCast_mul, toNat_ofInt_cast, toNat_ofInt_cast, Int.natCast_pow, Int.pow_add]
  refine (((Int.ediv_emod_unique (q := x / 2 ^ n) (Int.mul_pos (two_pow_pos_int n) hm)).mpr ⟨?_, ?_, ?_⟩).2).symm
  · calc x % 2 ^ n * 2 ^ m + lo.toNat + 2 ^ n * 2 ^ m * (x / 2 ^ n)
      _ = (x % 2 ^ n + 2 ^ n * (x / 2 ^ n)) * 2 ^ m + lo.toNat := by rw [Int.add_mul, Int.mul_right_comm]; omega
      _ = x * 2 ^ m + lo.toNat := by rw [Int.emod_add_mul_ediv]
  · exact Int.add_nonneg (Int.mul_nonneg h0 (Int.le_of_lt hm)) (Int.natCast_nonneg _)
  · calc x % 2 ^ n * 2 ^ m + lo.toNat
      _ < (x % 2 ^ n + 1) * 2 ^ m := by rw [Int.add_mul, Int.one_mul]; exact Int.add_lt_add_left hlo _
      _ ≤ 2 ^ n * 2 ^ m := Int.mul_le_mul_of_nonneg_right hx (Int.le_of_lt hm)

theorem ofNat_append {n m : Nat} (hi : BitVec n) (lo : BitVec m) : hi ++ lo = BitVec.ofNat (n + m) (hi.toNat * 2 ^ m + lo.toNat) := by
  have e : hi = BitVec.ofInt n (hi.toNat : Int) := by rw [BitVec.ofInt_natCast, BitVec.ofNat_toNat, BitVec.setWidth_eq]
  conv => lhs; rw [e]
  rw [ofInt_append, ← BitVec.ofInt_natCast]; rfl

/-! ## Counts -/

theorem length_filter_eq_sum {α : Type} (p : α → Bool) (L : List α) : (L.filter p).length = (L.map fun i => (p i).toNat).sum := by
  induction L with
  | nil => rfl
  | cons a L ih => cases h : p a <;> simp [h, ih, Nat.add_comm]

/-- The length of the longest run of `p` from 0 on among the numbers below `n`. -/
theorem takeWhile_range (p : Nat → Bool) (n : Nat) :
    ((List.range n).takeWhile p).length ≤ n ∧ (∀ i, i < ((List.range n).takeWhile p).length → p i = true) ∧
      (((List.range n).takeWhile p).length < n → p ((List.range n).takeWhile p).length = false) := by
  have hk : (List.range n).findIdx (fun i => !p i) ≤ n := Nat.le_trans List.findIdx_le_length (Nat.le_of_eq List.length_range)
  have e : ((List.range n).takeWhile p).length = (List.range n).findIdx fun i => !p i := by
    rw [List.takeWhile_eq_take_findIdx_not, List.length_take, List.length_range, Nat.min_eq_left hk]
  rw [e]
  refine ⟨hk, fun i hi => ?_, fun h => ?_⟩
  · have := List.not_of_lt_findIdx hi
    rwa [List.getElem_range, Bool.not_eq_false'] at this
  · have := List.findIdx_getElem (p := fun i => !p i) (w := Nat.lt_of_lt_of_eq h List.length_range.symm)
    rwa [List.getElem_range, Bool.not_eq_true'] at this

end Sys2Proof.Machine
end

section
/-!
Proofs: words that write one register (R91, R95-R109, R141): what the end of the word leaves, said once for a vector register, a scalar and a mask.
-/
namespace Sys2Proof.Machine

variable {i : Instr} {s : State} {g : Gang} {f : Flight} {b : BodyAt}

/-- A word whose meaning is a change of its gang ends with that change. -/
theorem Issues.done (h : Issues i s g f b) (r : Issue → Gang) (e : exec i s = issue i.sig s fun x => x.done (r x)) :
    exec i s = .next (s.setGang ((r ⟨s, g, f, b, i.sig.size⟩).advance f i.sig.size).settle) := by
  rw [e, h.runs]; rfl

/-- A lane that issues does not wait at a mask wait or a membership word. -/
theorem Issues.gathers (h : Issues i s g f b) {l : Nat} (hl : f.lanes.getLsbD l = true) : (g.thread l).gathers = false := by
  simp [Thread.gathers, h.ready l hl]

theorem setVreg_thread_same {α : Type} (q : Thread → α) (hq : ∀ t n v, q (t.setReg n v) = q t) (g : Gang) (m : Lanes) (n : Nat) (v : Nat → W32) (l : Nat) :
    q ((g.setVreg m n v).thread l) = q (g.thread l) := thread_mapLanes_same q g m _ l fun k t => hq t n (v k)

/-- A word that gives each issuing lane a value in register `n`: that value, and the frame (R91). -/
theorem Issues.setsVector (h : Issues i s g f b) {n : Nat} (r : Gang → Nat → W32)
    (e : ∀ s, exec i s = issue i.sig s fun x => x.done (x.g.setVreg x.lanes n (r x.g))) :
    ∃ t m, exec i s = .next t ∧ t.gang? g.id = some m ∧ (∀ l, f.lanes.getLsbD l = true → m.vreg l n = r g l) ∧
      Frame { vreg := fun l k => f.lanes.getLsbD l = true ∧ k = n } s t g := by
  let w := g.setVreg f.lanes n (r g)
  have hg : ∀ l, (w.thread l).gathers = (g.thread l).gathers := setVreg_thread_same Thread.gathers (fun _ _ _ => rfl) g _ _ _
  have hid : (w.advance f i.sig.size).settle.id = g.id := (ended_rest w f _).2.2.1
  refine ⟨_, _, h.done _ (e s), gang?_setGang_self s g _ h.gang hid, fun l hl => ?_, frame_setGang _ s g _ h.gang hid ?_⟩
  · have hw := ended_vreg w f i.sig.size l n (by rw [hg]; exact h.gathers hl)
    exact hw.trans ((vreg_setVreg g _ n _ l n).trans (if_pos ⟨⟨hl, h.has l hl⟩, rfl⟩))
  · refine frame_ended _ g w f _ hg (fun l k hk => (vreg_setVreg g _ n _ l k).trans (if_neg ?_)) (fun l _ => ?_) (fun l _ => ?_)
      (fun _ _ => rfl) (fun _ _ => rfl) (fun _ => rfl) (fun _ => rfl) rfl
    · rintro ⟨⟨hl, -⟩, rfl⟩; exact hk ⟨hl, rfl⟩
    · exact setVreg_thread_same Thread.cursors (fun _ _ _ => rfl) g _ _ _ l
    · exact setVreg_thread_same Thread.delivery (fun _ _ _ => rfl) g _ _ _ l

/-- A word that gives scalar `n` a value: that value, but s0 stays 0 (R90), and the frame. -/
theorem Issues.setsScalar (h : Issues i s g f b) {n : Nat} (r : Gang → W64) (e : ∀ s, exec i s = issue i.sig s fun x => x.done (x.g.setSreg n (r x.g))) :
    ∃ t m, exec i s = .next t ∧ t.gang? g.id = some m ∧ ((∀ l, (g.thread l).gathers = false) → m.sreg n = if n = 0 then 0 else r g) ∧
      Frame { sreg := fun k => k = n } s t g := by
  let w := g.setSreg n (r g)
  have hth : w.threads = g.threads := setSreg_threads g n _
  have hg : ∀ l, (w.thread l).gathers = (g.thread l).gathers := fun l => by simp only [Gang.thread, hth]
  have hid : (w.advance f i.sig.size).settle.id = g.id := (ended_rest w f _).2.2.1.trans (setSreg_id g n _)
  refine ⟨_, _, h.done _ (e s), gang?_setGang_self s g _ h.gang hid, fun hq => ?_, frame_setGang _ s g _ h.gang hid ?_⟩
  · have hw := (ended_files w f i.sig.size fun l => by rw [hg]; exact hq l).1
    have hr : (w.advance f i.sig.size).settle.sreg n = w.sreg n := by simp only [Gang.sreg, hw]
    refine hr.trans ((sreg_setSreg g n _ n).trans ?_)
    rw [if_pos rfl]
  · refine frame_ended _ g w f _ hg (fun l k _ => ?_) (fun l _ => ?_) (fun l _ => ?_) (fun k hk => ?_) (fun k _ => ?_) (fun _ => setSreg_fstat g n _) (fun _ => setSreg_ops g n _) ?_
    · simp only [Gang.vreg, Gang.thread, hth]
    · simp only [Gang.thread, hth]
    · simp only [Gang.thread, hth]
    · refine (sreg_setSreg g n _ k).trans ?_
      rw [if_neg (Ne.symm hk)]
      split
      · next h0 => rw [h0]; rfl
      · rfl
    · simp only [Gang.mreg, w, setSreg_masks]
    · simp only [w, Gang.setSreg]; split <;> rfl

/-- A word that writes the bits of the issuing lanes in mask `n`: those bits below the width, with the other lanes' bits as before, and the frame (R141). -/
theorem Issues.setsMaskLanes (h : Issues i s g f b) {n : Nat} (r : Gang → Lanes → Lanes) (e : ∀ s, exec i s = issue i.sig s fun x => x.done (x.g.setMaskLanes x.lanes n (r x.g x.lanes))) :
    ∃ t m, exec i s = .next t ∧ t.gang? g.id = some m ∧
      ((∀ l, (g.thread l).gathers = false) → ∀ l, (m.mreg n).getLsbD l = (g.lanes.getLsbD l && if f.lanes.getLsbD l = true then (r g f.lanes).getLsbD l else (g.mreg n).getLsbD l)) ∧
      Frame { mask := fun k => k = n } s t g := by
  let w := g.setMaskLanes f.lanes n (r g f.lanes)
  have hid : (w.advance f i.sig.size).settle.id = g.id := (ended_rest w f _).2.2.1
  refine ⟨_, _, h.done _ (e s), gang?_setGang_self s g _ h.gang hid, fun hq l => ?_, frame_setGang _ s g _ h.gang hid ?_⟩
  · have hw := (ended_files w f i.sig.size hq).2.1
    have hr : (w.advance f i.sig.size).settle.mreg n = w.mreg n := by simp only [Gang.mreg, hw]
    have hl : g.lanes.getLsbD l = true → l < 64 := fun hl => BitVec.lt_of_getLsbD hl
    refine (congrArg (BitVec.getLsbD · l) (hr.trans ((mreg_setMaskLanes g _ n _ n).trans (if_pos rfl)))).trans ?_
    simp only [BitVec.getLsbD_and, BitVec.getLsbD_or, BitVec.getLsbD_not]
    cases h1 : g.lanes.getLsbD l
    · simp
    · cases f.lanes.getLsbD l <;> simp [hl h1]
  · exact frame_ended _ g w f _ (fun _ => rfl) (fun _ _ _ => rfl) (fun _ _ => rfl) (fun _ _ => rfl) (fun _ _ => rfl)
      (fun k hk => (mreg_setMaskLanes g _ n _ k).trans (if_neg (Ne.symm hk))) (fun _ => rfl) (fun _ => rfl) rfl

end Sys2Proof.Machine
end

section
/-!
Proofs: the vector integer words (R95-R104, R109): each meaning is one vector write whose values are those of the tables.
-/
namespace Sys2Proof.Machine

/-! ## iop (R95) -/

/-- Every row of R95 writes the table's result. -/
theorem exec_iopRow {i : Instr} {x : Nat} {b a d : BitVec 7} (h : iopRow i = some (x, b, a, d)) (s : State) :
    exec i s = issue i.sig s fun y => y.done (y.g.setVreg y.lanes d.toNat fun l => iopResult x (y.g.vreg l a.toNat) (y.g.vreg l b.toNat) (y.g.vreg l d.toNat)) := by
  unfold iopRow at h
  split at h <;> cases h <;>
    simp only [iopResult, ofInt_add_toInt, ofInt_sub_toInt, ofInt_mul_toInt, ofInt_mul_upper, ofNat_mul_upper, ofInt_mad_toInt, min_toInt, max_toInt, min_toNat, max_toNat,
      ofNat_shiftLeft, ofNat_ushiftRight, ofInt_sshiftRight]
  all_goals rfl

/-! ## Immediates, shifts and the rotate (R97, R98) -/

theorem exec_immRow {i : Instr} {x : Nat} {im : BitVec 11} {a d : BitVec 7} (h : immRow i = some (x, im, a, d)) (s : State) :
    exec i s = issue i.sig s fun y => y.done (y.g.setVreg y.lanes d.toNat fun l => iopResult x (y.g.vreg l a.toNat) (BitVec.ofInt 32 im.toInt) 0) := by
  unfold immRow at h
  split at h <;> cases h <;> simp only [iopResult, ofInt_add_toInt, ofInt_mul_toInt] <;> rfl

/-- An amount of five bits, taken as a register's value, is itself. -/
theorem ofNat_amount (n : BitVec 5) : (BitVec.ofNat 32 n.toNat).toNat % 32 = n.toNat := by
  have := n.isLt
  rw [BitVec.toNat_ofNat]; omega

theorem exec_shiftRow {i : Instr} {x : Option Nat} {n : BitVec 5} {a d : BitVec 7} (h : shiftRow i = some (x, n, a, d)) (s : State) :
    exec i s = issue i.sig s fun y => y.done (y.g.setVreg y.lanes d.toNat fun l => shiftResult x n.toNat (y.g.vreg l a.toNat)) := by
  unfold shiftRow at h
  split at h <;> cases h <;>
    simp only [shiftResult, iopResult, ofNat_amount, ofNat_shiftLeft, ofNat_ushiftRight, ofInt_sshiftRight]
  case h_4 => simp only [← ofNat_shiftLeft, ← ofNat_ushiftRight, ← rotateLeft_exact _ n.isLt]; rfl
  all_goals rfl

/-! ## iun (R99) -/

theorem ofInt_neg_toInt (v : W32) : -v = BitVec.ofInt 32 (0 - v.toInt) := by rw [Int.zero_sub, BitVec.ofInt_neg, BitVec.ofInt_toInt]

/-- The absolute value, that of -2^31 being 2^31. -/
theorem ofNat_natAbs_toInt (v : W32) : (if v.slt 0 = true then -v else v) = BitVec.ofNat 32 v.toInt.natAbs := by
  have h0 : (0 : W32).toInt = 0 := rfl
  simp only [← BitVec.ofInt_natCast, BitVec.slt_eq_decide, decide_eq_true_eq, h0]
  by_cases h : v.toInt < 0
  · rw [if_pos h, Int.ofNat_natAbs_of_nonpos (Int.le_of_lt h), BitVec.ofInt_neg, BitVec.ofInt_toInt]
  · rw [if_neg h, Int.natAbs_of_nonneg (Int.not_lt.mp h), BitVec.ofInt_toInt]

theorem toNat_popcount (v : W32) : (popcount v).toNat = ((List.range 32).map fun i => (v.getLsbD i).toNat).sum := by
  have h := List.length_filter_le (fun i => v.getLsbD i) (List.range 32)
  rw [List.length_range] at h
  rw [popcount, BitVec.toNat_ofNat, ← length_filter_eq_sum, Nat.mod_eq_of_lt (by omega)]

/-- A count of leading or trailing zeros is at most 32, so that no bit of it is lost. -/
theorem toNat_run (p : Nat → Bool) : (BitVec.ofNat 32 ((List.range 32).takeWhile p).length).toNat = ((List.range 32).takeWhile p).length := by
  rw [BitVec.toNat_ofNat, Nat.mod_eq_of_lt (by have := (takeWhile_range p 32).1; omega)]

theorem leadingZeros_counts (v : W32) : (leadingZeros v).toNat ≤ 32 ∧ (∀ i, i < (leadingZeros v).toNat → v.getLsbD (31 - i) = false) ∧
    ((leadingZeros v).toNat < 32 → v.getLsbD (31 - (leadingZeros v).toNat) = true) := by
  obtain ⟨h1, h2, h3⟩ := takeWhile_range (fun i => !v.getLsbD (31 - i)) 32
  rw [leadingZeros, toNat_run]
  exact ⟨h1, fun i hi => by simpa using h2 i hi, fun h => by simpa using h3 h⟩

theorem trailingZeros_counts (v : W32) : (trailingZeros v).toNat ≤ 32 ∧ (∀ i, i < (trailingZeros v).toNat → v.getLsbD i = false) ∧
    ((trailingZeros v).toNat < 32 → v.getLsbD (trailingZeros v).toNat = true) := by
  obtain ⟨h1, h2, h3⟩ := takeWhile_range (fun i => !v.getLsbD i) 32
  rw [trailingZeros, toNat_run]
  exact ⟨h1, fun i hi => by simpa using h2 i hi, fun h => by simpa using h3 h⟩

theorem getLsbD_bitReverse (v : W32) (i : Nat) (h : i < 32) : (bitReverse v).getLsbD i = v.getLsbD (31 - i) := by
  rw [bitReverse, BitVec.getLsbD_reverse, BitVec.getMsbD_eq_getLsbD, decide_eq_true h, Bool.true_and]

/-- The signed value of the low bits. -/
theorem toInt_low8 (v : W32) : (v.setWidth 8).toInt = (v.toInt + 128) % 256 - 128 := by
  have := BitVec.toInt_eq_toNat_cond v
  rw [BitVec.toInt_setWidth, Int.bmod_def]
  split at this <;> omega

theorem toInt_low16 (v : W32) : (v.setWidth 16).toInt = (v.toInt + 32768) % 65536 - 32768 := by
  have := BitVec.toInt_eq_toNat_cond v
  rw [BitVec.toInt_setWidth, Int.bmod_def]
  split at this <;> omega

theorem signExtend_low8 (v : W32) : (v.setWidth 8).signExtend 32 = BitVec.ofInt 32 ((v.toInt + 128) % 256 - 128) := by rw [← toInt_low8]; rfl

theorem signExtend_low16 (v : W32) : (v.setWidth 16).signExtend 32 = BitVec.ofInt 32 ((v.toInt + 32768) % 65536 - 32768) := by rw [← toInt_low16]; rfl

theorem toNat_low (n : Nat) (h : n ≤ 32) (v : W32) : ((v.setWidth n).setWidth 32).toNat = v.toNat % 2 ^ n := by
  rw [BitVec.toNat_setWidth, BitVec.toNat_setWidth, Nat.mod_eq_of_lt]
  exact Nat.lt_of_lt_of_le (Nat.mod_lt _ (Nat.two_pow_pos n)) (Nat.pow_le_pow_right (by omega) h)

/-- What a row of R99 computes, with the property that the table gives it. -/
theorem exec_unaryRow {i : Instr} {a d : BitVec 7} {p : W32 → W32 → Prop} (h : unaryRow i = some (a, d, p)) :
    ∃ r : W32 → W32, (∀ v, p v (r v)) ∧ ∀ s, exec i s = issue i.sig s fun y => y.done (y.g.setVreg y.lanes d.toNat fun l => r (y.g.vreg l a.toNat)) := by
  unfold unaryRow at h
  split at h <;> cases h
  · exact ⟨fun v => ~~~v, fun v i hi => by rw [BitVec.getLsbD_not, decide_eq_true hi, Bool.true_and], fun _ => rfl⟩
  · exact ⟨fun v => -v, ofInt_neg_toInt, fun _ => rfl⟩
  · exact ⟨fun v => if v.slt 0 then -v else v, ofNat_natAbs_toInt, fun _ => rfl⟩
  · exact ⟨popcount, toNat_popcount, fun _ => rfl⟩
  · exact ⟨leadingZeros, leadingZeros_counts, fun _ => rfl⟩
  · exact ⟨trailingZeros, trailingZeros_counts, fun _ => rfl⟩
  · exact ⟨bitReverse, getLsbD_bitReverse, fun _ => rfl⟩
  · exact ⟨fun v => (v.setWidth 8).signExtend 32, signExtend_low8, fun _ => rfl⟩
  · exact ⟨fun v => (v.setWidth 16).signExtend 32, signExtend_low16, fun _ => rfl⟩
  · exact ⟨fun v => (v.setWidth 8).setWidth 32, toNat_low 8 (by omega), fun _ => rfl⟩
  · exact ⟨fun v => (v.setWidth 16).setWidth 32, toNat_low 16 (by omega), fun _ => rfl⟩

/-! ## Fields, select, immediates and broadcasts (R100, R101, R103, R104, R109) -/

theorem insert_eq (w p : Nat) (a d : W32) : insert w p a d = bfiResult (w + 1) p a d := by
  simp only [insert, bfiResult, ofNat_mul_two_pow]
  rw [BitVec.ofNat_toNat, BitVec.setWidth_eq]

/-- A field of a value: its bits from `p` on. -/
theorem toNat_field (e : W64) (p n : Nat) : (e.extractLsb' p n).toNat = e.toNat / 2 ^ p % 2 ^ n := by
  rw [BitVec.extractLsb'_toNat, Nat.shiftRight_eq_div_pow]

theorem extract_unsigned (w p : Nat) (a : W32) : extract false w p a = bfeResult false (w + 1) p a := by
  have ha : (a.setWidth 64).toNat = a.toNat := by rw [BitVec.toNat_setWidth, Nat.mod_eq_of_lt (by have := a.isLt; omega)]
  have h := toNat_field (a.setWidth 64) p (w + 1)
  simp only [extract, bfeResult, Bool.false_eq_true, false_and, if_false]
  rw [← ha, ← h, BitVec.ofNat_toNat]

theorem extract_signed (w p : Nat) (a : W32) : extract true w p a = bfeResult true (w + 1) p a := by
  have h := toNat_field (a.signExtend 64) p (w + 1)
  have hp : 2 ^ (w + 1) = 2 * 2 ^ w := Nat.pow_succ'
  simp only [extract, bfeResult, if_true, true_and, Nat.add_sub_cancel]
  rw [← h, BitVec.signExtend, BitVec.toInt_eq_toNat_cond, hp]
  generalize (BitVec.extractLsb' p (w + 1) (a.signExtend 64)).toNat = x
  by_cases hx : 2 ^ w ≤ x
  · rw [if_neg (by omega), if_pos hx, ← hp, Int.natCast_pow]; rfl
  · rw [if_pos (by omega), if_neg hx, BitVec.ofInt_natCast]

/-- liu keeps the low 14 bits (R104). -/
theorem ofNat_liu (i : BitVec 18) (v : W32) : BitVec.ofNat 32 (i.toNat * 2 ^ 14 + v.toNat % 2 ^ 14) = i ++ v.setWidth 14 := by
  rw [ofNat_append, BitVec.toNat_setWidth]

theorem ofNat_upper (v : W64) : BitVec.ofNat 32 (v.toNat / 2 ^ 32) = v.extractLsb' 32 32 := by rw [← Nat.shiftRight_eq_div_pow]; rfl

theorem exec_fieldRow {i : Instr} {d : BitVec 7} {v : Gang → Nat → W32} (h : fieldRow i = some (d, v)) (s : State) :
    exec i s = issue i.sig s fun y => y.done (y.g.setVreg y.lanes d.toNat (v y.g)) := by
  unfold fieldRow at h
  split at h <;> cases h
  · simp only [← extract_unsigned]; rfl
  · simp only [← extract_signed]; rfl
  · simp only [← insert_eq]; rfl
  · rfl
  · rfl
  · simp only [ofNat_liu]; rfl
  · rfl
  · simp only [ofNat_upper]; rfl

end Sys2Proof.Machine
end

section
/-!
Proofs: the obligations of the vector integer words (O1, O3, O4).
-/
namespace Sys2Proof

open Machine

/-- Settles O1: each word is one vector write of the table's result. -/
theorem iopResults : Obligations.IopResults := by
  unfold Obligations.IopResults
  intro i x b a d s g f at_ hr h
  exact h.setsVector (fun g l => iopResult x (g.vreg l a.toNat) (g.vreg l b.toNat) (g.vreg l d.toNat)) (exec_iopRow hr)

/-- Settles O3: the immediate is the second source of the operation of R95, and a shift amount is one of five bits. -/
theorem immediateResults : Obligations.ImmediateResults := by
  unfold Obligations.ImmediateResults
  refine ⟨?imm, ?shift⟩
  case imm =>
    intro i x im a d s g f at_ hr h
    exact h.setsVector (fun g l => iopResult x (g.vreg l a.toNat) (BitVec.ofInt 32 im.toInt) 0) (exec_immRow hr)
  case shift =>
    intro i x n a d s g f at_ hr h
    exact h.setsVector (fun g l => shiftResult x n.toNat (g.vreg l a.toNat)) (exec_shiftRow hr)

/-- Settles O4: what each word computes has the property, or is the value, that the table gives. -/
theorem unaryAndFieldResults : Obligations.UnaryAndFieldResults := by
  unfold Obligations.UnaryAndFieldResults
  refine ⟨?unary, ?field⟩
  case unary =>
    intro i a d p s g f at_ hr h
    obtain ⟨r, hp, e⟩ := exec_unaryRow hr
    obtain ⟨t, m, he, hg, hv, hf⟩ := h.setsVector (fun g l => r (g.vreg l a.toNat)) e
    exact ⟨t, m, he, hg, fun l hl => by rw [hv l hl]; exact hp _, hf⟩
  case field =>
    intro i d v s g f at_ hr h
    exact h.setsVector v (exec_fieldRow hr)

end Sys2Proof
end

section
/-!
Proofs: compares, scalar words and the moves between the files (R102, R105-R109, R144): each meaning is one mask or scalar write whose value is that of the tables.
-/
namespace Sys2Proof.Machine

/-! ## Conditions (R102, R108) -/

/-- The test that the model makes for row `x` of the conditions. -/
def test {w : Nat} (x : Nat) (a b : BitVec w) : Bool :=
  match x with
  | 0 => a == b
  | 1 => a != b
  | 2 => a.slt b
  | 3 => a.sle b
  | 4 => b.slt a
  | 5 => b.sle a
  | 6 => a.ult b
  | 7 => a.ule b
  | 8 => b.ult a
  | _ => b.ule a

theorem test_iff {w : Nat} (x : Nat) (a b : BitVec w) : test x a b = true ↔ condition x a.toInt b.toInt a.toNat b.toNat := by
  unfold test condition
  split <;> simp [BitVec.toNat_inj, BitVec.slt_eq_decide, BitVec.sle_eq_decide, BitVec.ult_eq_decide, BitVec.ule_eq_decide]

/-- The bits that a compare writes: those of the issuing lanes in which its test holds. -/
def compared (x : Nat) (a b : BitVec 7) (g : Gang) (m : Lanes) : Lanes := lanesWhere m fun l => test x (g.vreg l a.toNat) (g.vreg l b.toNat)

/-- Every row of R102 writes the bits of the issuing lanes by a test of its condition. -/
theorem exec_icmpRow {i : Instr} {x : Nat} {b a : BitVec 7} {m : BitVec 4} (h : icmpRow i = some (x, b, a, m)) (s : State) :
    exec i s = issue i.sig s fun y => y.done (y.g.setMaskLanes y.lanes m.toNat (compared x a b y.g y.lanes)) := by
  unfold icmpRow at h
  split at h <;> cases h <;> rfl

/-- The lanes below a width. -/
theorem getLsbD_lanes (g : Gang) {l : Nat} (h : l < 64) : g.lanes.getLsbD l = decide (l < g.width) := by
  rw [Gang.lanes, widthMask, BitVec.getLsbD_ofNat, Nat.testBit_two_pow_sub_one, decide_eq_true h, Bool.true_and]

/-! ## Scalars (R105-R108) -/

theorem quotient_exact (u v : W64) : (if v.toNat = 0 then BitVec.allOnes 64 else BitVec.ofNat 64 (u.toNat / v.toNat)) = if v = 0 then -1 else u / v := by
  by_cases h : v = 0
  · subst h; rfl
  · have hv : v.toNat ≠ 0 := fun e => h (BitVec.eq_of_toNat_eq e)
    rw [if_neg h, if_neg hv]
    exact BitVec.eq_of_toNat_eq (by rw [← BitVec.toNat_udiv, BitVec.ofNat_toNat, BitVec.setWidth_eq])

theorem remainder_exact (u v : W64) : (if v.toNat = 0 then u else BitVec.ofNat 64 (u.toNat % v.toNat)) = if v = 0 then u else u % v := by
  by_cases h : v = 0
  · subst h; rfl
  · have hv : v.toNat ≠ 0 := fun e => h (BitVec.eq_of_toNat_eq e)
    rw [if_neg h, if_neg hv]
    exact BitVec.eq_of_toNat_eq (by rw [← BitVec.toNat_umod, BitVec.ofNat_toNat, BitVec.setWidth_eq])

/-- Every row of R105 writes the table's result. -/
theorem exec_sopRow {i : Instr} {x : Nat} {b a d : BitVec 7} (h : sopRow i = some (x, b, a, d)) (s : State) :
    exec i s = issue i.sig s fun y => y.done (y.g.setSreg d.toNat (sopResult x (y.g.sreg a.toNat) (y.g.sreg b.toNat))) := by
  unfold sopRow at h
  split at h <;> cases h <;>
    simp only [sopResult, ofInt_add_toInt, ofInt_sub_toInt, ofInt_mul_toInt, ofInt_mul_upper, min_toInt, max_toInt, min_toNat, max_toNat, ofNat_shiftLeft, ofNat_ushiftRight,
      ofInt_sshiftRight, quotient_exact, remainder_exact]
  all_goals rfl

/-- Every row of R108 writes 1 or 0 by a test of its condition. -/
theorem exec_scmpRow {i : Instr} {x : Nat} {b a d : BitVec 7} (h : scmpRow i = some (x, b, a, d)) (s : State) :
    exec i s = issue i.sig s fun y => y.done (y.g.setSreg d.toNat (if test x (y.g.sreg a.toNat) (y.g.sreg b.toNat) then 1 else 0)) := by
  unfold scmpRow at h
  split at h <;> cases h <;> rfl

/-! ## Immediates, masks and other lanes (R106, R107, R109, R144) -/

theorem ofInt_saddi (v : W64) (i : BitVec 11) : BitVec.ofInt 64 (v.toInt + i.toInt) = v + i.signExtend 64 := by
  rw [BitVec.ofInt_add, BitVec.ofInt_toInt]; rfl

/-- sliu, slih and slihu keep the low bits under the immediate (R107). -/
theorem ofInt_sliu (i : BitVec 18) (v : W64) : BitVec.ofInt 64 (i.toInt * 2 ^ 14 + v.toNat % 2 ^ 14) = i.signExtend 50 ++ v.setWidth 14 := by
  rw [BitVec.signExtend, ofInt_append, BitVec.toNat_setWidth]; rfl

theorem ofInt_slih (i : BitVec 14) (v : W64) : BitVec.ofInt 64 (i.toInt * 2 ^ 32 + v.toNat % 2 ^ 32) = i.signExtend 32 ++ v.setWidth 32 := by
  rw [BitVec.signExtend, ofInt_append, BitVec.toNat_setWidth]; rfl

theorem ofNat_slihu (i : BitVec 18) (v : W64) : BitVec.ofNat 64 (i.toNat * 2 ^ 46 + v.toNat % 2 ^ 46) = i ++ v.setWidth 46 := by
  rw [ofNat_append, BitVec.toNat_setWidth]

theorem laneCount_eq_sum (m : Lanes) : laneCount m = ((List.range 64).map fun l => (m.getLsbD l).toNat).sum := length_filter_eq_sum _ _

theorem lowestLane_eq_find (m : Lanes) : lowestLane m = ((List.range 64).find? fun l => m.getLsbD l).getD 64 := by
  rw [lowestLane, lanesOf, List.headD_eq_head?_getD, List.head?_filter]

theorem exec_scalarRow {i : Instr} {d : Nat} {v : Gang → W64} (h : scalarRow i = some (d, v)) (s : State) :
    exec i s = issue i.sig s fun y => y.done (y.g.setSreg d (v y.g)) := by
  unfold scalarRow at h
  split at h <;> cases h
  · simp only [ofInt_saddi]; rfl
  · rfl
  · simp only [ofInt_sliu]; rfl
  · simp only [ofInt_slih]; rfl
  · simp only [ofNat_slihu]; rfl
  · rfl
  · simp only [← laneCount_eq_sum]; rfl
  · simp only [← lowestLane_eq_find]; rfl
  · simp only [BitVec.ofNat_toNat]; rfl

end Sys2Proof.Machine
end

section
/-!
Proofs: the obligations of compares, scalar words and reset (O5, O6, O59).
-/
namespace Sys2Proof

open Machine

/-- Settles O5: below the width the bit of an issuing lane is its test, and that of another lane stays. -/
theorem compareResults : Obligations.CompareResults := by
  unfold Obligations.CompareResults
  intro i x b a m s g f at_ hr h
  obtain ⟨t, k, he, hg, hm, hf⟩ := h.setsMaskLanes (compared x a b) (exec_icmpRow hr)
  refine ⟨t, k, he, hg, fun hq l hl => ?_, hf⟩
  rw [hm hq l, getLsbD_lanes g hl, Bool.and_eq_true, decide_eq_true_eq]
  refine and_congr_right fun _ => ?_
  by_cases hi : f.lanes.getLsbD l = true
  · rw [if_pos hi, if_pos hi, compared, getLsbD_lanesWhere, hi, Bool.true_and, test_iff]
  · rw [if_neg hi, if_neg hi]

/-- Settles O6: each word is one scalar write of the table's result. -/
theorem scalarResults : Obligations.ScalarResults := by
  unfold Obligations.ScalarResults
  refine ⟨⟨?sop, ?scmp⟩, ?other⟩
  case sop =>
    intro i x b a d s g f at_ hr h
    exact h.setsScalar (fun g => sopResult x (g.sreg a.toNat) (g.sreg b.toNat)) (exec_sopRow hr)
  case scmp =>
    intro i x b a d s g f at_ hr h
    obtain ⟨t, k, he, hg, hm, hf⟩ := h.setsScalar (fun g => if test x (g.sreg a.toNat) (g.sreg b.toNat) then 1 else 0) (exec_scmpRow hr)
    refine ⟨t, k, he, hg, fun hq hd => ?_, hf⟩
    rw [hm hq, if_neg hd, ← test_iff]
    cases test x (g.sreg a.toNat) (g.sreg b.toNat) <;> simp
  case other =>
    intro i d v s g f at_ hr h
    exact h.setsScalar v (exec_scalarRow hr)

/-- Settles O59: the state at reset is written out, and its memories are empty. -/
theorem resetState : Obligations.ResetState := by
  unfold Obligations.ResetState
  exact ⟨rfl, rfl, fun _ => rfl, rfl, rfl, rfl, rfl, rfl, fun _ => ⟨rfl, rfl, rfl, rfl, rfl, rfl, rfl, rfl⟩, memoryForm_reset⟩

end Sys2Proof
end

section
/-!
Proofs: a dispatch of 65 records (O50). A set of lanes has 64 bits, so that lane 64 of a gang of 128 lanes receives no entry registers. Width code 3, which gives
128 lanes, is reserved, and packet validation refuses it (R282); but the statement is of every state, also of one that holds a launch of such a packet.
-/
namespace Sys2Proof.Machine

/-- A packet with the reserved width code 3, for the first CU. -/
def wideOrigin : Origin := { packet := BitVec.ofNat 512 (3 * 2 ^ 13 + 2 ^ 256 + 2 ^ 260) }

/-- A record of level 23 with CODE 0. -/
def topRecord (o : Origin) : Record := { words := BitVec.ofNat 256 (23 * 2 ^ 56), origin := o }

/-- 64 records of a packet that no CU may run, under one like them of the wide packet. -/
def crowd : List Record := List.replicate 64 (topRecord {}) ++ [topRecord wideOrigin]

/-- The module right after reset, but for the deque of CU 0. -/
def crowded : State := { State.reset with cus := [(0, { deque := [(23, crowd)] })] }

theorem crowded_decision : crowded.decision = some (0, 23, .records) := by decide +kernel

theorem crowded_source : crowded.source 0 23 = some (0, crowd) := by decide +kernel

theorem crowd_prio : ∀ r ∈ crowd, recPrio r.words = 23 := by decide +kernel

theorem exec_dispatch_crowded : exec (.dispatch 0) crowded = .next (crowded.dispatch 0 23) := by
  rw [exec_dispatch, execDispatch, crowded_decision]; rfl

/-- All 65 records start as one gang of 128 lanes, of which lane 64 holds 0 in v3. -/
theorem crowded_starts : ((crowded.dispatch 0 23).cu 0).level 23 = [] ∧ ∀ h ∈ (crowded.dispatch 0 23).gangs, h.width = 128 ∧ h.vreg 64 3 = 0 := by decide +kernel

end Sys2Proof.Machine
end

section
/-!
Proofs: the obligation of placement and retirement (O50).
-/
namespace Sys2Proof

open Machine

/-- Refutes O50 by its clause on a dispatch: lane 64 of a gang of the reserved width 128 does not receive its lane number in v3. -/
theorem not_placementAndRetirement : ¬ Obligations.PlacementAndRetirement := by
  unfold Obligations.PlacementAndRetirement
  rintro ⟨-, -, hd, -, -⟩
  obtain ⟨t, x, h, rs, he, hne, -, hperm, -, -, -, -, hin, -, -, -, hentry, -⟩ := hd crowded 0 23 0 crowd crowded_decision crowded_source crowd_prio
  have et : crowded.dispatch 0 23 = t := Host.Outcome.next.inj (exec_dispatch_crowded.symm.trans he)
  obtain ⟨hlevel, hgangs⟩ := crowded_starts
  rw [et] at hlevel hgangs
  obtain ⟨hwidth, hzero⟩ := hgangs h hin
  have hlen : rs.length = 65 := by
    rw [hlevel, List.append_nil] at hperm
    exact hperm.length_eq.symm
  obtain ⟨-, -, entry⟩ := hentry _ (List.head?_eq_some_head hne)
  have h64 := entry.vregs 64 3 (by rw [hwidth]; decide)
  rw [hzero, List.getElem?_eq_getElem (by rw [hlen]; decide)] at h64
  have lane64 : (0 : W32) = BitVec.ofNat 32 64 := h64
  exact absurd lane64 (by decide)

end Sys2Proof
end

section
/-!
Proofs: the start of a clause (R126, R53, R132): when its flags are at zero, what the start leaves of the gang, and which of its four outcomes a header has.
-/
namespace Sys2Proof.Machine

/-- The values outside a range of numbers are as before, and those inside are gone. -/
theorem look_outside {w : Nat} (m : Cells w) (lo hi k : Nat) : look (outside m lo hi) k = if lo ≤ k ∧ k < hi then 0 else look m k := by
  induction m with
  | nil => simp [outside, look]
  | cons e r ih =>
    obtain ⟨j, v⟩ := e
    unfold outside at ih
    by_cases hj : lo ≤ j ∧ j < hi
    · simp only [outside, List.filter, hj.1, hj.2, decide_true, Bool.and_true, Bool.not_true, ih, look]; grind
    · have hd : (!(decide (lo ≤ j) && decide (j < hi))) = true := by
        simp only [Bool.not_eq_true', Bool.and_eq_false_iff, decide_eq_false_iff_not]; omega
      simp only [outside, List.filter, hd, look, ih]; grind

/-! ## The flags of a header (R126, R129) -/

theorem flag_eq_zero {g : Gang} {k : Nat} : g.flag k = 0 ↔ ∀ o ∈ g.ops, o.flag ≠ some k := by
  simp [Gang.flag, List.filter_eq_nil_iff]

/-- A header waits on the flags that its WAIT field names. -/
theorem waitsDone_iff (g : Gang) (w : BitVec 12) : g.waitsDone w.toNat = true ↔ ∀ k, k < 12 → w.getLsbD k = true → g.flag k = 0 := by
  simp only [Gang.waitsDone, List.all_eq_true, flag_eq_zero]
  constructor
  · intro h k _ hk o ho e
    have := h o ho
    simp only [e, Bool.not_eq_true'] at this
    exact absurd (this.symm.trans hk) nofun
  · intro h o ho
    cases e : o.flag with
    | none => rfl
    | some k =>
      have hk : w.toNat.testBit k = false := Bool.eq_false_iff.mpr fun hk => h k (BitVec.lt_of_getLsbD hk) hk o ho e
      simp only [hk, Bool.not_false]

/-! ## What a start leaves (R126, R132) -/

section
variable (g : Gang) (f : Flight) (c b a n : Nat)

theorem thread_startClause (l : Nat) : (g.startClause f c b a n).thread l =
    if f.lanes.getLsbD l = true ∧ l < g.threads.length then
      { g.thread l with vregs := outside (g.thread l).vregs 120 128, bad := (g.thread l).bad.filter fun n => decide (n < 120), clause := c, entering := false }
    else g.thread l := thread_mapLanes g f.lanes _ l

/-- The clause temporaries of the lanes that start are 0, and every other register is as before. -/
theorem vreg_startClause (l k : Nat) : (g.startClause f c b a n).vreg l k = if f.lanes.getLsbD l = true ∧ 120 ≤ k ∧ k < 128 then 0 else g.vreg l k := by
  simp only [Gang.vreg, thread_startClause]
  by_cases hl : f.lanes.getLsbD l = true ∧ l < g.threads.length
  · simp only [hl, and_self, if_true, look_outside, true_and]
  · rw [if_neg hl]
    split
    · next h =>
      have hout : g.threads.length ≤ l := Nat.le_of_not_lt fun hlt => hl ⟨h.1, hlt⟩
      simp [Gang.thread, List.getElem?_eq_none hout, look]
    · rfl

theorem startClause_frame : GangFrame { vreg := fun l k => f.lanes.getLsbD l = true ∧ 120 ≤ k } { g with issues := 0 } { g.startClause f c b a n with issues := 0 } where
  vregs l k _ hk := (vreg_startClause g f c b a n l k).trans (if_neg fun h => hk ⟨h.1, h.2.1⟩)
  cursors l _ _ := thread_mapLanes_same Thread.cursors g f.lanes _ l fun _ _ => rfl
  traps l _ _ := thread_mapLanes_same Thread.delivery g f.lanes _ l fun _ _ => rfl
  sregs _ _ _ := rfl
  masks _ _ _ := rfl
  fstat _ _ := rfl
  ops _ := rfl
  remainder := rfl

end

/-! ## The outcomes of a header (R53, R126) -/

section
variable {slotB slotA : BitVec 4} {w : BitVec 12} {n : BitVec 5} {s : State} {g : Gang} {f : Flight}

theorem clauseHeader_inBody {b : BodyAt} (h0 : s.focus = some g.id) (h1 : s.gang? g.id = some g) (h2 : g.flight = some f) (hp : f.place = some b) :
    exec (.clauseHeader slotB slotA w n) s = .next (s.trap g f CLAUSE_FORM f.lanes 0 false 4) := by
  simp only [exec_clauseHeader, execClauseHeader, h0, h1, h2, hp, Option.bind_some]

/-- At a header position: a trap for a reserved code, or more waiting, or the start. -/
theorem IssuesHeader.next (h : IssuesHeader s g f) : exec (.clauseHeader slotB slotA w n) s =
    if !(Instr.clauseHeader slotB slotA w n).wf then .next (s.trap g f ILLEGAL_ENCODING f.lanes 0 false 4)
    else if !g.waitsDone w.toNat then .next (s.setGang { g with flight := none })
    else .next (s.bump.setGang (g.startClause f s.serial slotB.toNat slotA.toNat n.toNat)) := by
  simp only [exec_clauseHeader, execClauseHeader, h.focus, h.gang, h.flight, h.place, Option.bind_some]
  rfl

end

end Sys2Proof.Machine
end

section
/-!
Proofs: the obligation of clause headers (O22).
-/
namespace Sys2Proof

open Machine

/-- Settles O22: the outcomes of a header by its place, its codes and its flags; the start is a write of the clause temporaries. -/
theorem clauseStart : Obligations.ClauseStart := by
  unfold Obligations.ClauseStart
  intro slotB slotA w n s g f h0 h1 h2 i free
  have header : f.place = none → IssuesHeader s g f := fun hp => ⟨h0, h1, h2, hp⟩
  refine ⟨fun b hp => clauseHeader_inBody h0 h1 h2 hp, fun hp hw => ?reserved, fun hp hw hfree => ?starts, fun hp hw hbusy => ?waits⟩
  case reserved => exact (header hp).next.trans (by rw [show Instr.wf _ = false from hw]; rfl)
  case waits =>
    have hd : g.waitsDone w.toNat = false := Bool.eq_false_iff.mpr fun hd => hbusy ((waitsDone_iff g w).mp hd)
    exact (header hp).next.trans (by rw [show Instr.wf _ = true from hw, hd]; rfl)
  case starts =>
    have hd : g.waitsDone w.toNat = true := (waitsDone_iff g w).mpr hfree
    refine ⟨_, g.startClause f s.serial slotB.toNat slotA.toNat n.toNat, (header hp).next.trans (by rw [show Instr.wf _ = true from hw, hd]; rfl),
      gang?_setGang_self s.bump g _ h1 rfl, ?_, rfl, vreg_startClause g f _ _ _ _, startClause_frame g f _ _ _ _, rfl, fun j hj => ?_⟩
    · simp only [Gang.startClause, BitVec.ofNat_toNat, BitVec.setWidth_eq]
    · exact (gang?_setGang s.bump _ j).trans (if_neg hj)

end Sys2Proof
end

section
/-!
Proofs: the events of memory and of stalls (R127, R129, R171, R205): where they are not enabled, and the end of a stall.
-/
namespace Sys2Proof.Machine

/-! ## Events on an operation -/

theorem onOp_none {s : State} {g o : Nat} (h : s.op? g o = none) (p : Gang → Op → Bool) (e : Gang → Op → State) : s.onOp g o p e = .fault .notEnabled := by
  simp only [State.onOp, h]

theorem onOp_some {s : State} {g o : Nat} {x : Gang} {y : Op} (h : s.op? g o = some (x, y)) (p : Gang → Op → Bool) (e : Gang → Op → State) :
    s.onOp g o p e = if p x y then .next (e x y) else .fault .notEnabled := by
  simp only [State.onOp, h]

/-- Operations of memory that MEMORY_OP_COMPLETE completes are those that are no atomics, no lock words and no jcadd, with every access performed. -/
theorem memoryDone_iff {o : Op} {k : MemKind} {accs : List Access} (hb : o.body = .mem k accs) :
    o.memoryDone = true ↔ ((∀ x, k ≠ .atom x) ∧ (∀ x, k ≠ .rwl x) ∧ k ≠ .jcadd) ∧ ∀ a ∈ accs, a.done = true := by
  cases k <;> simp [Op.memoryDone, hb]

/-! ## Events that are not enabled -/

theorem memoryOpComplete_gone {s : State} {g o : Nat} (h : s.op? g o = none) : exec (.memoryOpComplete g o) s = .fault .notEnabled :=
  onOp_none h _ _

theorem atomicPerform_gone {s : State} {g o : Nat} (h : s.op? g o = none) : exec (.atomicPerform g o) s = .fault .notEnabled := by
  rw [exec_atomicPerform, execAtomicPerform, h]

theorem memoryOpComplete_unperformed {s : State} {g o : Nat} {x : Gang} {y : Op} {k : MemKind} {accs : List Access} {a : Access} (h : s.op? g o = some (x, y))
    (hb : y.body = .mem k accs) (ha : a ∈ accs) (hd : a.done = false) : exec (.memoryOpComplete g o) s = .fault .notEnabled := by
  refine (onOp_some h _ _).trans (if_neg fun hm => ?_)
  have hdone := ((memoryDone_iff hb).mp hm).2 a ha
  rw [hd] at hdone; cases hdone

theorem reductionApply_gone {s : State} {r : Nat} (h : ∀ x ∈ s.reds, x.id ≠ r) : exec (.reductionApply r) s = .fault .notEnabled := by
  have hn : (s.reds.find? fun x => decide (x.id = r)) = none := List.find?_eq_none.mpr fun x hx => by simpa using h x hx
  rw [exec_reductionApply, execReductionApply, hn]

/-! ## The end of a stall (R127) -/

theorem stalledWordResume_unstalled {s : State} {g : Nat} {x : Gang} (h : s.gang? g = some x) (hs : x.stall = none) :
    exec (.stalledWordResume g) s = .fault .notEnabled := by
  simp only [exec_stalledWordResume, execStalledWordResume, h, hs]

theorem stalledWordResume_stalled {s : State} {g : Nat} {x : Gang} {st : Stall} (h : s.gang? g = some x) (hs : x.stall = some st) :
    exec (.stalledWordResume g) s =
      if s.stallOver x st then .next ({ s with tick := s.tick + 1 }.setGang { x.waitedFor s.tick with stall := none }) else .fault .notEnabled := by
  simp only [exec_stalledWordResume, execStalledWordResume, h, hs]

theorem tag?_isNone {s : State} {t : W32} : (s.tag? t).isNone = true ↔ ∀ q ∈ s.requests, q.tag ≠ t := by
  simp [State.tag?]

end Sys2Proof.Machine
end

section
/-!
Proofs: the obligation of stalls and of events that are not enabled (O31).
-/
namespace Sys2Proof

open Machine

/-- Settles O31: each event asks for what enables it, and what a stall waits for is what ends it. -/
theorem stallsAndWaitingEvents : Obligations.StallsAndWaitingEvents := by
  unfold Obligations.StallsAndWaitingEvents
  refine ⟨fun s g o r => ⟨fun h => ⟨memoryOpComplete_gone h, atomicPerform_gone h⟩, fun x y k accs a h hb ha hd => memoryOpComplete_unperformed h hb ha hd,
    reductionApply_gone, ?lasts⟩, fun s g st hg hs hover => ?ends⟩
  case lasts =>
    rintro x hx (hs | ⟨st, hs, hn⟩)
    · exact stalledWordResume_unstalled hx hs
    · rw [stalledWordResume_stalled hx hs, hn]; rfl
  case ends =>
    have ended : s.stallOver g st = true := by
      cases st with
      | flagFull k => exact decide_eq_true hover
      | sealed16 => exact decide_eq_true hover
      | acquire => exact Bool.not_eq_true' _ ▸ hover
      | logFull t => exact tag?_isNone.mpr hover
      | capacity t => exact tag?_isNone.mpr hover
      | supply => exact decide_eq_true hover
      | _ => exact hover
    refine ⟨_, { g.waitedFor s.tick with stall := none }, (stalledWordResume_stalled hg hs).trans (if_pos ended), ?_, rfl, rfl, fun j hj => ?_⟩
    · exact gang?_setGang_self { s with tick := s.tick + 1 } g _ hg rfl
    · exact (gang?_setGang _ _ j).trans (if_neg hj)

end Sys2Proof
end

section
/-!
Proofs: the actions of an acquire (R179, R260; log 15): what it leaves of a CU's lines and of its view generation, and that it changes nothing but the CU.
-/
namespace Sys2Proof.Machine

/-! ## A line that is read again -/

/-- Dirty bytes put back one after another into a line. -/
theorem byte_restored (l : Line) (j : Nat) (hj : j < 64) (L : List Nat) (h : Line) :
    (L.foldl (fun x o => if l.dirty.getLsbD o then x.patch true o [l.byte o] else x) h).byte j = if j ∈ L ∧ l.dirty.getLsbD j = true then l.byte j else h.byte j := by
  induction L generalizing h with
  | nil => simp
  | cons o r ih =>
    rw [List.foldl_cons, ih]
    by_cases hr : j ∈ r ∧ l.dirty.getLsbD j = true
    · rw [if_pos hr, if_pos ⟨List.mem_cons_of_mem _ hr.1, hr.2⟩]
    · rw [if_neg hr]
      by_cases ho : o = j
      · subst ho
        by_cases hd : l.dirty.getLsbD o = true
        · rw [if_pos hd, byte_patch _ _ _ _ _ hj, if_pos (by simp), if_pos ⟨List.mem_cons_self .., hd⟩]; simp
        · rw [if_neg hd, if_neg fun h => hd h.2]
      · have hmem : ¬(j ∈ o :: r ∧ l.dirty.getLsbD j = true) := fun ⟨hm, hd⟩ => hr ⟨(List.mem_cons.mp hm).resolve_left (Ne.symm ho), hd⟩
        rw [if_neg hmem]
        split
        · rw [byte_patch _ _ _ _ _ hj, if_neg (by simp; omega)]
        · rfl

/-- An error shows neither in a line's number nor in its bytes. -/
theorem withBad_same (l : Line) (b : Bool) : ({ l with bad := b } : Line).line = l.line ∧ ∀ o, ({ l with bad := b } : Line).byte o = l.byte o := ⟨rfl, fun _ => rfl⟩

/-- A line that is read again keeps its dirty bytes and shows its home elsewhere. -/
theorem byte_refresh (s : State) (l : Line) (j : Nat) (hj : j < 64) :
    (s.refresh l).byte j = if l.dirty.getLsbD j = true then l.byte j else look s.phys (64 * l.line + j) := by
  have home : ({ s.homeLine l.line with bad := l.bad } : Line).byte j = look s.phys (64 * l.line + j) :=
    ((withBad_same (s.homeLine l.line) l.bad).2 j).trans (byte_homeLine s l.line j hj)
  rw [State.refresh, byte_restored l j hj, home]
  simp only [List.mem_range, hj, true_and]

theorem refresh_line (s : State) (l : Line) : (s.refresh l).line = l.line := by
  unfold State.refresh
  have home : (s.homeLine l.line).line = l.line := by simp only [State.homeLine]
  refine foldl_keeps (fun x : Line => x.line = l.line) (fun x o => if l.dirty.getLsbD o then x.patch true o [l.byte o] else x) (fun x o h => ?_) _ _ ((withBad_same _ l.bad).1.trans home)
  split
  · exact (patch_line x true o _).trans h
  · exact h

/-! ## An acquire (R179, R260) -/

/-- An acquire changes nothing but its CU. -/
theorem acquireActs_rest (s : State) (cu c : Nat) : { s.acquireActs cu c with cus := s.cus } = s := by
  unfold State.acquireActs; simp only; split <;> split <;> rfl

theorem lines_acquireActs (s : State) (cu : Nat) {c : Nat} (h : 2 ≤ c) :
    ((s.acquireActs cu c).cu cu).lines = ((s.cu cu).lines.filter fun l => decide (l.dirty ≠ 0)).map s.refresh := by
  unfold State.acquireActs
  simp only [h, if_true]
  split <;> simp [State.advanceView, State.invalidate, cu_onCu]

theorem view_acquireActs (s : State) (cu : Nat) {c : Nat} (h : 3 ≤ c) : s.graph.gen ≤ ((s.acquireActs cu c).cu cu).view := by
  have h2 : 2 ≤ c := Nat.le_of_succ_le h
  simp only [State.acquireActs, h, h2, if_true, State.advanceView, cu_onCu]
  exact Nat.le_max_right _ _

theorem homeBytes_of_cus {s t : State} (h : { t with cus := s.cus } = s) (p : Place) (n : Nat) : t.homeBytes p n = s.homeBytes p n := by
  rw [← h]; cases p <;> rfl

/-- From clus scope up, each byte that the CU then sees is its home's, or one that was dirty before. -/
theorem acquireActs_refreshed (s : State) (cu : Nat) {c : Nat} (h : 2 ≤ c) : Refreshed s (s.acquireActs cu c) cu := by
  intro a
  simp only [viewBytes_one, homeBytes_one, List.cons.injEq, and_true]
  cases hl : ((s.acquireActs cu c).cu cu).line? (a / 64) with
  | none => exact .inl (seen_of_none hl)
  | some x =>
    have hx := line?_mem hl
    rw [lines_acquireActs s cu h] at hx
    obtain ⟨y, hy, rfl⟩ := List.mem_map.mp hx
    have hline : y.line = a / 64 := (refresh_line s y).symm.trans (line?_line hl)
    have hphys : (s.acquireActs cu c).phys = s.phys := (congrArg State.phys (acquireActs_rest s cu c) :)
    rw [seen_of_line hl, byte_refresh s y _ (Nat.mod_lt _ (by decide)), hline, Nat.div_add_mod, hphys]
    by_cases hd : y.dirty.getLsbD (a % 64) = true
    · exact .inr ⟨y, (List.mem_filter.mp hy).1, hline, hd, if_pos hd⟩
    · exact .inl (if_neg hd)

end Sys2Proof.Machine
end

section
/-!
Proofs: results that land (R131, R132): what the completion of an operation leaves of its gang.
-/
namespace Sys2Proof.Machine

/-! ## One result -/

/-- A result lands in its register, but a clause temporary takes it only while its clause lasts; beside that, only a trap copy can change (R132, R133). -/
theorem land_eq (c n : Nat) (v : W32) (t : Thread) : { t.land c n v with delivery := t.delivery } = if n < 120 ∨ t.clause = c then t.setReg n v else t := by
  unfold Thread.land
  by_cases hn : n < 120
  · simp only [hn, if_true, true_or]; rfl
  · by_cases hc : t.clause = c
    · simp only [hn, hc, if_true, if_false, or_true]
      split
      · split <;> rfl
      · rfl
    · simp only [hn, hc, if_false, or_self]
      split
      · split <;> rfl
      · rfl

theorem clause_land (c n : Nat) (v : W32) (t : Thread) : (t.land c n v).clause = t.clause := by
  have h := congrArg Thread.clause (land_eq c n v t)
  exact Eq.trans h (by split <;> rfl)

theorem vregs_land (c n : Nat) (v : W32) (t : Thread) : (t.land c n v).vregs = if n < 120 ∨ t.clause = c then put t.vregs n v else t.vregs := by
  have h := congrArg Thread.vregs (land_eq c n v t)
  exact Eq.trans h (by split <;> rfl)

/-- The gang once one lane result of an operation has landed. -/
def Gang.landed (o : Op) (g : Gang) (x : Landing) : Gang := g.mapLanes (lane x.lane) fun _ t => t.land (o.clauseAt x.lane) x.reg x.val

theorem landed_clause (o : Op) (g : Gang) (x : Landing) (l : Nat) : ((g.landed o x).thread l).clause = (g.thread l).clause :=
  thread_mapLanes_same Thread.clause g _ _ l fun _ t => clause_land _ _ _ t

theorem landed_length (o : Op) (g : Gang) (x : Landing) : (g.landed o x).threads.length = g.threads.length := threads_mapLanes g _ _

theorem landed_vreg_other (o : Op) (g : Gang) (x : Landing) (l n : Nat) (h : ¬(x.lane = l ∧ x.reg = n)) : (g.landed o x).vreg l n = g.vreg l n := by
  simp only [Gang.vreg, Gang.landed, thread_mapLanes]
  split
  · next hl =>
    have hlane : x.lane = l := by have := hl.1; rw [getLsbD_lane] at this; simpa using (Bool.and_eq_true_iff.mp this).1
    rw [vregs_land]
    split
    · exact look_put_other _ _ _ _ fun hr => h ⟨hlane, hr⟩
    · rfl
  · rfl

theorem landed_vreg_self (o : Op) (g : Gang) (x : Landing) (h : x.lane < g.threads.length ∧ x.lane < 64)
    (hc : x.reg < 120 ∨ (g.thread x.lane).clause = o.clauseAt x.lane) : (g.landed o x).vreg x.lane x.reg = x.val := by
  have hl : (lane x.lane).getLsbD x.lane = true ∧ x.lane < g.threads.length := ⟨by simp [getLsbD_lane, h.2], h.1⟩
  simp only [Gang.vreg, Gang.landed, thread_mapLanes]
  rw [if_pos hl, vregs_land, if_pos hc, look_put_self]

/-! ## All results -/

/-- What landing leaves is all of the gang but its lanes. -/
theorem landings_same {α : Type} (q : Gang → α) (h : ∀ g m f, q (g.mapLanes m f) = q g) (o : Op) (L : List Landing) (g : Gang) : q (L.foldl (Gang.landed o) g) = q g :=
  foldl_keeps (fun x => q x = q g) (Gang.landed o) (fun x _ e => (h x _ _).trans e) L g rfl

theorem landings_vreg_other (o : Op) (L : List Landing) (g : Gang) (l n : Nat) (h : ∀ x ∈ L, x.lane = l → x.reg ≠ n) :
    (L.foldl (Gang.landed o) g).vreg l n = g.vreg l n := by
  induction L generalizing g with
  | nil => rfl
  | cons x r ih =>
    rw [List.foldl_cons, ih _ fun y hy => h y (List.mem_cons_of_mem _ hy)]
    exact landed_vreg_other o g x l n fun ⟨h1, h2⟩ => h x (List.mem_cons_self ..) h1 h2

/-- Results that agree on a register leave their value there, in whatever order they land. -/
theorem landings_vreg (o : Op) (L : List Landing) (g : Gang) (l n : Nat) (v : W32) (hl : l < g.threads.length ∧ l < 64) (hc : n < 120 ∨ (g.thread l).clause = o.clauseAt l)
    (h : ∀ x ∈ L, x.lane = l → x.reg = n → x.val = v) (hv : g.vreg l n = v ∨ ∃ x ∈ L, x.lane = l ∧ x.reg = n) : (L.foldl (Gang.landed o) g).vreg l n = v := by
  induction L generalizing g with
  | nil => simpa using hv
  | cons x r ih =>
    rw [List.foldl_cons]
    refine ih _ ?_ ?_ (fun y hy => h y (List.mem_cons_of_mem _ hy)) ?_
    · rw [landed_length]; exact hl
    · rw [landed_clause]; exact hc
    · by_cases hx : x.lane = l ∧ x.reg = n
      · have hval := h x (List.mem_cons_self ..) hx.1 hx.2
        obtain ⟨rfl, rfl⟩ := hx
        exact .inl ((landed_vreg_self o g x hl hc).trans hval)
      · rw [landed_vreg_other o g x l n hx]
        refine hv.imp id ?_
        rintro ⟨y, hy, hm⟩
        rcases List.mem_cons.mp hy with rfl | hy
        · exact absurd hm hx
        · exact ⟨y, hy, hm⟩

/-! ## The completion of an operation (R129, R131) -/

/-- An operation without scalar results lands its lane results and is gone. -/
theorem complete_lanes {o : Op} (h : o.sland = []) (g : Gang) : g.complete o = (o.land.foldl (Gang.landed o) g).dropOp o.id := by
  simp only [Gang.complete, h, List.foldl_nil]; rfl

/-- The state in which the completion of a memory operation leaves memory and the CUs: an ld.acq acquires. -/
def State.completing (s : State) (cu : Nat) : MemKind → State
  | .ldAcq c => s.acquireActs cu c
  | _ => s

theorem completing_rest (s : State) (cu : Nat) (k : MemKind) : { s.completing cu k with cus := s.cus } = s := by
  cases k with
  | ldAcq c => exact acquireActs_rest s cu c
  | _ => rfl

theorem completing_plain (s : State) (cu : Nat) {k : MemKind} (h : ∀ c, k ≠ .ldAcq c) : s.completing cu k = s := by
  cases k with
  | ldAcq c => exact absurd rfl (h c)
  | _ => rfl

theorem memoryOpComplete_done {s : State} {g : Gang} {o : Op} {k : MemKind} {accs : List Access} (hg : s.gang? g.id = some g) (ho : g.op? o.id = some o)
    (hb : o.body = .mem k accs) (hd : o.memoryDone = true) :
    exec (.memoryOpComplete g.id o.id) s = .next ((s.completing (s.cuOf g) k).onGang g.id fun h => h.complete o) := by
  refine (onOp_some (op?_of_gang hg ho) _ _).trans ((if_pos hd).trans ?_)
  simp only [hb]
  cases k <;> rfl

end Sys2Proof.Machine
end

section
/-!
Proofs: the obligation of completing memory operations (O29).
-/
namespace Sys2Proof

open Machine

/-- Settles O29: the results land in the gang, the operation goes, and an ld.acq makes the actions of its acquire. -/
theorem memoryCompletes : Obligations.MemoryCompletes := by
  unfold Obligations.MemoryCompletes
  intro s g o k accs hg ho hb ha hr hj hall hsl hin
  have hdone : o.memoryDone = true := (memoryDone_iff hb).mpr ⟨⟨ha, hr, hj⟩, hall⟩
  have hrest := completing_rest s (s.cuOf g) k
  have hgang : (s.completing (s.cuOf g) k).gang? g.id = some g := by
    rw [State.gang?, show (s.completing (s.cuOf g) k).gangs = s.gangs from (congrArg State.gangs hrest :)]; exact hg
  refine ⟨_, g.complete o, memoryOpComplete_done hg ho hb hdone, gang?_onGang _ (fun x => complete_id x o) hgang, ?_⟩
  rw [complete_lanes hsl]
  refine ⟨?ops, ?lands, ?others, landings_same Gang.sregs mapLanes_sregs o o.land g, landings_same Gang.masks mapLanes_masks o o.land g, fun p => ?homes, fun hk cu p => ?views, ?refreshed, ?generation⟩
  case ops => exact congrArg (List.filter fun q => decide (q.id ≠ o.id)) (landings_same Gang.ops mapLanes_ops o o.land g)
  case lands =>
    intro l n v hmem hsame hc
    exact landings_vreg o o.land g l n v (hin _ hmem) hc hsame (.inr ⟨_, hmem, rfl, rfl⟩)
  case others => exact landings_vreg_other o o.land g
  case homes => exact (homeBytes_gangs _ _ p 1).trans (homeBytes_of_cus hrest p 1)
  case views => rw [completing_plain s _ hk]; exact viewBytes_gangs s _ cu p 1
  case refreshed =>
    rintro c rfl hc a
    exact acquireActs_refreshed s (s.cuOf g) hc a
  case generation =>
    rintro c rfl hc
    have hgen : (s.acquireActs (s.cuOf g) c).graph = s.graph := (congrArg State.graph (acquireActs_rest s (s.cuOf g) c) :)
    exact Nat.le_trans (Nat.le_of_eq (congrArg GraphStore.gen hgen)) (view_acquireActs s (s.cuOf g) hc)

end Sys2Proof
end

section
/-!
Proofs: mask waits in a gang of more than 64 lanes (R142). A set of lanes has 64 bits, so that no release reaches lane 64 of a gang of 128 lanes. Width code 3, which
gives 128 lanes, is reserved, and packet validation refuses it (R281, R282); but the statement of O10 is of every state, also of one that holds such a gang.
-/
namespace Sys2Proof.Machine

/-- A release at the end of an issue is one of withheld lanes, of the waiters of a mask, or of an exchange. -/
theorem settleOne_cases {g h : Gang} (e : g.settleOne = some h) : g.stepWithheld = some h ∨ (∃ m, g.stepWait m = some h) ∨ ∃ l, g.stepMember l = some h := by
  unfold Gang.settleOne at e
  rcases Option.or_eq_some_iff.mp e with e | ⟨-, e⟩
  · exact .inl e
  · rcases Option.or_eq_some_iff.mp e with e | ⟨-, e⟩
    · obtain ⟨m, -, hm⟩ := List.exists_of_findSome?_eq_some e
      exact .inr (.inl ⟨m, hm⟩)
    · split at e
      · obtain ⟨l, -, hl⟩ := List.exists_of_findSome?_eq_some e
        exact .inr (.inr ⟨l, hl⟩)
      · cases e

section
variable {l : Nat} (hl : 64 ≤ l)
include hl

theorem thread_mapLanes_beyond (g : Gang) (m : Lanes) (f : Nat → Thread → Thread) : (g.mapLanes m f).thread l = g.thread l :=
  thread_mapLanes_other g m f l (BitVec.getLsbD_of_ge m l hl)

/-- No release reaches a lane from 64 on. -/
theorem settleOne_beyond {g h : Gang} (e : g.settleOne = some h) : h.thread l = g.thread l := by
  rcases settleOne_cases e with e | ⟨m, e⟩ | ⟨k, e⟩
  · unfold Gang.stepWithheld at e
    split at e
    · cases e; exact thread_mapLanes_beyond hl g _ _
    · cases e
  · unfold Gang.stepWait at e
    split at e
    · cases e; exact thread_mapLanes_beyond hl g _ _
    · cases e
  · unfold Gang.stepMember at e
    split at e
    · simp only at e
      split at e
      · cases e
        exact (thread_mapLanes_beyond hl _ _ _).trans (exchange_thread g _ _ _ l (BitVec.getLsbD_of_ge _ l hl))
      · cases e
    · cases e

theorem settle_beyond (g : Gang) : g.settle.thread l = g.thread l := by
  unfold Gang.settle
  split
  · exact exhaust_keeps (fun h : Gang => h.thread l = g.thread l) _ (fun _ _ e h => (settleOne_beyond hl e).trans h) 128 g rfl
  · rfl

/-- A lane from 64 on stands after a holding word where it stood before. -/
theorem hold_beyond (g : Gang) (f : Flight) (h : Hold) : (g.block f h).settle.thread l = g.thread l :=
  (settle_beyond hl _).trans (thread_mapLanes_beyond hl (g.counted f) f.lanes _)

end

/-- A wait blocks its sub-group, and what that allows is released at once. -/
theorem Issues.waits {m : BitVec 4} {s : State} {g : Gang} {f : Flight} {b : BodyAt} (h : Issues (.wait m) s g f b) :
    exec (.wait m) s = .next (s.setGang (g.block f (.wait m.toNat)).settle) := by
  rw [exec_wait, execWait, h.next { size := 4, ops := [.mask m.toNat], last := true } rfl]; rfl

/-- Lane 0 at the last word of a body. -/
def lastToCome : Flight := ⟨1, 0, some ⟨0, 0, 1⟩⟩

/-- A lane that waits on m0. -/
def waiter : Thread := { status := .blocked (.wait 0) }

/-- A gang of 128 lanes: lane 0, the only member of m0, issues a word, and every other lane waits on m0. -/
def broad : Gang :=
  { id := 0, team := 0, width := 128, threads := {} :: List.replicate 127 waiter, flight := some lastToCome, masks := [(0, 1)] }

/-- The module right after reset, but for that gang. -/
def broadModule : State := { State.reset with gangs := [broad], focus := some 0 }

theorem lastToCome_lane {l : Nat} (h : lastToCome.lanes.getLsbD l = true) : l = 0 := by
  simpa using (BitVec.getLsbD_one.symm.trans h : _)

theorem broad_issues : Issues (.wait 0) broadModule broad lastToCome ⟨0, 0, 1⟩ where
  focus := rfl
  gang := rfl
  flight := rfl
  place := rfl
  ready l h := by rw [lastToCome_lane h]; rfl
  codes := rfl
  alone _ := rfl
  mode := nofun
  allotted := by decide

theorem broad_thread (l : Nat) : broad.thread (l + 1) = if l < 127 then waiter else { status := .exited } := by
  change (List.replicate 127 waiter).getD l { status := .exited } = _
  rw [List.getD_eq_getElem?_getD, List.getElem?_replicate]
  split <;> rfl

/-- Every lane but lane 0 waits on m0 or does not exist. -/
theorem broad_waiting (l : Nat) (h : (broad.thread l).gathers = true) : (broad.thread l).status = .blocked (.wait 0) := by
  cases l with
  | zero => cases h
  | succ l =>
    rw [broad_thread] at h ⊢
    by_cases hl : l < 127
    · rw [if_pos hl]; rfl
    · rw [if_neg hl] at h; cases h

end Sys2Proof.Machine
end

section
/-!
Proofs: the obligation of holding words (O10).
-/
namespace Sys2Proof

open Machine

/-- Refutes O10 by its clause on wait: when the last member of m0 comes, lane 64 of a gang of the reserved width 128 does not go on. -/
theorem not_holdingWords : ¬ Obligations.HoldingWords := by
  unfold Obligations.HoldingWords
  rintro ⟨hwait, -⟩
  obtain ⟨t, h, he, hh, hreleased, -⟩ := hwait 0 broadModule broad lastToCome ⟨0, 0, 1⟩ broad_issues rfl broad_waiting
  have members : ∀ l, (broad.mreg 0).getLsbD l = true → lastToCome.lanes.getLsbD l = true := fun l hl => hl
  have goesOn : (h.thread 64).standsAt (pcOf ((broad.thread 64).pc + 4)) :=
    (hreleased nofun fun l hl => .inl (members l hl)).2 64 (by decide) rfl rfl
  have et : broadModule.setGang (broad.block lastToCome (.wait 0)).settle = t := Host.Outcome.next.inj (broad_issues.waits.symm.trans he)
  have eh : h = (broad.block lastToCome (.wait 0)).settle := by
    have hid : (broad.block lastToCome (.wait 0)).settle.id = broad.id := settle_id _
    rw [← et, gang?_setGang_self broadModule broad _ rfl hid] at hh
    exact (Option.some.inj hh).symm
  have stays : (h.thread 64).status = .blocked (.wait 0) := by rw [eh, hold_beyond (Nat.le_refl 64)]; rfl
  exact absurd (stays.symm.trans goesOn.1) nofun

end Sys2Proof
end
